-- ==== Sys2Proof/Word.lean ====
section
/-! DEFINITION. The word types of the Cordun G8 (R8, R11, R46, R96). -/

namespace Sys2Proof

/-- One byte of memory (R8). -/
abbrev Byte := BitVec 8
/-- A 32-bit register word or instruction word (R46, R167). -/
abbrev Word := BitVec 32
/-- A uniform register's value (R48). -/
abbrev DWord := BitVec 64
/-- An EB16 bound: the shadow of a register, or the bound of a sector (R96). -/
abbrev EB := BitVec 16
/-- A 48-bit PC: packet in bits [47:2], slot in bits [1:0] (R11). -/
abbrev PC := BitVec 48
/-- A set of lanes of one group, one bit per position (R29, R117). -/
abbrev Mask := BitVec 64
/-- A 6-bit register field (R170, R173). -/
abbrev Reg := BitVec 6

end Sys2Proof
end

