-- ==== Sys2Proof/Config.lean ====
section
/-! DEFINITION. What an implementation fixes and what the manual leaves open. Each `opaque` constant is a free value:
nothing in Lean can evaluate it, so a claim holds whatever it is. -/

namespace Sys2Proof.Config

/-- The n-th free choice between an old and a new value: a read of an outstanding register (R180), a contested destination
(R180), a fetched word that memory has changed (R149), a translation that software has changed (R356). Log entry 2. -/
opaque freeBit : Nat → Bool

/-- What a read by physical address gives at a time, for a byte where no memory lies (R345). Log entry 25. -/
opaque voidByte : Nat → Nat → Byte

/-- The n-th free choice among k things, taken modulo k: which location an atomic reaches first (R156), which line a full cache
gives up (R3). Log entry 2. -/
opaque freeNat : Nat → Nat

/-- TPC after a STOP or PREEMPT that no word raised (Table 13-3 names the trapping word only). Log entry 2. -/
opaque freePc : Nat → BitVec 48

/-- A set that the manual does not give: the lanes of a containment handler whose HND was written by a supervisor (Table 13-2), the
output rows that an error of the matrix array poisons (R400). Log entry 2. -/
opaque freeMask : Nat → BitVec 64

/-- The device firmware key of R384 (VECTOR): modulus and exponent as a policy holds its key (R433). Log entry 13. -/
opaque firmwareKey : List Byte

/-- The supervisor PC at which the firmware places a code image that VECTOR verified (Table 15-6 does not say it). Log entry 13. -/
opaque imagePc : Nat → Nat → BitVec 48

/-- KIND and BODY of the journal entry of a thermal shutdown (R420 says that one is posted; Table 15-8 lists none). Log entry 2. -/
opaque shutdownKind : BitVec 16
opaque shutdownBody : List Byte

/-- The memory ranges (address, length) that the driver names for the core dumps of a function, and the bytes of the n-th dump: the spec
gives neither the way to name them nor the layout of the sections (R343, Table 13-8). Log entry 41. -/
opaque dumpRanges : Nat → List (Nat × Nat)
opaque dumpBytes : Nat → List Byte

/-- The signature of the identity key over a record (R441). Log entry 13. -/
opaque identitySign : List Byte → List Byte

/-- The device certificate chain in DER (R440) and the device serial (R441). Log entry 13. -/
opaque certChain : List Byte
opaque serial : List Byte

/-- The mask ROM and the firmware image whose hashes a quote holds (R441). Log entry 13. -/
opaque romImage : List Byte
opaque firmwareImage : List Byte

/-- The key burned in the mask ROM, as a policy holds a key (R433), and the signature that comes with the firmware image (R422, step 2).
Log entry 13. -/
opaque romKey : List Byte
opaque firmwareSignature : List Byte

end Sys2Proof.Config
end

