-- ==== Sys2Proof/Syntax.lean ====
section
/-! DEFINITION. Syntax: every row of spec/opcode_table.json is one constructor of `Instr`.
The first 187 constructors are instruction words (Table 6-4); the others are the device's own steps
(the rows of the table that have no bits): results that return, engine tasks, host commands, power and
observation events. Coded fields are inductive types, so an illegal code has no syntax (R171, R173). -/

namespace Sys2Proof

/-- Class field (R65, R87). -/
inductive Cls | exact | auto | short | lean
  deriving DecidableEq, Repr

/-- Scope of an ordering form (Table 5-3). -/
inductive Scope | team | die | dev | sys
  deriving DecidableEq, Repr

/-- Access width (Table 6-3a): 8, 16, 32, 64 and 128 bits. -/
inductive Width | b | h | w | d | q
  deriving DecidableEq, Repr

/-- Order of a load: plain or acquire at a scope (R171). -/
inductive LoadForm | plain | acq (sc : Scope)
  deriving DecidableEq, Repr

/-- Order or store mode of a store (R171): plain, `.c`, `.db`, or release at a scope. -/
inductive StoreForm | plain | c | db | rel (sc : Scope)
  deriving DecidableEq, Repr

/-- Order of an atomic (R171, R234). -/
inductive AtomForm | plain | acq (sc : Scope) | rel (sc : Scope) | acqrel (sc : Scope)
  deriving DecidableEq, Repr

/-- Store mode of TCOPY (R260, Table 9-4). -/
inductive CopyMode | none | c | db
  deriving DecidableEq, Repr

/-- Integer condition codes (Table 7-2). -/
inductive ICond | eq | ne | lt | le | gt | ge | ltu | leu | gtu | geu
  deriving DecidableEq, Repr

/-- Floating-point condition codes (Table 7-8). -/
inductive FCond | eq | ne | lt | le | gt | ge | ord | uno
  deriving DecidableEq, Repr

/-- Rounding modes (Table 3-2). -/
inductive Rnd | rn | rz | rp | rm
  deriving DecidableEq, Repr

/-- Format codes (Table 7-10). -/
inductive Fmt | f32 | f16 | bf16 | e4m3 | e5m2 | i32 | i8 | i4
  deriving DecidableEq, Repr

/-- VRED operations (Table 7-6). -/
inductive RedOp | add | min | max | minu | maxu | and | or | xor | fadd | fmin | fmax
  deriving DecidableEq, Repr

/-- VSHFL modes (Table 7-5). -/
inductive ShMode | idx | up | down | xor
  deriving DecidableEq, Repr

/-- VDP4 signedness (R194): the first letter is va's, the second vb's. -/
inductive DpMode | ss | uu | su | us
  deriving DecidableEq, Repr

/-- PTEST forms (R269). -/
inductive PtMode | plain | bud | p | u | ubud
  deriving DecidableEq, Repr

/-- PCODE forms (R270). -/
inductive PcMode | plain | p | u
  deriving DecidableEq, Repr

/-- TSETD fields (Table 9-5). -/
inductive TField | addr | rows | cols | vrows | vcols | stride | fmt | kind | adv
  deriving DecidableEq, Repr

/-- Cache level of PREF (R229). -/
inductive PfLevel | l1 | l2 | tarn
  deriving DecidableEq, Repr

/-- The timer that TIMER names (R275). -/
inductive TimerSel | cyc | wall
  deriving DecidableEq, Repr

/-- Kind of memory error that a report names (R431, R226). -/
inductive ErrKind | corrected | uncorrected | retention | link | down
  deriving DecidableEq, Repr

/-- What a host or peer access through CXL.mem does (R421). -/
inductive HostAccess
  | read (n : Nat)
  | write (bytes : List Byte)
  deriving DecidableEq, Repr

/-- Register class named by a soft error (R53). -/
inductive RegClass | v | s | p | k | b | d
  deriving DecidableEq, Repr

/-- Instructions and device steps, one constructor per row of spec/opcode_table.json. -/
inductive Instr
  -- uniform (Table 7-1)
  | smov (d a : Reg)
  | smovi (d : Reg) (i : BitVec 16)
  | smovh (d : Reg) (i : BitVec 16)
  | sadd (d a b : Reg)
  | saddi (d a : Reg) (i : BitVec 10)
  | ssub (d a b : Reg)
  | smul (d a b : Reg)
  | smulh (d a b : Reg) (u : Bool)
  | sand (d a b : Reg)
  | sor (d a b : Reg)
  | sxor (d a b : Reg)
  | sshl (d a b : Reg)
  | sshr (d a b : Reg)
  | ssra (d a b : Reg)
  | smin (d a b : Reg) (u : Bool)
  | smax (d a b : Reg) (u : Bool)
  | scmp (p : BitVec 3) (a b : Reg) (k : ICond)
  | ssel (d a b : Reg) (n : BitVec 3) (sense : Bool)
  | spopc (d a : Reg)
  | sclz (d a : Reg)
  | slea (d a b : Reg) (k : BitVec 4)
  | slane (d a b : Reg) (sx : Bool)
  | srsr (n : BitVec 10) (r : Reg)
  | swsr (n : BitVec 10) (r : Reg)
  -- vector integer and data movement (Table 7-3)
  | vadd (d a b : Reg)
  | vaddi (d a : Reg) (i : BitVec 10)
  | vsub (d a b : Reg)
  | vmul (d a b : Reg)
  | vmulh (d a b : Reg) (u : Bool)
  | vmad (d a b : Reg) (wide : Bool)
  | vdp4 (d a b : Reg) (g : DpMode)
  | vmin (d a b : Reg) (u : Bool)
  | vmax (d a b : Reg) (u : Bool)
  | vabs (d a : Reg) (f : Bool)
  | vand (d a b : Reg)
  | vor (d a b : Reg)
  | vxor (d a b : Reg)
  | vlop3 (d a b : Reg) (s : BitVec 4)
  | vshl (d a b : Reg)
  | vshr (d a b : Reg)
  | vsra (d a b : Reg)
  | vfshl (d a b : Reg) (s : BitVec 4)
  | vfshr (d a b : Reg) (s : BitVec 4)
  | vpopc (d a : Reg)
  | vclz (d a : Reg)
  | vbrev (d a : Reg)
  | vcmp (p : BitVec 3) (a b : Reg) (k : ICond)
  | vsel (d a b : Reg) (n : BitVec 3) (sense : Bool)
  | vmov (d a : Reg)
  | vmovi (d : Reg) (i : BitVec 16)
  | vbcst (d a : Reg) (hi : Bool)
  | vshfl (d a b : Reg) (m : ShMode)
  | vred (d a : Reg) (o : RedOp)
  | vlane (d : Reg) (team : Bool)
  -- floating point (Table 7-7)
  | fadd (d a b : Reg) (k : Cls)
  | fsub (d a b : Reg) (k : Cls)
  | fmul (d a b : Reg) (k : Cls)
  | ffma (d a b : Reg) (k : Cls)
  | ffms (d a b : Reg) (k : Cls)
  | fmin (d a b : Reg)
  | fmax (d a b : Reg)
  | fcmp (p : BitVec 3) (a b : Reg) (k : FCond)
  | fclass (d a : Reg)
  | fscale (d a b : Reg)
  | fsacc (d a b : Reg) (k : Cls)
  | frnd (d a : Reg) (r : Rnd)
  | fhadd (d a b : Reg) (k : Cls) (bf : Bool)
  | fhmul (d a b : Reg) (k : Cls) (bf : Bool)
  | fhfma (d a b : Reg) (k : Cls) (bf : Bool)
  | fbnd (d a : Reg)
  | fsetb (d a b : Reg)
  | fclrb (d a : Reg)
  -- conversion and special functions (R212 to R215)
  | cvt (d a : Reg) (src dst : Fmt) (r : Rnd) (sat : Bool)
  | pkn (d a b : Reg) (f : Fmt) (sat : Bool)
  | unpkn (d a : Reg) (f : Fmt) (i : BitVec 3)
  | frcp (d a : Reg) (k : Cls)
  | frsq (d a : Reg) (k : Cls)
  | fex2 (d a : Reg) (k : Cls)
  | flg2 (d a : Reg) (k : Cls)
  | fsin (d a : Reg) (k : Cls)
  | fcos (d a : Reg) (k : Cls)
  -- control (Table 8-1)
  | bra (o : BitVec 20) (s : BitVec 2)
  | brc (p : BitVec 3) (o : BitVec 16) (s : BitVec 2) (sense : Bool)
  | brx (a : Reg)
  | brxU (a : Reg)
  | call (o : BitVec 20) (s : BitVec 2)
  | ret (r : Reg)
  | enrol (k : BitVec 3)
  | rejoin (k : BitVec 3)
  | strike (k : BitVec 3)
  | item (k : BitVec 3) (r : Reg) (o : BitVec 10) (s : BitVec 2)
  | yield
  | exit
  | nop
  | trapu (i : BitVec 16)
  -- memory (Tables 8-2, 8-4, R229, R232, R233)
  | ld (d : Reg) (b : BitVec 3) (o : Reg) (wd : Width) (f : LoadForm)
  | lds (d : Reg) (b : BitVec 3) (o : Reg) (wd : Width) (f : LoadForm)
  | st (d : Reg) (b : BitVec 3) (o : Reg) (wd : Width) (f : StoreForm)
  | ldu (d : Reg) (b : BitVec 3) (i : BitVec 13)
  | ldus (d : Reg) (b : BitVec 3) (i : BitVec 13)
  | stu (d : Reg) (b : BitVec 3) (i : BitVec 13)
  | gath (d : Reg) (b : BitVec 3) (o : Reg) (wd : Width) (f : LoadForm)
  | gaths (d : Reg) (b : BitVec 3) (o : Reg) (wd : Width) (f : LoadForm)
  | scat (d : Reg) (b : BitVec 3) (o : Reg) (wd : Width) (f : StoreForm)
  | ldt (d a b : Reg) (wd : Width)
  | stt (d a b : Reg) (wd : Width)
  | bxlt (d : Reg) (b : BitVec 3)
  | pref (l : PfLevel) (b : BitVec 3) (o : Reg)
  -- atomics (Table 8-5)
  | aadd (d : Reg) (b : BitVec 3) (o : Reg) (wd : Width) (f : AtomForm)
  | amin (d : Reg) (b : BitVec 3) (o : Reg) (wd : Width) (f : AtomForm)
  | amax (d : Reg) (b : BitVec 3) (o : Reg) (wd : Width) (f : AtomForm)
  | aand (d : Reg) (b : BitVec 3) (o : Reg) (wd : Width) (f : AtomForm)
  | aor (d : Reg) (b : BitVec 3) (o : Reg) (wd : Width) (f : AtomForm)
  | axor (d : Reg) (b : BitVec 3) (o : Reg) (wd : Width) (f : AtomForm)
  | axch (d : Reg) (b : BitVec 3) (o : Reg) (wd : Width) (f : AtomForm)
  | acas (d : Reg) (b : BitVec 3) (o : Reg) (wd : Width) (f : AtomForm)
  | afadd (d : Reg) (b : BitVec 3) (o : Reg) (wd : Width) (f : AtomForm)
  | axadd (d : Reg) (b : BitVec 3) (o : Reg) (wd : Width) (f : AtomForm)
  | axrd (d : Reg) (b : BitVec 3) (o : Reg) (wd : Width) (f : AtomForm)
  -- synchronisation (Table 8-6)
  | bari (a : Reg) (i : BitVec 3)
  | barw (a : Reg) (i : BitVec 3)
  | baraw (d : Reg) (i : BitVec 3)
  | bard (d : Reg) (i : BitVec 3)
  | bardDrop (i : BitVec 3)
  | dqpush (p : BitVec 3) (a : Reg)
  | dqpop (d : Reg) (p : BitVec 3)
  | dqsteal (d a : Reg) (p : BitVec 3)
  | bndminCl (a b : Reg)
  | bndminDev (a b : Reg)
  | bndrd (d a : Reg)
  | batch
  | waitb (a : Reg)
  | fence (sc : Scope)
  | ifence
  -- engines (Table 9-4); a, b, e are the descriptors dA, dB, dC
  | mma (a b e : BitVec 4) (k : Cls) (z : Bool)
  | mmag (a b e : BitVec 4) (v : Reg) (k : Cls) (z : Bool)
  | tcopy (a e : BitVec 4) (m : CopyMode)
  | tfill (e : BitVec 4) (v : Reg)
  | tscaleExp (a e : BitVec 4) (v : Reg)
  | tscaleAcc (a e : BitVec 4) (v : Reg) (k : Cls)
  | tscaleAccr (a b e : BitVec 4) (k : Cls)
  | tscaleAccc (a b e : BitVec 4) (k : Cls)
  | tconv (a e : BitVec 4) (r : Rnd) (sat : Bool)
  | tgive (e : BitVec 4)
  | ttake (e : BitVec 4)
  | tdesc (e : BitVec 4) (v : Reg)
  | tsetd (e : BitVec 4) (v : Reg) (f : TField)
  -- checks and control state (Table 9-6, R272, R275)
  | chk (a : Reg)
  | chkTwoRegisters (a b : Reg)
  | chkU (a : Reg)
  | chkp (p : BitVec 3) (amb : Bool)
  | ptest (p : BitVec 3) (a : Reg) (m : PtMode)
  | pcode (d a : Reg) (m : PcMode)
  | pset (d : Reg) (n : BitVec 3) (sense : Bool)
  | enter (i : BitVec 12)
  | leave (i : BitVec 16)
  | ebset (i : BitVec 16)
  | ebrd (d : Reg)
  | clock (d : Reg)
  | clockV (d : Reg)
  | wall (d : Reg)
  | wallV (d : Reg)
  | timer (a : Reg) (t : TimerSel)
  | timerWait (t : TimerSel)
  | timerPoll (p : BitVec 3) (t : TimerSel)
  -- supervisor (Table 13-6)
  | sret
  | rqrd (d a : Reg) (w : BitVec 2)
  | rqrdV (d a : Reg) (n : BitVec 2)
  | rqwr (a b : Reg) (w : BitVec 2)
  | rqwrV (a b : Reg) (n : BitVec 2)
  | frqpop (d : Reg)
  | tlbinvRange (a b : Reg)
  | tlbinvTag (a b : Reg)
  | tlbinvAll (a b : Reg)
  | tlbwait
  | ctxsv (a : Reg)
  | ctxrs (a : Reg)
  | dbgset (d a b : Reg) (n : BitVec 3)
  | ssr (n : BitVec 10) (r : Reg)
  | ssrV (n : BitVec 10) (r : Reg)
  | ssrP (n : BitVec 10) (r : Reg)
  | ssw (n : BitVec 10) (r : Reg)
  | sswV (n : BitVec 10) (r : Reg)
  | kill (a : Reg)
  | killTeam
  | killDump
  | halt
  -- words that raise a trap of decoding or fetch
  | illegalEncoding (w : Word)
  | fetchFault (code va : Nat)
  -- steps of the memory path, the engines and the groups. `h` is a group's handle (R358)
  | resultReturn (h id : Nat)
  | atomicApply (h id : Nat)
  | storeReachesHome (id : Nat)
  | requestRetry (h : Nat)
  | taskStart (id : Nat)
  | taskFinish (id : Nat)
  | preqRequest (launch team : Nat)
  | preEmptionDeadline (launch team : Nat)
  | stopDeadline (h : Nat)
  | cycleTimerFire (h : Nat)
  | wallAlarmFire (h : Nat)
  | retentionEntry (bank : Nat)
  | retentionExit (bank : Nat)
  | watchCopyUpdate (core pa : Nat)
  | invalidationReceive (core id : Nat)
  | invalidationAck (core id : Nat)
  | dispatch (cluster : Nat)
  | retire (launch team : Nat)
  | teamSave (launch team : Nat)
  -- arbitration, power, observation
  | slice (cluster : Nat)
  | virtualTimeAdd
  | clusterGate (cluster : Nat)
  | weirSample (watts : Nat)
  | vfStepEnd (die : Nat)
  | sprintLimit (die : Nat)
  | coolDownEnd (die : Nat)
  | grant (die budget point : Nat)
  | grantExpiry (die : Nat)
  | sensorFault
  | thermalLimit (die : Nat)
  | thermalStep (die celsius : Nat)
  | thermalShutdown (die : Nat)
  | reset
  | pcSample (core sched : Nat)
  | energySplit (die uj : Nat)
  | rasError (source : Nat) (k : ErrKind) (pa va pc : Nat) (h : Nat) (reg : Option (RegClass × Nat × Nat))
  | correctedErrorMerge (die source : Nat)
  | hostManagedDeviceMemoryAccess (pa : Nat) (acc : HostAccess)
  | gatingSequenceEnd (cluster : Nat)
  | clusterWakeEnd (cluster : Nat)
  | retentionEntryEnd (bank : Nat)
  -- launch lines and commands. `f` is the issuing function, 64 for the PF (R384)
  | lineaddrWrite (f : Nat) (addr : DWord)
  | lineNotify (cb : Nat)
  | launchAdmit (cb : Nat)
  | launchFinish (launch : Nat)
  | nopCommand (f : Nat)
  | lineCreate (f : Nat)
  | lineDestroy (f : Nat)
  | procConfig (f : Nat)
  | invalidate (f : Nat)
  | stopRequest (f : Nat)
  | resume (f : Nat)
  | killCommand (f : Nat)
  | saveLaunch (f : Nat)
  | restoreLaunch (f : Nat)
  | journalCopy (f : Nat)
  | event (f : Nat)
  | funcConfig (f : Nat)
  | ctxArea (f : Nat)
  | carve (f : Nat)
  | poolAdd (f : Nat)
  | migrate (f : Nat)
  | split (f : Nat)
  | vector (f : Nat)
  | power (f : Nat)
  | load (f : Nat)
  | counters (f : Nat)
  | read (f : Nat)
  | sample (f : Nat)
  | quote (f : Nat)
  | identity (f : Nat)
  | clear (f : Nat)
  | unknownCommandOpcode (f : Nat)
  deriving DecidableEq, Repr

end Sys2Proof
end

