-- ==== Sys2Proof/Machine/State.lean ====
section
/-! DEFINITION. The state of the whole device as plain data, its faults and refusals, and the state after reset.

Tables indexed by a number (memory bytes, register files, sector bounds, groups, cores) are association lists in
rising key order. In a table that has a reset value, an index that is not listed holds that reset value. -/

namespace Sys2Proof.Machine

/-- A register by class and number. -/
abbrev Ref := RegClass × Nat

/-! ### Registers of a lane and of a group -/

/-- A vector register of one lane: data and shadow (R46, R47). -/
structure VCell where
  data : Word
  eb : EB
  deriving DecidableEq, Repr

/-- A uniform register: data and shadow (R48). -/
structure SCell where
  data : DWord
  eb : EB
  deriving DecidableEq, Repr

/-- What a lane in WAIT waits for (Table 1-2, LSTATE of Table 13-3). -/
inductive WaitOn
  | barrier (i : BitVec 3) (phase : BitVec 16)
  | cycTimer
  | wallAlarm
  deriving DecidableEq, Repr

/-- The state of a lane (Table 1-2). A lane in WAIT stands at the word that made it wait; `skip` words of that word's chain follow it,
and the lane runs on after them (log entry 15). -/
inductive LaneSt
  | run
  | knot (k : BitVec 3)
  | wait (o : WaitOn) (skip : Nat)
  | done
  deriving DecidableEq, Repr

/-- A lane: its PC and state (R23), and the PC and state that trap entry saved (EPC and LSTATE, Table 13-3). -/
structure Lane where
  pc : PC
  st : LaneSt
  epc : PC
  lst : LaneSt
  deriving DecidableEq, Repr

/-- A knot register (R29); `armed` is the state ARMED. -/
structure Knot where
  enrolled : Mask
  arrived : Mask
  joinPc : PC
  armed : Bool
  deriving DecidableEq, Repr

/-- A base-translation register (Table 2-3). -/
structure BReg where
  vbase : BitVec 57
  pbase : BitVec 52
  limit : Word
  attr : BitVec 16
  deriving DecidableEq, Repr

/-- A lane's arrival record for one listed barrier (R41). -/
structure Arrival where
  valid : Bool
  dropped : Bool
  epoch : BitVec 12
  phase : BitVec 16
  deriving DecidableEq, Repr

/-- A failure record of copy tasks (R138). -/
structure FailRec where
  lo : Word
  hi : Word
  cause : BitVec 8
  payload : Word
  va : DWord
  batch : Word
  seq : Nat
  deriving DecidableEq, Repr

/-- One lane's translated access: physical address, virtual address and page attributes (R51, R353). `early` holds the
64-bit half of a 128-bit access to CXL memory that has been read before the other: whether it is the high one, and its words
with their bounds (R142). -/
structure LaneAcc where
  pa : Nat
  va : Nat
  attr : BitVec 16
  early : Option (Bool × VCell × VCell)
  deriving DecidableEq, Repr

/-- A variable-latency instruction whose result is outstanding (R179), and an entry of the replay queue
(Table 13-5). `slots` maps 8 × lane + slot to a captured operand (slot 0 the offset register, then the data words), or to a
result word once the lane is in `performed`; `told` lists the lines whose errors it has reported (R431); `uop` with `ueb` is the VBASE, the MU address or the uniform source, or the
uniform result. `acc` holds the accesses of lanes that translated and have not been performed. `contested` lists the
destinations that a later issue of the run has written (R180), by the keys of `regKey`. -/
structure Entry where
  id : Nat
  instr : Instr
  word : Word
  pc : PC
  valid : Bool
  held : Bool
  mask : Mask
  performed : Mask
  uop : DWord
  ueb : EB
  slots : List (Nat × VCell)
  acc : List (Nat × LaneAcc)
  contested : List Nat
  told : List Nat
  deriving DecidableEq, Repr

/-- The bytes that one store issue writes in one sector: (offset, byte, lane) with the highest lane last (R142),
the largest bound of its lanes, the token of its lowest poisoned lane (R121), and whether the page keeps bounds. -/
structure SectorW where
  pa : Nat
  bytes : List (Nat × Byte)
  maxEb : EB
  token : Option Word
  bnd : Bool
  deriving DecidableEq, Repr

/-- A store that has issued and has not reached its home (R142, R365), or an AXADD on its way to its engine. -/
inductive PendKind
  | store (ws : List SectorW)
  | axadd (pa : Nat) (addends : List (Nat × VCell)) (isInt : Bool) (bnd : Bool)
  deriving DecidableEq, Repr

/-- An instruction held after the rejection of some of its lanes (R139, R332): those of `mask`, or an empty mask once it may issue again.
A load or an atomic is outstanding meanwhile. A store or an AXADD issues again as a whole chain, without the lanes of `done`, whose
requests have been accepted. `tries` counts the request entries released since the first rejection. -/
structure Held where
  entry : Entry
  mask : Mask
  done : Mask
  tries : Nat
  deriving DecidableEq, Repr

/-- The register classes of a group (Table 2-1). `v` is keyed by 64 × number + lane, `p` by 64 × number + lane;
`s`, `b`, `d` and `k` by number. Unlisted entries hold the reset value of Table 2-1. -/
structure Regs where
  v : List (Nat × VCell)
  s : List (Nat × SCell)
  p : List (Nat × Byte)
  k : List (Nat × Knot)
  b : List (Nat × BReg)
  d : List (Nat × BitVec 128)
  deriving DecidableEq, Repr

/-- The user values of s56 to s63, p7 and b7 while the group is in supervisor mode (R318), and which of them have an
uncorrectable error (R53). -/
structure Bank where
  s : List (Nat × SCell)
  p : List (Nat × Byte)
  b : BReg
  soft : List (RegClass × Nat × Nat)
  deriving DecidableEq, Repr

/-- The frame registers of trap entry (Table 13-1, R325). -/
structure Frame where
  tcause : BitVec 11
  tpayload : DWord
  tmask : Mask
  pcm : Mask
  tpc : PC
  tstamp : DWord
  killm : Mask
  deriving DecidableEq, Repr

/-- The special registers and status of a group (Tables 2-5 to 2-8, 13-2). `flags` holds NX, UF, OF, DZ, NV in
bits [4:0] of STATUS; `lflags` is FLAGS; the region stack holds ids with the EBUD in force at each ENTER, top first. -/
structure Special where
  flags : BitVec 5
  lflags : BitVec 5
  ebud : EB
  preq : Bool
  chandler : PC
  ctxclk : DWord
  regions : List (BitVec 12 × EB)
  ovf : BitVec 11
  hnd : Bool
  hndMask : Mask
  sv : Bool
  rst : Bool
  tag : BitVec 16
  deriving DecidableEq, Repr

/-- One timer of a group (R277). -/
structure Timer where
  armed : Bool
  fired : Bool
  deadline : DWord
  deriving DecidableEq, Repr

/-- State of a group that belongs to no register class: timers, batches (R136, R138), race counters (R150), the
WALL view's offset (R276), run control (R36, R38, R181, R339, R340), TLBINVs not yet acknowledged (R333). `dying` says that a kill waits for
the end of the instruction that the group holds (R338). `userWaits` holds the
wait counts of the user PC-sets while the group is in supervisor mode (R25). `score` holds the results of fixed latency that are
not yet readable: the register, the lanes, and the core cycle from which a word may read them (R297); `nextAt` is the first core
cycle in which the group may issue again (R297, R298). -/
structure Ctl where
  cyc : Timer
  wal : Timer
  closed : Word
  fails : List FailRec
  interval : Word
  pubs : List Word
  wallOff : DWord
  marker : Bool
  userMarker : Bool
  halted : Bool
  rehalt : Bool
  saving : Bool
  saved : Bool
  retiring : Bool
  stopPend : Bool
  stopForced : Bool
  stopDue : Bool
  stopCnt : Nat
  stopLim : Nat
  preemptPend : Bool
  ctxrsUsed : Bool
  restFailed : Bool
  rom : Option Nat
  romWork : List (Nat × DWord)
  invs : List Nat
  dead : Bool
  dying : Bool
  userWaits : List (Nat × Nat)
  score : List (Ref × Mask × Nat)
  nextAt : Nat
  deriving DecidableEq, Repr

/-- A group of a resident or saved team (Table 1-1). `core`, `sched`, `place` are its place (R19, R22); `age` orders
residency (R27); `issued` and `issuedPc` are the core cycle after its last issue and its PC, `why` the reason of
the last stall as Table 18-3 numbers it, or 0 (R428); `unready` counts the cycles in which it was ready without issuing since its last issue, and
`passed` is one more than the core cycle in which its scheduler last chose another though it was ready (R27); `waits` holds the wait count of each PC-set (R25); `arr` is keyed by 64 × barrier + lane (R41);
`soft` marks registers with an uncorrectable error (R53), keyed by class and number, and lane for v and p. -/
structure Group where
  launch : Nat
  team : Nat
  gid : Nat
  width : Nat
  regs : Nat
  core : Nat
  sched : Nat
  place : Nat
  age : Nat
  issued : Nat
  issuedPc : PC
  unready : Nat
  passed : Nat
  why : Nat
  lanes : List Lane
  r : Regs
  bank : Bank
  frame : Frame
  sp : Special
  ctl : Ctl
  waits : List (Nat × Nat)
  arr : List (Nat × Arrival)
  outst : List Entry
  replay : List Entry
  rejected : Option Held
  soft : List (RegClass × Nat × Nat)
  deriving DecidableEq, Repr

/-- The issue that is being performed: the group, the chain's first PC, this word and its PC, the PC after the chain,
the PC-set, and the read view `rd`: the group as it stood before the chain (R169), with each read of an
outstanding register resolved (R180). `trapped` records that a word of the chain raised a trap, `stalled` that a word
must wait (R27), so that nothing issued; `edge` that an ENTER or LEAVE of the chain meets a stop request (R340). `page` holds the lanes, the number of PAGE records, the order number and the PC of a
demand load that enters the fault path within a chain (R45). -/
structure Cur where
  h : Nat
  pc : PC
  wpc : PC
  word : Word
  next : PC
  mask : Mask
  multi : Bool
  trapped : Bool
  stalled : Bool
  edge : Bool
  page : Option (Mask × Nat × Nat × PC)
  rd : Group
  deriving DecidableEq, Repr

/-! ### Memory path -/

/-- A pending store with its issuer (for core dumps, R343). `issue` is the number of the first store of its issue, and `told` says that another
store of that issue has reported the errors of their line (R431). -/
structure Pend where
  id : Nat
  h : Nat
  launch : Nat
  team : Nat
  core : Nat
  pc : PC
  va : DWord
  mask : Mask
  tag : BitVec 16
  issue : Nat
  told : Bool
  kind : PendKind
  deriving DecidableEq, Repr

/-- A race record of a sector (R150): the writer's launch, team and group, its interval, and the release scope. -/
structure RaceRec where
  launch : Nat
  team : Nat
  gid : Nat
  handle : Nat
  interval : Word
  scope : Option Scope
  atomic : Option Scope
  isAtomic : Bool
  deriving DecidableEq, Repr

/-- A translation held by a core's TLB (R357): a valid leaf, the page it maps, and whether A and D were set by it. -/
structure TlbEnt where
  tag : BitVec 16
  vpage : Nat
  size : Nat
  pte : DWord
  leafPa : Nat
  aSet : Bool
  dSet : Bool
  deriving DecidableEq, Repr

/-- An interior entry held by a core's walk cache (R357): its address, the space tag, the virtual range that it maps, and its value. -/
structure NodeEnt where
  pa : Nat
  tag : BitVec 16
  base : Nat
  size : Nat
  pte : DWord
  deriving DecidableEq, Repr

/-- A fault record of a core's queue (Tables 14-6, 14-7). -/
structure FaultRec where
  w0 : DWord
  w1 : DWord
  w2 : DWord
  w3 : DWord
  deriving DecidableEq, Repr

/-- A TLBINV or firmware invalidation in progress (R333, R365). `waitFor` lists the recipients (cores 0 to 255,
256 the firmware processor) that have not acknowledged, `received` those that took steps 1 and 2, `covered` the operations that the acknowledgement waits for,
and `frames` (core, address, size) the covered frames. -/
structure Inval where
  id : Nat
  byGroup : Option Nat
  tag : BitVec 16
  base : Nat
  pages : Nat
  mode : BitVec 2
  received : List Nat
  waitFor : List Nat
  covered : List Nat
  frames : List (Nat × Nat × Nat)
  deriving DecidableEq, Repr

/-- A comparator (Table 13-3: DBGV, DBGM, DBGK). -/
structure Comparator where
  v : BitVec 57
  m : Mask
  k : BitVec 48
  deriving DecidableEq, Repr

/-- The resident bank of a matrix array or of one half of a split array (R257), from the issue of its TGIVE, task number
`task`, to the finish of its TTAKE; `ended` once the TTAKE has issued. `cells` is keyed by 32 × row + column, a poisoned cell
holding its token. -/
structure ResBank where
  launch : Nat
  team : Nat
  task : Nat
  desc : BitVec 128
  cells : List (Nat × VCell)
  ended : Bool
  deriving DecidableEq, Repr

/-- A core: translations, fetched words, the fault record queue (R358), comparators, watch copies in least recently
read order (R165), counters and their per-function counts (R425, keyed by 128 × counter + function), the banks of its
array, the split (R400), the sampler's last place per scheduler and the core cycle after its last pick (R428), the aggregate
stall histogram (R435, keyed by 128 × code + function), and the sectors that its first-level cache holds,
with their bounds, keyed PA / 32 (R128, R131). `nodes` is its walk cache (R357). `busy` maps a scheduler to the core cycle from which it may
issue again (R296, R298), `pipes` maps 8 × scheduler + pipe to the core cycle from which the pipe is free (Table 12-1), and `taskAt`
is the core cycle of the last task issue and its scheduler (R296). `chargeRem` is the part of a unit of charge that its charge
counter has not counted (Table 18-1), keyed by team, in hundredths. -/
structure Core where
  tlb : List TlbEnt
  fetched : List (Nat × Word)
  frq : List FaultRec
  frqOvf : Bool
  dbg : List (Nat × Comparator)
  dbgHit : Byte
  watch : List (Nat × DWord)
  events : List (Nat × Byte)
  counts : List (Nat × Nat)
  banks : List (Nat × ResBank)
  split : Option (Nat × Nat)
  splitPend : Option (Option (Nat × Nat))
  picks : List (Nat × Nat)
  pickAt : List (Nat × Nat)
  stalls : List (Nat × Nat)
  l1 : List (Nat × (List Byte × EB))
  nodes : List NodeEnt
  busy : List (Nat × Nat)
  pipes : List (Nat × Nat)
  taskAt : Option (Nat × Nat)
  chargeRem : List (Nat × Nat)
  deriving DecidableEq, Repr

/-! ### Engine tasks -/

/-- The kinds of engine task (R249) with the operand values read at issue (R250). Descriptors are their 128 bits. -/
inductive TaskOp
  | mma (a b c : BitVec 128) (k : Cls) (z : Bool) (idx : Option (List (Nat × VCell))) (rows : Mask)
  | tcopy (a c : BitVec 128) (m : CopyMode)
  | tfill (c : BitVec 128) (s : SCell)
  | tscale (form : Nat) (a b c : BitVec 128) (k : Cls) (s : SCell)
  | tconv (a c : BitVec 128) (r : Rnd) (sat : Bool)
  | tgive (c : BitVec 128)
  | ttake (c : BitVec 128)
  deriving DecidableEq, Repr

/-- What a task writes in one sector: the elements from its start, their bound, or a token. -/
structure SecOut where
  elems : List Nat
  eb : EB
  tok : Option Word
  deriving DecidableEq, Repr

/-- How one destination sector of a copy to memory fares (R260): a failure (cause, payload, address), or its virtual and physical address,
whether its page keeps bounds, what is written there, and whether the race detector checks it. -/
inductive CopyRes
  | fail (cause payload va : Nat)
  | ok (va pa : Nat) (bnd : Bool) (out : SecOut) (race : Bool)
  deriving DecidableEq, Repr

/-- A sector of a copy from memory whose request has been accepted and that has not been read (R365, R409): the number of the request, row and
sector number, and the access with the translation that it took. -/
structure CopyReq where
  id : Nat
  sec : Nat × Nat
  acc : LaneAcc
  deriving DecidableEq, Repr

/-- What a started task will write when it finishes: bytes of pond and memory sectors with their bounds, the sectors that the
race detector records, flags, a failure (cause, payload, sector address), the bank cells it leaves, the block steps it
computed in FULL, SHORT, TRUNC and LEAN, and how the sectors of a copy to memory fared that it has requested. `late` lists the
sectors of a copy that it has still to request (R252, R409): row, sector number, and for a copy to memory the value, bound and token that
its source held at the start (R251). `reqs` lists the requests of a copy from memory that were accepted, `met` the lines whose errors the
task has met (R431), `read` the sectors of memory that a copy has read. -/
structure TaskOut where
  ws : List SectorW
  races : List Nat
  flags : BitVec 5
  fail : Option (BitVec 8 × Word × DWord)
  bank : Option (List (Nat × VCell))
  steps : List Nat
  copy : List CopyRes
  late : List ((Nat × Nat) × (Nat × EB × Option Word))
  reqs : List CopyReq
  met : List Nat
  read : List Nat
  deriving DecidableEq, Repr

/-- A task-table entry (R249, R251): what it names and took at issue, whether it holds a rename slot (R135), whether it works on
the resident bank (R257), and, once it has started, what it will write. -/
structure Task where
  id : Nat
  core : Nat
  half : Nat
  launch : Nat
  team : Nat
  h : Nat
  gid : Nat
  pc : PC
  op : TaskOp
  ebud : EB
  lflags : BitVec 5
  interval : Word
  tag : BitVec 16
  batch : Option Word
  rset : List Nat
  wset : List Nat
  rename : Bool
  onBank : Bool
  out : Option TaskOut
  deriving DecidableEq, Repr

/-! ### Launches, teams, commands -/

/-- A launch record (Table 15-2). -/
structure LaunchRec where
  dqSize : Nat
  dqArea : DWord
  compVal : DWord
  compAddr : DWord
  args : DWord
  barriers : DWord
  nbar : Nat
  ctrl : Byte
  msix : BitVec 16
  prio : Nat
  flags : Byte
  ebud : EB
  pond : Nat
  regs : Nat
  width : Nat
  team : Nat × Nat × Nat
  grid : Nat × Nat × Nat
  entry : DWord
  codeBase : DWord
  next : DWord
  raw : List Byte
  deriving DecidableEq, Repr

/-- How a launch ends: still running, or the completion code and cause (Table 15-4). -/
inductive LaunchEnd
  | none
  | killed (cause : Byte)
  | cancelled
  | saved (offset : Nat)
  | restFail
  deriving DecidableEq, Repr

/-- An admitted launch that has not finished (R379). `key` identifies it inside the device; `cb` and `number` name it
(R379). `savedTeams` maps a TEAMID to its image address. `dqPages` holds the overflow pages taken, `dqFull` their end.
`stops` holds the stop requests of groups that are not resident (team, group, count, limit; R340, R401). -/
structure Launch where
  key : Nat
  cb : Nat
  number : Nat
  func : Nat
  proc : Nat
  queue : Nat
  tag : BitVec 16
  seq : Nat
  rc : LaunchRec
  nextTeam : Nat
  savedTeams : List (Nat × Nat)
  stopDispatch : Bool
  ending : LaunchEnd
  dqPages : List Nat
  dqFull : Bool
  saveOff : Option Nat
  saveCmd : Option Nat
  stops : List (Nat × Nat × Nat × Nat)
  deriving DecidableEq, Repr

/-- A resident team: its place, pond tiles (team tile i lies in `tiles[i]`, numbered 64 × core + tile), barrier object
addresses (R444), pre-emption request, deadline count and deadline (R36, R38), the address of its
image (0: none), whether the header of the image it was restored from does not match (R335), and the team views of the counters of
each of its cores, keyed 16 × core + counter (R425). `bridge` is the core cycle after the last task that it passed through the bridge of its
core pair (R251). -/
structure Team where
  launch : Nat
  id : Nat
  core : Nat
  pair : Bool
  lanes : Nat
  ngroups : Nat
  tiles : List Nat
  barPa : List Nat
  preq : Bool
  preqCnt : Nat
  preqLim : Nat
  image : Nat
  hdrBad : Bool
  age : Nat
  waking : Bool
  dead : Bool
  resident : Nat
  views : List (Nat × Nat)
  bridge : Nat
  deriving DecidableEq, Repr

/-- Where an entry of a deque is held (R161, R164): in the SRAM of a core, or in an overflow slot at a physical address. -/
inductive DqPlace
  | sram (core : Nat)
  | mem (pa : Nat)
  deriving DecidableEq, Repr

/-- A logical item deque of a launch on a core (R161): entries from the far end to the owner's end, each with its place. -/
structure Deque where
  launch : Nat
  core : Nat
  items : List (DWord × DqPlace)
  deriving DecidableEq, Repr

/-- A launch line or command line (R373, R376), named by the address of its control block. `sawNext` holds the NEXT value the
monitor has seen, `active` the launch it runs (by key), `restores` the launch images that await admission (R384, RESTORE_LAUNCH). -/
structure Line where
  cb : Nat
  func : Nat
  proc : Nat
  queue : Nat
  isCmd : Bool
  broken : Bool
  destroyed : Bool
  sawNext : Option DWord
  active : Option Nat
  restores : List Nat
  deriving DecidableEq, Repr

/-- A process of a function (R390): weight, virtual time, and the clusters at which it was last seen with a candidate. -/
structure Proc where
  weight : Nat
  vtime : DWord
  had : List Nat
  deriving DecidableEq, Repr

/-- A disclosure policy in force (Table 18-7). -/
structure Policy where
  seq : DWord
  levels : BitVec 16
  aggMin : Nat
  raw : List Byte
  deriving DecidableEq, Repr

/-- A function (64 is the PF): partition, slice, deque weight, deadline (FUNC_CONFIG), areas, EVENT vector, LINEADDR,
policy, trace enable, and energy per die in µJ (R432). -/
structure Func where
  clusters : Word
  slice : Nat
  dqWeight : Nat
  deadline : Nat
  ctxPa : Nat
  ctxSize : Nat
  dumpPa : Nat
  dumpSize : Nat
  eventVec : Option Nat
  lineAddr : DWord
  policy : Option Policy
  traced : Bool
  energy : List (Nat × Nat)
  procs : List (Nat × Proc)
  deriving DecidableEq, Repr

/-- A command that waits for an event after it was accepted (R383). -/
structure CmdWait where
  f : Nat
  cb : Nat
  number : Nat
  opcode : Nat
  compAddr : DWord
  compVal : DWord
  cflags : BitVec 16
  msix : BitVec 16
  inval : Option Nat
  launch : Option Nat
  team : Nat
  work : List Nat
  async : Bool
  deriving DecidableEq, Repr

/-! ### Power and observation -/

/-- A cluster: gating (R393), slice holder (R389), charge by core cycle in the last 64 cycles in hundredths, slope limit (R418) and
the limit that holds from a later cycle (R419), and the core cycle of each scheduler's last heavy issue (R303), keyed 4 × core + scheduler. -/
structure Cluster where
  gated : Bool
  gating : Bool
  waking : Bool
  idleSince : Nat
  holder : Nat
  sliceStart : Nat
  charge : List (Nat × Nat)
  slope : Nat
  slopeNext : Option (Nat × Nat)
  heavy : List (Nat × Nat)
  deriving DecidableEq, Repr

/-- A compute die: its core cycles so far, V/F point, the point of the step under way and the steps down that follow it (R413), sprint and cool-down (R416), grant (R417), thermal state, the times of its last steps for temperature and for a weir (R420, R423), charge
of each function since the last energy split, unattributed energy (R432), ring areas (R430), corrected errors per source and
the time of the last merged record (R431). `phase` is the part of its next core cycle that has passed, in thousandths (Table 17-1). -/
structure Die where
  clk : Nat
  phase : Nat
  point : Nat
  step : Option Nat
  owed : Nat
  sprintAt : Option Nat
  coolUntil : Option Nat
  grant : Option (Nat × Nat × Nat)
  hot : Bool
  hotAt : Option Nat
  weirAt : Option Nat
  off : Bool
  charge : List (Nat × Nat)
  ringS : Option Nat
  ringT : Option Nat
  corrected : List (Nat × Nat)
  lastMerge : List (Nat × Nat)
  unattr : Nat
  deriving DecidableEq, Repr

/-- The power arbiter (R414 to R419): mode, the mode that the next grant brings (R419), caps, sprint enable, the samples of the weirs (newest first: the time and the energy, W over 1 µs),
samples in a row over the peak cap at point 0, samples in a row within both caps, the throttle (R415), and a sensor fault. -/
structure Power where
  grantMode : Bool
  modeNext : Option Bool
  cAvg : Nat
  cPeak : Nat
  cSprint : Nat
  sprintEn : Bool
  samples : List (Nat × Nat)
  overRun : Nat
  calm : Nat
  throttle : Bool
  sensorBad : Bool
  deriving DecidableEq, Repr

/-- SRAM bank retention (R140): a bank exits for an access that waits. -/
inductive BankSt | active | entering | retained | exiting
  deriving DecidableEq, Repr

/-- An agent's turn: the group that issues next, a device step, or time that passes (in always-on ns, in which the dies count their core cycles). -/
inductive Turn
  | issue (h : Nat)
  | step (i : Instr)
  | time (ns : Nat)
  deriving DecidableEq, Repr

/-- Physical memory and what is known of its errors: data bytes (unlisted: 0), the bound arrays of the Tarn and of
the ponds (keyed by PA / 32, R346), lines with an uncorrectable error (keyed PA / 128, R431), CXL sectors that report
poison or a link error, CXL sectors whose device cannot be reached (keyed by PA / 32), reserved carve-outs
(0 to 7 HBM4, 8 LPDDR6, R346), race records (keyed by PA / 32), and stores that have not reached their homes. -/
structure MemSt where
  cells : List Host.Cell
  bounds : List (Nat × EB)
  bad : List Nat
  linkErr : List Nat
  peerDown : List Nat
  carved : List Nat
  race : List (Nat × RaceRec)
  pend : List Pend
  watchUpd : List (Nat × Nat × DWord)
  deriving DecidableEq, Repr

/-- Work: groups by handle, tasks, launches, teams, deques, lines, commands that wait, functions, invalidations. -/
structure WorkSt where
  groups : List (Nat × Group)
  tasks : List Task
  launches : List Launch
  teams : List Team
  deques : List Deque
  lines : List Line
  cmds : List CmdWait
  funcs : List (Nat × Func)
  invals : List Inval
  deriving DecidableEq, Repr

/-- A core dump (R343): what sections 0 to 5 hold, with the device's identity and the named ranges of memory; `whole` is false when the policy leaves sections 0 and 1 alone (R435). -/
structure Dump where
  launch : Nat
  team : Nat
  func : Nat
  tstamp : Nat
  cause : Nat
  identity : List Byte
  payload : DWord
  whole : Bool
  groups : List Group
  stores : List Pend
  tasks : List Task
  memory : List (Nat × List Byte)
  deriving DecidableEq, Repr

/-- The device around the cores: supervisor code base and vector table (Table 13-3), which vectors still name the ROM
(one bit per cause), the sequence of the journal (R385) and the level of its entries when they were posted, where it is not FULL (R437), MSI-X messages sent, sampling period (R428), the distributor's
next cluster (R392), bring-up step and failure code (R422), whether the CXL ports run in the degraded mode (R421), data read by hosts, and core dumps (R343).
`notes` holds, for a context image by its address and CHECK, what R39 has a save keep and Tables 15-9 and 15-10 give no place: bytes by
offset (log entry 20). -/
structure DevSt where
  scbase : BitVec 57
  vtab : BitVec 52
  romVecs : DWord
  images : List (Nat × List Byte)
  jseq : Nat
  jlevels : List (Nat × Nat)
  msix : List (Nat × Nat)
  sampleN : Nat
  ringSize : Nat
  nextCluster : Nat
  bringUp : Nat
  bootFail : Option Nat
  degraded : Bool
  hostReads : List (Nat × List Byte)
  aggClass : List (Nat × Nat)
  lastVt : Nat
  dumps : List Dump
  notes : List (Nat × Nat × List (Nat × Byte))
  deriving DecidableEq, Repr

/-- The whole device. `now` is the always-on count in ns (R4). `ids` numbers entries, stores, tasks and launches in the
order they arise. `banks` holds the SRAM banks by number: the state of each and the count at which it began (R140). `free` counts the free values taken (Config.freeBit), and `turns` lists which agent acts next: both are
the model's own fields, not the device's. -/
structure State where
  now : Nat
  ids : Nat
  free : Nat
  turns : List Turn
  cur : Cur
  mem : MemSt
  banks : List (Nat × BankSt × Nat)
  cores : List (Nat × Core)
  dies : List (Nat × Die)
  clusters : List (Nat × Cluster)
  pw : Power
  work : WorkSt
  dev : DevSt
  deriving DecidableEq, Repr

/-- Faults: the machine stops. The type is empty, since the spec gives every step an effect: nothing raises a fault. Safe: no claim rests
on a stop. -/
inductive Fault
  deriving DecidableEq, Repr

/-- Refusals.
* `notModelled`: an instruction without a meaning yet, raised by `exec`. Safe: no state follows. -/
inductive Refusal
  | notModelled (mnemonic : String)
  deriving DecidableEq, Repr

/-! ### Reset values -/

/-- The lane at dispatch before its entry PC is set (R14, R46). -/
def Lane.reset : Lane := ⟨0, .done, 0, .done⟩
/-- A vector register at dispatch (Table 2-1). -/
def VCell.zero : VCell := ⟨0, 0⟩
/-- A uniform register at dispatch (Table 2-1). -/
def SCell.zero : SCell := ⟨0, 0⟩
/-- A knot at group start (R29). -/
def Knot.idle : Knot := ⟨0, 0, 0, false⟩
/-- A base-translation register at reset (R51). -/
def BReg.zero : BReg := ⟨0, 0, 0, 0⟩
/-- An arrival record at dispatch (R159). -/
def Arrival.clear : Arrival := ⟨false, false, 0, 0⟩
/-- A timer at dispatch (R277). -/
def Timer.clear : Timer := ⟨false, false, 0⟩
def Regs.zero : Regs := ⟨[], [], [], [], [], []⟩
def Bank.zero : Bank := ⟨[], [], BReg.zero, []⟩
def Frame.zero : Frame := ⟨0, 0, 0, 0, 0, 0, 0⟩
def Special.zero : Special := ⟨0, 0, 0, false, 0, 0, [], 0, false, 0, false, false, 0⟩
def Ctl.zero : Ctl :=
  { cyc := Timer.clear, wal := Timer.clear, closed := 0, fails := [], interval := 0, pubs := [0, 0, 0, 0],
    wallOff := 0, marker := false, userMarker := false, halted := false, rehalt := false, saving := false, saved := false, retiring := false,
    stopPend := false, stopForced := false, stopDue := false, stopCnt := 0, stopLim := 0, preemptPend := false, ctxrsUsed := false, restFailed := false, rom := none,
    romWork := [], invs := [], dead := false, dying := false, userWaits := [], score := [], nextAt := 0 }
/-- A group with no lanes: what a handle that names no resident group stands for. -/
def Group.empty : Group :=
  { launch := 0, team := 0, gid := 0, width := 32, regs := 16, core := 0, sched := 0, place := 0, age := 0, issued := 0,
    issuedPc := 0, unready := 0, passed := 0, why := 0, lanes := [], r := Regs.zero, bank := Bank.zero, frame := Frame.zero, sp := Special.zero, ctl := Ctl.zero,
    waits := [], arr := [], outst := [], replay := [], rejected := none, soft := [] }
/-- The issue record outside an issue. -/
def Cur.none : Cur := ⟨0, 0, 0, 0, 0, 0, false, false, false, false, Option.none, Group.empty⟩
/-- A comparator at reset (Table 13-3). -/
def Comparator.zero : Comparator := ⟨0, 0, 0⟩
/-- A core after reset. -/
def Core.reset : Core :=
  { tlb := [], fetched := [], frq := [], frqOvf := false, dbg := [], dbgHit := 0, watch := [], events := [], counts := [],
    banks := [], split := none, splitPend := none, picks := [], pickAt := [], stalls := [], l1 := [], nodes := [], busy := [],
    pipes := [], taskAt := none, chargeRem := [] }
/-- A die after reset: point 0 (R422, step 4), cold, no sprint. -/
def Die.reset : Die :=
  { clk := 0, phase := 0, point := 0, step := none, owed := 0, sprintAt := none, coolUntil := none, grant := none, hot := false, hotAt := none, weirAt := none, off := false, charge := [],
    ringS := none, ringT := none, corrected := [], lastMerge := [], unattr := 0 }
/-- A cluster after reset: not gated, slope limit 3,145,728 (R418). -/
def Cluster.reset : Cluster :=
  { gated := false, gating := false, waking := false, idleSince := 0, holder := 64, sliceStart := 0, charge := [],
    slope := 3145728, slopeNext := none, heavy := [] }
/-- A process at creation: weight 16 (R390). -/
def Proc.reset : Proc := ⟨16, 0, []⟩
/-- A function before its first FUNC_CONFIG: deque weight 16, slice 1,000,000 ns, deadline 60,000 cycles (Table 15-6), no
policy (R434). -/
def Func.reset : Func :=
  { clusters := 0, slice := 1000000, dqWeight := 16, deadline := 60000, ctxPa := 0, ctxSize := 0, dumpPa := 0, dumpSize := 0,
    eventVec := none, lineAddr := 0, policy := none, traced := false, energy := [], procs := [] }
/-- The arbiter after reset: grant mode (R417), default caps (Table 17-3), no sample. -/
def Power.reset : Power :=
  { grantMode := true, modeNext := none, cAvg := 2400, cPeak := 3000, cSprint := 2800, sprintEn := false, samples := [], overRun := 0, calm := 0, throttle := false, sensorBad := false }
def MemSt.reset : MemSt :=
  { cells := [], bounds := [], bad := [], linkErr := [], peerDown := [], carved := [], race := [], pend := [], watchUpd := [] }
def WorkSt.reset : WorkSt :=
  { groups := [], tasks := [], launches := [], teams := [], deques := [], lines := [], cmds := [], funcs := [], invals := [] }
/-- SCBASE and VTAB hold values of the firmware that the manual does not give (log entry 3). Every vector names
the ROM. The journal's sequence starts at 1 (R385). -/
def DevSt.reset : DevSt :=
  { scbase := 0, vtab := 0x8000080400, romVecs := 0xFFFFFFFFFFFFFFFF, images := [], jseq := 1, jlevels := [], msix := [], sampleN := 0, ringSize := 0,
    nextCluster := 0, bringUp := 0, bootFail := none, degraded := false, hostReads := [], aggClass := [], lastVt := 0, dumps := [], notes := [] }

/-- The device right after reset, before the first step of bring-up (R422). -/
def State.reset : State :=
  { now := 0, ids := 0, free := 0, turns := [], cur := Cur.none, mem := MemSt.reset, banks := [], cores := [], dies := [], clusters := [],
    pw := Power.reset, work := WorkSt.reset, dev := DevSt.reset }

end Sys2Proof.Machine
end

