-- ==== Sys2Proof/Machine/Map.lean ====
section
/-! DEFINITION. Tables as lists of (number, value) in rising key order. -/

namespace Sys2Proof.Machine

/-- The entry of key `k`. -/
def Tb.get? {α : Type} : List (Nat × α) → Nat → Option α
  | [], _ => none
  | (j, v) :: t, k => if j = k then some v else Tb.get? t k

/-- Set the entry of key `k`, keeping keys in rising order. -/
def Tb.put {α : Type} : List (Nat × α) → Nat → α → List (Nat × α)
  | [], k, v => [(k, v)]
  | (j, w) :: t, k, v =>
    if j = k then (k, v) :: t else if k < j then (k, v) :: (j, w) :: t else (j, w) :: Tb.put t k v

/-- Remove the entry of key `k`. -/
def Tb.erase {α : Type} (m : List (Nat × α)) (k : Nat) : List (Nat × α) := m.filter (fun e => decide (e.1 ≠ k))

/-- Read a table whose unlisted keys hold `d`. -/
def Tb.get {α : Type} (d : α) (m : List (Nat × α)) (k : Nat) : α := (Tb.get? m k).getD d

/-- Write a table whose unlisted keys hold `d`: writing `d` removes the entry. -/
def Tb.set {α : Type} [DecidableEq α] (d : α) (m : List (Nat × α)) (k : Nat) (v : α) : List (Nat × α) :=
  if v = d then Tb.erase m k else Tb.put m k v

/-- Keys rise strictly. -/
def Tb.sorted {α : Type} : List (Nat × α) → Bool
  | [] => true
  | [_] => true
  | (j, _) :: (k, w) :: t => decide (j < k) && Tb.sorted ((k, w) :: t)

/-- The canonical form: keys rise strictly and no entry holds the value of an unlisted key. -/
def Tb.wf {α : Type} [DecidableEq α] (d : α) (m : List (Nat × α)) : Bool :=
  Tb.sorted m && m.all (fun e => decide (e.2 ≠ d))

/-- Apply a change to the entry of key `k`, where there is one. -/
def Tb.modify {α : Type} : List (Nat × α) → Nat → (α → α) → List (Nat × α)
  | [], _, _ => []
  | (j, v) :: t, k, f => if j = k then (j, f v) :: t else (j, v) :: Tb.modify t k f

end Sys2Proof.Machine
end

