-- ==== Sys2Proof/Machine/Bits.lean ====
section
/-! DEFINITION. Bit fields, sign extension, byte order, lanes of a mask. -/

namespace Sys2Proof.Machine

/-- Bits [hi:lo] of a number (R8). -/
def bits (x hi lo : Nat) : Nat := (x >>> lo) % 2 ^ (hi + 1 - lo)

/-- One bit as a number. -/
def b2n (b : Bool) : Nat := if b then 1 else 0

/-- The lanes of a mask in ascending order. -/
def lanesOf (m : Mask) : List Nat := (List.range 64).filter (fun l => m.getLsbD l)

/-- The mask of a list of lanes. -/
def maskOf (ls : List Nat) : Mask := ls.foldl (fun m l => m ||| ((1 : Mask) <<< l)) 0

/-- The mask of positions 0 to w - 1. -/
def fullMask (w : Nat) : Mask := BitVec.ofNat 64 (2 ^ w - 1)

/-- The n bytes of a number, least significant first (R8). -/
def toBytes : Nat → Nat → List Byte
  | 0, _ => []
  | n + 1, x => BitVec.ofNat 8 x :: toBytes n (x / 256)

/-- The number whose bytes these are, least significant first (R8). -/
def ofBytes : List Byte → Nat
  | [] => 0
  | b :: t => b.toNat + 256 * ofBytes t

/-- A number of w bits read as two's complement. -/
def signed (w x : Nat) : Int := if x < 2 ^ (w - 1) then (x : Int) else (x : Int) - (2 : Int) ^ w

/-- The w low bits of an integer. -/
def wrap (w : Nat) (x : Int) : Nat := (x % ((2 : Int) ^ w)).toNat

/-- Round up to a multiple. -/
def alignUp (x a : Nat) : Nat := (x + a - 1) / a * a

/-- The largest of a list of numbers, at least 0. -/
def maxList (l : List Nat) : Nat := l.foldl max 0

/-- The larger of two bounds: bounds compare as unsigned integers (R96). -/
def ebMax (a b : EB) : EB := if a.toNat < b.toNat then b else a

/-- The largest of a list of bounds. -/
def ebMaxL (l : List EB) : EB := l.foldl ebMax 0

/-- The first element that satisfies a test, with its index. -/
def findIdx {α : Type} (p : α → Bool) : List α → Nat → Option (Nat × α)
  | [], _ => none
  | x :: t, n => if p x then some (n, x) else findIdx p t (n + 1)

/-- CRC-32C (Castagnoli, R396), reflected, over bytes. -/
def crc32cStep (c : Nat) : Nat := if c % 2 = 1 then (c / 2) ^^^ 0x82F63B78 else c / 2
def crc32cByte (c : Nat) (b : Byte) : Nat :=
  let x := c ^^^ b.toNat
  crc32cStep (crc32cStep (crc32cStep (crc32cStep (crc32cStep (crc32cStep (crc32cStep (crc32cStep x)))))))
def crc32c (bs : List Byte) : Nat := (bs.foldl crc32cByte 0xFFFFFFFF) ^^^ 0xFFFFFFFF

/-- The packet of a PC (R11). -/
def packetOf (pc : PC) : Nat := pc.toNat / 4
/-- The slot of a PC (R11). -/
def slotOf (pc : PC) : Nat := pc.toNat % 4
/-- The PC of packet.slot; packets wrap modulo 2^46 (R60). -/
def mkPc (packet : Int) (slot : Nat) : PC := BitVec.ofNat 48 (wrap 46 packet * 4 + slot)
/-- The PC that follows in sequence (R60). -/
def nextPc (pc : PC) : PC := if slotOf pc < 2 then mkPc (packetOf pc) (slotOf pc + 1) else mkPc (packetOf pc + 1) 0
/-- The PC after n more words than the next. -/
def pcAfter : Nat → PC → PC
  | 0, pc => nextPc pc
  | n + 1, pc => pcAfter n (nextPc pc)
/-- The byte address of an instruction word (R11). -/
def wordVa (base : Nat) (pc : PC) : Nat := base + 12 * packetOf pc + 4 * slotOf pc

end Sys2Proof.Machine
end

