-- ==== Sys2Proof/Machine/Num.lean ====
section
/-! DEFINITION. Number formats (R71 to R79), rounding (R77), EB16 bounds (R96 to R98). Values are exact: a sign with
n / d × 2^e for naturals n, d and an integer e. -/

namespace Sys2Proof

/-! ### Formats -/

/-- Fraction bits (Table 3-1); for integer formats, 0. -/
def Fmt.m : Fmt → Nat
  | .f32 => 23 | .f16 => 10 | .bf16 => 7 | .e4m3 => 3 | .e5m2 => 2 | _ => 0
/-- Exponent bits. -/
def Fmt.eb : Fmt → Nat
  | .f32 => 8 | .f16 => 5 | .bf16 => 8 | .e4m3 => 4 | .e5m2 => 5 | _ => 0
/-- Exponent bias. -/
def Fmt.bias : Fmt → Int
  | .f32 => 127 | .f16 => 15 | .bf16 => 127 | .e4m3 => 7 | .e5m2 => 15 | _ => 0
/-- Element bits (Table 7-10). -/
def Fmt.width : Fmt → Nat
  | .f32 => 32 | .f16 => 16 | .bf16 => 16 | .e4m3 => 8 | .e5m2 => 8 | .i32 => 32 | .i8 => 8 | .i4 => 4
def Fmt.isFloat : Fmt → Bool
  | .i32 => false | .i8 => false | .i4 => false | _ => true
/-- Encoding of the largest finite value. -/
def Fmt.maxEnc : Fmt → Nat
  | .f32 => 0x7F7FFFFF | .f16 => 0x7BFF | .bf16 => 0x7F7F | .e4m3 => 0x7E | .e5m2 => 0x7B | _ => 0
/-- Encoding of +infinity; E4M3 has none (R77). -/
def Fmt.infEnc : Fmt → Nat
  | .f32 => 0x7F800000 | .f16 => 0x7C00 | .bf16 => 0x7F80 | .e4m3 => 0x7E | .e5m2 => 0x7C | _ => 0
/-- Canonical NaN (Table 3-1). -/
def Fmt.nan : Fmt → Nat
  | .f32 => 0x7FC00000 | .f16 => 0x7E00 | .bf16 => 0x7FC0 | .e4m3 => 0x7F | .e5m2 => 0x7E | _ => 0

end Sys2Proof

namespace Sys2Proof.Machine

def fSign (f : Fmt) (x : Nat) : Bool := x.testBit (f.width - 1)
def fExp (f : Fmt) (x : Nat) : Nat := (x >>> f.m) % 2 ^ f.eb
def fFrac (f : Fmt) (x : Nat) : Nat := x % 2 ^ f.m
def fMag (f : Fmt) (x : Nat) : Nat := x % 2 ^ (f.width - 1)
/-- NaN test (Table 3-1). -/
def isNaN (f : Fmt) (x : Nat) : Bool :=
  match f with
  | .e4m3 => fMag f x == 0x7F
  | _ => f.isFloat && decide (fMag f x > f.infEnc)
/-- Infinity test (Table 3-1). -/
def isInf (f : Fmt) (x : Nat) : Bool :=
  match f with
  | .e4m3 => false
  | _ => f.isFloat && fMag f x == f.infEnc
def isZero (f : Fmt) (x : Nat) : Bool := fMag f x == 0

/-- An exact dyadic real: sign, magnitude n × 2^e. -/
structure Ex where
  neg : Bool
  n : Nat
  e : Int
  deriving DecidableEq, Repr

/-- fp_decode of R72. -/
def fpDecode (f : Fmt) (x : Nat) : Ex :=
  if fExp f x = 0 then ⟨fSign f x, fFrac f x, 1 - f.bias - f.m⟩
  else ⟨fSign f x, 2 ^ f.m + fFrac f x, (fExp f x : Int) - f.bias - f.m⟩

/-- The unbiased exponent of a finite value, -126 (1 - bias) for zero and subnormals (R88, R89). -/
def fpExp (f : Fmt) (x : Nat) : Int := if fExp f x = 0 then 1 - f.bias else (fExp f x : Int) - f.bias

def Ex.neg' (x : Ex) : Ex := ⟨!x.neg, x.n, x.e⟩
/-- Exact product; the sign of a zero is the exclusive OR (R74). -/
def Ex.mul (x y : Ex) : Ex := ⟨x.neg != y.neg, x.n * y.n, x.e + y.e⟩
/-- The signed integer x × 2^(-e), for e at most the exponent of x. -/
def Ex.toInt (x : Ex) (e : Int) : Int :=
  let m : Int := (x.n <<< (x.e - e).toNat : Nat)
  if x.neg then -m else m
/-- Exact sum; an exact zero of opposite signs is +0, two zeros of one sign keep it (R74, modes other than RM). -/
def Ex.add (x y : Ex) : Ex :=
  let e := if x.e ≤ y.e then x.e else y.e
  let s := x.toInt e + y.toInt e
  if s = 0 then ⟨x.neg && y.neg, 0, e⟩ else ⟨decide (s < 0), s.natAbs, e⟩
/-- Comparison of values: x < y. -/
def Ex.lt (x y : Ex) : Bool :=
  let e := if x.e ≤ y.e then x.e else y.e
  decide (x.toInt e < y.toInt e)
def Ex.eqv (x y : Ex) : Bool :=
  let e := if x.e ≤ y.e then x.e else y.e
  decide (x.toInt e = y.toInt e)

/-! ### Rounding -/

/-- floor(log2 (n / d)), for n and d above 0. -/
def log2Q (n d : Nat) : Int :=
  let t : Int := (n.log2 : Int) - d.log2
  if 0 ≤ t then (if d <<< t.toNat ≤ n then t else t - 1) else (if d ≤ n <<< (-t).toNat then t else t - 1)

/-- Quotient, remainder and divisor of n / d × 2^e. -/
def scaleQ (n d : Nat) (e : Int) : Nat × Nat × Nat :=
  let num := if 0 ≤ e then n <<< e.toNat else n
  let den := if 0 ≤ e then d else d <<< (-e).toNat
  (num / den, num % den, den)

/-- Whether a magnitude c + r / den is rounded up (Table 3-2). -/
def roundUp (mode : Rnd) (neg : Bool) (c r den : Nat) : Bool :=
  match mode with
  | .rn => decide (den < 2 * r) || (decide (2 * r = den) && decide (c % 2 = 1))
  | .rz => false
  | .rp => !neg && decide (r ≠ 0)
  | .rm => neg && decide (r ≠ 0)

/-- A rounded value: its bits with sign, and the conditions of R77 and Table 3-3. -/
structure Rounded where
  bits : Nat
  nx : Bool
  ovf : Bool
  uf : Bool
  deriving DecidableEq, Repr

/-- fp_round of R77 for a nonzero or zero magnitude n / d × 2^e with a sign. `sat` gives the largest finite value on
overflow (Table 3-4). -/
def fpRound (f : Fmt) (mode : Rnd) (sat : Bool) (neg : Bool) (n d : Nat) (e : Int) : Rounded :=
  let s := if neg then 2 ^ (f.width - 1) else 0
  if n = 0 then ⟨s, false, false, false⟩
  else
    let k := log2Q n d + e
    let k' := if k < 1 - f.bias then 1 - f.bias else k
    let (c, r, den) := scaleQ n d (e - (k' - f.m))
    let c' := if roundUp mode neg c r den then c + 1 else c
    let enc : Nat := if k < 1 - f.bias then c' else ((k + f.bias - 1).toNat <<< f.m) + c'
    if f.maxEnc < enc then
      let big := match mode with
        | .rn => f.infEnc
        | .rz => f.maxEnc
        | .rp => if neg then f.maxEnc else f.infEnc
        | .rm => if neg then f.infEnc else f.maxEnc
      ⟨s + (if sat then f.maxEnc else big), true, true, false⟩
    else ⟨s + enc, decide (r ≠ 0), false, decide (r ≠ 0) && decide (enc ≠ 0) && decide (enc < 2 ^ f.m)⟩

/-- fp_round of an exact dyadic value. -/
def fpRoundEx (f : Fmt) (mode : Rnd) (x : Ex) : Rounded := fpRound f mode false x.neg x.n 1 x.e

/-- The result step of SHORT and LEAN (R89): magnitude truncated toward zero with fraction bits [7:0] cleared. -/
def fpShort (x : Ex) : Rounded :=
  let s := if x.neg then 0x80000000 else 0
  if x.n = 0 then ⟨s, false, false, false⟩
  else
    let k := log2Q x.n 1 + x.e
    let k' := if k < -126 then -126 else k
    let (c, r, _) := scaleQ x.n 1 (x.e - (k' - 15))
    if 128 ≤ k then ⟨s + 0x7F800000, true, true, false⟩
    else
      let enc : Nat := if k < -126 then c <<< 8 else ((k + 126).toNat <<< 23) + (c <<< 8)
      ⟨s + enc, decide (r ≠ 0), false, decide (r ≠ 0) && decide (enc ≠ 0) && decide (enc < 2 ^ 23)⟩

/-! ### EB16 bounds (R96 to R98) -/

/-- The unbounded encoding. -/
def ebInf : EB := 0xFF00
/-- The poison encoding. -/
def ebPoison : EB := 0xFFFF
/-- A bound that is unbounded, reserved or poison. -/
def ebBig (e : EB) : Bool := decide (0xFF00 ≤ e.toNat)
/-- eb_value of a finite bound, in units of 2^-157. -/
def ebNat (e : EB) : Nat :=
  let x := e.toNat
  if x < 256 then x else (256 + x % 256) <<< (x / 256 - 1)
/-- eb_up of a value in units of 2^-157. -/
def ebUpNat (x : Nat) : EB :=
  let s := x.log2 - 8
  let c := (x + 2 ^ s - 1) / 2 ^ s
  let enc := s * 256 + c
  if 0xFEFF < enc then ebInf else BitVec.ofNat 16 enc
/-- eb_up of n / d × 2^e. -/
def ebUpQ (n d : Nat) (e : Int) : EB :=
  let (q, r, _) := scaleQ n d (e + 157)
  ebUpNat (if r = 0 then q else q + 1)
/-- eb_up of 2^e. -/
def ebUp2 (e : Int) : EB := ebUpQ 1 1 e
/-- eb_add. -/
def ebAdd (a b : EB) : EB := if ebBig a || ebBig b then ebInf else ebUpNat (ebNat a + ebNat b)
/-- eb_mul_mag for a magnitude n × 2^e. -/
def ebMulMag (n : Nat) (e : Int) (b : EB) : EB :=
  if n = 0 ∨ b = 0 then 0 else if ebBig b then ebInf else ebUpQ (n * ebNat b) 1 (e - 157)
/-- eb_mul_mag where the magnitude is eb_value of a bound. -/
def ebMulEb (a b : EB) : EB :=
  if a = 0 ∨ b = 0 then 0 else if ebBig a || ebBig b then ebInf else ebUpQ (ebNat a * ebNat b) 1 (-314)
/-- eb_mul for values |a| = na × 2^xa and |b| = nb × 2^xb. -/
def ebMul (na : Nat) (xa : Int) (ea : EB) (nb : Nat) (xb : Int) (eb : EB) : EB :=
  ebAdd (ebAdd (ebMulMag na xa eb) (ebMulMag nb xb ea)) (ebMulEb ea eb)
/-- A bound read from memory or a tile: reserved encodings are unbounded (R96). -/
def ebRead (e : EB) : EB := if e = ebPoison then e else if ebBig e then ebInf else e
/-- A bound fits a budget (R97). -/
def ebFits (e u : EB) : Bool := decide (e.toNat < 0xFF00) && (decide (u = 0xFF00) || decide (e.toNat ≤ u.toNat))

/-- The exponent of ulp_of(y, fmt) (R98), y given by its magnitude bits. -/
def ulpExp (f : Fmt) (y : Nat) : Int := fpExp f y - f.m
/-- rho_full. -/
def rhoFull (f : Fmt) (y : Nat) (nx : Bool) : EB := if nx then ebUp2 (ulpExp f y - 1) else 0
/-- rho_conv; ulp is 1 for an integer destination. -/
def rhoConv (f : Fmt) (mode : Rnd) (y : Nat) (nx : Bool) : EB :=
  if !nx then 0
  else
    let u : Int := if f.isFloat then ulpExp f y else 0
    ebUp2 (if mode = .rn then u - 1 else u)
/-- rho_short. -/
def rhoShort (ey : Int) (nx : Bool) : EB := if nx then ebUp2 (ey - 15) else 0
/-- The sum 1,793 × 2^(ea + eb - 46), when an omitted bit was 1, plus 2^x, when nx: rho_trunc and rho_lean. -/
def rhoTwo (eab : Int) (om : Bool) (x : Int) (nx : Bool) : EB :=
  let a := eab - 46
  let lo := if a ≤ x then a else x
  ebUpQ ((if om then 1793 <<< (a - lo).toNat else 0) + (if nx then 1 <<< (x - lo).toNat else 0)) 1 lo

end Sys2Proof.Machine
end

