-- ==== Sys2Proof/WellFormed.lean ====
section
/-! DEFINITION. Which instructions have legal fields, whatever the state (R171, R173, R177 check 5): pairs and quads
(R47, R224, R234), widths, formats, ids. A v register at or above the launch's regs is a check on the state (R20). -/

namespace Sys2Proof

/-- The register is even: it can name a pair (R47). -/
def evenReg (r : Reg) : Bool := r.getLsbD 0 == false
/-- The register is a multiple of 4: it can name a quad (R224). -/
def quadReg (r : Reg) : Bool := evenReg r && r.getLsbD 1 == false

/-- A data register field fits an access width (R224). -/
def dataOk (d : Reg) : Width → Bool
  | .d => evenReg d
  | .q => quadReg d
  | _ => true

/-- Widths of GATH, GATHS and SCAT (R223). -/
def gatherWidth (wd : Width) : Bool := decide (wd ≠ .q)
/-- Widths of LDT and STT (R233). -/
def tileWidth (wd : Width) : Bool := decide (wd ≠ .q)
/-- Widths .w and .d of the atomics (R234). -/
def atomWidth (wd : Width) : Bool := decide (wd = .w) || decide (wd = .d)

/-- Element bits of a format (Table 7-10). -/
def fmtBits : Fmt → Nat
  | .f32 => 32 | .f16 => 16 | .bf16 => 16 | .e4m3 => 8 | .e5m2 => 8 | .i32 => 32 | .i8 => 8 | .i4 => 4

/-- Formats for which .sat is legal (R212, R213). -/
def satFmt (f : Fmt) : Bool := decide (f = .f16) || decide (f = .bf16) || decide (f = .e5m2)
/-- The conversion pairs of R212. -/
def cvtPair (src dst : Fmt) : Bool :=
  decide (src ≠ dst) &&
  !(decide (src = .i8) && (decide (dst = .e4m3) || decide (dst = .e5m2) || decide (dst = .i4))) &&
  !(decide (src = .i4) && decide (dst = .i8))
def cvtOk (src dst : Fmt) (sat : Bool) : Bool := cvtPair src dst && (!sat || satFmt dst)
/-- Formats that PKN and UNPKN accept (R213, R214). -/
def packFmt (f : Fmt) : Bool := decide (f ≠ .f32) && decide (f ≠ .i32)

/-- Every field of the instruction holds a value that its entry accepts. -/
def Instr.wellFormed : Instr → Bool
  | .vmad d _ _ wide => !wide || evenReg d
  | .cvt _ _ src dst _ sat => cvtOk src dst sat
  | .pkn _ _ _ f sat => packFmt f && (!sat || satFmt f)
  | .unpkn _ _ f i => packFmt f && decide (i.toNat < 32 / fmtBits f)
  | .brx a => evenReg a
  | .ret r => evenReg r
  | .item _ r _ _ => evenReg r
  | .ld d _ _ wd _ => dataOk d wd
  | .lds d _ _ wd _ => dataOk d wd
  | .st d _ _ wd _ => dataOk d wd
  | .gath d _ _ wd _ => gatherWidth wd && dataOk d wd
  | .gaths d _ _ wd _ => gatherWidth wd && dataOk d wd
  | .scat d _ _ wd _ => gatherWidth wd && dataOk d wd
  | .ldt d _ _ wd => tileWidth wd && dataOk d wd
  | .stt d _ _ wd => tileWidth wd && dataOk d wd
  | .aadd d _ _ wd _ => atomWidth wd && dataOk d wd
  | .amin d _ _ wd _ => atomWidth wd && dataOk d wd
  | .amax d _ _ wd _ => atomWidth wd && dataOk d wd
  | .aand d _ _ wd _ => atomWidth wd && dataOk d wd
  | .aor d _ _ wd _ => atomWidth wd && dataOk d wd
  | .axor d _ _ wd _ => atomWidth wd && dataOk d wd
  | .axch d _ _ wd _ => atomWidth wd && dataOk d wd
  | .acas d _ _ wd _ => atomWidth wd && (if wd = .w then evenReg d else quadReg d)
  | .afadd _ _ _ wd _ => decide (wd = .w)
  | .axadd _ _ _ wd _ => atomWidth wd
  | .axrd _ _ _ wd _ => decide (wd = .w)
  | .dqpush _ a => evenReg a
  | .dqpop d _ => evenReg d
  | .dqsteal d _ _ => evenReg d
  | .bndminCl _ b => evenReg b
  | .bndminDev _ b => evenReg b
  | .bndrd d _ => evenReg d
  | .tdesc _ v => evenReg v
  | .enter i => decide (i ≠ 0)
  | .leave i => decide (i.toNat < 4096)
  | .frqpop d => quadReg d
  | .ptest _ a m => decide (m ≠ .p) || decide (a.toNat < 8)
  | .pcode _ a m => decide (m ≠ .p) || decide (a.toNat < 8)
  | .ssrP _ r => decide (r.toNat < 8)
  | .ssrV _ r => evenReg r
  | _ => true

/-- The instruction has a word of its own: one of the 187 encoded rows of the opcode table. -/
def Instr.encoded : Instr → Bool
  | .resultReturn .. | .atomicApply .. | .requestRetry .. | .taskStart .. | .taskFinish .. | .preqRequest ..
  | .preEmptionDeadline .. | .stopDeadline .. | .cycleTimerFire .. | .wallAlarmFire .. | .retentionEntry ..
  | .retentionExit .. | .watchCopyUpdate .. | .invalidationReceive .. | .invalidationAck .. | .dispatch .. | .retire ..
  | .teamSave .. | .lineaddrWrite .. | .lineNotify .. | .launchAdmit .. | .launchFinish .. | .nopCommand ..
  | .lineCreate .. | .lineDestroy .. | .procConfig .. | .invalidate .. | .stopRequest .. | .resume .. | .killCommand ..
  | .saveLaunch .. | .restoreLaunch .. | .journalCopy .. | .event .. | .funcConfig .. | .ctxArea .. | .carve ..
  | .poolAdd .. | .migrate .. | .split .. | .vector .. | .power .. | .load .. | .counters .. | .read .. | .sample ..
  | .quote .. | .identity .. | .clear .. | .unknownCommandOpcode .. | .slice .. | .virtualTimeAdd | .clusterGate ..
  | .weirSample .. | .vfStepEnd .. | .sprintLimit .. | .coolDownEnd .. | .grant .. | .grantExpiry .. | .sensorFault
  | .thermalLimit .. | .thermalStep .. | .thermalShutdown .. | .reset | .pcSample .. | .energySplit .. | .rasError ..
  | .correctedErrorMerge .. | .illegalEncoding .. | .fetchFault .. | .storeReachesHome ..
  | .hostManagedDeviceMemoryAccess .. | .gatingSequenceEnd .. | .clusterWakeEnd .. | .retentionEntryEnd .. => false
  | _ => true

end Sys2Proof
end

