-- ==== Sys2Proof/Machine/Operands.lean ====
section
/-! DEFINITION. Operand forms: which registers an instruction names (R169, R173, R180), pipes and chain ends (Table 6-3, R169),
privilege (R178), and what is illegal in supervisor mode (R319). -/

namespace Sys2Proof.Machine

def rv (r : Reg) : Ref := (.v, r.toNat)
def rs (r : Reg) : Ref := (.s, r.toNat)
def rp (n : BitVec 3) : Ref := (.p, n.toNat)
def rb (n : BitVec 3) : Ref := (.b, n.toNat)
def rk (n : BitVec 3) : Ref := (.k, n.toNat)
def rd (n : BitVec 4) : Ref := (.d, n.toNat)
/-- The pair at an even register (R47). -/
def rpair (r : Reg) : List Ref := [(.v, r.toNat), (.v, r.toNat + 1)]
/-- The quad of a 128-bit access (R224). -/
def rquad (r : Reg) : List Ref := [(.v, r.toNat), (.v, r.toNat + 1), (.v, r.toNat + 2), (.v, r.toNat + 3)]

/-- Data registers of a memory access (R224). -/
def dataRefs (d : Reg) : Width → List Ref
  | .d => rpair d
  | .q => rquad d
  | _ => [rv d]

/-- Operand registers of ACAS (R234): expected, then new. -/
def casRefs (d : Reg) (wd : Width) : List Ref := if wd = .d then rquad d else rpair d

def allKnots : List Ref := [(.k, 0), (.k, 1), (.k, 2), (.k, 3), (.k, 4), (.k, 5), (.k, 6), (.k, 7)]

/-- Source registers, accumulators included. -/
def reads : Instr → List Ref
  | .smov _ a => [rs a] | .smovi .. => [] | .smovh d _ => [rs d]
  | .sadd _ a b | .ssub _ a b | .smul _ a b | .smulh _ a b _ | .sand _ a b | .sor _ a b | .sxor _ a b | .sshl _ a b
  | .sshr _ a b | .ssra _ a b | .smin _ a b _ | .smax _ a b _ | .slea _ a b _ => [rs a, rs b]
  | .saddi _ a _ => [rs a]
  | .scmp _ a b _ => [rs a, rs b]
  | .ssel _ a b n _ => [rp n, rs a, rs b]
  | .spopc _ a | .sclz _ a => [rs a]
  | .slane _ a b _ => [rs b, rv a]
  | .srsr .. => [] | .swsr _ r => [rs r]
  | .vadd _ a b | .vsub _ a b | .vmul _ a b | .vmulh _ a b _ | .vmin _ a b _ | .vmax _ a b _ | .vand _ a b | .vor _ a b
  | .vxor _ a b | .vshl _ a b | .vshr _ a b | .vsra _ a b => [rv a, rv b]
  | .vaddi _ a _ => [rv a]
  | .vmad d a b wide => [rv a, rv b] ++ (if wide then rpair d else [rv d])
  | .vdp4 d a b _ => [rv a, rv b, rv d]
  | .vabs _ a _ => [rv a]
  | .vlop3 d a b n => [rv a, rv b, rv d, (.s, n.toNat)]
  | .vfshl _ a b n | .vfshr _ a b n => [rv a, rv b, (.s, n.toNat)]
  | .vpopc _ a | .vclz _ a | .vbrev _ a | .vmov _ a => [rv a]
  | .vcmp _ a b _ => [rv a, rv b]
  | .vsel _ a b n _ => [rp n, rv a, rv b]
  | .vmovi .. => [] | .vbcst _ a _ => [rs a] | .vshfl _ a b _ => [rv b, rv a] | .vred _ a _ => [rv a] | .vlane .. => []
  | .fadd _ a b _ | .fsub _ a b _ | .fmul _ a b _ | .fmin _ a b | .fmax _ a b | .fscale _ a b | .fhadd _ a b _ _
  | .fhmul _ a b _ _ | .fsetb _ a b => [rv a, rv b]
  | .ffma d a b _ | .ffms d a b _ | .fsacc d a b _ | .fhfma d a b _ _ => [rv a, rv b, rv d]
  | .fcmp _ a b _ => [rv a, rv b]
  | .fclass _ a | .frnd _ a _ | .fbnd _ a | .fclrb _ a => [rv a]
  | .cvt _ a _ _ _ _ | .unpkn _ a _ _ | .frcp _ a _ | .frsq _ a _ | .fex2 _ a _ | .flg2 _ a _ | .fsin _ a _
  | .fcos _ a _ => [rv a]
  | .pkn d a b f _ => [rv a, rv b] ++ (if fmtBits f < 16 then [rv d] else [])
  | .bra .. | .call .. | .yield | .nop | .trapu .. => []
  | .brc p _ _ _ => [rp p]
  | .brx a => rpair a | .brxU a => [rs a] | .ret r => rpair r
  | .enrol k | .rejoin k | .strike k | .item k _ _ _ => [rk k]
  | .exit => allKnots
  | .ld _ b o _ _ | .lds _ b o _ _ | .gath _ b o _ _ | .gaths _ b o _ _ => [rv o, rb b]
  | .st d b o wd _ | .scat d b o wd _ => [rv o, rb b] ++ dataRefs d wd
  | .ldu _ b _ | .ldus _ b _ => [rb b] | .stu d b _ => [rb b, rs d]
  | .ldt _ a b _ => [rv a, rs b] | .stt d a b wd => [rv a, rs b] ++ dataRefs d wd
  | .bxlt d _ => [rs d] | .pref _ b o => [rv o, rb b]
  | .aadd d b o wd _ | .amin d b o wd _ | .amax d b o wd _ | .aand d b o wd _ | .aor d b o wd _ | .axor d b o wd _
  | .axch d b o wd _ => [rv o, rb b] ++ dataRefs d wd
  | .acas d b o wd _ => [rv o, rb b] ++ casRefs d wd
  | .afadd d b o _ _ | .axadd d b o _ _ => [rv o, rb b, rv d]
  | .axrd _ b o _ _ => [rv o, rb b]
  | .bari a _ => [rs a] | .barw a _ => [rv a] | .baraw .. | .bard .. | .bardDrop .. => []
  | .dqpush _ a => rpair a | .dqpop .. => [] | .dqsteal _ a _ => [rs a]
  | .bndminCl a b | .bndminDev a b => [rs a] ++ rpair b
  | .bndrd _ a | .waitb a => [rs a] | .batch | .fence .. | .ifence => []
  | .mma a b e _ _ => [rd a, rd b, rd e] | .mmag a b e v _ _ => [rd a, rd b, rd e, rv v]
  | .tcopy a e _ | .tconv a e _ _ => [rd a, rd e] | .tfill e v => [rd e, rs v]
  | .tscaleExp a e v | .tscaleAcc a e v _ => [rd a, rd e, rs v]
  | .tscaleAccr a b e _ | .tscaleAccc a b e _ => [rd a, rd b, rd e]
  | .tgive e | .ttake e => [rd e]
  | .tdesc _ v => [rs v, (.s, v.toNat + 1)] | .tsetd e v _ => [rd e, rs v]
  | .chk a => [rv a] | .chkTwoRegisters a b => [rv a, rv b] | .chkU a => [rs a] | .chkp p _ => [rp p]
  | .ptest _ a m =>
    match m with
    | .plain | .bud => [rv a] | .p => [(.p, a.toNat)] | .u | .ubud => [rs a]
  | .pcode _ a m =>
    match m with
    | .plain => [rv a] | .p => [(.p, a.toNat)] | .u => [rs a]
  | .pset _ n _ => [rp n]
  | .timer a _ => [rs a]
  | .rqrd _ a _ | .rqrdV _ a _ => [rs a] | .rqwr a b _ => [rs a, rs b] | .rqwrV a b _ => [rs a, rv b]
  | .tlbinvRange a b | .tlbinvTag a b | .tlbinvAll a b => [rs a, rs b]
  | .ctxsv a | .ctxrs a | .kill a => [rs a]
  | .dbgset d a b _ => [rs a, rs b, rs d]
  | .ssw _ r => [rs r] | .sswV _ r => [rv r]
  | _ => []

/-- Destination registers in a launch of `regs` registers (R169). -/
def writes (regs : Nat) : Instr → List Ref
  | .smov d _ | .smovi d _ | .smovh d _ | .sadd d _ _ | .saddi d _ _ | .ssub d _ _ | .smul d _ _ | .smulh d _ _ _
  | .sand d _ _ | .sor d _ _ | .sxor d _ _ | .sshl d _ _ | .sshr d _ _ | .ssra d _ _ | .smin d _ _ _ | .smax d _ _ _
  | .ssel d _ _ _ _ | .spopc d _ | .sclz d _ | .slea d _ _ _ | .slane d _ _ _ => [rs d]
  | .scmp p _ _ _ | .vcmp p _ _ _ | .fcmp p _ _ _ => [rp p]
  | .srsr _ r => [rs r]
  | .vadd d _ _ | .vaddi d _ _ | .vsub d _ _ | .vmul d _ _ | .vmulh d _ _ _ | .vdp4 d _ _ _ | .vmin d _ _ _
  | .vmax d _ _ _ | .vabs d _ _ | .vand d _ _ | .vor d _ _ | .vxor d _ _ | .vlop3 d _ _ _ | .vshl d _ _ | .vshr d _ _
  | .vsra d _ _ | .vfshl d _ _ _ | .vfshr d _ _ _ | .vpopc d _ | .vclz d _ | .vbrev d _ | .vsel d _ _ _ _ | .vmov d _
  | .vmovi d _ | .vbcst d _ _ | .vshfl d _ _ _ | .vred d _ _ | .vlane d _ => [rv d]
  | .vmad d _ _ wide => if wide then rpair d else [rv d]
  | .fadd d _ _ _ | .fsub d _ _ _ | .fmul d _ _ _ | .ffma d _ _ _ | .ffms d _ _ _ | .fmin d _ _ | .fmax d _ _
  | .fclass d _ | .fscale d _ _ | .fsacc d _ _ _ | .frnd d _ _ | .fhadd d _ _ _ _ | .fhmul d _ _ _ _ | .fhfma d _ _ _ _
  | .fbnd d _ | .fsetb d _ _ | .fclrb d _ | .cvt d _ _ _ _ _ | .pkn d _ _ _ _ | .unpkn d _ _ _ | .frcp d _ _
  | .frsq d _ _ | .fex2 d _ _ | .flg2 d _ _ | .fsin d _ _ | .fcos d _ _ => [rv d]
  | .call _ _ => [(.v, regs - 2), (.v, regs - 1)]
  | .item _ r _ _ => rpair r
  | .enrol k | .rejoin k | .strike k => [rk k]
  | .ld d _ _ wd _ | .lds d _ _ wd _ | .gath d _ _ wd _ | .gaths d _ _ wd _ | .ldt d _ _ wd => dataRefs d wd
  | .ldu d _ _ | .ldus d _ _ => [rs d]
  | .bxlt _ b => [rb b]
  | .aadd d _ _ wd _ | .amin d _ _ wd _ | .amax d _ _ wd _ | .aand d _ _ wd _ | .aor d _ _ wd _ | .axor d _ _ wd _
  | .axch d _ _ wd _ => dataRefs d wd
  | .acas d _ _ wd _ => casRefs d wd
  | .afadd d _ _ _ _ | .axrd d _ _ _ _ => [rv d]
  | .baraw d _ | .bard d _ => [rv d]
  | .dqpush p _ => [rp p]
  | .dqpop d p | .dqsteal d _ p => rpair d ++ [rp p]
  | .bndrd d _ => rpair d
  | .tdesc e _ | .tsetd e _ _ => [rd e]
  | .ptest p _ _ => [rp p]
  | .pcode d _ m => if m = .u then [rs d] else [rv d]
  | .pset d _ _ => [rv d]
  | .ebrd d | .clock d | .wall d => [rs d]
  | .clockV d | .wallV d => [rv d]
  | .timerPoll p _ => [rp p]
  | .rqrd d _ _ => [rs d] | .rqrdV d _ _ => [rv d]
  | .frqpop d => [(.s, d.toNat), (.s, d.toNat + 1), (.s, d.toNat + 2), (.s, d.toNat + 3)]
  | .ssr _ r => [rs r] | .ssrV _ r => rpair r | .ssrP _ r => [(.p, r.toNat % 8)]
  | _ => []

/-- The destinations that count in a chain (R169): the registers that CTXRS loads and p7, which it writes, count as implicit ones
(DEDUCED, log entry 29). s56 to s63 and b7 take no part: the values loaded for them are the user's, and stand in the bank (R318). -/
def chainWrites (regs : Nat) : Instr → List Ref
  | .ctxrs _ =>
    (List.range regs).map (fun n => (RegClass.v, n)) ++ (List.range 56).map (fun n => (.s, n)) ++
    ((List.range 7).map (fun n => (.p, n + 1)) ++ (List.range 7).map (fun n => (.b, n)) ++ (List.range 16).map (fun n => (.d, n)))
  | i => (writes regs i).filter (fun r => decide (r.1 ≠ .k))

/-- The instructions whose results are not interlocked (R179). -/
def variableLatency : Instr → Bool
  | .ld .. | .lds .. | .ldu .. | .ldus .. | .gath .. | .gaths .. | .ldt .. | .bxlt .. | .aadd .. | .amin .. | .amax ..
  | .aand .. | .aor .. | .axor .. | .axch .. | .acas .. | .afadd .. | .axrd .. | .item .. | .dqpop .. | .dqsteal ..
  | .bndrd .. | .wall .. | .wallV .. | .rqrd .. | .rqrdV .. | .frqpop .. => true
  | _ => false

/-- Some v register that the instruction names does not exist (R20). -/
def beyondRegs (regs : Nat) (i : Instr) : Bool :=
  (reads i ++ writes regs i).any (fun r => decide (r.1 = .v) && decide (regs ≤ r.2))

/-- Illegal in supervisor mode (R319). -/
def svIllegal : Instr → Bool
  | .enrol .. | .rejoin .. | .strike .. | .item .. | .yield | .exit | .trapu .. | .enter .. | .leave .. | .bari ..
  | .barw .. | .baraw .. | .bard .. | .bardDrop .. => true
  | _ => false

/-- A word that only supervisor mode may issue (R178). -/
def privWord (w : Word) : Bool :=
  let opc := (w.extractLsb' 22 8).toNat
  (decide (0xE0 ≤ opc) && decide (opc ≤ 0xEC)) ||
  ((decide (opc = 0x16) || decide (opc = 0x17)) && w.getLsbD 21)

/-- The same test on a decoded instruction. -/
def privInstr : Instr → Bool
  | .sret | .rqrd .. | .rqrdV .. | .rqwr .. | .rqwrV .. | .frqpop .. | .tlbinvRange .. | .tlbinvTag .. | .tlbinvAll ..
  | .tlbwait | .ctxsv .. | .ctxrs .. | .dbgset .. | .ssr .. | .ssrV .. | .ssrP .. | .ssw .. | .sswV .. | .kill ..
  | .killTeam | .killDump | .halt => true
  | .srsr n _ | .swsr n _ => n.getLsbD 9
  | .illegalEncoding w => privWord w
  | _ => false

/-- The pipe of an opcode (Table 6-3): U 0, V 1, F 2, X 3, M 4, E 5. -/
def pipeOf (opc : Nat) : Nat :=
  if opc < 0x20 then 0 else if opc < 0x40 then 1 else if opc < 0x60 then 2 else if opc < 0x70 then 3
  else if opc < 0x80 then 5 else if opc < 0xB0 then 4 else 5

/-- The words that must end their chain (R169): BRA, BRC, BRX, CALL, RET, REJOIN, ITEM, YIELD, EXIT, TRAPU, SRET, HALT. -/
def endsChain (opc : Nat) : Bool :=
  (decide (0x70 ≤ opc) && decide (opc ≤ 0x74)) || decide (opc = 0x76) || decide (opc = 0x78) || decide (opc = 0x79) ||
  decide (opc = 0x7A) || decide (opc = 0x7C) || decide (opc = 0xE0) || decide (opc = 0xEC)

end Sys2Proof.Machine
end

