-- ==== Sys2Proof/Machine/Special.lean ====
section
/-! DEFINITION. The special-function units (R215): correctly rounded results, their flags, and the propagated part of
their bounds (Table 4-3). Irrational results are formed to far more bits than FP32 needs and then rounded once
(log entry 16). -/

namespace Sys2Proof.Machine

/-- Result bits and the flags NX, UF, OF, DZ, NV in bits [4:0]. -/
structure FpOut where
  bits : Nat
  nx : Bool
  ovf : Bool
  flags : BitVec 5
  deriving DecidableEq, Repr

/-- Flag bits of STATUS (Table 2-6). -/
def flNX : BitVec 5 := 16
def flUF : BitVec 5 := 8
def flOF : BitVec 5 := 4
def flDZ : BitVec 5 := 2
def flNV : BitVec 5 := 1

/-- Flags of a rounded result (Table 3-3). -/
def Rounded.flags (r : Rounded) : BitVec 5 :=
  (if r.nx then flNX else 0) ||| (if r.uf then flUF else 0) ||| (if r.ovf then flOF else 0)
def Rounded.out (r : Rounded) : FpOut := ⟨r.bits, r.nx, r.ovf, r.flags⟩
/-- An exact result. -/
def FpOut.exact (b : Nat) : FpOut := ⟨b, false, false, 0⟩
/-- An exact result that sets a flag. -/
def FpOut.flagged (b : Nat) (f : BitVec 5) : FpOut := ⟨b, false, false, f⟩

/-- Round a result known to be inexact from a truncated magnitude n × 2^e: a sticky bit stands for what was cut off. -/
def roundSticky (neg : Bool) (n : Nat) (e : Int) : FpOut := (fpRound .f32 .rn false neg (2 * n + 1) 1 (e - 1)).out

/-- Integer square root, bit by bit. -/
def isqrtGo : Nat → Nat → Nat → Nat
  | 0, _, r => r
  | k + 1, n, r => let t := r + 2 ^ k; isqrtGo k n (if t * t ≤ n then t else r)
def isqrt (n : Nat) : Nat := isqrtGo (n.log2 / 2 + 1) n 0

/-- Sum of term / (2k + 1) with term multiplied by num / den at each step; `sgn` alternates the signs (arctangent). -/
def oddSeries : Nat → Nat → Int → Nat → Nat → Bool → Int → Int
  | 0, _, _, _, _, _, acc => acc
  | f + 1, k, t, num, den, alt, acc =>
    let d : Int := t / (2 * k + 1)
    oddSeries f (k + 1) (t * num / den) num den alt (if alt && decide (k % 2 = 1) then acc - d else acc + d)

/-- Fixed-point ln 2 = 2 artanh (1 / 3), with 320 fraction bits. -/
def ln2Fx : Int := oddSeries 110 0 ((2 : Int) ^ 321 / 3) 1 9 false 0
/-- Fixed-point π = 16 arctan (1 / 5) - 4 arctan (1 / 239), with 600 fraction bits. -/
def piFx : Int :=
  oddSeries 135 0 (16 * (2 : Int) ^ 600 / 5) 1 25 true 0 - oddSeries 45 0 (4 * (2 : Int) ^ 600 / 239) 1 57121 true 0

/-- Taylor series: term × x / (k + 1) with 2^p fraction bits. -/
def expSeries : Nat → Nat → Nat → Int → Int → Int → Int
  | 0, _, _, _, _, acc => acc
  | f + 1, p, k, x, t, acc => expSeries f p (k + 1) x (t * x / (2 : Int) ^ p / (k + 1)) (acc + t)
/-- Alternating series of sine and cosine: the term after t is - t × x² / ((k + 1) (k + 2)). -/
def trigSeries : Nat → Nat → Nat → Int → Int → Int → Int
  | 0, _, _, _, _, acc => acc
  | f + 1, p, k, x2, t, acc =>
    trigSeries f p (k + 2) x2 (-(t * x2 / (2 : Int) ^ p / ((k + 1) * (k + 2)))) (acc + t)

/-- The value of a finite FP32 number as fixed point with p fraction bits, rounded down. -/
def toFx (x : Ex) (p : Nat) : Int :=
  let e := x.e + p
  let m : Int := if 0 ≤ e then (x.n <<< e.toNat : Nat) else (x.n >>> (-e).toNat : Nat)
  if x.neg then -m else m

/-- Whether a finite nonzero number is a power of two, and its exponent. -/
def pow2Exp (x : Ex) : Option Int := if x.n = 2 ^ x.n.log2 then some (x.e + x.n.log2) else none

/-- FRCP (Table 7-11). -/
def fnRcp (a : Nat) : FpOut :=
  let s := if fSign .f32 a then 0x80000000 else 0
  if isNaN .f32 a then .exact (Fmt.nan .f32)
  else if isInf .f32 a then .exact s
  else if isZero .f32 a then .flagged (s + 0x7F800000) flDZ
  else let x := fpDecode .f32 a; (fpRound .f32 .rn false x.neg 1 x.n (-x.e)).out

/-- FRSQ. -/
def fnRsq (a : Nat) : FpOut :=
  let s := if fSign .f32 a then 0x80000000 else 0
  if isNaN .f32 a then .exact (Fmt.nan .f32)
  else if isZero .f32 a then .flagged (s + 0x7F800000) flDZ
  else if fSign .f32 a then .flagged (Fmt.nan .f32) flNV
  else if isInf .f32 a then .exact 0
  else
    let x := fpDecode .f32 a
    let odd := x.e % 2 ≠ 0
    let n := if odd then 2 * x.n else x.n
    let e := if odd then x.e - 1 else x.e
    match pow2Exp ⟨false, n, 0⟩ with
    | some k => if k % 2 = 0 then (fpRound .f32 .rn false false 1 1 (-(k + e) / 2)).out
        else roundSticky false (isqrt (2 ^ 256 / n)) (-128 - e / 2)
    | none => roundSticky false (isqrt (2 ^ 256 / n)) (-128 - e / 2)

/-- FEX2. -/
def fnEx2 (a : Nat) : FpOut :=
  if isNaN .f32 a then .exact (Fmt.nan .f32)
  else if isInf .f32 a then .exact (if fSign .f32 a then 0 else 0x7F800000)
  else
    let x := fpDecode .f32 a
    let v := toFx x 160
    let i := v / (2 : Int) ^ 160
    let f := v % (2 : Int) ^ 160
    if 200 ≤ i then roundSticky false 1 200
    else if i < -200 then roundSticky false 1 (-200)
    else if f = 0 then (fpRound .f32 .rn false false 1 1 i).out
    else
      let t := f * 2 ^ 160 * ln2Fx / (2 : Int) ^ 320
      roundSticky false (expSeries 90 320 0 t ((2 : Int) ^ 320) 0).toNat (i - 320)

/-- FLG2. -/
def fnLg2 (a : Nat) : FpOut :=
  if isNaN .f32 a then .exact (Fmt.nan .f32)
  else if isZero .f32 a then .flagged 0xFF800000 flDZ
  else if fSign .f32 a then .flagged (Fmt.nan .f32) flNV
  else if isInf .f32 a then .exact 0x7F800000
  else
    let x := fpDecode .f32 a
    let k := x.e + x.n.log2
    match pow2Exp x with
    | some p => (fpRound .f32 .rn false (decide (p < 0)) p.natAbs 1 0).out
    | none =>
      let q := 2 ^ x.n.log2
      let num := x.n - q
      let den := x.n + q
      let ln := oddSeries 110 0 ((2 : Int) ^ 321 * num / den) (num * num) (den * den) false 0
      let r := k * (2 : Int) ^ 300 + ln * (2 : Int) ^ 300 / ln2Fx
      roundSticky (decide (r < 0)) r.natAbs (-300)

/-- sin (`q` = 0) or cos (`q` = 1) of a finite number: reduction by multiples of π / 2, then the series on a remainder of
at most π / 4. -/
def trigOf (x : Ex) (q : Nat) : Bool × Nat :=
  let v := toFx x 560
  let h := piFx / 2 ^ 41                       -- π / 2 with 560 fraction bits
  let n := (v + h / 2) / h
  let r := (v * 2 ^ 40 - n * piFx / 2) / 2 ^ 200   -- remainder with 400 fraction bits
  let r2 := r * r / (2 : Int) ^ 400
  let m := (n + q) % 4
  let y := if m % 2 = 0 then trigSeries 50 400 1 r2 r 0 else trigSeries 50 400 0 r2 ((2 : Int) ^ 400) 0
  let z := if 2 ≤ m then -y else y
  (decide (z < 0), z.natAbs)

def fnTrig (q : Nat) (a : Nat) : FpOut :=
  if isNaN .f32 a then .exact (Fmt.nan .f32)
  else if isInf .f32 a then .flagged (Fmt.nan .f32) flNV
  else if isZero .f32 a then .exact (if q = 0 then a else 0x3F800000)
  else
    let x := fpDecode .f32 a
    -- below 2^-40 the result rounds to the argument (sine) or to 1 (cosine) and differs from it
    if x.e + x.n.log2 < -40 then
      (if q = 0 then (fpRound .f32 .rn false x.neg (x.n * 2 ^ 64 - 1) 1 (x.e - 64)).out
       else (fpRound .f32 .rn false false (2 ^ 64 - 1) 1 (-64)).out)
    else let (neg, n) := trigOf x q; roundSticky neg n (-400)

/-! ### Propagated bounds (Table 4-3) -/

/-- |a| in units of 2^-157 (a finite). -/
def magFx (a : Nat) : Nat := let x := fpDecode .f32 a; x.n <<< (x.e + 157).toNat

/-- floor(log2 (x)) of x units of 2^-157. -/
def log2Fx (x : Nat) : Int := (x.log2 : Int) - 157

/-- eb_up(P) for a finite argument `a` with a finite bound `e`; 0xFF00 where Table 4-3 says unbounded. -/
def propRcp (a : Nat) (e : EB) : EB :=
  let m := magFx a
  let u := ebNat e
  if u = 0 ∧ m ≠ 0 then 0 else if m ≤ u then ebInf else ebUpQ u (m * (m - u)) 157
def propRsq (a : Nat) (e : EB) : EB :=
  let m := magFx a
  let u := ebNat e
  if fSign .f32 a ∨ m = 0 ∨ m ≤ u then ebInf else ebUpQ u 1 (-157 + (-((3 * log2Fx (m - u)) / 2) - 1))
/-- ceil(a), held within ± 1,000: outside that the bound is 0 or beyond the finite range. -/
def ceilClamp (a : Nat) : Int :=
  let c := -((-(toFx (fpDecode .f32 a) 160)) / (2 : Int) ^ 160)
  if c < -1000 then -1000 else if 1000 < c then 1000 else c
def propEx2 (a : Nat) (e : EB) : EB :=
  let u := ebNat e
  if 2 ^ 157 < u then ebInf else if u = 0 then 0 else ebUpQ u 1 (ceilClamp a - 157)
def propLg2 (a : Nat) (e : EB) : EB :=
  let m := magFx a
  let u := ebNat e
  if fSign .f32 a ∨ m = 0 ∨ m ≤ u then ebInf else ebUpQ (3 * u) (2 * (m - u)) 0
def propTrig (e : EB) : EB := if ebBig e ∨ 2 ^ 158 < ebNat e then ebUp2 1 else e

end Sys2Proof.Machine
end

