-- ==== Sys2Proof/Machine/Access.lean ====
section
/-! DEFINITION. Groups and their registers: reading sources from the read view of an issue (R169, R180), writing destinations
(R46 to R53), and the per-lane scheme of R183 and R184. -/

namespace Sys2Proof.Machine

/-- The result of a step. -/
abbrev Res := Host.Outcome State Fault Refusal

/-! ### Groups, cores, launches, teams -/

/-- The group with handle h (R358). -/
def State.grp (s : State) (h : Nat) : Group := Tb.get Group.empty s.work.groups h
/-- Change the group with handle h, where it is resident. -/
def State.modG (s : State) (h : Nat) (f : Group → Group) : State :=
  { s with work := { s.work with groups := Tb.modify s.work.groups h f } }
/-- The group that issues, as it now stands. -/
def State.curG (s : State) : Group := s.grp s.cur.h
/-- Change the group that issues. -/
def State.upG (s : State) (f : Group → Group) : State := s.modG s.cur.h f
def State.core (s : State) (c : Nat) : Core := Tb.get Core.reset s.cores c
def State.modCore (s : State) (c : Nat) (f : Core → Core) : State := { s with cores := Tb.set Core.reset s.cores c (f (s.core c)) }
def State.die (s : State) (d : Nat) : Die := Tb.get Die.reset s.dies d
def State.modDie (s : State) (d : Nat) (f : Die → Die) : State := { s with dies := Tb.set Die.reset s.dies d (f (s.die d)) }
def State.cluster (s : State) (c : Nat) : Cluster := Tb.get Cluster.reset s.clusters c
def State.modCluster (s : State) (c : Nat) (f : Cluster → Cluster) : State :=
  { s with clusters := Tb.set Cluster.reset s.clusters c (f (s.cluster c)) }
def State.func (s : State) (f : Nat) : Func := Tb.get Func.reset s.work.funcs f
def State.modFunc (s : State) (f : Nat) (u : Func → Func) : State :=
  { s with work := { s.work with funcs := Tb.put s.work.funcs f (u (s.func f)) } }
def State.launch? (s : State) (k : Nat) : Option Launch := s.work.launches.find? (fun x => decide (x.key = k))
def State.team? (s : State) (k t : Nat) : Option Team :=
  s.work.teams.find? (fun x => decide (x.launch = k) && decide (x.id = t))
def State.modLaunch (s : State) (k : Nat) (f : Launch → Launch) : State :=
  { s with work := { s.work with launches := s.work.launches.map (fun x => if x.key = k then f x else x) } }
def State.modTeam (s : State) (k t : Nat) (f : Team → Team) : State :=
  { s with work := { s.work with teams := s.work.teams.map (fun x => if x.launch = k ∧ x.id = t then f x else x) } }
/-- Handles of the groups of a team. -/
def State.teamGroups (s : State) (k t : Nat) : List Nat :=
  (s.work.groups.filter (fun e => decide (e.2.launch = k) && decide (e.2.team = t))).map (·.1)
/-- The die of a core (CORE.NUM = 32 × die + core, Table 13-1) and its cluster of eight cores. -/
def dieOf (core : Nat) : Nat := core / 32
def clusterOf (core : Nat) : Nat := core / 8
/-- The next free choice between an old and a new value (log entry 2). -/
def State.choose (s : State) : Bool × State := (Config.freeBit s.free, { s with free := s.free + 1 })
/-- The next free choice among k things (log entry 2). -/
def State.pick (s : State) (k : Nat) : Nat × State := (Config.freeNat s.free % k, { s with free := s.free + 1 })
/-- A new order number. -/
def State.newId (s : State) : Nat × State := (s.ids, { s with ids := s.ids + 1 })

/-! ### Counters (R425) -/

/-- A count saturates at 0xFFFF_FFFF_FFFD; a view that holds 0xFFFF_FFFF_FFFE does not count (R425 to R427). -/
def countUp (c n : Nat) : Nat := if 0xFFFFFFFFFFFD ≤ c then c else min 0xFFFFFFFFFFFD (c + n)
/-- The function of a launch. -/
def State.funcOf (s : State) (k : Nat) : Nat := match s.launch? k with | some l => l.func | none => 64
/-- Counters of a core that hold an event code. -/
def countersOf (s : State) (core ev : Nat) : List Nat :=
  (List.range 16).filter (fun i => decide ((Tb.get (0 : Byte) (s.core core).events i).toNat = ev))
/-- Count n events of a code on a core in the view of a team (keyed 16 × core + counter). -/
def State.view (s : State) (core ev n k t : Nat) : State :=
  let is := countersOf s core ev
  if is = [] then s
  else s.modTeam k t (fun x =>
    { x with views := is.foldl (fun v i => Tb.put v (16 * core + i) (countUp (Tb.get 0 v (16 * core + i)) n)) x.views })
/-- Count n events of a code on a core, for a function and, when `team` names one, in that team's view. -/
def State.count (s : State) (core f ev n : Nat) (team : Option (Nat × Nat)) : State :=
  let is := countersOf s core ev
  if is = [] then s
  else
    let s := s.modCore core (fun c =>
      { c with counts := is.foldl (fun t i => Tb.put t (128 * i + f) (countUp (Tb.get 0 t (128 * i + f)) n)) c.counts })
    match team with
    | none => s
    | some (k, t) => s.view core ev n k t
/-- Count n events of a code for a group. -/
def State.bump (s : State) (h ev n : Nat) : State :=
  let g := s.grp h
  s.count g.core (s.funcOf g.launch) ev n (some (g.launch, g.team))

/-- The core cycle of a core's die (R413). -/
def State.clk (s : State) (core : Nat) : Nat := (s.die (dieOf core)).clk
/-- Charge in hundredths, recorded for a cluster, of which the last 64 core cycles count, and for a die's function (R302, R418, R432). -/
def addCharge (s : State) (core f q : Nat) : State :=
  let t := s.clk core
  let s := s.modCluster (clusterOf core) (fun c =>
    let old := c.charge.filter (fun e => decide (t < e.1 + 64))
    { c with charge := Tb.put old t (Tb.get 0 old t + q) })
  s.modDie (dieOf core) (fun d => { d with charge := Tb.put d.charge f (Tb.get 0 d.charge f + q) })

/-- Charge in hundredths as event 0x19 counts it for a team of a function: in whole units, of which the rest is kept for the next (Table 18-1). -/
def countCharge (s : State) (core f q k t : Nat) : State :=
  let key := 2 ^ 32 * k + t
  let n := Tb.get 0 (s.core core).chargeRem key + q
  (s.modCore core (fun c => { c with chargeRem := Tb.set 0 c.chargeRem key (n % 100) })).count core f 0x19 (n / 100) (some (k, t))

/-- Slope limit of a cluster: a new one holds from the cycle that it was set for (R418, R419). -/
def slopeOf (s : State) (cluster : Nat) : Nat :=
  let c := s.cluster cluster
  match c.slopeNext with
  | some (x, t) => if t ≤ s.clk (8 * cluster) then x else c.slope
  | none => c.slope
/-- Charge of a cluster over the last 64 core cycles, in hundredths (R303, R414). -/
def State.charge64 (s : State) (cluster : Nat) : Nat :=
  (((s.cluster cluster).charge.filter (fun e => decide (s.clk (8 * cluster) < e.1 + 64))).map (·.2)).sum

/-! ### Poison -/

/-- A token: fault code and origin (R111). -/
def mkTok (code origin : Nat) : Word := BitVec.ofNat 32 (code % 32 * 2 ^ 27 + origin % 2 ^ 27)
/-- The fault code of a token. -/
def tokCode (t : Word) : Nat := t.toNat / 2 ^ 27
/-- Token of a memory access: origin VA[31:5] (R111). -/
def vaTok (code va : Nat) : Word := mkTok code (va / 32)
/-- A poisoned register. -/
def VCell.tok (t : Word) : VCell := ⟨t, ebPoison⟩
/-- A poisoned uniform register (R48, R184). -/
def SCell.tok (t : Word) : SCell := ⟨t.setWidth 64, ebPoison⟩
def VCell.exact (x : Nat) : VCell := ⟨BitVec.ofNat 32 x, 0⟩
def SCell.exact (x : Nat) : SCell := ⟨BitVec.ofNat 64 x, 0⟩

/-- An operand as read: its value, its bound, and its token when it is poison. -/
structure Opd where
  v : Nat
  eb : EB
  tok : Option Word
  deriving DecidableEq, Repr

/-- An operand held in one vector register. -/
def Opd.ofV (c : VCell) : Opd := ⟨c.data.toNat, c.eb, if c.eb = ebPoison then some c.data else none⟩
/-- An operand held in one uniform register. -/
def Opd.ofS (c : SCell) : Opd := ⟨c.data.toNat, c.eb, if c.eb = ebPoison then some (c.data.setWidth 32) else none⟩
/-- An operand held in several vector registers, lowest first (R47, R224). -/
def Opd.ofVs (cs : List VCell) : Opd :=
  ⟨ofBytes (cs.flatMap (fun c => toBytes 4 c.data.toNat)), ebMaxL (cs.map (·.eb)),
   (cs.find? (fun c => decide (c.eb = ebPoison))).map (·.data)⟩
/-- The first poisoned source (R112). -/
def firstTok (l : List Opd) : Option Word := l.findSome? (·.tok)

/-! ### Reading registers -/

/-- A vector register of a lane as an instruction in packet `pk` reads it: poison MEMUE when the array reports an
uncorrectable error (R53). -/
def Group.v (g : Group) (pk : Nat) (n l : Nat) : VCell :=
  if g.soft.contains (RegClass.v, n, l) then VCell.tok (mkTok 1 pk) else Tb.get VCell.zero g.r.v (64 * n + l)
def Group.s (g : Group) (pk : Nat) (n : Nat) : SCell :=
  if g.soft.contains (RegClass.s, n, 0) then SCell.tok (mkTok 1 pk) else Tb.get SCell.zero g.r.s n
/-- A predicate lane; p0 reads VAL = 1 (R49). -/
def Group.p (g : Group) (n l : Nat) : Byte := if n = 0 then 1 else Tb.get 0 g.r.p (64 * n + l)
def Group.b (g : Group) (n : Nat) : BReg := Tb.get BReg.zero g.r.b n
def Group.d (g : Group) (n : Nat) : BitVec 128 := Tb.get 0 g.r.d n
def Group.k (g : Group) (n : Nat) : Knot := Tb.get Knot.idle g.r.k n
def Group.lane (g : Group) (l : Nat) : Lane := g.lanes.getD l Lane.reset

/-- Fields of a predicate lane (Table 2-2). -/
def pVal (b : Byte) : Bool := b.getLsbD 0
def pPois (b : Byte) : Bool := b.getLsbD 1
def pAmb (b : Byte) : Bool := b.getLsbD 2
def pCode (b : Byte) : Nat := b.toNat / 8
def mkPred (val amb : Bool) : Byte := BitVec.ofNat 8 (b2n val + 4 * b2n amb)
/-- A predicate lane set from a poisoned source (R49). -/
def predPois (code : Nat) : Byte := BitVec.ofNat 8 (2 + 8 * (code % 32))

/-- The packet number of the word that issues: the origin of the tokens it creates (R111). -/
def State.pk (s : State) : Nat := packetOf s.cur.wpc
/-- Sources of the word that issues, from its read view. -/
def State.rv (s : State) (n : Reg) (l : Nat) : VCell := s.cur.rd.v s.pk n.toNat l
def State.rvN (s : State) (n l : Nat) : VCell := s.cur.rd.v s.pk n l
def State.ov (s : State) (n : Reg) (l : Nat) : Opd := .ofV (s.rv n l)
def State.os (s : State) (n : Reg) : Opd := .ofS (s.cur.rd.s s.pk n.toNat)
def State.osN (s : State) (n : Nat) : Opd := .ofS (s.cur.rd.s s.pk n)
/-- A pair operand (R47). -/
def State.opair (s : State) (n : Reg) (l : Nat) : Opd := .ofVs [s.rvN n.toNat l, s.rvN (n.toNat + 1) l]
def State.op (s : State) (n : BitVec 3) (l : Nat) : Byte := s.cur.rd.p n.toNat l

/-! ### Writing registers -/

/-- Keys of the destinations recorded as contested. -/
def regKey (c : RegClass) (n l : Nat) : Nat :=
  match c with
  | .v => 64 * n + l | .p => 4096 + 64 * n + l | .s => 8192 + n | .b => 8448 + n | .k => 8704 + n | .d => 8960 + n

def Group.setV (g : Group) (n l : Nat) (c : VCell) : Group :=
  { g with r := { g.r with v := Tb.set VCell.zero g.r.v (64 * n + l) c }, soft := g.soft.filter (· ≠ (RegClass.v, n, l)) }
def Group.setS (g : Group) (n : Nat) (c : SCell) : Group :=
  { g with r := { g.r with s := Tb.set SCell.zero g.r.s n c }, soft := g.soft.filter (· ≠ (RegClass.s, n, 0)) }
/-- A write to p0 is discarded (R49). The spec does not say when an uncorrectable error of a register ends (R53): here any write of the
register ends it, for a predicate a write of any lane (DESIGN CHOICE, log entry 55). -/
def Group.setP (g : Group) (n l : Nat) (b : Byte) : Group :=
  if n = 0 then g
  else { g with r := { g.r with p := Tb.set 0 g.r.p (64 * n + l) b }, soft := g.soft.filter (· ≠ (RegClass.p, n, 0)) }
def Group.setB (g : Group) (n : Nat) (b : BReg) : Group :=
  { g with r := { g.r with b := Tb.set BReg.zero g.r.b n b }, soft := g.soft.filter (· ≠ (RegClass.b, n, 0)) }
def Group.setD (g : Group) (n : Nat) (x : BitVec 128) : Group :=
  { g with r := { g.r with d := Tb.set 0 g.r.d n x }, soft := g.soft.filter (· ≠ (RegClass.d, n, 0)) }
def Group.setK (g : Group) (n : Nat) (k : Knot) : Group :=
  { g with r := { g.r with k := Tb.set Knot.idle g.r.k n k }, soft := g.soft.filter (· ≠ (RegClass.k, n, 0)) }
def Group.setLane (g : Group) (l : Nat) (f : Lane → Lane) : Group := { g with lanes := g.lanes.modify l f }
/-- OR flags into STATUS (R57). -/
def Group.orFlags (g : Group) (f : BitVec 5) : Group := { g with sp := { g.sp with flags := g.sp.flags ||| f } }

/-- Write one vector register in each lane of a list. -/
def Group.setVs (g : Group) (n : Nat) (l : List (Nat × VCell)) : Group := l.foldl (fun g e => g.setV n e.1 e.2) g
def Group.setPs (g : Group) (n : Nat) (l : List (Nat × Byte)) : Group := l.foldl (fun g e => g.setP n e.1 e.2) g

/-! ### The per-lane scheme (R183, R184) -/

/-- A lane's result: the register, and the flags it raises. -/
structure LaneOut where
  cell : VCell
  fl : BitVec 5
  deriving DecidableEq, Repr

/-- One lane of R183: poison first, in operand order; otherwise the entry's effect. -/
def laneOut (srcs : List Opd) (f : LaneOut) : LaneOut :=
  match firstTok srcs with
  | some t => ⟨VCell.tok t, 0⟩
  | none => f

/-- R183: write vd in every issuing lane and OR the flags into STATUS. -/
def vecOp (s : State) (d : Reg) (f : Nat → LaneOut) : State :=
  let outs := (lanesOf s.cur.mask).map (fun l => (l, f l))
  s.upG (fun g => (g.setVs d.toNat (outs.map (fun o => (o.1, o.2.cell)))).orFlags (outs.foldl (fun a o => a ||| o.2.fl) 0))

/-- R183 for a 64-bit result: the pair (R47). `f` gives value and bound, or a token. -/
def vecOp64 (s : State) (d : Reg) (f : Nat → Opd) : State :=
  let outs := (lanesOf s.cur.mask).map (fun l => (l, f l))
  let lo := fun (o : Opd) => match o.tok with | some t => VCell.tok t | none => ⟨BitVec.ofNat 32 o.v, o.eb⟩
  let hi := fun (o : Opd) => match o.tok with | some t => VCell.tok t | none => ⟨BitVec.ofNat 32 (o.v / 2 ^ 32), o.eb⟩
  s.upG (fun g => (g.setVs d.toNat (outs.map (fun o => (o.1, lo o.2)))).setVs (d.toNat + 1) (outs.map (fun o => (o.1, hi o.2))))

/-- R184: write a uniform register once. -/
def uniOp (s : State) (d : Reg) (srcs : List Opd) (c : SCell) : State :=
  s.upG (fun g => g.setS d.toNat (match firstTok srcs with | some t => SCell.tok t | none => c))

/-- Write a predicate in every issuing lane. -/
def predOp (s : State) (p : BitVec 3) (f : Nat → Byte) : State :=
  s.upG (fun g => g.setPs p.toNat ((lanesOf s.cur.mask).map (fun l => (l, f l))))

end Sys2Proof.Machine
end

