-- ==== Sys2Proof/Decode.lean ====
section
/-! DEFINITION. Words to instructions (R167 to R178) and back. Decoding is total: a word that is no instruction is rejected
by name. -/

namespace Sys2Proof

/-- Why a word is no instruction (Table 6-5). -/
inductive DecErr
  | unassigned   -- R176
  | reserved     -- a reserved bit is set (R173)
  | sub          -- an unassigned sub-operation (R173)
  | width        -- R171
  | order        -- an order, scope or store mode that the entry does not accept (R171)
  deriving DecidableEq, Repr

/-- The 22 operand bits (Table 6-2). -/
structure Fields where
  all : BitVec 22
  deriving DecidableEq, Repr

def Fields.d (f : Fields) : Reg := f.all.extractLsb' 16 6
def Fields.a (f : Fields) : Reg := f.all.extractLsb' 10 6
def Fields.b (f : Fields) : Reg := f.all.extractLsb' 4 6
def Fields.x (f : Fields) : BitVec 4 := f.all.extractLsb' 0 4
def Fields.c2 (f : Fields) : BitVec 2 := f.all.extractLsb' 2 2
def Fields.x2 (f : Fields) : BitVec 2 := f.all.extractLsb' 0 2
def Fields.imm10 (f : Fields) : BitVec 10 := f.all.extractLsb' 0 10
def Fields.imm16 (f : Fields) : BitVec 16 := f.all.extractLsb' 0 16
def Fields.mb (f : Fields) : BitVec 3 := f.all.extractLsb' 13 3
def Fields.moff (f : Fields) : Reg := f.all.extractLsb' 7 6
def Fields.w3 (f : Fields) : BitVec 3 := f.all.extractLsb' 4 3
def Fields.imm13 (f : Fields) : BitVec 13 := f.all.extractLsb' 0 13
def Fields.off20 (f : Fields) : BitVec 20 := f.all.extractLsb' 2 20
def Fields.slot0 (f : Fields) : BitVec 2 := f.all.extractLsb' 0 2
def Fields.off16 (f : Fields) : BitVec 16 := f.all.extractLsb' 3 16
def Fields.slot1 (f : Fields) : BitVec 2 := f.all.extractLsb' 1 2
def Fields.bit0 (f : Fields) : Bool := f.all.getLsbD 0
def Fields.k (f : Fields) : BitVec 3 := f.all.extractLsb' 19 3
def Fields.kr (f : Fields) : Reg := f.all.extractLsb' 13 6
def Fields.off10 (f : Fields) : BitVec 10 := f.all.extractLsb' 3 10
def Fields.ta (f : Fields) : BitVec 4 := f.all.extractLsb' 18 4
def Fields.tb (f : Fields) : BitVec 4 := f.all.extractLsb' 14 4
def Fields.tc (f : Fields) : BitVec 4 := f.all.extractLsb' 10 4
def Fields.tv (f : Fields) : Reg := f.all.extractLsb' 4 6
def Fields.num (f : Fields) : BitVec 10 := f.all.extractLsb' 12 10
def Fields.r (f : Fields) : Reg := f.all.extractLsb' 6 6
def Fields.sy (f : Fields) : BitVec 6 := f.all.extractLsb' 0 6

/-! ### Coded fields -/

def icondCode : ICond → BitVec 4
  | .eq => 0 | .ne => 1 | .lt => 2 | .le => 3 | .gt => 4 | .ge => 5 | .ltu => 6 | .leu => 7 | .gtu => 8 | .geu => 9
def icond? (x : BitVec 4) : Option ICond :=
  match x.toNat with
  | 0 => some .eq | 1 => some .ne | 2 => some .lt | 3 => some .le | 4 => some .gt
  | 5 => some .ge | 6 => some .ltu | 7 => some .leu | 8 => some .gtu | 9 => some .geu | _ => none
def fcondCode : FCond → BitVec 4
  | .eq => 0 | .ne => 1 | .lt => 2 | .le => 3 | .gt => 4 | .ge => 5 | .ord => 6 | .uno => 7
def fcond? (x : BitVec 4) : Option FCond :=
  match x.toNat with
  | 0 => some .eq | 1 => some .ne | 2 => some .lt | 3 => some .le | 4 => some .gt
  | 5 => some .ge | 6 => some .ord | 7 => some .uno | _ => none
def dpCode : DpMode → BitVec 4
  | .ss => 0 | .uu => 1 | .su => 2 | .us => 3
def dp? (x : BitVec 4) : Option DpMode :=
  match x.toNat with
  | 0 => some .ss | 1 => some .uu | 2 => some .su | 3 => some .us | _ => none
def shmCode : ShMode → BitVec 4
  | .idx => 0 | .up => 1 | .down => 2 | .xor => 3
def shm? (x : BitVec 4) : Option ShMode :=
  match x.toNat with
  | 0 => some .idx | 1 => some .up | 2 => some .down | 3 => some .xor | _ => none
def redCode : RedOp → BitVec 4
  | .add => 0 | .min => 1 | .max => 2 | .minu => 3 | .maxu => 4 | .and => 5 | .or => 6 | .xor => 7
  | .fadd => 8 | .fmin => 9 | .fmax => 10
def red? (x : BitVec 4) : Option RedOp :=
  match x.toNat with
  | 0 => some .add | 1 => some .min | 2 => some .max | 3 => some .minu | 4 => some .maxu | 5 => some .and
  | 6 => some .or | 7 => some .xor | 8 => some .fadd | 9 => some .fmin | 10 => some .fmax | _ => none
def ptCode : PtMode → BitVec 4
  | .plain => 0 | .bud => 1 | .p => 2 | .u => 3 | .ubud => 4
def pt? (x : BitVec 4) : Option PtMode :=
  match x.toNat with
  | 0 => some .plain | 1 => some .bud | 2 => some .p | 3 => some .u | 4 => some .ubud | _ => none
def pcCode : PcMode → BitVec 4
  | .plain => 0 | .p => 1 | .u => 2
def pc? (x : BitVec 4) : Option PcMode :=
  match x.toNat with
  | 0 => some .plain | 1 => some .p | 2 => some .u | _ => none
def tfieldCode : TField → BitVec 4
  | .addr => 0 | .rows => 1 | .cols => 2 | .vrows => 3 | .vcols => 4 | .stride => 5 | .fmt => 6 | .kind => 7 | .adv => 8
def tfield? (x : BitVec 4) : Option TField :=
  match x.toNat with
  | 0 => some .addr | 1 => some .rows | 2 => some .cols | 3 => some .vrows | 4 => some .vcols | 5 => some .stride
  | 6 => some .fmt | 7 => some .kind | 8 => some .adv | _ => none
def clsCode : Cls → BitVec 2
  | .exact => 0 | .auto => 1 | .short => 2 | .lean => 3
def clsOf (x : BitVec 2) : Cls :=
  match x.toNat with
  | 0 => .exact | 1 => .auto | 2 => .short | _ => .lean
def rndCode : Rnd → BitVec 2
  | .rn => 0 | .rz => 1 | .rp => 2 | .rm => 3
def rndOf (x : BitVec 2) : Rnd :=
  match x.toNat with
  | 0 => .rn | 1 => .rz | 2 => .rp | _ => .rm
def fmtCode : Fmt → BitVec 3
  | .f32 => 0 | .f16 => 1 | .bf16 => 2 | .e4m3 => 3 | .e5m2 => 4 | .i32 => 5 | .i8 => 6 | .i4 => 7
def fmtOf (x : BitVec 3) : Fmt :=
  match x.toNat with
  | 0 => .f32 | 1 => .f16 | 2 => .bf16 | 3 => .e4m3 | 4 => .e5m2 | 5 => .i32 | 6 => .i8 | _ => .i4
def scopeCode : Scope → BitVec 2
  | .team => 0 | .die => 1 | .dev => 2 | .sys => 3
def scopeOf (x : BitVec 2) : Scope :=
  match x.toNat with
  | 0 => .team | 1 => .die | 2 => .dev | _ => .sys
def copyCode : CopyMode → BitVec 2
  | .none => 0 | .c => 1 | .db => 2
def copy? (x : BitVec 2) : Option CopyMode :=
  match x.toNat with
  | 0 => some .none | 1 => some .c | 2 => some .db | _ => none
def pfCode : PfLevel → BitVec 2
  | .l1 => 0 | .l2 => 1 | .tarn => 2
def pf? (x : BitVec 2) : Option PfLevel :=
  match x.toNat with
  | 0 => some .l1 | 1 => some .l2 | 2 => some .tarn | _ => none
def timCode : TimerSel → BitVec 2
  | .cyc => 0 | .wall => 1
def tim? (x : BitVec 2) : Option TimerSel :=
  match x.toNat with
  | 0 => some .cyc | 1 => some .wall | _ => none
def widthCode : Width → BitVec 3
  | .b => 0 | .h => 1 | .w => 2 | .d => 3 | .q => 4
def width? (x : BitVec 3) : Option Width :=
  match x.toNat with
  | 0 => some .b | 1 => some .h | 2 => some .w | 3 => some .d | 4 => some .q | _ => none
def tileCode : Width → BitVec 2
  | .b => 0 | .h => 1 | .w => 2 | .d => 3 | .q => 0
def tileW (x : BitVec 2) : Width :=
  match x.toNat with
  | 0 => .b | 1 => .h | 2 => .w | _ => .d
/-- Order in [3:2], then scope or store mode in [1:0] (R171). -/
def loadCode : LoadForm → BitVec 4
  | .plain => 0 | .acq sc => 1#2 ++ scopeCode sc
def storeCode : StoreForm → BitVec 4
  | .plain => 0 | .c => 1 | .db => 2 | .rel sc => 2#2 ++ scopeCode sc
def atomCode : AtomForm → BitVec 4
  | .plain => 0 | .acq sc => 1#2 ++ scopeCode sc | .rel sc => 2#2 ++ scopeCode sc | .acqrel sc => 3#2 ++ scopeCode sc
def bit1 (u : Bool) : BitVec 4 := 0#3 ++ BitVec.ofBool u
def bit2 (u : Bool) : BitVec 2 := 0#1 ++ BitVec.ofBool u
def bit2? (x : BitVec 2) : Option Bool :=
  match x.toNat with
  | 0 => some false | 1 => some true | _ => none

/-! ### Checks of a word's fields -/

/-- Accept when reserved bits are 0. -/
def need {α : Type} (c : Prop) [Decidable c] (i : α) : Except DecErr α := if c then .ok i else .error .reserved
/-- Accept an assigned sub-operation. -/
def sub {α : Type} (o : Option α) (k : α → Instr) : Except DecErr Instr :=
  match o with
  | some u => .ok (k u)
  | none => .error .sub
/-- [3:0] holds 0 or 1. -/
def Fields.bit? (f : Fields) : Option Bool :=
  match f.x.toNat with
  | 0 => some false | 1 => some true | _ => none
/-- A predicate in a 6-bit field (R173). -/
def pdX (r : Reg) : Except DecErr (BitVec 3) := need (r.extractLsb' 3 3 = 0) (r.extractLsb' 0 3)
/-- The width field (R171). -/
def mrw (f : Fields) (k : Width → Except DecErr Instr) : Except DecErr Instr :=
  match width? f.w3 with
  | some wd => k wd
  | none => .error .width
/-- Order and scope of a load (R171): plain needs scope 0. -/
def loadF (f : Fields) (k : LoadForm → Instr) : Except DecErr Instr :=
  match f.c2.toNat with
  | 0 => if f.x2 = 0 then .ok (k .plain) else .error .order
  | 1 => .ok (k (.acq (scopeOf f.x2)))
  | _ => .error .order
/-- Order and scope, or store mode, of a store (R171). -/
def storeF (f : Fields) (k : StoreForm → Instr) : Except DecErr Instr :=
  match f.c2.toNat with
  | 0 =>
    match f.x2.toNat with
    | 0 => .ok (k .plain) | 1 => .ok (k .c) | 2 => .ok (k .db) | _ => .error .order
  | 2 => .ok (k (.rel (scopeOf f.x2)))
  | _ => .error .order
/-- Order and scope of an atomic (R171). -/
def atomF (f : Fields) (k : AtomForm → Instr) : Except DecErr Instr :=
  match f.c2.toNat with
  | 0 => if f.x2 = 0 then .ok (k .plain) else .error .order
  | 1 => .ok (k (.acq (scopeOf f.x2)))
  | 2 => .ok (k (.rel (scopeOf f.x2)))
  | _ => .ok (k (.acqrel (scopeOf f.x2)))

/-- Opcodes 0x00 to 0x17: uniform, R187. -/
def decodeU (opc : Nat) (f : Fields) : Except DecErr Instr :=
  match opc with
  | 0x00 => need (f.b = 0 ∧ f.x = 0) (.smov f.d f.a)
  | 0x01 => .ok (.smovi f.d f.imm16)
  | 0x02 => .ok (.smovh f.d f.imm16)
  | 0x03 => need (f.x = 0) (.sadd f.d f.a f.b)
  | 0x04 => .ok (.saddi f.d f.a f.imm10)
  | 0x05 => need (f.x = 0) (.ssub f.d f.a f.b)
  | 0x06 => need (f.x = 0) (.smul f.d f.a f.b)
  | 0x07 => sub (f.bit?) fun u => .smulh f.d f.a f.b u
  | 0x08 => need (f.x = 0) (.sand f.d f.a f.b)
  | 0x09 => need (f.x = 0) (.sor f.d f.a f.b)
  | 0x0A => need (f.x = 0) (.sxor f.d f.a f.b)
  | 0x0B => need (f.x = 0) (.sshl f.d f.a f.b)
  | 0x0C => need (f.x = 0) (.sshr f.d f.a f.b)
  | 0x0D => need (f.x = 0) (.ssra f.d f.a f.b)
  | 0x0E => sub (f.bit?) fun u => .smin f.d f.a f.b u
  | 0x0F => sub (f.bit?) fun u => .smax f.d f.a f.b u
  | 0x10 => pdX f.d >>= fun p => sub (icond? f.x) fun k => .scmp p f.a f.b k
  | 0x11 => .ok (.ssel f.d f.a f.b (f.x.extractLsb' 1 3) (f.x.getLsbD 0))
  | 0x12 => need (f.b = 0 ∧ f.x = 0) (.spopc f.d f.a)
  | 0x13 => need (f.b = 0 ∧ f.x = 0) (.sclz f.d f.a)
  | 0x14 => .ok (.slea f.d f.a f.b f.x)
  | 0x15 => sub (f.bit?) fun u => .slane f.d f.a f.b u
  | 0x16 => need (f.sy = 0) (.srsr f.num f.r)
  | 0x17 => need (f.sy = 0) (.swsr f.num f.r)
  | _ => .error .unassigned

/-- Opcodes 0x20 to 0x3D: vector integer, R192. -/
def decodeV (opc : Nat) (f : Fields) : Except DecErr Instr :=
  match opc with
  | 0x20 => need (f.x = 0) (.vadd f.d f.a f.b)
  | 0x21 => .ok (.vaddi f.d f.a f.imm10)
  | 0x22 => need (f.x = 0) (.vsub f.d f.a f.b)
  | 0x23 => need (f.x = 0) (.vmul f.d f.a f.b)
  | 0x24 => sub (f.bit?) fun u => .vmulh f.d f.a f.b u
  | 0x25 => sub (f.bit?) fun u => .vmad f.d f.a f.b u
  | 0x26 => sub (dp? f.x) fun g => .vdp4 f.d f.a f.b g
  | 0x27 => sub (f.bit?) fun u => .vmin f.d f.a f.b u
  | 0x28 => sub (f.bit?) fun u => .vmax f.d f.a f.b u
  | 0x29 => need (f.b = 0) () >>= fun _ => sub (f.bit?) fun u => .vabs f.d f.a u
  | 0x2A => need (f.x = 0) (.vand f.d f.a f.b)
  | 0x2B => need (f.x = 0) (.vor f.d f.a f.b)
  | 0x2C => need (f.x = 0) (.vxor f.d f.a f.b)
  | 0x2D => .ok (.vlop3 f.d f.a f.b f.x)
  | 0x2E => need (f.x = 0) (.vshl f.d f.a f.b)
  | 0x2F => need (f.x = 0) (.vshr f.d f.a f.b)
  | 0x30 => need (f.x = 0) (.vsra f.d f.a f.b)
  | 0x31 => .ok (.vfshl f.d f.a f.b f.x)
  | 0x32 => .ok (.vfshr f.d f.a f.b f.x)
  | 0x33 => need (f.b = 0 ∧ f.x = 0) (.vpopc f.d f.a)
  | 0x34 => need (f.b = 0 ∧ f.x = 0) (.vclz f.d f.a)
  | 0x35 => need (f.b = 0 ∧ f.x = 0) (.vbrev f.d f.a)
  | 0x36 => pdX f.d >>= fun p => sub (icond? f.x) fun k => .vcmp p f.a f.b k
  | 0x37 => .ok (.vsel f.d f.a f.b (f.x.extractLsb' 1 3) (f.x.getLsbD 0))
  | 0x38 => need (f.b = 0 ∧ f.x = 0) (.vmov f.d f.a)
  | 0x39 => .ok (.vmovi f.d f.imm16)
  | 0x3A => need (f.b = 0) () >>= fun _ => sub (f.bit?) fun u => .vbcst f.d f.a u
  | 0x3B => sub (shm? f.x) fun m => .vshfl f.d f.a f.b m
  | 0x3C => need (f.b = 0) () >>= fun _ => sub (red? f.x) fun o => .vred f.d f.a o
  | 0x3D => need (f.a = 0 ∧ f.b = 0) () >>= fun _ => sub (f.bit?) fun u => .vlane f.d u
  | _ => .error .unassigned

/-- Opcodes 0x40 to 0x51: floating point, R202. -/
def decodeF (opc : Nat) (f : Fields) : Except DecErr Instr :=
  match opc with
  | 0x40 => need (f.x2 = 0) (.fadd f.d f.a f.b (clsOf f.c2))
  | 0x41 => need (f.x2 = 0) (.fsub f.d f.a f.b (clsOf f.c2))
  | 0x42 => need (f.x2 = 0) (.fmul f.d f.a f.b (clsOf f.c2))
  | 0x43 => need (f.x2 = 0) (.ffma f.d f.a f.b (clsOf f.c2))
  | 0x44 => need (f.x2 = 0) (.ffms f.d f.a f.b (clsOf f.c2))
  | 0x45 => need (f.x = 0) (.fmin f.d f.a f.b)
  | 0x46 => need (f.x = 0) (.fmax f.d f.a f.b)
  | 0x47 => pdX f.d >>= fun p => sub (fcond? f.x) fun k => .fcmp p f.a f.b k
  | 0x48 => need (f.b = 0 ∧ f.x = 0) (.fclass f.d f.a)
  | 0x49 => need (f.x = 0) (.fscale f.d f.a f.b)
  | 0x4A => need (f.x2 = 0) (.fsacc f.d f.a f.b (clsOf f.c2))
  | 0x4B => need (f.b = 0 ∧ f.c2 = 0) (.frnd f.d f.a (rndOf f.x2))
  | 0x4C => sub (bit2? f.x2) fun u => .fhadd f.d f.a f.b (clsOf f.c2) u
  | 0x4D => sub (bit2? f.x2) fun u => .fhmul f.d f.a f.b (clsOf f.c2) u
  | 0x4E => sub (bit2? f.x2) fun u => .fhfma f.d f.a f.b (clsOf f.c2) u
  | 0x4F => need (f.b = 0 ∧ f.x = 0) (.fbnd f.d f.a)
  | 0x50 => need (f.x = 0) (.fsetb f.d f.a f.b)
  | 0x51 => need (f.b = 0 ∧ f.x = 0) (.fclrb f.d f.a)
  | _ => .error .unassigned

/-- Opcodes 0x60 to 0x68: conversion and special functions, R212 to R215. -/
def decodeX (opc : Nat) (f : Fields) : Except DecErr Instr :=
  match opc with
  | 0x60 => need (f.x.getLsbD 0 = false) (.cvt f.d f.a (fmtOf (f.b.extractLsb' 3 3)) (fmtOf (f.b.extractLsb' 0 3)) (rndOf f.c2) (f.x.getLsbD 1))
  | 0x61 => .ok (.pkn f.d f.a f.b (fmtOf (f.x.extractLsb' 1 3)) (f.x.getLsbD 0))
  | 0x62 => need (f.x = 0) (.unpkn f.d f.a (fmtOf (f.b.extractLsb' 3 3)) (f.b.extractLsb' 0 3))
  | 0x63 => need (f.b = 0 ∧ f.x2 = 0) (.frcp f.d f.a (clsOf f.c2))
  | 0x64 => need (f.b = 0 ∧ f.x2 = 0) (.frsq f.d f.a (clsOf f.c2))
  | 0x65 => need (f.b = 0 ∧ f.x2 = 0) (.fex2 f.d f.a (clsOf f.c2))
  | 0x66 => need (f.b = 0 ∧ f.x2 = 0) (.flg2 f.d f.a (clsOf f.c2))
  | 0x67 => need (f.b = 0 ∧ f.x2 = 0) (.fsin f.d f.a (clsOf f.c2))
  | 0x68 => need (f.b = 0 ∧ f.x2 = 0) (.fcos f.d f.a (clsOf f.c2))
  | _ => .error .unassigned

/-- Opcodes 0x70 to 0x7C: control, R216. -/
def decodeC (opc : Nat) (f : Fields) : Except DecErr Instr :=
  match opc with
  | 0x70 => .ok (.bra f.off20 f.slot0)
  | 0x71 => .ok (.brc f.k f.off16 f.slot1 f.bit0)
  | 0x72 => need (f.d = 0 ∧ f.b = 0) () >>= fun _ => if f.x = 0 then .ok (.brx f.a) else if f.x = 1 then .ok (.brxU f.a) else .error .sub
  | 0x73 => .ok (.call f.off20 f.slot0)
  | 0x74 => need (f.k = 0 ∧ f.off10 = 0 ∧ f.slot1 = 0 ∧ f.bit0 = false) (.ret f.kr)
  | 0x75 => need (f.kr = 0 ∧ f.off10 = 0 ∧ f.slot1 = 0 ∧ f.bit0 = false) (.enrol f.k)
  | 0x76 => need (f.kr = 0 ∧ f.off10 = 0 ∧ f.slot1 = 0 ∧ f.bit0 = false) (.rejoin f.k)
  | 0x77 => need (f.kr = 0 ∧ f.off10 = 0 ∧ f.slot1 = 0 ∧ f.bit0 = false) (.strike f.k)
  | 0x78 => need (f.bit0 = false) (.item f.k f.kr f.off10 f.slot1)
  | 0x79 => need (f.all = 0) .yield
  | 0x7A => need (f.all = 0) .exit
  | 0x7B => need (f.all = 0) .nop
  | 0x7C => need (f.d = 0) (.trapu f.imm16)
  | _ => .error .unassigned

/-- Opcodes 0x80 to 0x8C: memory, R223, R229, R231 to R233. -/
def decodeM (opc : Nat) (f : Fields) : Except DecErr Instr :=
  match opc with
  | 0x80 => mrw f fun wd => loadF f fun m => .ld f.d f.mb f.moff wd m
  | 0x81 => mrw f fun wd => loadF f fun m => .lds f.d f.mb f.moff wd m
  | 0x82 => mrw f fun wd => storeF f fun m => .st f.d f.mb f.moff wd m
  | 0x83 => .ok (.ldu f.d f.mb f.imm13)
  | 0x84 => .ok (.ldus f.d f.mb f.imm13)
  | 0x85 => .ok (.stu f.d f.mb f.imm13)
  | 0x86 => mrw f fun wd => loadF f fun m => .gath f.d f.mb f.moff wd m
  | 0x87 => mrw f fun wd => loadF f fun m => .gaths f.d f.mb f.moff wd m
  | 0x88 => mrw f fun wd => storeF f fun m => .scat f.d f.mb f.moff wd m
  | 0x89 => need (f.x2 = 0) (.ldt f.d f.a f.b (tileW f.c2))
  | 0x8A => need (f.x2 = 0) (.stt f.d f.a f.b (tileW f.c2))
  | 0x8B => need (f.imm13 = 0) (.bxlt f.d f.mb)
  | 0x8C => need (f.d.extractLsb' 2 4 = 0 ∧ f.w3 = 0 ∧ f.x = 0) () >>= fun _ => sub (pf? (f.d.extractLsb' 0 2)) fun l => .pref l f.mb f.moff
  | _ => .error .unassigned

/-- Opcodes 0xA0 to 0xAA: atomics, R234. -/
def decodeA (opc : Nat) (f : Fields) : Except DecErr Instr :=
  match opc with
  | 0xA0 => mrw f fun wd => atomF f fun m => .aadd f.d f.mb f.moff wd m
  | 0xA1 => mrw f fun wd => atomF f fun m => .amin f.d f.mb f.moff wd m
  | 0xA2 => mrw f fun wd => atomF f fun m => .amax f.d f.mb f.moff wd m
  | 0xA3 => mrw f fun wd => atomF f fun m => .aand f.d f.mb f.moff wd m
  | 0xA4 => mrw f fun wd => atomF f fun m => .aor f.d f.mb f.moff wd m
  | 0xA5 => mrw f fun wd => atomF f fun m => .axor f.d f.mb f.moff wd m
  | 0xA6 => mrw f fun wd => atomF f fun m => .axch f.d f.mb f.moff wd m
  | 0xA7 => mrw f fun wd => atomF f fun m => .acas f.d f.mb f.moff wd m
  | 0xA8 => mrw f fun wd => atomF f fun m => .afadd f.d f.mb f.moff wd m
  | 0xA9 => mrw f fun wd => atomF f fun m => .axadd f.d f.mb f.moff wd m
  | 0xAA => mrw f fun wd => atomF f fun m => .axrd f.d f.mb f.moff wd m
  | _ => .error .unassigned

/-- Opcodes 0xB0 to 0xBC: synchronisation, R238. -/
def decodeS (opc : Nat) (f : Fields) : Except DecErr Instr :=
  match opc with
  | 0xB0 => need (f.d = 0 ∧ f.imm10.extractLsb' 3 7 = 0) (.bari f.a (f.imm10.extractLsb' 0 3))
  | 0xB1 => need (f.d = 0 ∧ f.imm10.extractLsb' 3 7 = 0) (.barw f.a (f.imm10.extractLsb' 0 3))
  | 0xB2 => need (f.a = 0 ∧ f.imm10.extractLsb' 3 7 = 0) (.baraw f.d (f.imm10.extractLsb' 0 3))
  | 0xB3 => need (f.a = 0 ∧ f.imm10.extractLsb' 4 6 = 0) () >>= fun _ => if f.imm10.getLsbD 3 then need (f.d = 0) (.bardDrop (f.imm10.extractLsb' 0 3)) else .ok (.bard f.d (f.imm10.extractLsb' 0 3))
  | 0xB4 => pdX f.d >>= fun p => need (f.b = 0 ∧ f.x = 0) (.dqpush p f.a)
  | 0xB5 => pdX f.b >>= fun p => need (f.a = 0 ∧ f.x = 0) (.dqpop f.d p)
  | 0xB6 => pdX f.b >>= fun p => need (f.x = 0) (.dqsteal f.d f.a p)
  | 0xB7 => need (f.d = 0) () >>= fun _ => if f.x = 0 then .ok (.bndminCl f.a f.b) else if f.x = 1 then .ok (.bndminDev f.a f.b) else .error .sub
  | 0xB8 => need (f.b = 0 ∧ f.x = 0) (.bndrd f.d f.a)
  | 0xB9 => need (f.all = 0) .batch
  | 0xBA => need (f.d = 0 ∧ f.b = 0 ∧ f.x = 0) (.waitb f.a)
  | 0xBB => need (f.d = 0 ∧ f.a = 0 ∧ f.b = 0 ∧ f.c2 = 0) (.fence (scopeOf f.x2))
  | 0xBC => need (f.all = 0) .ifence
  | _ => .error .unassigned

/-- Opcodes 0xC0 to 0xC9: engines, R265. -/
def decodeT (opc : Nat) (f : Fields) : Except DecErr Instr :=
  match opc with
  | 0xC0 => need (f.tv = 0) () >>= fun _ => sub (bit2? f.x2) fun z => .mma f.ta f.tb f.tc (clsOf f.c2) z
  | 0xC1 => sub (bit2? f.x2) fun z => .mmag f.ta f.tb f.tc f.tv (clsOf f.c2) z
  | 0xC2 => need (f.tb = 0 ∧ f.tv = 0 ∧ f.c2 = 0) () >>= fun _ => sub (copy? f.x2) fun m => .tcopy f.ta f.tc m
  | 0xC3 => need (f.ta = 0 ∧ f.tb = 0 ∧ f.x = 0) (.tfill f.tc f.tv)
  | 0xC4 => if f.x2 = 0 then need (f.tb = 0 ∧ f.c2 = 0) (.tscaleExp f.ta f.tc f.tv)
    else if f.x2 = 1 then need (f.tb = 0) (.tscaleAcc f.ta f.tc f.tv (clsOf f.c2))
    else if f.x2 = 2 then need (f.tv = 0) (.tscaleAccr f.ta f.tb f.tc (clsOf f.c2))
    else need (f.tv = 0) (.tscaleAccc f.ta f.tb f.tc (clsOf f.c2))
  | 0xC5 => need (f.tb = 0 ∧ f.tv = 0) () >>= fun _ => sub (bit2? f.x2) fun t => .tconv f.ta f.tc (rndOf f.c2) t
  | 0xC6 => need (f.ta = 0 ∧ f.tb = 0 ∧ f.tv = 0 ∧ f.x = 0) (.tgive f.tc)
  | 0xC7 => need (f.ta = 0 ∧ f.tb = 0 ∧ f.tv = 0 ∧ f.x = 0) (.ttake f.tc)
  | 0xC8 => need (f.ta = 0 ∧ f.tb = 0 ∧ f.x = 0) (.tdesc f.tc f.tv)
  | 0xC9 => need (f.ta = 0 ∧ f.tb = 0) () >>= fun _ => sub (tfield? f.x) fun t => .tsetd f.tc f.tv t
  | _ => .error .unassigned

/-- Opcodes 0xD0 to 0xDB: checks and control state, R266, R272, R275. -/
def decodeK (opc : Nat) (f : Fields) : Except DecErr Instr :=
  match opc with
  | 0xD0 => need (f.d = 0) () >>= fun _ => if f.x = 0 then need (f.b = 0) (.chk f.a) else if f.x = 1 then .ok (.chkTwoRegisters f.a f.b) else if f.x = 2 then need (f.b = 0) (.chkU f.a) else .error .sub
  | 0xD1 => pdX f.a >>= fun p => need (f.d = 0 ∧ f.b = 0) () >>= fun _ => sub (f.bit?) fun t => .chkp p t
  | 0xD2 => pdX f.d >>= fun p => need (f.b = 0) () >>= fun _ => (pt? f.x).elim (.error .sub) fun m => if m = .p then need (f.a.extractLsb' 3 3 = 0) (.ptest p f.a m) else .ok (.ptest p f.a m)
  | 0xD3 => need (f.b = 0) () >>= fun _ => (pc? f.x).elim (.error .sub) fun m => if m = .p then need (f.a.extractLsb' 3 3 = 0) (.pcode f.d f.a m) else .ok (.pcode f.d f.a m)
  | 0xD4 => need (f.a = 0 ∧ f.b = 0) (.pset f.d (f.x.extractLsb' 1 3) (f.x.getLsbD 0))
  | 0xD5 => need (f.d = 0 ∧ f.imm16.extractLsb' 12 4 = 0) (.enter (f.imm16.extractLsb' 0 12))
  | 0xD6 => need (f.d = 0) (.leave f.imm16)
  | 0xD7 => need (f.d = 0) (.ebset f.imm16)
  | 0xD8 => need (f.imm16 = 0) (.ebrd f.d)
  | 0xD9 => if f.imm16 = 0 then .ok (.clock f.d) else if f.imm16 = 1 then .ok (.clockV f.d) else .error .sub
  | 0xDA => if f.imm16 = 0 then .ok (.wall f.d) else if f.imm16 = 1 then .ok (.wallV f.d) else .error .sub
  | 0xDB => (tim? f.c2).elim (.error .sub) fun t =>
      if f.x2 = 0 then need (f.d = 0 ∧ f.b = 0) (.timer f.a t)
      else if f.x2 = 1 then need (f.d = 0 ∧ f.a = 0 ∧ f.b = 0) (.timerWait t)
      else if f.x2 = 2 then pdX f.d >>= fun p => need (f.a = 0 ∧ f.b = 0) (.timerPoll p t)
      else .error .sub
  | _ => .error .unassigned

/-- Opcodes 0xE0 to 0xEC: supervisor, R329. -/
def decodeP (opc : Nat) (f : Fields) : Except DecErr Instr :=
  match opc with
  | 0xE0 => need (f.all = 0) .sret
  | 0xE1 => need (f.b = 0) () >>= fun _ => if f.c2 = 0 then .ok (.rqrd f.d f.a f.x2) else if f.c2 = 1 then .ok (.rqrdV f.d f.a f.x2) else .error .sub
  | 0xE2 => need (f.d = 0) () >>= fun _ => if f.c2 = 0 then .ok (.rqwr f.a f.b f.x2) else if f.c2 = 1 then .ok (.rqwrV f.a f.b f.x2) else .error .sub
  | 0xE3 => need (f.a = 0 ∧ f.b = 0 ∧ f.x = 0) (.frqpop f.d)
  | 0xE4 => need (f.d = 0 ∧ f.c2 = 0) () >>= fun _ => if f.x2 = 0 then .ok (.tlbinvRange f.a f.b) else if f.x2 = 1 then .ok (.tlbinvTag f.a f.b) else if f.x2 = 2 then .ok (.tlbinvAll f.a f.b) else .error .sub
  | 0xE5 => need (f.all = 0) .tlbwait
  | 0xE6 => need (f.d = 0 ∧ f.b = 0 ∧ f.x = 0) (.ctxsv f.a)
  | 0xE7 => need (f.d = 0 ∧ f.b = 0 ∧ f.x = 0) (.ctxrs f.a)
  | 0xE8 => need (f.x.getLsbD 3 = false) (.dbgset f.d f.a f.b (f.x.extractLsb' 0 3))
  | 0xE9 => if f.sy = 0 then .ok (.ssr f.num f.r) else if f.sy = 1 then .ok (.ssrV f.num f.r) else if f.sy = 2 then need (f.r.extractLsb' 3 3 = 0) (.ssrP f.num f.r) else .error .sub
  | 0xEA => if f.sy = 0 then .ok (.ssw f.num f.r) else if f.sy = 1 then .ok (.sswV f.num f.r) else .error .sub
  | 0xEB => need (f.d = 0 ∧ f.b = 0 ∧ f.c2 = 0) () >>= fun _ => if f.x2 = 0 then .ok (.kill f.a) else if f.x2 = 1 then need (f.a = 0) .killTeam else if f.x2 = 2 then need (f.a = 0) .killDump else .error .sub
  | 0xEC => need (f.all = 0) .halt
  | _ => .error .unassigned

/-- The family of an opcode decides its decoder (Table 6-3). -/
def decodeFields (opc : Nat) (f : Fields) : Except DecErr Instr :=
  if opc < 0x20 then decodeU opc f
  else if opc < 0x40 then decodeV opc f
  else if opc < 0x60 then decodeF opc f
  else if opc < 0x70 then decodeX opc f
  else if opc < 0x80 then decodeC opc f
  else if opc < 0xA0 then decodeM opc f
  else if opc < 0xB0 then decodeA opc f
  else if opc < 0xC0 then decodeS opc f
  else if opc < 0xD0 then decodeT opc f
  else if opc < 0xE0 then decodeK opc f
  else if opc < 0xF0 then decodeP opc f
  else .error .unassigned

/-- A decoded word: chain bit, switch marker and instruction (R167). -/
structure IWord where
  c : Bool
  w : Bool
  i : Instr
  deriving DecidableEq, Repr

/-- The opcode of a word (Table 6-1). -/
def opcOf (w : Word) : Nat := (w.extractLsb' 22 8).toNat

/-- The decoder: total, and it refuses by name a word that is no instruction (R176, R171, R173). The checks of check 5 of R177
on a decoded instruction's operands are Instr.wellFormed and, with the launch's regs, R20: the issue makes them. -/
def decodeWord (w : Word) : Except DecErr IWord :=
  match decodeFields (opcOf w) ⟨w.extractLsb' 0 22⟩ with
  | .error e => .error e
  | .ok i => .ok ⟨w.getLsbD 31, w.getLsbD 30, i⟩

/-- The instruction of a word whose bits are `w`, bit 0 the least significant, as the opcode table numbers them. The word
stands in memory least significant byte first (R60), so its bits are those of the number. -/
def decodeTableWord (nbits w : Nat) : Option Instr :=
  match decodeWord (BitVec.ofNat 32 (w % 2 ^ nbits)) with
  | .ok iw => some iw.i
  | .error _ => none

/-! ### Encoder -/

def word (opc : BitVec 8) (f : BitVec 22) : Word := 0#2 ++ opc ++ f
def zero (opc : BitVec 8) : Word := word opc 0
def rrr (opc : BitVec 8) (d a b : Reg) (x : BitVec 4) : Word := word opc (d ++ a ++ b ++ x)
def ri (opc : BitVec 8) (d a : Reg) (i : BitVec 10) : Word := word opc (d ++ a ++ i)
def ru (opc : BitVec 8) (d : Reg) (i : BitVec 16) : Word := word opc (d ++ i)
def mr (opc : BitVec 8) (d : Reg) (b : BitVec 3) (o : Reg) (wd : BitVec 3) (x : BitVec 4) : Word :=
  word opc (d ++ b ++ o ++ wd ++ x)
def mu (opc : BitVec 8) (d : Reg) (b : BitVec 3) (i : BitVec 13) : Word := word opc (d ++ b ++ i)
def br (opc : BitVec 8) (o : BitVec 20) (t : BitVec 2) : Word := word opc (o ++ t)
def brp (opc : BitVec 8) (p : BitVec 3) (o : BitVec 16) (t : BitVec 2) (n : Bool) : Word :=
  word opc (p ++ o ++ t ++ BitVec.ofBool n)
def kn (opc : BitVec 8) (k : BitVec 3) (r : Reg) (o : BitVec 10) (t : BitVec 2) : Word := word opc (k ++ r ++ o ++ t ++ 0#1)
def tk (opc : BitVec 8) (a b e : BitVec 4) (v : Reg) (k x : BitVec 2) : Word := word opc (a ++ b ++ e ++ v ++ k ++ x)
def sy (opc : BitVec 8) (n : BitVec 10) (r : Reg) (x : BitVec 6) : Word := word opc (n ++ r ++ x)

/-- The word of an instruction, with C = 0 and W = 0 (Table 6-1). The steps of the device that are no instruction have none:
0xFFFFFFFF minus the C and W bits stands for them, an unassigned word (R176). -/
def encode : Instr → Word
  | .smov d a => rrr 0x00 d a 0 0
  | .smovi d i => ru 0x01 d i
  | .smovh d i => ru 0x02 d i
  | .sadd d a b => rrr 0x03 d a b 0
  | .saddi d a i => ri 0x04 d a i
  | .ssub d a b => rrr 0x05 d a b 0
  | .smul d a b => rrr 0x06 d a b 0
  | .smulh d a b u => rrr 0x07 d a b (bit1 u)
  | .sand d a b => rrr 0x08 d a b 0
  | .sor d a b => rrr 0x09 d a b 0
  | .sxor d a b => rrr 0x0A d a b 0
  | .sshl d a b => rrr 0x0B d a b 0
  | .sshr d a b => rrr 0x0C d a b 0
  | .ssra d a b => rrr 0x0D d a b 0
  | .smin d a b u => rrr 0x0E d a b (bit1 u)
  | .smax d a b u => rrr 0x0F d a b (bit1 u)
  | .scmp p a b k => rrr 0x10 (0#3 ++ p) a b (icondCode k)
  | .ssel d a b n t => rrr 0x11 d a b (n ++ BitVec.ofBool t)
  | .spopc d a => rrr 0x12 d a 0 0
  | .sclz d a => rrr 0x13 d a 0 0
  | .slea d a b k => rrr 0x14 d a b k
  | .slane d a b u => rrr 0x15 d a b (bit1 u)
  | .srsr n r => sy 0x16 n r 0
  | .swsr n r => sy 0x17 n r 0
  | .vadd d a b => rrr 0x20 d a b 0
  | .vaddi d a i => ri 0x21 d a i
  | .vsub d a b => rrr 0x22 d a b 0
  | .vmul d a b => rrr 0x23 d a b 0
  | .vmulh d a b u => rrr 0x24 d a b (bit1 u)
  | .vmad d a b u => rrr 0x25 d a b (bit1 u)
  | .vdp4 d a b g => rrr 0x26 d a b (dpCode g)
  | .vmin d a b u => rrr 0x27 d a b (bit1 u)
  | .vmax d a b u => rrr 0x28 d a b (bit1 u)
  | .vabs d a u => rrr 0x29 d a 0 (bit1 u)
  | .vand d a b => rrr 0x2A d a b 0
  | .vor d a b => rrr 0x2B d a b 0
  | .vxor d a b => rrr 0x2C d a b 0
  | .vlop3 d a b s => rrr 0x2D d a b s
  | .vshl d a b => rrr 0x2E d a b 0
  | .vshr d a b => rrr 0x2F d a b 0
  | .vsra d a b => rrr 0x30 d a b 0
  | .vfshl d a b s => rrr 0x31 d a b s
  | .vfshr d a b s => rrr 0x32 d a b s
  | .vpopc d a => rrr 0x33 d a 0 0
  | .vclz d a => rrr 0x34 d a 0 0
  | .vbrev d a => rrr 0x35 d a 0 0
  | .vcmp p a b k => rrr 0x36 (0#3 ++ p) a b (icondCode k)
  | .vsel d a b n t => rrr 0x37 d a b (n ++ BitVec.ofBool t)
  | .vmov d a => rrr 0x38 d a 0 0
  | .vmovi d i => ru 0x39 d i
  | .vbcst d a u => rrr 0x3A d a 0 (bit1 u)
  | .vshfl d a b m => rrr 0x3B d a b (shmCode m)
  | .vred d a o => rrr 0x3C d a 0 (redCode o)
  | .vlane d u => rrr 0x3D d 0 0 (bit1 u)
  | .fadd d a b k => rrr 0x40 d a b (clsCode k ++ 0#2)
  | .fsub d a b k => rrr 0x41 d a b (clsCode k ++ 0#2)
  | .fmul d a b k => rrr 0x42 d a b (clsCode k ++ 0#2)
  | .ffma d a b k => rrr 0x43 d a b (clsCode k ++ 0#2)
  | .ffms d a b k => rrr 0x44 d a b (clsCode k ++ 0#2)
  | .fmin d a b => rrr 0x45 d a b 0
  | .fmax d a b => rrr 0x46 d a b 0
  | .fcmp p a b k => rrr 0x47 (0#3 ++ p) a b (fcondCode k)
  | .fclass d a => rrr 0x48 d a 0 0
  | .fscale d a b => rrr 0x49 d a b 0
  | .fsacc d a b k => rrr 0x4A d a b (clsCode k ++ 0#2)
  | .frnd d a r => rrr 0x4B d a 0 (0#2 ++ rndCode r)
  | .fhadd d a b k u => rrr 0x4C d a b (clsCode k ++ bit2 u)
  | .fhmul d a b k u => rrr 0x4D d a b (clsCode k ++ bit2 u)
  | .fhfma d a b k u => rrr 0x4E d a b (clsCode k ++ bit2 u)
  | .fbnd d a => rrr 0x4F d a 0 0
  | .fsetb d a b => rrr 0x50 d a b 0
  | .fclrb d a => rrr 0x51 d a 0 0
  | .cvt d a src dst r sat => rrr 0x60 d a (fmtCode src ++ fmtCode dst) (rndCode r ++ BitVec.ofBool sat ++ 0#1)
  | .pkn d a b m sat => rrr 0x61 d a b (fmtCode m ++ BitVec.ofBool sat)
  | .unpkn d a m i => rrr 0x62 d a (fmtCode m ++ i) 0
  | .frcp d a k => rrr 0x63 d a 0 (clsCode k ++ 0#2)
  | .frsq d a k => rrr 0x64 d a 0 (clsCode k ++ 0#2)
  | .fex2 d a k => rrr 0x65 d a 0 (clsCode k ++ 0#2)
  | .flg2 d a k => rrr 0x66 d a 0 (clsCode k ++ 0#2)
  | .fsin d a k => rrr 0x67 d a 0 (clsCode k ++ 0#2)
  | .fcos d a k => rrr 0x68 d a 0 (clsCode k ++ 0#2)
  | .bra o t => br 0x70 o t
  | .brc p o t n => brp 0x71 p o t n
  | .brx a => rrr 0x72 0 a 0 0
  | .brxU a => rrr 0x72 0 a 0 1
  | .call o t => br 0x73 o t
  | .ret r => kn 0x74 0 r 0 0
  | .enrol k => kn 0x75 k 0 0 0
  | .rejoin k => kn 0x76 k 0 0 0
  | .strike k => kn 0x77 k 0 0 0
  | .item k r o t => kn 0x78 k r o t
  | .yield => zero 0x79
  | .exit => zero 0x7A
  | .nop => zero 0x7B
  | .trapu i => ru 0x7C 0 i
  | .ld d b o wd m => mr 0x80 d b o (widthCode wd) (loadCode m)
  | .lds d b o wd m => mr 0x81 d b o (widthCode wd) (loadCode m)
  | .st d b o wd m => mr 0x82 d b o (widthCode wd) (storeCode m)
  | .ldu d b i => mu 0x83 d b i
  | .ldus d b i => mu 0x84 d b i
  | .stu d b i => mu 0x85 d b i
  | .gath d b o wd m => mr 0x86 d b o (widthCode wd) (loadCode m)
  | .gaths d b o wd m => mr 0x87 d b o (widthCode wd) (loadCode m)
  | .scat d b o wd m => mr 0x88 d b o (widthCode wd) (storeCode m)
  | .ldt d a b wd => rrr 0x89 d a b (tileCode wd ++ 0#2)
  | .stt d a b wd => rrr 0x8A d a b (tileCode wd ++ 0#2)
  | .bxlt d b => mu 0x8B d b 0
  | .pref l b o => mr 0x8C (0#4 ++ pfCode l) b o 0 0
  | .aadd d b o wd m => mr 0xA0 d b o (widthCode wd) (atomCode m)
  | .amin d b o wd m => mr 0xA1 d b o (widthCode wd) (atomCode m)
  | .amax d b o wd m => mr 0xA2 d b o (widthCode wd) (atomCode m)
  | .aand d b o wd m => mr 0xA3 d b o (widthCode wd) (atomCode m)
  | .aor d b o wd m => mr 0xA4 d b o (widthCode wd) (atomCode m)
  | .axor d b o wd m => mr 0xA5 d b o (widthCode wd) (atomCode m)
  | .axch d b o wd m => mr 0xA6 d b o (widthCode wd) (atomCode m)
  | .acas d b o wd m => mr 0xA7 d b o (widthCode wd) (atomCode m)
  | .afadd d b o wd m => mr 0xA8 d b o (widthCode wd) (atomCode m)
  | .axadd d b o wd m => mr 0xA9 d b o (widthCode wd) (atomCode m)
  | .axrd d b o wd m => mr 0xAA d b o (widthCode wd) (atomCode m)
  | .bari a i => ri 0xB0 0 a (0#7 ++ i)
  | .barw a i => ri 0xB1 0 a (0#7 ++ i)
  | .baraw d i => ri 0xB2 d 0 (0#7 ++ i)
  | .bard d i => ri 0xB3 d 0 (0#7 ++ i)
  | .bardDrop i => ri 0xB3 0 0 (1#7 ++ i)
  | .dqpush p a => rrr 0xB4 (0#3 ++ p) a 0 0
  | .dqpop d p => rrr 0xB5 d 0 (0#3 ++ p) 0
  | .dqsteal d a p => rrr 0xB6 d a (0#3 ++ p) 0
  | .bndminCl a b => rrr 0xB7 0 a b 0
  | .bndminDev a b => rrr 0xB7 0 a b 1
  | .bndrd d a => rrr 0xB8 d a 0 0
  | .batch => zero 0xB9
  | .waitb a => rrr 0xBA 0 a 0 0
  | .fence sc => rrr 0xBB 0 0 0 (0#2 ++ scopeCode sc)
  | .ifence => zero 0xBC
  | .mma a b e k z => tk 0xC0 a b e 0 (clsCode k) (bit2 z)
  | .mmag a b e v k z => tk 0xC1 a b e v (clsCode k) (bit2 z)
  | .tcopy a e m => tk 0xC2 a 0 e 0 0 (copyCode m)
  | .tfill e v => tk 0xC3 0 0 e v 0 0
  | .tscaleExp a e v => tk 0xC4 a 0 e v 0 0
  | .tscaleAcc a e v k => tk 0xC4 a 0 e v (clsCode k) 1
  | .tscaleAccr a b e k => tk 0xC4 a b e 0 (clsCode k) 2
  | .tscaleAccc a b e k => tk 0xC4 a b e 0 (clsCode k) 3
  | .tconv a e r t => tk 0xC5 a 0 e 0 (rndCode r) (bit2 t)
  | .tgive e => tk 0xC6 0 0 e 0 0 0
  | .ttake e => tk 0xC7 0 0 e 0 0 0
  | .tdesc e v => tk 0xC8 0 0 e v 0 0
  | .tsetd e v t => word 0xC9 (0#4 ++ 0#4 ++ e ++ v ++ tfieldCode t)
  | .chk a => rrr 0xD0 0 a 0 0
  | .chkTwoRegisters a b => rrr 0xD0 0 a b 1
  | .chkU a => rrr 0xD0 0 a 0 2
  | .chkp p t => rrr 0xD1 0 (0#3 ++ p) 0 (bit1 t)
  | .ptest p a m => rrr 0xD2 (0#3 ++ p) a 0 (ptCode m)
  | .pcode d a m => rrr 0xD3 d a 0 (pcCode m)
  | .pset d n t => rrr 0xD4 d 0 0 (n ++ BitVec.ofBool t)
  | .enter i => ru 0xD5 0 (0#4 ++ i)
  | .leave i => ru 0xD6 0 i
  | .ebset i => ru 0xD7 0 i
  | .ebrd d => ru 0xD8 d 0
  | .clock d => ru 0xD9 d 0
  | .clockV d => ru 0xD9 d 1
  | .wall d => ru 0xDA d 0
  | .wallV d => ru 0xDA d 1
  | .timer a t => rrr 0xDB 0 a 0 (timCode t ++ 0#2)
  | .timerWait t => rrr 0xDB 0 0 0 (timCode t ++ 1#2)
  | .timerPoll p t => rrr 0xDB (0#3 ++ p) 0 0 (timCode t ++ 2#2)
  | .sret => zero 0xE0
  | .rqrd d a n => rrr 0xE1 d a 0 (0#2 ++ n)
  | .rqrdV d a n => rrr 0xE1 d a 0 (1#2 ++ n)
  | .rqwr a b n => rrr 0xE2 0 a b (0#2 ++ n)
  | .rqwrV a b n => rrr 0xE2 0 a b (1#2 ++ n)
  | .frqpop d => rrr 0xE3 d 0 0 0
  | .tlbinvRange a b => rrr 0xE4 0 a b 0
  | .tlbinvTag a b => rrr 0xE4 0 a b 1
  | .tlbinvAll a b => rrr 0xE4 0 a b 2
  | .tlbwait => zero 0xE5
  | .ctxsv a => rrr 0xE6 0 a 0 0
  | .ctxrs a => rrr 0xE7 0 a 0 0
  | .dbgset d a b n => rrr 0xE8 d a b (0#1 ++ n)
  | .ssr n r => sy 0xE9 n r 0
  | .ssrV n r => sy 0xE9 n r 1
  | .ssrP n r => sy 0xE9 n r 2
  | .ssw n r => sy 0xEA n r 0
  | .sswV n r => sy 0xEA n r 1
  | .kill a => rrr 0xEB 0 a 0 0
  | .killTeam => rrr 0xEB 0 0 0 1
  | .killDump => rrr 0xEB 0 0 0 2
  | .halt => zero 0xEC
  | .illegalEncoding x => x
  | _ => 0x3FFFFFFF

/-- A word with its chain bit and switch marker (Table 6-1). -/
def encodeWord (x : IWord) : Word :=
  encode x.i ||| (if x.c then 0x80000000 else 0) ||| (if x.w then 0x40000000 else 0)

/-! ### Every encoding, by a word written out from the manual's tables -/

/-- A word decodes to an instruction, with C = 0 and W = 0. -/
def decodesTo (p : Nat × Instr) : Bool := decide (decodeWord (BitVec.ofNat 32 p.1) = .ok ⟨false, false, p.2⟩)

/-- Words written out from the fields of Table 6-2 and the uniform encodings. -/
theorem decode_uniform_words : [
    (0x001C7000, .smov 28 28),
    (0x0074F145, .smovi 52 61765),
    (0x00B4A6EC, .smovh 52 42732),
    (0x00ECF3C0, .sadd 44 60 60),
    (0x0114339B, .saddi 20 12 923),
    (0x014C9140, .ssub 12 36 20),
    (0x01ACB0C0, .smul 44 44 12),
    (0x01D473C1, .smulh 20 28 60 true),
    (0x023C32C0, .sand 60 12 44),
    (0x026453C0, .sor 36 20 60),
    (0x02945140, .sxor 20 20 20),
    (0x02D47140, .sshl 20 28 20),
    (0x03345340, .sshr 52 20 52),
    (0x03643240, .ssra 36 12 36),
    (0x039431C0, .smin 20 12 28 false),
    (0x03F471C1, .smax 52 28 28 true),
    (0x040791C2, .scmp 7 36 28 .lt),
    (0x046451C3, .ssel 36 20 28 1 true),
    (0x04A4B000, .spopc 36 44),
    (0x04E49000, .sclz 36 36),
    (0x053C9343, .slea 60 36 52 3),
    (0x0554F3C1, .slane 20 60 60 true),
    (0x05961700, .srsr 353 28),
    (0x05F93700, .swsr 915 28)].all decodesTo = true := by decide +kernel

/-- Words written out from the fields of Table 6-2 and the vector encodings. -/
theorem decode_vector_words : [
    (0x0824B3C0, .vadd 36 44 60),
    (0x085C7026, .vaddi 28 28 38),
    (0x088C72C0, .vsub 12 28 44),
    (0x08D47340, .vmul 20 28 52),
    (0x090CD1C0, .vmulh 12 52 28 false),
    (0x094C5341, .vmad 12 20 52 true),
    (0x099432C3, .vdp4 20 12 44 .us),
    (0x09D4B3C1, .vmin 20 44 60 true),
    (0x0A345340, .vmax 52 20 52 false),
    (0x0A64F000, .vabs 36 60 false),
    (0x0AB453C0, .vand 52 20 60),
    (0x0ACC9140, .vor 12 36 20),
    (0x0B3C7240, .vxor 60 28 36),
    (0x0B6C52C8, .vlop3 44 20 44 8),
    (0x0BA4D240, .vshl 36 52 36),
    (0x0BDC9140, .vshr 28 36 20),
    (0x0C24B140, .vsra 36 44 20),
    (0x0C6470C8, .vfshl 36 28 12 8),
    (0x0CACB2C6, .vfshr 44 44 44 6),
    (0x0CFCF000, .vpopc 60 60),
    (0x0D34D000, .vclz 52 52),
    (0x0D7C7000, .vbrev 60 28),
    (0x0D85D3C7, .vcmp 5 52 60 .leu),
    (0x0DFCD1C6, .vsel 60 52 28 3 false),
    (0x0E3C9000, .vmov 60 36),
    (0x0E7C402E, .vmovi 60 16430),
    (0x0EB49001, .vbcst 52 36 true),
    (0x0EECD1C2, .vshfl 44 52 28 .down),
    (0x0F34D006, .vred 52 52 .or),
    (0x0F7C0000, .vlane 60 false)].all decodesTo = true := by decide +kernel

/-- Words written out from the fields of Table 6-2 and the float encodings. -/
theorem decode_float_words : [
    (0x103C91C8, .fadd 60 36 28 .short),
    (0x105453C8, .fsub 20 20 60 .short),
    (0x10BC70CC, .fmul 60 28 12 .lean),
    (0x10ECB34C, .ffma 44 44 52 .lean),
    (0x112CF348, .ffms 44 60 52 .short),
    (0x114C5240, .fmin 12 20 36),
    (0x11B45340, .fmax 52 20 52),
    (0x11C2D243, .fcmp 2 52 36 .le),
    (0x120C5000, .fclass 12 20),
    (0x125C5140, .fscale 28 20 20),
    (0x128C9240, .fsacc 12 36 36 .exact),
    (0x12D4D002, .frnd 20 52 .rp),
    (0x131C7241, .fhadd 28 28 36 .exact true),
    (0x134CB0C9, .fhmul 12 44 12 .short true),
    (0x13AC714D, .fhfma 44 28 20 .lean true),
    (0x13ECB000, .fbnd 44 44),
    (0x14245240, .fsetb 36 20 36),
    (0x14645000, .fclrb 36 20)].all decodesTo = true := by decide +kernel

/-- Words written out from the fields of Table 6-2 and the convert encodings. -/
theorem decode_convert_words : [
    (0x1814318C, .cvt 20 12 .e4m3 .f32 .rm false),
    (0x186CB146, .pkn 44 44 20 .e4m3 false),
    (0x18A451A0, .unpkn 36 20 .e4m3 2),
    (0x18F49004, .frcp 52 36 .auto),
    (0x192CD008, .frsq 44 52 .short),
    (0x195C3008, .fex2 28 12 .short),
    (0x199C7004, .flg2 28 28 .auto),
    (0x19CCD00C, .fsin 12 52 .lean),
    (0x1A1CF004, .fcos 28 60 .auto)].all decodesTo = true := by decide +kernel

/-- Words written out from the fields of Table 6-2 and the control encodings. -/
theorem decode_control_words : [
    (0x1C34EA66, .bra 866969 2),
    (0x1C4BD7AF, .brc 1 31477 3 true),
    (0x1C809000, .brx 36),
    (0x1C803001, .brxU 12),
    (0x1CCFB8EA, .call 257594 2),
    (0x1D078000, .ret 60),
    (0x1D500000, .enrol 2),
    (0x1DB00000, .rejoin 6),
    (0x1DD80000, .strike 3),
    (0x1E1D9FCC, .item 3 44 1017 2),
    (0x1E400000, .yield),
    (0x1E800000, .exit),
    (0x1EC00000, .nop),
    (0x1F0084AB, .trapu 33963)].all decodesTo = true := by decide +kernel

/-- Words written out from the fields of Table 6-2 and the memory encodings. -/
theorem decode_memory_words : [
    (0x203CBA24, .ld 60 5 52 .w (.acq .team)),
    (0x207C4E26, .lds 60 2 28 .w (.acq .dev)),
    (0x209CC62B, .st 28 6 12 .w (.rel .sys)),
    (0x20DCD7D8, .ldu 28 6 6104),
    (0x212C412B, .ldus 44 2 299),
    (0x215CAE95, .stu 28 5 3733),
    (0x218CCA24, .gath 12 6 20 .w (.acq .team)),
    (0x21FCF627, .gaths 60 7 44 .w (.acq .sys)),
    (0x223C9229, .scat 60 4 36 .w (.rel .die)),
    (0x225CF0C8, .ldt 28 60 12 .w),
    (0x22BCD248, .stt 60 52 36 .w),
    (0x22DCC000, .bxlt 28 6),
    (0x23016A00, .pref .l2 3 20)].all decodesTo = true := by decide +kernel

/-- Words written out from the fields of Table 6-2 and the atomics encodings. -/
theorem decode_atomics_words : [
    (0x2834B22E, .aadd 52 5 36 .w (.acqrel .dev)),
    (0x2854962C, .amin 20 4 44 .w (.acqrel .team)),
    (0x28B45E2C, .amax 52 2 60 .w (.acqrel .team)),
    (0x28CCC62E, .aand 12 6 12 .w (.acqrel .dev)),
    (0x29243A2F, .aor 36 1 52 .w (.acqrel .sys)),
    (0x294CEA2C, .axor 12 7 20 .w (.acqrel .team)),
    (0x2994722D, .axch 20 3 36 .w (.acqrel .die)),
    (0x29EC5E2D, .acas 44 2 60 .w (.acqrel .die)),
    (0x2A2C562C, .afadd 44 2 44 .w (.acqrel .team)),
    (0x2A64CE2C, .axadd 36 6 28 .w (.acqrel .team)),
    (0x2AAC322D, .axrd 44 1 36 .w (.acqrel .die))].all decodesTo = true := by decide +kernel

/-- Words written out from the fields of Table 6-2 and the sync encodings. -/
theorem decode_sync_words : [
    (0x2C009001, .bari 36 1),
    (0x2C40D005, .barw 52 5),
    (0x2CA40003, .baraw 36 3),
    (0x2CF40003, .bard 52 3),
    (0x2CC00009, .bardDrop 1),
    (0x2D027000, .dqpush 2 28),
    (0x2D6C0060, .dqpop 44 6),
    (0x2DACB050, .dqsteal 44 44 5),
    (0x2DC050C0, .bndminCl 20 12),
    (0x2DC053C1, .bndminDev 20 60),
    (0x2E1C5000, .bndrd 28 20),
    (0x2E400000, .batch),
    (0x2E805000, .waitb 20),
    (0x2EC00002, .fence .dev),
    (0x2F000000, .ifence)].all decodesTo = true := by decide +kernel

/-- Words written out from the fields of Table 6-2 and the engines encodings. -/
theorem decode_engines_words : [
    (0x30231C04, .mma 8 12 7 .auto false),
    (0x30706CC0, .mmag 12 1 11 12 .exact false),
    (0x30B80802, .tcopy 14 2 .db),
    (0x30C02940, .tfill 10 20),
    (0x311C3E40, .tscaleExp 7 15 36),
    (0x31180AC1, .tscaleAcc 6 2 44 .exact),
    (0x31271C02, .tscaleAccr 9 12 7 .exact),
    (0x3138DC07, .tscaleAccc 14 3 7 .auto),
    (0x31700801, .tconv 12 2 .rn true),
    (0x31803800, .tgive 14),
    (0x31C01000, .ttake 4),
    (0x32000EC0, .tdesc 3 44),
    (0x32401FC3, .tsetd 7 60 .vrows)].all decodesTo = true := by decide +kernel

/-- Words written out from the fields of Table 6-2 and the checks encodings. -/
theorem decode_checks_words : [
    (0x34007000, .chk 28),
    (0x3400B1C1, .chkTwoRegisters 44 28),
    (0x34009002, .chkU 36),
    (0x34401000, .chkp 4 false),
    (0x34861002, .ptest 6 4 .p),
    (0x34F41001, .pcode 52 4 .p),
    (0x350C000A, .pset 12 5 false),
    (0x35400BD8, .enter 3032),
    (0x35802E38, .leave 11832),
    (0x35C06541, .ebset 25921),
    (0x360C0000, .ebrd 12),
    (0x364C0000, .clock 12),
    (0x36540001, .clockV 20),
    (0x368C0000, .wall 12),
    (0x36A40001, .wallV 36),
    (0x36C0F004, .timer 60 .wall),
    (0x36C00001, .timerWait .cyc),
    (0x36C40006, .timerPoll 4 .wall)].all decodesTo = true := by decide +kernel

/-- Words written out from the fields of Table 6-2 and the supervisor encodings. -/
theorem decode_supervisor_words : [
    (0x38000000, .sret),
    (0x386C9002, .rqrd 44 36 2),
    (0x38645005, .rqrdV 36 20 1),
    (0x388051C2, .rqwr 20 28 2),
    (0x388092C6, .rqwrV 36 44 2),
    (0x38DC0000, .frqpop 28),
    (0x390051C0, .tlbinvRange 20 28),
    (0x39005241, .tlbinvTag 20 36),
    (0x390033C2, .tlbinvAll 12 60),
    (0x39400000, .tlbwait),
    (0x39807000, .ctxsv 28),
    (0x39C03000, .ctxrs 12),
    (0x3A0C93C2, .dbgset 12 36 60 2),
    (0x3A479D00, .ssr 121 52),
    (0x3A54D901, .ssrV 333 36),
    (0x3A6B3142, .ssrP 691 5),
    (0x3ABFA300, .ssw 1018 12),
    (0x3A8CE301, .sswV 206 12),
    (0x3AC05000, .kill 20),
    (0x3AC00001, .killTeam),
    (0x3AC00002, .killDump),
    (0x3B000000, .halt)].all decodesTo = true := by decide +kernel

end Sys2Proof
end

