-- ==== Sys2Proof/Machine/Translate.lean ====
section
/-! DEFINITION. Physical memory (R345 to R347), page tables (R348 to R352), translation (R353 to R357) and fault
records (R358, R359). -/

namespace Sys2Proof.Machine

/-! ### Physical memory -/

/-- What a physical address holds (Table 14-1): HBM4 of a die, Tarn, pond of a core, LPDDR6, a CXL window, or no memory. -/
inductive PMem | hbm (d : Nat) | tarn | pond (core : Nat) | lpddr | cxl | none
  deriving DecidableEq, Repr

/-- What an address holds. Of a core's 4 MiB of the pond window the upper half, tiles 64 to 127, holds no memory, since a pond has 64 tiles:
Table 14-1 does not say it (DESIGN CHOICE, log entry 4). -/
def pmem (pa : Nat) : PMem :=
  if pa < 0x8000000000 then .hbm (pa / 0x1000000000)
  else if pa < 0x8020000000 then .tarn
  else if pa < 0x9000000000 then .none
  else if pa < 0x9040000000 then
    if pa % 0x400000 < 0x200000 then .pond ((pa - 0x9000000000) / 0x400000) else .none
  else if pa < 0x10000000000 then .none
  else if pa < 0x20000000000 then .lpddr
  else if pa < 0x10000000000000 then .cxl
  else .none

/-- PA of a byte of a core's pond: tile and byte within it (R345). -/
def pondPa (core tile byte : Nat) : Nat := 0x9000000000 + core * 0x400000 + tile * 0x8000 + byte

/-- What an address that is not listed reads as (log entry 4). -/
def memDefault : Byte := 0
def MemSt.byte (m : MemSt) (pa : Nat) : Byte := Tb.get memDefault m.cells pa
def MemSt.setByte (m : MemSt) (pa : Nat) (b : Byte) : MemSt := { m with cells := Tb.set memDefault m.cells pa b }
/-- The n bytes at an address, lowest first. -/
def MemSt.bytes (m : MemSt) (pa n : Nat) : List Byte := (List.range n).map (fun i => m.byte (pa + i))
def MemSt.setBytes (m : MemSt) (pa : Nat) : List Byte → MemSt
  | [] => m
  | b :: t => (m.setByte pa b).setBytes (pa + 1) t
/-- An unsigned number of n bytes (R8). -/
def MemSt.num (m : MemSt) (pa n : Nat) : Nat := ofBytes (m.bytes pa n)
def MemSt.setNum (m : MemSt) (pa n x : Nat) : MemSt := m.setBytes pa (toBytes n x)
def State.byte (s : State) (pa : Nat) : Byte := s.mem.byte pa
def State.num (s : State) (pa n : Nat) : Nat := s.mem.num pa n
def State.upMem (s : State) (f : MemSt → MemSt) : State := { s with mem := f s.mem }
def State.setNum (s : State) (pa n x : Nat) : State := s.upMem (fun m => m.setNum pa n x)
def State.setBytes (s : State) (pa : Nat) (l : List Byte) : State := s.upMem (fun m => m.setBytes pa l)

/-- The sector of an address (R118). -/
def sectorOf (pa : Nat) : Nat := pa / 32
/-- Where the bound of an address's sector is held: a word of the carve-out (R346), the arrays of the Tarn and ponds, or
nowhere. -/
inductive BndHome | word (pa : Nat) | array (sector : Nat) | none
  deriving DecidableEq, Repr
def bndHome (pa : Nat) : BndHome :=
  match pmem pa with
  | .hbm d => .word (d * 0x1000000000 + 0xF00000000 + 2 * ((pa - d * 0x1000000000) / 32))
  | .lpddr => .word (0x1F000000000 + 2 * ((pa - 0x10000000000) / 32))
  | .tarn => .array (sectorOf pa)
  | .pond _ => .array (sectorOf pa)
  | _ => .none
/-- The sector bound kept for an address; reserved encodings read as unbounded (R96). -/
def MemSt.bound (m : MemSt) (pa : Nat) : EB :=
  match bndHome pa with
  | .word w => ebRead (BitVec.ofNat 16 (m.num w 2))
  | .array k => ebRead (Tb.get 0 m.bounds k)
  | .none => 0
def MemSt.setBound (m : MemSt) (pa : Nat) (e : EB) : MemSt :=
  match bndHome pa with
  | .word w => m.setNum w 2 e.toNat
  | .array k => { m with bounds := Tb.set 0 m.bounds k e }
  | .none => m
/-- A line with an uncorrectable error, CXL poison or link error, a device that cannot be reached: the code of Table 4-6. -/
def MemSt.err (m : MemSt) (pa : Nat) : Option Nat :=
  if m.bad.contains (pa / 128) then some 1
  else if m.linkErr.contains (pa / 32) then some 7
  else if m.peerDown.contains (pa / 32) then some 8
  else none

/-! ### Page table entries (Tables 14-3, 14-4) -/

def pteV (e : Nat) : Bool := e.testBit 0
def pteFrame (e : Nat) : Nat := e / 2 ^ 24 * 4096
def pteTier (e : Nat) : Nat := bits e 4 2
def pteHome (e : Nat) : Nat := bits e 6 5
def pteBnd (e : Nat) : Bool := e.testBit 7
def pteRc (e : Nat) : Bool := e.testBit 8
def pteR (e : Nat) : Bool := e.testBit 9
def pteW (e : Nat) : Bool := e.testBit 10
def pteX (e : Nat) : Bool := e.testBit 11
def pteU (e : Nat) : Bool := e.testBit 12
def pteA (e : Nat) : Bool := e.testBit 13
def pteD (e : Nat) : Bool := e.testBit 14
def pteMigr (e : Nat) : Bool := e.testBit 15
def pteFt (e : Nat) : Nat := bits e 14 13
def pteC16 (e : Nat) : Bool := e.testBit 16
def pteLeaf (e : Nat) : Bool := e.testBit 17

/-- Whether a page table node or root may lie there (R349). -/
def nodeMem (pa : Nat) : Bool :=
  match pmem pa with
  | .hbm _ => true | .tarn => true | .lpddr => true | _ => false
/-- A malformed interior entry (R351). -/
def interiorBad (e : Nat) : Bool := decide (bits e 23 1 ≠ 0) || !nodeMem (pteFrame e)
/-- Inside a reserved carve-out (R346): [pa, pa + size). -/
def inCarve (carved : List Nat) (pa size : Nat) : Bool :=
  carved.any (fun c =>
    let lo := if c = 8 then 0x1F000000000 else c * 0x1000000000 + 0xF00000000
    let hi := if c = 8 then 0x20000000000 else (c + 1) * 0x1000000000
    decide (pa < hi) && decide (lo < pa + size))
/-- Page size of a valid leaf at level 1 or 0 (Table 14-5). -/
def leafSize (level e : Nat) : Nat := if level = 1 then 0x200000 else if pteC16 e then 0x10000 else 0x1000
/-- Page size by TIER (Table 14-5). -/
def tierSize (attr : Nat) : Nat := match pteTier attr with | 0 => 0x200000 | 2 => 0x1000 | _ => 0x10000
/-- A malformed leaf of a tag (R351, R442). A level-1 leaf of tier 0 with C16 set is one: Table 14-5 says only 'level-1 leaf' of its form (DESIGN
CHOICE, log entry 39). -/
def leafBad (carved : List Nat) (tag level e : Nat) : Bool :=
  let t := pteTier e
  let f := pteFrame e
  let sz := leafSize level e
  let form :=
    match t with
    | 0 => decide (level = 1) && !pteC16 e
    | 2 => decide (level = 0) && !pteC16 e
    | 1 => decide (level = 0) && pteC16 e
    | 3 => decide (level = 0) && pteC16 e
    | 4 => decide (level = 0) && pteC16 e
    | 5 => decide (level = 0) && pteC16 e
    | _ => false
  let range :=
    match t, pmem f with
    | 0, .hbm _ => true
    | 1, .lpddr => true
    | 2, .cxl => true
    | 3, .cxl => true
    | 4, .tarn => true
    | 5, .pond _ => true
    | _, _ => false
  let home := (decide (pteHome e = 2) == decide (t = 4)) && (decide (pteHome e = 3) == decide (t = 5))
  let bnd := !pteBnd e || (if t = 0 then carved.contains (f / 0x1000000000) else if t = 1 then carved.contains 8 else true)
  !(form && range && home && bnd && decide (f % sz = 0) && !inCarve carved f sz &&
    !(decide (tag ≠ 0) && decide (0x8000000000 ≤ f) && decide (f ≤ 0x80004FFFFF)) && decide (bits e 23 18 = 0) &&
    !(e.testBit 1) && (decide (level = 1) || !pteLeaf e))

/-- Where a walk ends (R353): at a valid leaf, at an invalid entry, or at a malformed entry; with the entry's level
(5 for the root entry), address and value. -/
inductive Walk
  | leaf (level epa e : Nat)
  | invalid (level epa e : Nat)
  | malformed (level e : Nat)
  deriving DecidableEq, Repr

/-- The walk from an entry at level n + 1 downwards (R353). -/
def walkFrom (m : MemSt) (tag va : Nat) : Nat → Nat → Nat → Walk
  | n, epa, e =>
    if !pteV e then .invalid n epa e
    else
      match n with
      | 0 => if leafBad m.carved tag 0 e then .malformed 0 e else .leaf 0 epa e
      | k + 1 =>
        if decide (k + 1 = 1) && pteLeaf e then (if leafBad m.carved tag 1 e then .malformed 1 e else .leaf 1 epa e)
        else if interiorBad e then .malformed (k + 1) e
        else
          let epa' := pteFrame e + 8 * bits va (9 * k + 20) (9 * k + 12)
          walkFrom m tag va k epa' (m.num epa' 8)

/-- The walk of R353 for a canonical address in a tag. -/
def walk (m : MemSt) (tag va : Nat) : Walk :=
  let r := 0x8000000000 + 8 * tag
  walkFrom m tag va 5 r (m.num r 8)

/-! ### Fault records (R358) -/

/-- Group handle (R358). -/
def mkHandle (core sched place : Nat) : Nat := core * 256 + sched * 64 + place * 4

/-- What a fault record and a permission check need to know of an access. -/
structure Ctx where
  h : Nat
  core : Nat
  tag : Nat
  sv : Bool
  pc : PC
  deriving DecidableEq, Repr

/-- Table 14-6, words 0 and 1, with words 2 and 3 of Table 14-7. -/
def mkRec (kind code : Nat) (wr : Bool) (pc : PC) (va w2 w3 : Nat) : FaultRec :=
  ⟨BitVec.ofNat 64 (kind * 2 ^ 56 + code * 2 ^ 51 + b2n wr * 2 ^ 50 + pc.toNat), BitVec.ofNat 64 (va % 2 ^ 57),
   BitVec.ofNat 64 w2, BitVec.ofNat 64 w3⟩
def FaultRec.kind (r : FaultRec) : Nat := r.w0.toNat / 2 ^ 56

/-- Post a record other than PAGE: dropped when the queue is full (R332). -/
def postRec (s : State) (core : Nat) (r : FaultRec) : State :=
  s.modCore core (fun c => if c.frq.length < 256 then { c with frq := c.frq ++ [r] } else { c with frqOvf := true })
/-- Remove the oldest record of a kind other than PAGE. -/
def dropOther : List FaultRec → List FaultRec
  | [] => []
  | r :: t => if r.kind ≠ 1 then t else r :: dropOther t
/-- Post a PAGE record: it displaces the oldest record of another kind when the queue is full (R332). -/
def postPage (s : State) (core : Nat) (r : FaultRec) : State :=
  s.modCore core (fun c =>
    if c.frq.length < 256 then { c with frq := c.frq ++ [r] } else { c with frq := dropOther c.frq ++ [r], frqOvf := true })
/-- Places that PAGE records can take: free places and records of other kinds (R332). -/
def pageRoom (s : State) (core : Nat) : Nat :=
  let q := (s.core core).frq
  (256 - q.length) + (q.filter (fun r => decide (r.kind ≠ 1))).length

/-- The number that stands for the firmware processor among the cores' TLBs (R357); it has no queue of fault records. -/
def basinTlb : Nat := 256
/-- Post a MALFORMED record (R359). -/
def postMalformed (s : State) (x : Ctx) (wr : Bool) (va level e : Nat) : State :=
  if x.core = basinTlb then s else postRec s x.core (mkRec 4 5 wr x.pc va e (x.tag * 2 ^ 48 + x.h * 2 ^ 32 + level * 2 ^ 29))

/-! ### Retention of SRAM banks (R140) -/

/-- The state of a bank, with the count of its clock at which that state began, or at which an active bank was last accessed. Banks of 256 KiB
are numbered: those of the Tarn and the ponds by PA / 2^18, the first-level cache of core c 2^34 + c, second-level bank k of die d
2^35 + 512 d + k, bank k of the synchronisation engine of die d 2^36 + 32 d + k (log entry 24). -/
def bankSt (s : State) (b : Nat) : BankSt × Nat := Tb.get (BankSt.active, 0) s.banks b
/-- The count of a bank's clock: core cycles for a pond or a first-level cache; of the others the spec names none (log entry 24). -/
def bankClk (s : State) (b : Nat) : Nat :=
  if 2 ^ 35 ≤ b then s.now
  else if 2 ^ 34 ≤ b then s.clk (b - 2 ^ 34)
  else match pmem (b * 2 ^ 18) with | .pond c => s.clk c | _ => s.now
def setBankSt (s : State) (b : Nat) (st : BankSt) : State := { s with banks := Tb.put s.banks b (st, bankClk s b) }
/-- The banks that an access at an address goes to: its pond, the second-level cache of its home die, or the Tarn, where LPDDR6 and CXL memory
are cached (R2, R128); and the first-level cache where `l1` says so. Which bank holds a cached line the spec does not say (log entry 24). -/
def banksAt (core : Nat) (l1 : Bool) (pa : Nat) : List Nat :=
  (match pmem pa with
   | .tarn | .pond _ => [pa / 2 ^ 18]
   | .hbm d => [2 ^ 35 + 512 * d + pa / 2 ^ 18 % 512]
   | .lpddr | .cxl => [0x200000 + pa / 2 ^ 18 % 2048]
   | .none => []) ++ (if l1 then [2 ^ 34 + core] else [])
/-- The bank of the synchronisation engine that serves an address, at its home die (Table 14-1). -/
def engineBanks (pa : Nat) : List Nat :=
  match pmem pa with
  | .hbm d => [2 ^ 36 + 32 * d + pa / 2 ^ 18 % 32]
  | .tarn | .lpddr => [2 ^ 36 + 32 * (pa / 2 ^ 12 % 8) + pa / 2 ^ 18 % 32]
  | _ => []
/-- The bank of its die's engine that holds the deques of a core (R161). -/
def dequeBank (core : Nat) : Nat := 2 ^ 36 + 32 * dieOf core + core % 32
/-- Accesses reach some banks: whether all of them serve. A bank in retention begins its exit, and one that enters it finishes that first. -/
def reachBanks (s : State) (bs : List Nat) : Bool × State :=
  let ok := bs.all (fun b => decide ((bankSt s b).1 = .active))
  (ok, bs.foldl (fun s b =>
    match (bankSt s b).1 with
    | .active => if ok then setBankSt s b .active else s
    | .retained => setBankSt s b .exiting
    | _ => s) s)
/-- Accesses that are performed within another step wake their banks, and count as accesses of them; the time of an exit is not followed
there (log entry 24). -/
def touch (s : State) (bs : List Nat) : State := bs.foldl (fun s b => setBankSt s b .active) s

/-! ### Translation (R353 to R356) -/

inductive AccKind | read | write | fetch | rw | any
  deriving DecidableEq, Repr

/-- Permission in bits [15:0] of a leaf (R225, R353); `rw` needs R and W (atomics, BNDMIN, R241); `any` checks none (BXLT,
R232). -/
def permOk (k : AccKind) (sv : Bool) (attr : Nat) : Bool :=
  match k with
  | .any => true
  | .read => pteR attr && (sv || pteU attr)
  | .write => pteW attr && (sv || pteU attr)
  | .fetch => pteX attr && (sv || pteU attr)
  | .rw => pteR attr && pteW attr && (sv || pteU attr)
def AccKind.writes : AccKind → Bool
  | .write => true | .rw => true | _ => false

/-- Outcome of a translation: physical address and attributes, a final fault code, or a recoverable fault with the entry at
which the walk stopped. -/
inductive TR
  | ok (pa : Nat) (attr : BitVec 16)
  | fault (code : Nat)
  | recov (level epa e : Nat)
  deriving DecidableEq, Repr

/-- invalid_outcome of R353. -/
def invalidOutcome (level epa e : Nat) : TR :=
  if pteMigr e || pteFt e = 1 || pteFt e = 2 then .recov level epa e else if pteFt e = 0 then .fault 2 else .fault 5

/-- Set A, and D for a write, in an entry that still holds V = 1 and the same frame; answers whether it did (R355). -/
def setAD (m : MemSt) (epa e : Nat) (a d : Bool) : Bool × MemSt :=
  let x := m.num epa 8
  if pteV x && decide (pteFrame x = pteFrame e) then
    (true, m.setNum epa 8 (x ||| (if a then 0x2000 else 0) ||| (if d then 0x4000 else 0)))
  else (false, m)

/-- Whether a TLB entry covers an address of a tag. -/
def TlbEnt.hit (t : TlbEnt) (tag va : Nat) : Bool :=
  decide (t.tag.toNat = tag) && decide (t.vpage ≤ va) && decide (va < t.vpage + t.size)

/-- The entries that a walk reads from an entry at level n downwards: level, address and value, the last being the one at which it
stops. -/
def pathFrom (m : MemSt) (va : Nat) : Nat → Nat → Nat → List (Nat × Nat × Nat)
  | 0, epa, e => [(0, epa, e)]
  | k + 1, epa, e =>
    (k + 1, epa, e) ::
      (if !pteV e || (decide (k = 0) && pteLeaf e) || interiorBad e then []
       else
         let epa' := pteFrame e + 8 * bits va (9 * k + 20) (9 * k + 12)
         pathFrom m va k epa' (m.num epa' 8))
def path (m : MemSt) (tag va : Nat) : List (Nat × Nat × Nat) :=
  let r := 0x8000000000 + 8 * tag
  pathFrom m va 5 r (m.num r 8)

/-- Whether a walk-cache entry covers an address of a tag. -/
def NodeEnt.hit (n : NodeEnt) (tag va : Nat) : Bool :=
  decide (n.tag.toNat = tag) && decide (n.base ≤ va) && decide (va < n.base + n.size)
/-- Memory as a walk of the core sees it: an interior entry that its walk cache holds and software has changed is the old one or the
new one (R356). -/
def walkView (s : State) (core tag va : Nat) : State × MemSt :=
  ((s.core core).nodes.filter (fun n => n.hit tag va && decide (s.num n.pa 8 ≠ n.pte.toNat))).foldl (fun (r : State × MemSt) n =>
    let (old, s) := r.1.choose
    (s, if old then r.2.setNum n.pa 8 n.pte.toNat else r.2)) (s, s.mem)
/-- The walk cache after a walk: the interior entries it passed are held with those held before. -/
def cacheNodes (s : State) (core tag va : Nat) (m : MemSt) : State :=
  let new := (path m tag va).dropLast.map (fun p =>
    let size := 2 ^ (9 * p.1 + 12)
    (⟨p.2.1, BitVec.ofNat 16 tag, va / size * size, size, BitVec.ofNat 64 p.2.2⟩ : NodeEnt))
  s.modCore core (fun c => { c with nodes := new.filter (fun n => !c.nodes.contains n) ++ c.nodes })

/-- The entry without A and D, which the device itself sets. -/
def pteFixed (e : Nat) : Nat := e &&& 0xFFFFFFFFFFFF9FFF
/-- A walk in which the 16 entries of a 64 KiB range, one of them a valid C16 leaf, differ uses any one of them (R352). -/
def walkPick (s : State) (m : MemSt) (tag va : Nat) : State × Walk :=
  match (path m tag va).getLast? with
  | some (0, epa, e) =>
    let base := epa / 128 * 128
    let es := (List.range 16).map (fun i => m.num (base + 8 * i) 8)
    if es.any (fun x => pteV x && pteC16 x) && es.any (fun x => decide (pteFixed x ≠ pteFixed e)) then
      let (i, s) := s.pick 16
      (s, walkFrom m tag va 0 (base + 8 * i) (m.num (base + 8 * i) 8))
    else (s, walk m tag va)
  | _ => (s, walk m tag va)

/-- The same translation, but for A and D. -/
def TlbEnt.same (t u : TlbEnt) : Bool :=
  decide (t.tag = u.tag) && decide (t.vpage = u.vpage) && decide (t.size = u.size) && decide (t.leafPa = u.leafPa) &&
  decide (pteFixed t.pte.toNat = pteFixed u.pte.toNat)

/-- The banks that hold the entry at which a walk stops. The interior entries before it may come from the walk cache. -/
def walkBanks (m : MemSt) (core tag va : Nat) : List Nat :=
  match (path m tag va).getLast? with | some p => banksAt core false p.2.1 | none => []
/-- A fresh walk of the table. The core's TLB takes the leaf that it finds, and keeps the others that it holds until an invalidation
(R356, R365). -/
def walkFresh (s : State) (x : Ctx) (va : Nat) (k : AccKind) : State × TR :=
  let (s, m) := walkView s x.core x.tag va
  let s := touch s (walkBanks m x.core x.tag va)
  match walkPick s m x.tag va with
  | (s, .malformed level e) => (postMalformed s x k.writes va level e, .fault 5)
  | (s, .invalid level epa e) => (s, invalidOutcome level epa e)
  | (s, .leaf level epa e) =>
    if !permOk k x.sv (e % 2 ^ 16) then (s, .fault 3)
    else
      let sz := leafSize level e
      let d := k.writes
      let ent : TlbEnt := ⟨BitVec.ofNat 16 x.tag, va / sz * sz, sz, BitVec.ofNat 64 e, epa, true, d || pteD e⟩
      let s := cacheNodes { s with mem := (setAD s.mem epa e true d).2 } x.core x.tag va m
      let s := s.modCore x.core (fun c => { c with tlb := ent :: c.tlb.filter (fun t => !t.same ent) })
      (s, .ok (pteFrame e + va % sz) (BitVec.ofNat 16 (e ||| 0x2000 ||| (if d then 0x4000 else 0))))

/-- translate of R353, with a cached translation where the core holds one (R356): while the core holds several, or the table
holds another entry, any of them may be used. -/
def translate (s : State) (x : Ctx) (va : Nat) (k : AccKind) : State × TR :=
  if 2 ^ 57 ≤ va then (s, .fault 5)
  else
    match (s.core x.core).tlb.filter (fun t => t.hit x.tag va) with
    | [] => walkFresh s x va k
    | t0 :: rest =>
      let (i, s) := if rest = [] then (0, s) else s.pick (rest.length + 1)
      let t := (t0 :: rest).getD i t0
      let e := t.pte.toNat
      let now := s.num t.leafPa 8
      let same := pteV now && decide (pteFixed now = pteFixed e) &&
        (match walk s.mem x.tag va with | .leaf _ epa _ => decide (epa = t.leafPa) | _ => false)
      let (old, s) := if same then (true, s) else s.choose
      if !old || !permOk k x.sv (e % 2 ^ 16) then walkFresh s x va k
      else if k.writes && !t.dSet then
        let (ok, m) := setAD s.mem t.leafPa e false true
        if ok then
          let s := { touch s (banksAt x.core false t.leafPa) with mem := m }
          let s := s.modCore x.core (fun c =>
            { c with tlb := c.tlb.map (fun u => if u.same t then { u with dSet := true } else u) })
          (s, .ok (pteFrame e + va % t.size) (BitVec.ofNat 16 (e ||| 0x6000)))
        else walkFresh s x va k
      else (s, .ok (pteFrame e + va % t.size) (BitVec.ofNat 16 (e ||| 0x2000 ||| (if t.dSet then 0x4000 else 0))))

/-- Translation of an access through b register n at VBASE + offset (R51): within LIMIT by PBASE and ATTR, which is checked
as a TLB entry is, otherwise through the TLB. A first write sets D in the entry and in ATTR; where the entry no longer holds that
frame, or ATTR lacks the permission, the access walks the table afresh (R355, R356). -/
def translateB (s : State) (x : Ctx) (n : Nat) (b : BReg) (va : Nat) (k : AccKind) : State × TR :=
  let vb := b.vbase.toNat
  let attr := b.attr.toNat
  let pa := b.pbase.toNat + (va - vb)
  if vb ≤ va ∧ va < vb + b.limit.toNat ∧ va < 2 ^ 57 then
    if !permOk k x.sv attr then walkFresh s x va k
    else if k.writes && !pteD attr then
      match walk s.mem x.tag va with
      | .leaf level epa e =>
        if pteFrame e + va % leafSize level e = pa then
          let s := { touch s (banksAt x.core false epa) with mem := (setAD s.mem epa e false true).2 }
          let s := s.modG x.h (fun g => g.setB n { g.b n with attr := (g.b n).attr ||| 0x4000 })
          (s, .ok pa (b.attr ||| 0x4000))
        else walkFresh s x va k
      | _ => walkFresh s x va k
    else (s, .ok pa b.attr)
  else translate s x va k

end Sys2Proof.Machine
end

