-- ==== Sys2Proof/Machine/Journal.lean ====
section
/-! DEFINITION. The command journal (R385, R386), the disclosure level of a function (R433 to R435), and reports of errors (R431). -/

namespace Sys2Proof.Machine

/-- A fault record as 32 bytes (Table 14-6). -/
def recBytes (r : FaultRec) : List Byte :=
  toBytes 8 r.w0.toNat ++ toBytes 8 r.w1.toNat ++ toBytes 8 r.w2.toNat ++ toBytes 8 r.w3.toNat

/-- The policy level of a function for a disclosure class (R433, Table 18-8): 0 WITHHELD, 1 AGGREGATE, 2 COARSE, 3 FULL. Without
a policy every class is WITHHELD (R434); work of the PF is always at FULL (R424). -/
def levelOf (s : State) (f c : Nat) : Nat :=
  if f = 64 then 3
  else
    match (s.func f).policy with
    | some p => bits p.levels.toNat (2 * c + 1) (2 * c)
    | none => 0

/-- The class code of a fault (R435). -/
def classCode (c : Nat) : Nat :=
  if c = 1 ∨ c = 7 ∨ c = 8 then 1
  else if c = 2 ∨ c = 3 ∨ c = 4 ∨ c = 5 ∨ c = 0x2B ∨ c = 0x28 then 2 else 3
/-- A function at AGGREGATE counts the class of a fault in the aggregate (R435). -/
def countClass (s : State) (f code : Nat) : State :=
  let k := 128 * classCode code + f
  { s with dev := { s.dev with aggClass := Tb.put s.dev.aggClass k (countUp (Tb.get 0 s.dev.aggClass k) 1) } }

/-- A number within a journal entry's body. -/
def bodyNum (body : List Byte) (o n : Nat) : Nat := ofBytes ((body.drop o).take n)
/-- The fault code or cause of a journal entry that R435 transforms for the PF: the cause of a KILL entry, the CODE of a fault record, for
a DOUBLE without one the cause that it names; an ATTENTION entry has none (log entry 31). -/
def entryCode (kind : Nat) (body : List Byte) : Option Nat :=
  if kind = 4 then some (bodyNum body 20 1)
  else if kind = 5 then some 0
  else if kind = 6 then
    let w0 := bodyNum body 0 8
    let c := bits w0 55 51
    some (if w0 / 2 ^ 56 = 3 ∧ c = 0 then bodyNum body 16 1 else c)
  else none

/-- Post a journal entry (Table 15-7); SEQ is stored last (R386). Of an entry that R435 transforms for the PF, the function's level for
fault records at this instant is kept, and at AGGREGATE its class is counted (R437). -/
def postJournal (s : State) (kind func status : Nat) (body : List Byte) : State :=
  let seq := s.dev.jseq
  let pa := 0x8000100000 + 64 * (seq % 65536)
  let b := (body ++ toBytes 40 0).take 40
  let e := toBytes 8 seq ++ toBytes 8 s.now ++ toBytes 2 kind ++ toBytes 1 func ++ toBytes 1 status ++ toBytes 4 0 ++ b
  let lev := levelOf s func 3
  let s := { (s.setBytes pa e) with dev := { s.dev with jseq := seq + 1 } }
  match entryCode kind b with
  | none => { s with dev := { s.dev with jlevels := Tb.set 3 s.dev.jlevels (seq % 65536) 3 } }
  | some c =>
    let s := { s with dev := { s.dev with jlevels := Tb.set 3 s.dev.jlevels (seq % 65536) lev } }
    if lev = 1 then countClass s func c else s

/-! ### Error reports (R431) -/

/-- A RAS record (Tables 14-6, 18-6). -/
def rasRec (source sev code : Nat) (wr : Bool) (pa va pc tag handle count : Nat) : FaultRec :=
  mkRec 5 code wr (BitVec.ofNat 48 pc) va (source * 2 ^ 60 + sev * 2 ^ 58 + pa % 2 ^ 52)
    (tag * 2 ^ 48 + handle * 2 ^ 32 + count)
/-- Whose access meets an error: the function, the space tag, the group handle (R431). -/
structure Accessor where
  func : Nat
  tag : Nat
  handle : Nat
  deriving DecidableEq, Repr
/-- A group as an accessor; a handle that names no group stands for the PF. -/
def whoOf (s : State) (h : Nat) : Accessor :=
  match Tb.get? s.work.groups h with
  | some g => ⟨s.funcOf g.launch, g.sp.tag.toNat, h⟩
  | none => ⟨64, 0, 0⟩
/-- The firmware posts a report. -/
def rasReport (s : State) (source sev code : Nat) (wr : Bool) (pa va pc : Nat) (x : Accessor) : State :=
  postJournal s 6 x.func 0 (recBytes (rasRec source sev code wr pa va pc x.tag x.handle 0))
/-- SOURCE of an error in the memory of an address (Table 18-6). -/
def memSource (pa : Nat) : Nat :=
  match pmem pa with
  | .hbm _ => 9 | .tarn => 6 | .pond _ => 2 | .lpddr => 10 | .cxl => 11 | .none => 9
/-- The uncorrected errors that some accesses meet: one record for each line that is not among `told`, and the lines reported then (R431). -/
def reportErrors (s : State) (x : Accessor) (wr : Bool) (pc : PC) (told : List Nat) (as : List LaneAcc) : State × List Nat :=
  as.foldl (fun (r : State × List Nat) a =>
    match r.1.mem.err a.pa with
    | some c =>
      if (c = 1 ∨ c = 7) ∧ !r.2.contains (a.pa / 128) then
        (rasReport r.1 (memSource a.pa) 1 c wr (a.pa / 128 * 128) a.va pc.toNat x, a.pa / 128 :: r.2)
      else r
    | none => r) (s, told)

end Sys2Proof.Machine
end

