-- ==== Sys2Proof/Machine/Memory.lean ====
section
/-! DEFINITION. The memory path: the race detector (R150 to R152), reading and writing elements with their sector bounds
(R118 to R122), atomics at their engine (R91, R92, R154 to R157, R234 to R236), stores that wait for their homes and loads that
wait for their data (R142 to R148, log entries 7 and 8). -/

namespace Sys2Proof.Machine

/-! ### The race detector -/

def scopeRank : Scope → Nat
  | .team => 0 | .die => 1 | .dev => 2 | .sys => 3

/-- Who accesses: launch, team, group, handle, interval (R150). -/
structure Writer where
  launch : Nat
  team : Nat
  gid : Nat
  handle : Nat
  interval : Word
  deriving DecidableEq, Repr

def Group.handle (g : Group) : Nat := mkHandle g.core g.sched g.place
def Group.writer (g : Group) : Writer := ⟨g.launch, g.team, g.gid, g.handle, g.ctl.interval⟩

/-- Every lane of the group is DONE and no result is outstanding: the group has retired (R40, R43). -/
def Group.retired (g : Group) : Bool := g.lanes.all (fun x => decide (x.st = .done)) && decide (g.outst = [])
/-- Whether a checked access meets a race (R151). `atm` is the scope of the access when it is an ordered atomic. A writer that
has retired, or is no longer resident, has published at system scope (R150). -/
def raceTest (s : State) (pa : Nat) (w : Writer) (isAtomic : Bool) : Bool :=
  match Tb.get? s.mem.race (sectorOf pa) with
  | none => false
  | some r =>
    if r.launch = w.launch ∧ r.team = w.team ∧ r.gid = w.gid then false
    else
      let wg := s.work.groups.find? (fun e =>
        decide (e.2.launch = r.launch) && decide (e.2.team = r.team) && decide (e.2.gid = r.gid))
      let core := match wg with | some e => e.2.core | none => r.handle / 256
      let t := if r.launch = w.launch ∧ r.team = w.team then 0 else if dieOf core = dieOf (w.handle / 256) then 1 else 2
      let pub := match r.scope with | some sc => decide (t ≤ scopeRank sc) | none => false
      let pub2 := match wg with
        | some e => e.2.retired || decide (r.interval.toNat < (e.2.ctl.pubs.getD t 0).toNat)
        | none => true
      let atm := isAtomic && r.isAtomic && (match r.atomic with | some sc => decide (t ≤ scopeRank sc) | none => false)
      !(pub || pub2 || atm)

/-- Record a write (R151): `sc` is its release scope, `asc` its scope as an atomic. The rules give the detector's storage no size: it
keeps every record (R153; DESIGN CHOICE, log entry 42). -/
def raceNote (m : MemSt) (pa : Nat) (w : Writer) (sc : Option Scope) (isAtomic : Bool) (asc : Option Scope) : MemSt :=
  { m with race := Tb.put m.race (sectorOf pa) ⟨w.launch, w.team, w.gid, w.handle, w.interval, sc, asc, isAtomic⟩ }

/-- Race log record (R152, Table 14-7). -/
def raceRecord (s : State) (x : Ctx) (wr : Bool) (va : Nat) (pa : Nat) (w : Writer) : State :=
  match Tb.get? s.mem.race (sectorOf pa) with
  | none => s
  | some r =>
    postRec s x.core (mkRec 2 6 wr x.pc (va / 32 * 32)
      (w.handle * 2 ^ 48 + r.handle * 2 ^ 32 + r.interval.toNat)
      (x.tag * 2 ^ 48 + (match r.scope with | some sc => scopeRank sc | none => 4)))

/-- A release by a group at a scope (R150). -/
def Group.publish (g : Group) (sc : Scope) : Group :=
  let n := g.ctl.interval + 1
  { g with ctl := { g.ctl with
      interval := n,
      pubs := (List.range 4).map (fun u => if u ≤ scopeRank sc then n else g.ctl.pubs.getD u 0) } }

/-! ### Elements in memory -/

/-- The page keeps bounds: BND set, outside host and CXL memory (R118). -/
def keepsBnd (pa : Nat) (attr : BitVec 16) : Bool :=
  pteBnd attr.toNat && (match bndHome pa with | .none => false | _ => true)

/-- An element as a load returns it (the last rows of Table 8-3): a token, or value and bound. -/
def readElem (m : MemSt) (pa va n : Nat) (bnd : Bool) : Opd :=
  match m.err pa with
  | some c => ⟨0, ebPoison, some (vaTok c va)⟩
  | none =>
    let e := if bnd then m.bound pa else 0
    if e = ebPoison then ⟨0, ebPoison, some (BitVec.ofNat 32 (m.num (pa / 32 * 32) 4))⟩
    else ⟨m.num pa n, e, none⟩

/-- The register words of an element of n bytes. -/
def elemCells (n : Nat) (o : Opd) : List VCell :=
  (List.range (if n ≤ 4 then 1 else n / 4)).map (fun i =>
    match o.tok with
    | some t => VCell.tok t
    | none => ⟨BitVec.ofNat 32 (o.v / 2 ^ (32 * i)), o.eb⟩)

def widthBytes : Width → Nat
  | .b => 1 | .h => 2 | .w => 4 | .d => 8 | .q => 16

/-- Fill a sector with a token (R120). -/
def MemSt.poisonSector (m : MemSt) (pa : Nat) (t : Word) : MemSt :=
  (m.setBytes pa ((List.range 8).flatMap (fun _ => toBytes 4 t.toNat))).setBound pa ebPoison

/-- One sector of a store (R119 to R121). What becomes of a store to a peer device that cannot be reached the spec does not say: it is lost
(DESIGN CHOICE, log entry 8). -/
def applySector (m : MemSt) (w : SectorW) : MemSt :=
  if m.peerDown.contains (w.pa / 32) then m
  else
    let full := decide (32 ≤ w.bytes.length)
    let put := fun (m : MemSt) => w.bytes.foldl (fun m b => m.setByte (w.pa + b.1) b.2) m
    if !w.bnd then put m
    else
      let old := m.bound w.pa
      if old = ebPoison ∧ !full then m
      else
        match w.token with
        | some t => m.poisonSector w.pa t
        | none => (put m).setBound w.pa (if full then w.maxEb else ebMax old w.maxEb)

/-! ### Atomics at their engine -/

/-- xa128_add (R91) on the 32 bytes of a cell. -/
def xa128Add (m : MemSt) (pa : Nat) (isInt : Bool) (x : VCell) : MemSt :=
  let val := signed 128 (m.num pa 16)
  let stat := m.num (pa + 16) 4 % 8
  let bnd := ebRead (BitVec.ofNat 16 (m.num (pa + 20) 2))
  let out := fun (v : Int) (st : Nat) (b : EB) =>
    m.setBytes pa (toBytes 16 (wrap 128 v) ++ toBytes 4 st ++ toBytes 2 b.toNat ++ toBytes 10 0)
  let special := !isInt && (isNaN .f32 x.data.toNat || isInf .f32 x.data.toNat)
  if special then out val (stat ||| 4) ebInf
  else
    let ex := fpDecode .f32 x.data.toNat
    let e := ex.e + 64
    let mag := if 0 ≤ e then ex.n <<< e.toNat else ex.n >>> (-e).toNat
    let cut := !isInt && decide (e < 0) && decide (ex.n % 2 ^ (-e).toNat ≠ 0)
    let n : Int := if isInt then signed 32 x.data.toNat * (2 : Int) ^ 64 else if ex.neg then -(mag : Int) else mag
    let t := val + n
    let ov := decide (t < -(2 : Int) ^ 127) || decide ((2 : Int) ^ 127 - 1 < t)
    let st := stat ||| (if cut then 2 else 0) ||| b2n ov
    out t st (ebAdd bnd (ebAdd x.eb (if cut then ebUp2 (-64) else 0)))

/-- AXRD of a cell (R92). -/
def xa128Read (m : MemSt) (pa : Nat) : VCell :=
  let val := signed 128 (m.num pa 16)
  let stat := m.num (pa + 16) 4
  let bnd := ebRead (BitVec.ofNat 16 (m.num (pa + 20) 2))
  if stat.testBit 2 then ⟨BitVec.ofNat 32 (Fmt.nan .f32), ebInf⟩
  else
    let r := fpRound .f32 .rn false (decide (val < 0)) val.natAbs 1 (-64)
    ⟨BitVec.ofNat 32 r.bits, if stat.testBit 0 then ebInf else ebAdd bnd (rhoFull .f32 r.bits r.nx)⟩

/-- FP32 sum with FULL, its bound included (R203, Add of Table 4-2): for AFADD, VRED.fadd and FADD. -/
def fp32Sum (a b : Nat) : FpOut :=
  if isNaN .f32 a || isNaN .f32 b then .exact (Fmt.nan .f32)
  else if isInf .f32 a && isInf .f32 b then
    (if fSign .f32 a = fSign .f32 b then .exact a else .flagged (Fmt.nan .f32) flNV)
  else if isInf .f32 a then .exact a
  else if isInf .f32 b then .exact b
  else (fpRoundEx .f32 .rn ((fpDecode .f32 a).add (fpDecode .f32 b))).out
/-- A value that R99 takes as unbounded: NaN or infinite. -/
def fSpecial (f : Fmt) (x : Nat) : Bool := isNaN f x || isInf f x
def ebSrc (f : Fmt) (x : Nat) (e : EB) : EB := if fSpecial f x then ebInf else e
/-- R99, rules 2 to 4, for a floating result. -/
def ebRes (f : Fmt) (r : FpOut) (e : EB) : EB := if fSpecial f r.bits || r.ovf then ebInf else e
def fp32SumEb (a b : Nat) (ea eb : EB) : EB :=
  let r := fp32Sum a b
  ebRes .f32 r (ebAdd (ebAdd (ebSrc .f32 a ea) (ebSrc .f32 b eb)) (rhoFull .f32 r.bits r.nx))

/-- The new element of an atomic and its bound (Table 8-5, R122); none when nothing is written. -/
def atomNew (i : Instr) (n old : Nat) (oe : EB) (x y : Opd) : Option (Nat × EB) :=
  let w := 8 * n
  let sg := fun z => signed w z
  let bitw := if oe = 0 ∧ x.eb = 0 then (0 : EB) else ebInf
  match i with
  | .aadd .. =>
    let t := sg old + sg x.v
    let ov := decide (t < -(2 : Int) ^ (w - 1)) || decide ((2 : Int) ^ (w - 1) - 1 < t)
    some ((old + x.v) % 2 ^ w, if ov then ebInf else ebAdd oe x.eb)
  | .amin .. => some (if sg x.v < sg old then x.v else old, ebMax oe x.eb)
  | .amax .. => some (if sg old < sg x.v then x.v else old, ebMax oe x.eb)
  | .aand .. => some (old &&& x.v, bitw)
  | .aor .. => some (old ||| x.v, bitw)
  | .axor .. => some (old ^^^ x.v, bitw)
  | .axch .. => some (x.v, x.eb)
  | .acas .. => if old = x.v then some (y.v, y.eb) else none
  | .afadd .. => some ((fp32Sum old x.v).bits, fp32SumEb old x.v oe x.eb)
  | _ => none

def atomWidthOf : Instr → Width
  | .aadd _ _ _ wd _ | .amin _ _ _ wd _ | .amax _ _ _ wd _ | .aand _ _ _ wd _ | .aor _ _ _ wd _ | .axor _ _ _ wd _
  | .axch _ _ _ wd _ | .acas _ _ _ wd _ | .afadd _ _ _ wd _ | .axadd _ _ _ wd _ | .axrd _ _ _ wd _ => wd
  | _ => .w
def isCas : Instr → Bool
  | .acas .. => true | _ => false
/-- Result words of an atomic: the old element, and for ACAS the success flag (and 0 for .d) after it (R234). -/
def atomWords (i : Instr) : Nat :=
  match i with
  | .acas .. => if atomWidthOf i = .d then 4 else 2
  | .axadd .. => 0
  | _ => if atomWidthOf i = .d then 2 else 1

/-- One lane of an atomic at its engine (R235, R236): memory, and the result words. `c` holds the operand words. -/
def atomLane (m : MemSt) (i : Instr) (a : LaneAcc) (c : List VCell) : MemSt × List VCell :=
  let bnd := keepsBnd a.pa a.attr
  let nw := atomWords i
  let poison := fun (t : Word) => (m, (List.range nw).map (fun _ => VCell.tok t))
  match m.err a.pa with
  | some k => poison (vaTok k a.va)
  | none =>
    let oe := if bnd then m.bound a.pa else 0
    if oe = ebPoison then poison (BitVec.ofNat 32 (m.num (a.pa / 32 * 32) 4))
    else
      match i with
      | .axrd .. => (m, [xa128Read m a.pa])
      | .axadd _ _ _ wd _ => (xa128Add m a.pa (decide (wd = .d)) (c.getD 0 VCell.zero), [])
      | _ =>
        let n := widthBytes (atomWidthOf i)
        let k := if n = 8 then 2 else 1
        let x := Opd.ofVs (c.take k)
        let y := Opd.ofVs ((c.drop k).take k)
        let old := m.num a.pa n
        let nu := atomNew i n old oe x y
        let m' := match nu with
          | none => m
          | some (v, e) =>
            let m1 := m.setNum a.pa n v
            if bnd then m1.setBound a.pa (ebMax oe e) else m1
        let oldCells := elemCells n ⟨old, oe, none⟩
        let flags := if isCas i then (VCell.exact (b2n nu.isSome)) :: (if n = 8 then [VCell.zero] else []) else []
        (m', oldCells ++ flags)

/-! ### Outstanding entries -/

def Entry.cells (e : Entry) (l k n : Nat) : List VCell := (List.range n).map (fun i => Tb.get VCell.zero e.slots (8 * l + k + i))
def Entry.setCells (e : Entry) (l : Nat) (cs : List VCell) : Entry :=
  { e with slots := (cs.zip (List.range cs.length)).foldl (fun t c => Tb.put t (8 * l + c.2) c.1) e.slots }
/-- Mark a lane as performed with its result words. -/
def Entry.done (e : Entry) (l : Nat) (cs : List VCell) : Entry :=
  { (e.setCells l cs) with performed := e.performed ||| maskOf [l], acc := Tb.erase e.acc l }
def Entry.doneU (e : Entry) (c : SCell) : Entry := { e with uop := c.data, ueb := c.eb, performed := e.mask, acc := [] }

def isUniformLoad : Instr → Bool
  | .ldu .. | .ldus .. => true | _ => false
def isAtomic : Instr → Bool
  | .aadd .. | .amin .. | .amax .. | .aand .. | .aor .. | .axor .. | .axch .. | .acas .. | .afadd .. | .axadd .. | .axrd .. => true
  | _ => false
/-- Bytes of one element of a load. -/
def loadBytes : Instr → Nat
  | .ld _ _ _ wd _ | .lds _ _ _ wd _ | .gath _ _ _ wd _ | .gaths _ _ _ wd _ | .ldt _ _ _ wd => widthBytes wd
  | _ => 8

def modEntry (s : State) (h id : Nat) (f : Entry → Entry) : State :=
  s.modG h (fun g => { g with outst := g.outst.map (fun e => if e.id = id then f e else e) })
def findEntry (s : State) (h id : Nat) : Option Entry := (s.grp h).outst.find? (fun e => decide (e.id = id))

/-- Sectors of a first-level cache (256 KiB, R3). -/
def l1Sectors : Nat := 8192
/-- A new line in a full table of the core takes the place of another: which one is free (log entry 2). -/
def putLimited {α : Type} (s : State) (limit : Nat) (t : List (Nat × α)) (k : Nat) (v : α) : State × List (Nat × α) :=
  if t.length < limit ∨ (Tb.get? t k).isSome = true then (s, Tb.put t k v)
  else
    let (i, s) := s.pick t.length
    (s, Tb.put (t.eraseIdx i) k v)
/-- Drop a core's first-level copies of some sectors, as its own writes pass them. -/
def dropL1 (s : State) (core : Nat) (ks : List Nat) : State :=
  s.modCore core (fun c => { c with l1 := c.l1.filter (fun e => !ks.contains e.1) })

/-- Drop some sectors from the first-level cache of every core: the synchronisation engine writes them. -/
def dropL1All (s : State) (ks : List Nat) : State :=
  { s with cores := s.cores.map (fun c => (c.1, { c.2 with l1 := c.2.l1.filter (fun e => !ks.contains e.1) })) }

/-- Whether a read goes through the first-level cache (R129): its page has home CACHED, and its sector can be read. -/
def usesL1 (m : MemSt) (a : LaneAcc) : Bool := decide (pteHome a.attr.toNat = 0) && (m.err a.pa).isNone
/-- Read an element through a core's first-level cache (R131): a copy of a sector of a page of home CACHED may be returned
after the sector has changed; a fresh read replaces the copy. A copy carries the sector bound, which a read through a page without BND does
not take (R118, R119). -/
def readL1 (s : State) (core : Nat) (a : LaneAcc) (n : Nat) : State × Opd :=
  let bnd := keepsBnd a.pa a.attr
  let k := sectorOf a.pa
  if !usesL1 s.mem a then (s, readElem s.mem a.pa a.va n bnd)
  else
    let now := (s.mem.bytes (32 * k) 32, s.mem.bound a.pa)
    let old := (Tb.get? (s.core core).l1 k).getD now
    let (stale, s) := if old = now then (false, s) else s.choose
    if stale then
      let e := if bnd then old.2 else 0
      (s, if e = ebPoison then ⟨0, ebPoison, some (BitVec.ofNat 32 (ofBytes (old.1.take 4)))⟩
          else ⟨ofBytes ((old.1.drop (a.pa % 32)).take n), e, none⟩)
    else
      let (s, l1) := putLimited s l1Sectors (s.core core).l1 k now
      (s.modCore core (fun c => { c with l1 := l1 }), readElem s.mem a.pa a.va n bnd)

/-- A lane's result words where one 64-bit half of a 128-bit access to CXL memory was read earlier (R142). -/
def withEarly (a : LaneAcc) (o : Opd) (cs : List VCell) : List VCell :=
  match a.early, o.tok with
  | some (hi, x, y), none => if hi then cs.take 2 ++ [x, y] else [x, y] ++ cs.drop 2
  | _, _ => cs
/-- The lane has its result: a token (in every result register). -/
def tokenLane (s : State) (h id l : Nat) (t : Word) : State :=
  modEntry s h id (fun e =>
    if isUniformLoad e.instr then e.doneU (SCell.tok t)
    else if isAtomic e.instr then e.done l ((List.range (atomWords e.instr)).map (fun _ => VCell.tok t))
    else e.done l (elemCells (loadBytes e.instr) ⟨0, ebPoison, some t⟩))

/-- Whether the race detector checks the accesses of a group to a page (R150). -/
def raceOn (g : Group) (attr : BitVec 16) : Bool := pteRc attr.toNat && g.sp.lflags.getLsbD 1
/-- Perform one lane's load (R142): its data are read now. The race detector tests the access as its data are read (R151), and a race gives
the RACE token. -/
def performLoad (s : State) (h : Nat) (e : Entry) (l : Nat) : State :=
  match Tb.get? e.acc l with
  | none => s
  | some a =>
    let n := loadBytes e.instr
    let g := s.grp h
    if raceOn g a.attr && raceTest s a.pa g.writer false then
      tokenLane ((s.bump h 0x15 1).bump h 0x13 1) h e.id l (vaTok 6 a.va)
    else
    let (s, o) := match e.instr with
      | .ldt .. => (s, readElem s.mem a.pa a.va n true)
      | _ => readL1 s (s.grp h).core a n
    let s := if (s.mem.err a.pa).isSome then s.bump h 0x13 1 else s
    if isUniformLoad e.instr then
      modEntry s h e.id (fun e => e.doneU (match o.tok with | some t => SCell.tok t | none => ⟨BitVec.ofNat 64 o.v, o.eb⟩))
    else modEntry s h e.id (fun e => e.done l (withEarly a o (elemCells n o)))

/-- The order and scope of an atomic. -/
def atomForm : Instr → AtomForm
  | .aadd _ _ _ _ f | .amin _ _ _ _ f | .amax _ _ _ _ f | .aand _ _ _ _ f | .aor _ _ _ _ f | .axor _ _ _ _ f
  | .axch _ _ _ _ f | .acas _ _ _ _ f | .afadd _ _ _ _ f | .axadd _ _ _ _ f | .axrd _ _ _ _ f => f
  | _ => .plain
def acqScope : AtomForm → Option Scope
  | .acq sc => some sc | .acqrel sc => some sc | _ => none
def relScope : AtomForm → Option Scope
  | .rel sc => some sc | .acqrel sc => some sc | _ => none
def atomScope : AtomForm → Option Scope
  | .plain => none | .acq sc => some sc | .rel sc => some sc | .acqrel sc => some sc
/-- Whether a lane of an atomic wrote, from its result words: AXRD, a poisoned lane and a failed ACAS write nothing. -/
def atomWrote (i : Instr) (cs : List VCell) : Bool :=
  match i with
  | .axrd .. => false
  | .acas .. => (match cs.reverse with
    | c :: d :: _ => if atomWidthOf i = .d then decide (d.eb = 0) && d.data.getLsbD 0 else decide (c.eb = 0) && c.data.getLsbD 0
    | _ => false)
  | _ => !cs.any (fun c => decide (c.eb = ebPoison))

/-- Apply one lane of an outstanding atomic. -/
def performAtom (s : State) (h : Nat) (e : Entry) (l : Nat) : State :=
  match Tb.get? e.acc l with
  | none => s
  | some a =>
    let (m, cs) := atomLane s.mem e.instr a (e.cells l 1 4)
    let g := s.grp h
    let f := atomForm e.instr
    let s := if (s.mem.err a.pa).isSome then s.bump h 0x13 1 else s
    let m := if raceOn g a.attr && atomWrote e.instr cs then raceNote m a.pa g.writer (relScope f) true (atomScope f) else m
    modEntry (dropL1 { s with mem := m } g.core [sectorOf a.pa]) h e.id (fun e => e.done l cs)

/-- Perform a lane of a memory instruction. -/
def performLane (s : State) (h id l : Nat) : State :=
  match findEntry s h id with
  | none => s
  | some e => if isAtomic e.instr then performAtom s h e l else performLoad s h e l

/-- The location that an atomic reaches next: different locations are reached in no defined order (R156). -/
def nextLocation (s : State) (acc : List (Nat × LaneAcc)) (a : Nat × LaneAcc) : State × Nat :=
  if acc.all (fun x => decide (x.2.pa = a.2.pa)) then (s, a.2.pa)
  else
    let (i, s) := s.pick acc.length
    (s, (acc.getD i a).2.pa)
/-- The banks that the accesses of an entry go to, the engine's for an atomic. -/
def entryBanks (s : State) (h : Nat) (e : Entry) : List Nat :=
  (e.acc.flatMap (fun a => banksAt (s.grp h).core (!isAtomic e.instr && usesL1 s.mem a.2) a.2.pa ++
    (if isAtomic e.instr then engineBanks a.2.pa else []))).dedup
/-- An entry reports the errors that some of its accesses meet, one for each line (R431). -/
def tellEntry (s : State) (h : Nat) (e : Entry) (as : List LaneAcc) : State :=
  match reportErrors s (whoOf s h) (isAtomic e.instr) e.pc e.told as with
  | (s, told) => if told = e.told then s else modEntry s h e.id (fun e => { e with told := told })
/-- Perform the lanes of an atomic that reach one location, in lane order (R156). -/
def performAt (s : State) (h : Nat) (e : Entry) (pa : Nat) : State :=
  let at' := e.acc.filter (fun x => decide (x.2.pa = pa))
  (at'.map (·.1)).foldl (fun s l => performLane s h e.id l) (tellEntry s h e (at'.map (·.2)))
/-- Perform the location of an atomic that its lanes reach next. -/
def performLocation (s : State) (h id : Nat) : State :=
  match findEntry s h id with
  | none => s
  | some e =>
    match e.acc with
    | [] => s
    | a :: _ =>
      let (s, pa) := nextLocation s e.acc a
      performAt s h e pa

/-- Count the sectors of a load that the first-level cache holds, and those that it does not (Table 18-1). -/
def countL1 (s : State) (h : Nat) (e : Entry) : State :=
  let g := s.grp h
  let ks : List Nat := match e.instr with
    | .ldt .. => []
    | _ => ((e.acc.filter (fun (a : Nat × LaneAcc) => usesL1 s.mem a.2)).map (fun a => sectorOf a.2.pa)).dedup
  let hits := (ks.filter (fun k => (Tb.get? (s.core g.core).l1 k).isSome)).length
  (s.bump h 0x0D hits).bump h 0x0E (ks.length - hits)
/-- Perform every translated lane of an entry, an atomic location by location. -/
def performAcc (s : State) (h id : Nat) : State :=
  match findEntry s h id with
  | none => s
  | some e =>
    if e.acc = [] then s
    else
      let s := touch s (entryBanks s h e)
      if isAtomic e.instr then e.acc.foldl (fun s _ => performLocation s h id) s
      else (e.acc.map (·.1)).foldl (fun s l => performLane s h id l) (countL1 (tellEntry s h e (e.acc.map (fun (a : Nat × LaneAcc) => a.2))) h e)

/-! ### Stores on their way -/

/-- Sectors that a pending store or AXADD touches. -/
def Pend.sectors (p : Pend) : List Nat :=
  match p.kind with
  | .store ws => ws.map (fun w => sectorOf w.pa)
  | .axadd pa _ _ _ => [sectorOf pa]
/-- The banks that a pending store or AXADD goes to. -/
def Pend.banks (p : Pend) : List Nat :=
  (p.sectors.flatMap (fun k => banksAt p.core false (32 * k) ++ (match p.kind with | .axadd pa _ _ _ => engineBanks pa | .store _ => []))).dedup
/-- A pending store reports the errors that it meets, where no other store of its issue has reported those of the line (R431). -/
def tellPend (s : State) (p : Pend) (as : List LaneAcc) : State :=
  if p.told then s
  else
    match reportErrors s ⟨s.funcOf p.launch, p.tag.toNat, p.h⟩ true p.pc [] as with
    | (s, []) => s
    | (s, ls) => s.upMem (fun m => { m with pend := m.pend.map (fun q =>
        if q.issue = p.issue ∧ q.sectors.any (fun k => ls.contains (k / 4)) then { q with told := true } else q) })
/-- A store reaches its home, or an AXADD its engine; an error that the memory or a link reports then is posted, and undoes nothing (R228,
R431). -/
def applyPend (s : State) (id : Nat) : State :=
  match s.mem.pend.find? (fun p => decide (p.id = id)) with
  | none => s
  | some p =>
    let m := { s.mem with pend := s.mem.pend.filter (fun p => decide (p.id ≠ id)) }
    let s := { (dropL1 (touch s p.banks) p.core p.sectors) with mem := m }
    match p.kind with
    | .store ws =>
      tellPend (s.upMem (fun m => ws.foldl applySector m)) p (ws.map (fun w => ⟨w.pa, p.va.toNat, 0, none⟩))
    | .axadd pa xs isInt bnd =>
      let blocked := (m.err pa).isSome || (bnd && decide (m.bound pa = ebPoison))
      if blocked then tellPend s p [⟨pa, p.va.toNat, 0, none⟩]
      else s.upMem (fun m => xs.foldl (fun m x => xa128Add m pa isInt x.2) m)

/-- A new store on its way, of the issue whose first store has number `n`. -/
def pushPend (s : State) (h n : Nat) (pc : PC) (va : Nat) (m : Mask) (k : PendKind) : State :=
  let g := s.grp h
  let (id, s) := s.newId
  let p : Pend := ⟨id, h, g.launch, g.team, g.core, pc, BitVec.ofNat 64 va, m, g.sp.tag, n, false, k⟩
  s.upMem (fun mm => { mm with pend := mm.pend ++ [p] })

/-- A store that writes both 64-bit halves of 16 aligned bytes of CXL memory, which may reach it at two times (R142). -/
def SectorW.tears (w : SectorW) : Bool :=
  decide (pmem w.pa = .cxl) && w.bytes.any (fun b => w.bytes.any (fun c => decide (b.1 / 16 = c.1 / 16) && decide (b.1 / 8 ≠ c.1 / 8)))
def Pend.tears (p : Pend) : Bool := match p.kind with | .store ws => ws.any SectorW.tears | _ => false
/-- The part of a store that has one parity of 64-bit half. -/
def halfStore (hi : Bool) (ws : List SectorW) : List SectorW :=
  ws.map (fun w => if w.tears then { w with bytes := w.bytes.filter (fun b => decide (b.1 / 8 % 2 = b2n hi)) } else w)
/-- One half of such a store reaches its home before the other. -/
def tearStore (s : State) (p : Pend) : State :=
  match p.kind with
  | .store ws =>
    let (hi, s) := s.choose
    let rest := (halfStore (!hi) ws).zip ws |>.filterMap (fun x => if x.2.tears then some x.1 else none)
    let s := dropL1 s p.core p.sectors
    { s with mem := { (halfStore hi ws).foldl applySector s.mem with
        pend := s.mem.pend.map (fun q => if q.id = p.id then { q with kind := .store rest } else q) } }
  | _ => s

def Entry.sectors (e : Entry) : List Nat := e.acc.map (fun a => sectorOf a.2.pa)

/-- The operations of a group on its memory path, by order number: entry ids with their sectors, then stores. -/
def groupOps (s : State) (h : Nat) : List (Nat × Bool × List Nat) :=
  let es := (s.grp h).outst.filterMap (fun e => if e.acc = [] then none else some (e.id, (true, e.sectors)))
  let ps := (s.mem.pend.filter (fun p => decide (p.h = h))).map (fun p => (p.id, (false, p.sectors)))
  (es ++ ps).foldl (fun t e => Tb.put t e.1 e.2) []

def performOp (s : State) (h : Nat) (o : Nat × Bool × List Nat) : State :=
  if o.2.1 then performAcc s h o.1 else applyPend s o.1

/-- The earlier operations of the group that touch these sectors, or sectors of one so chosen (latest first). -/
def needed : List (Nat × Bool × List Nat) → List Nat → List (Nat × Bool × List Nat)
  | [], _ => []
  | o :: t, ks => if o.2.2.any (fun k => ks.contains k) then o :: needed t (ks ++ o.2.2) else needed t ks

/-- Coherence within a group (R143, R230): before an operation on these sectors is performed, the group's earlier operations
on them are. -/
def forceBefore (s : State) (h id : Nat) (ks : List Nat) : State :=
  let ops := (groupOps s h).filter (fun o => decide (o.1 < id))
  (needed ops.reverse ks).reverse.foldl (fun s o => performOp s h o) s

/-- The 64-bit halves of 128-bit loads of CXL memory may be read at two times (R142): one half of some lanes is read now, after
the group's earlier operations on its sector (R143). -/
def tearLoad (s : State) (h : Nat) (e : Entry) : State :=
  if loadBytes e.instr = 16 then
    (e.acc.filter (fun a => decide (pmem a.2.pa = .cxl) && a.2.early.isNone && (s.mem.err a.2.pa).isNone)).foldl (fun s a =>
      let (tear, s) := s.choose
      if !tear then s
      else
        let (hi, s) := s.choose
        let s := forceBefore s h e.id [sectorOf a.2.pa]
        let (s, o) := readL1 s (s.grp h).core { a.2 with pa := a.2.pa + 8 * b2n hi } 8
        let cs := elemCells 8 o
        let half := (hi, cs.getD 0 VCell.zero, cs.getD 1 VCell.zero)
        modEntry s h e.id (fun e => { e with acc := Tb.modify e.acc a.1 (fun x => { x with early := some half }) })) s
  else s
/-- Perform what an outstanding entry needs, in the order that coherence asks for. -/
def performEntry (s : State) (h id : Nat) : State :=
  match findEntry s h id with
  | none => s
  | some e => performAcc (forceBefore s h id e.sectors) h id
/-- A store reaches its home, after the earlier operations of its group on its sectors. -/
def storeHome (s : State) (id : Nat) : State :=
  match s.mem.pend.find? (fun p => decide (p.id = id)) with
  | none => s
  | some p => applyPend (forceBefore s p.h id p.sectors) id

/-- An acquire at a scope (R131, R144): the core's first-level copies go. At team scope they go when the team's lanes lie on
two cores. -/
def acquire (s : State) (h : Nat) (sc : Scope) : State :=
  let g := s.grp h
  let pair := match s.team? g.launch g.team with | some t => t.pair | none => false
  if sc = .team ∧ pair = false then s else s.modCore g.core (fun c => { c with l1 := [] })

end Sys2Proof.Machine
end

