-- ==== Sys2Proof/Machine/Sync.lean ====
section
/-! DEFINITION. The synchronisation of lanes: knots (R29 to R32), barrier objects (R41, R42, R158 to R160), item deques
(R161 to R164), bound cells (R165, R166), and the passing of lanes to DONE (R40, R221). -/

namespace Sys2Proof.Machine

/-! ### Knots -/

/-- A complete knot (R29). -/
def Knot.complete (k : Knot) : Bool := k.armed && decide (k.enrolled ≠ 0) && decide (k.arrived = k.enrolled)

/-- Release of a knot (R30): its arrived lanes run at the instruction after the join PC. -/
def releaseKnot (g : Group) (k : Nat) : Group :=
  let q := nextPc (g.k k).joinPc
  ((lanesOf (g.k k).arrived).foldl (fun g l => g.setLane l (fun x => { x with pc := q, st := .run })) g).setK k Knot.idle

/-- Release when complete (R29). -/
def settleKnot (g : Group) (k : Nat) : Group := if (g.k k).complete then releaseKnot g k else g

/-- ENROL (R29). -/
def enrolKnot (g : Group) (k : Nat) (m : Mask) : Group :=
  g.setK k { g.k k with enrolled := (g.k k).enrolled ||| m, armed := true }

/-- STRIKE (R29), also for lanes that pass to DONE (R32). -/
def strikeKnot (g : Group) (k : Nat) (m : Mask) : Group :=
  let n := g.k k
  let e := n.enrolled &&& ~~~m
  if e = 0 then g.setK k Knot.idle
  else settleKnot (g.setK k { n with enrolled := e, arrived := n.arrived &&& ~~~m }) k

def strikeAll (g : Group) (m : Mask) : Group := (List.range 8).foldl (fun g k => strikeKnot g k m) g

/-- Steps 1, 3 and 4 of REJOIN (R29) at PC q. -/
def rejoinKnot (g : Group) (k : Nat) (m : Mask) (q : PC) : Group :=
  let n := g.k k
  let join := if n.arrived = 0 then q else n.joinPc
  let new := m &&& n.enrolled
  let g := (lanesOf new).foldl (fun g l => g.setLane l (fun x => { x with pc := q, st := .knot (BitVec.ofNat 3 k) })) g
  settleKnot (g.setK k { n with joinPc := join, arrived := n.arrived ||| new }) k

/-! ### Barrier objects (Table 5-5) -/

structure BarObj where
  phase : Nat
  expect : Nat
  arrived : Nat
  init : Nat
  epoch : Nat
  deriving DecidableEq, Repr

def readBar (s : State) (pa : Nat) : BarObj :=
  let x := s.num pa 8
  ⟨bits x 15 0, bits x 31 16, bits x 47 32, bits x 48 48, bits x 60 49⟩
def BarObj.word (b : BarObj) : Nat := b.phase + b.expect * 2 ^ 16 + b.arrived * 2 ^ 32 + b.init * 2 ^ 48 + b.epoch * 2 ^ 49
/-- The engine changes the low 8 bytes; dispatch has cleared the reserved ones. On a page with BND the sector's bound stays as it was, and the
engine's reads take the bytes that memory holds, whatever bound or line error stands there: the spec says neither (DESIGN CHOICE, log entry
15). -/
def writeBar (s : State) (pa : Nat) (b : BarObj) : State := s.setNum pa 8 b.word
/-- The banks that hold a barrier object: its home's and the engine's (R158, R140). -/
def barBanks (core pa : Nat) : List Nat := banksAt core false pa ++ engineBanks pa

/-- A wait for phase v is satisfied (R160). -/
def phaseMet (phase v : Nat) : Bool := decide (bits (phase + 0x10000 - v) 15 0 < 0x8000)

/-- Release the lanes of a group that wait on barrier i for a phase that is reached (R160). -/
def releaseWaiters (g : Group) (i : BitVec 3) (phase : Nat) : Group :=
  { g with lanes := g.lanes.map (fun x =>
      match x.st with
      | .wait (.barrier j v) n => if j = i ∧ phaseMet phase v.toNat then { x with st := .run, pc := pcAfter n x.pc } else x
      | _ => x) }

/-- Release the waiters of a team's barrier (R160); each release is an acquire at team scope (R239). -/
def releaseBar (s : State) (k t : Nat) (i : BitVec 3) (phase : Nat) : State :=
  (s.teamGroups k t).foldl (fun s h => acquire (s.modG h (fun g => releaseWaiters g i phase)) h .team) s

/-- PA of barrier i of a team (R444). -/
def barPa (s : State) (k t : Nat) (i : Nat) : Option Nat := (s.team? k t).bind (fun x => x.barPa[i]?)

def arrOf (g : Group) (i l : Nat) : Arrival := Tb.get Arrival.clear g.arr (64 * i + l)
def setArr (g : Group) (i l : Nat) (a : Arrival) : Group := { g with arr := Tb.set Arrival.clear g.arr (64 * i + l) a }

/-- Arrival of a lane (R160). -/
def arriveLane (s : State) (h : Nat) (i : BitVec 3) (l : Nat) : State :=
  let g := s.grp h
  match barPa s g.launch g.team i.toNat with
  | none => s
  | some pa =>
    let s := touch s (barBanks g.core pa)
    let b := readBar s pa
    let a := arrOf g i.toNat l
    if a.valid ∧ a.phase.toNat = b.phase then s
    else
      let s := s.modG h (fun g => setArr g i.toNat l { a with valid := true, phase := BitVec.ofNat 16 b.phase })
      if b.expect ≤ b.arrived + 1 then
        let p := (b.phase + 1) % 0x10000
        releaseBar (writeBar s pa { b with phase := p, arrived := 0 }) g.launch g.team i p
      else writeBar s pa { b with arrived := b.arrived + 1 }

/-- Drop of a lane (R41). -/
def dropLane (s : State) (h : Nat) (i : BitVec 3) (l : Nat) : State :=
  let g := s.grp h
  match barPa s g.launch g.team i.toNat with
  | none => s
  | some pa =>
    let s := touch s (barBanks g.core pa)
    let b := readBar s pa
    let a := arrOf g i.toNat l
    if a.dropped ∧ a.epoch.toNat = b.epoch then s
    else
      let s := s.modG h (fun g => setArr g i.toNat l { a with dropped := true, epoch := BitVec.ofNat 12 b.epoch })
      if b.expect = 0 then s
      else
        let arr := if a.valid ∧ a.phase.toNat = b.phase then b.arrived - 1 else b.arrived
        let e := b.expect - 1
        if arr = e then
          let p := (b.phase + 1) % 0x10000
          releaseBar (writeBar s pa { b with phase := p, expect := e, arrived := 0 }) g.launch g.team i p
        else writeBar s pa { b with expect := e, arrived := arr }

/-! ### Lanes that pass to DONE (R32, R40, R221) -/

/-- HND ends with the last handler lane (R221). -/
def endHandler (g : Group) : Group :=
  if g.sp.hnd && (lanesOf g.sp.hndMask).all (fun l => decide ((g.lane l).st = .done)) then
    { g with sp := { g.sp with hnd := false, hndMask := 0 } }
  else g

/-- Some lanes drop from every barrier of their team (R40, R41). -/
def dropLanes (s : State) (h : Nat) (ls : List Nat) : State :=
  let g := s.grp h
  let nb := match s.team? g.launch g.team with | some t => t.barPa.length | none => 0
  ls.foldl (fun s l => (List.range nb).foldl (fun s i => dropLane s h (BitVec.ofNat 3 i) l) s) s
/-- Move lanes to DONE at their current PCs: strike them from every knot, drop them from every barrier. -/
def lanesDone (s : State) (h : Nat) (m : Mask) : State :=
  let ls := (lanesOf m).filter (fun l => decide (l < (s.grp h).lanes.length) && decide (((s.grp h).lane l).st ≠ .done))
  let s := s.modG h (fun g => ls.foldl (fun g l => g.setLane l (fun x => { x with st := .done })) g)
  let s := s.modG h (fun g => strikeAll g (maskOf ls))
  (dropLanes s h ls).modG h endHandler

/-! ### Translation by engines and firmware, outside the pager (R164, R380, R444) -/

/-- A user-mode translation by the firmware, through the TLB of the Basin firmware processor (R357), outside the pager: the physical
address with the page's attributes, or the fault code. -/
def engineAccess (s : State) (tag va : Nat) (k : AccKind) : State × ((Nat × BitVec 16) ⊕ Nat) :=
  match translate s ⟨0, basinTlb, tag, false, 0⟩ va k with
  | (s, .ok pa attr) => (s, .inl (pa, attr))
  | (s, .fault c) => (s, .inr c)
  | (s, .recov _ _ _) => (s, .inr 2)
/-- The physical address alone. -/
def engineTranslate (s : State) (tag va : Nat) (k : AccKind) : State × (Nat ⊕ Nat) :=
  match engineAccess s tag va k with
  | (s, .inl x) => (s, .inl x.1)
  | (s, .inr c) => (s, .inr c)
/-- A store of exact bytes within one sector, as a user-mode store makes it: a sector bound takes it as R119 and R120 say. -/
def exactStore (m : MemSt) (pa : Nat) (attr : BitVec 16) (bs : List Byte) : MemSt :=
  applySector m ⟨pa / 32 * 32, (bs.zip (List.range bs.length)).map (fun x => (pa % 32 + x.2, x.1)), 0, none, keepsBnd pa attr⟩

/-! ### Item deques (R161 to R164, R240) -/

def dequeOf (s : State) (k core : Nat) : List (DWord × DqPlace) :=
  match s.work.deques.find? (fun d => decide (d.launch = k) && decide (d.core = core)) with
  | some d => d.items
  | none => []
def setDeque (s : State) (k core : Nat) (items : List (DWord × DqPlace)) : State :=
  let rest := s.work.deques.filter (fun d => !(decide (d.launch = k) && decide (d.core = core)))
  { s with work := { s.work with deques := if items = [] then rest else rest ++ [⟨k, core, items⟩] } }

/-- The overflow slot of an entry that has one. -/
def DqPlace.slot? : DqPlace → Option Nat
  | .mem pa => some pa
  | .sram _ => none
/-- Entries that a deque holds in the SRAM of a core. -/
def sramCount (core : Nat) (l : List (DWord × DqPlace)) : Nat := (l.filter (fun e => decide (e.2 = .sram core))).length
/-- Entries in the SRAM of a core, of its own deques and of others whose entries stayed there (R164). -/
def sramUsed (s : State) (core : Nat) : Nat := (s.work.deques.map (fun d => sramCount core d.items)).sum
/-- Slots of a launch that are occupied in its overflow area. -/
def slotsUsed (s : State) (k : Nat) : List Nat :=
  (s.work.deques.filter (fun d => decide (d.launch = k))).flatMap (fun d => d.items.filterMap (·.2.slot?))

/-- A free slot of the launch's overflow area: one in a page held, else one in the next page, which the engine translates
now (R164). The slot within a page is the lowest free one (log entry 17). -/
def freeSlot (s : State) (k : Nat) : State × Option Nat :=
  match s.launch? k with
  | none => (s, none)
  | some l =>
    let used := slotsUsed s k
    let slots := l.dqPages.flatMap (fun p => (List.range 512).map (fun i => p + 8 * i))
    match slots.find? (fun a => !used.contains a) with
    | some a => (s, some a)
    | none =>
      if l.dqFull ∨ l.rc.dqSize ≤ l.dqPages.length then (s, none)
      else
        let (s, r) := engineTranslate s l.tag.toNat (l.rc.dqArea.toNat + 4096 * l.dqPages.length) .write
        match r with
        | .inr _ => (s.modLaunch k (fun l => { l with dqFull := true }), none)
        | .inl pa => (s.modLaunch k (fun l => { l with dqPages := l.dqPages ++ [pa] }), some pa)

/-- Give the entry nearest the far end that is still in a core's SRAM a slot in memory. -/
def moveFar (core : Nat) : List (DWord × DqPlace) → Nat → List (DWord × DqPlace)
  | [], _ => []
  | (x, p) :: t, a => if p = .sram core then (x, .mem a) :: t else (x, p) :: moveFar core t a

/-- Tenants (functions) that hold entries in a core's SRAM, with their holdings. -/
def tenants (s : State) (core : Nat) : List (Nat × Nat) :=
  s.work.deques.foldl (fun t d =>
    match s.launch? d.launch with
    | none => t
    | some l =>
      let n := sramCount core d.items
      if n = 0 then t else Tb.put t l.func (Tb.get 0 t l.func + n)) []

/-- Whether deque `d` gives up an entry before deque `b`: more entries in the core's SRAM, then the launch admitted first, then the lower
core number (R163). -/
def givesFirst (s : State) (core : Nat) (d b : Deque) : Bool :=
  let n := sramCount core d.items
  let m := sramCount core b.items
  let seq : Nat → Nat := fun k => match s.launch? k with | some l => l.seq | none => 0
  decide (m < n) || (decide (m = n) &&
    (decide (seq d.launch < seq b.launch) || (decide (d.launch = b.launch) && decide (d.core < b.core))))
/-- The deque of a tenant that gives up an entry, among launches with overflow room. -/
def victimOf (s : State) (core func : Nat) (ex : List Nat) : Option Deque :=
  s.work.deques.foldl (fun best d =>
    match s.launch? d.launch with
    | none => best
    | some l =>
      if l.func ≠ func ∨ sramCount core d.items = 0 ∨ ex.contains d.launch ∨ l.rc.dqSize = 0 then best
      else
        match best with
        | none => some d
        | some b => if givesFirst s core d b then some d else best) none

/-- Move one entry of a core's SRAM to memory (R163, R164): the tenant furthest above its share gives it up, or one at its
share where every tenant is at its own (DEDUCED, log entry 17). `ex` lists launches found without room. -/
def evict : Nat → State → Nat → Nat → List Nat → State × Bool
  | 0, s, _, _, _ => (s, false)
  | fuel + 1, s, core, pusher, ex =>
    let ts := tenants s core
    let w := fun f => (s.func f).dqWeight
    let total := (ts.map (fun t => w t.1)).sum
    let above := fun (t : Nat × Nat) => (t.2 * total : Int) - 4096 * w t.1
    let least : Int := if ts.any (fun t => decide (0 < above t)) then 1 else 0
    let able := ts.filter (fun t => decide (least ≤ above t) && (victimOf s core t.1 ex).isSome)
    let pick := able.foldl (fun (b : Option (Nat × Nat)) t =>
      match b with
      | none => some t
      | some u => if above u < above t ∨ (above u = above t ∧ t.1 = pusher) then some t else b) none
    match pick with
    | none => (s, false)
    | some t =>
      match victimOf s core t.1 ex with
      | none => (s, false)
      | some d =>
        let (s, slot) := freeSlot s d.launch
        match slot with
        | none => evict fuel s core pusher (d.launch :: ex)
        | some a =>
          let items := dequeOf s d.launch d.core
          let x := (items.find? (fun e => decide (e.2 = .sram core))).map (·.1)
          let s := s.setNum a 8 ((x.getD 0).toNat)
          (setDeque s d.launch d.core (moveFar core items a), true)

/-- Where a new entry goes (R161, R163, R164): into the SRAM while that has room or an entry of it can be moved, else nowhere. -/
def placeItem (s : State) (k core : Nat) : State × Option DqPlace :=
  if sramUsed s core < 4096 then (s, some (.sram core))
  else
    match evict (s.work.deques.length + 1) s core (s.funcOf k) [] with
    | (s, true) => (s, some (.sram core))
    | (s, false) => (s, none)
/-- DQPUSH of one item (R240): whether it was pushed. -/
def pushItem (s : State) (k core : Nat) (x : DWord) : State × Bool :=
  let s := touch s [dequeBank core]
  if 2 ^ 20 ≤ (dequeOf s k core).length then (s, false)
  else
    match placeItem s k core with
    | (s, some p) => (setDeque s k core (dequeOf s k core ++ [(x, p)]), true)
    | (s, none) => (s, false)

/-- DQPOP of one item at the owner's end (R162). -/
def popItem (s : State) (k core : Nat) : State × Option DWord :=
  let s := touch s [dequeBank core]
  let items := dequeOf s k core
  match items.getLast? with
  | none => (s, none)
  | some e => (setDeque s k core items.dropLast, some e.1)

/-- DQSTEAL of one item at the far end (R162). -/
def stealItem (s : State) (k core : Nat) : State × Option DWord :=
  let s := touch s [dequeBank core]
  match dequeOf s k core with
  | [] => (s, none)
  | e :: t => (setDeque s k core t, some e.1)

/-- The cores that an ITEM lane steals from, in order (R34). -/
def stealOrder (core : Nat) : List Nat :=
  let c := core % 32
  let d := core / 32
  (List.range 31).map (fun i => 32 * d + (c + 1 + i) % 32) ++
  (List.range 7).flatMap (fun j => (List.range 32).map (fun i => 32 * ((d + 1 + j) % 8) + (c + i) % 32))

/-- One lane of ITEM (R34): its own deque, then the others in order. -/
def takeItem (s : State) (k core : Nat) : State × Option DWord :=
  match popItem s k core with
  | (s, some x) => (s, some x)
  | (s, none) =>
    match (stealOrder core).find? (fun c => decide (dequeOf s k c ≠ [])) with
    | none => (s, none)
    | some c => stealItem s k c

/-! ### Bound cells (R165, R166) -/

/-- BNDRD on a core (R165): the watch copy, installed when absent, most recently read last; 16 copies at most. The spec does not say what
BNDRD and BNDMIN do where the cell's sector is poisoned or its line has an error: they take the bytes that memory holds, and leave the
sector bound as it is (DESIGN CHOICE, log entry 43). -/
def readWatch (s : State) (core pa : Nat) : State × DWord :=
  let ws := (s.core core).watch
  let v := match ws.find? (fun e => decide (e.1 = pa)) with
    | some e => e.2
    | none => BitVec.ofNat 64 (s.num pa 8)
  let rest := ws.filter (fun e => decide (e.1 ≠ pa))
  let rest := if 16 ≤ rest.length then rest.drop 1 else rest
  (touch (s.modCore core (fun c => { c with watch := rest ++ [(pa, v)] })) (banksAt core false pa ++ engineBanks pa), v)

/-- BNDMIN of one value at the cell's engine (R165): the cell takes the signed minimum, and a lowered value is on its way to
the copies in the cluster, or in the device. -/
def applyMin (s : State) (core pa : Nat) (dev : Bool) (x : Nat) : State :=
  let old := s.num pa 8
  let s := touch s (banksAt core false pa ++ engineBanks pa)
  if signed 64 x < signed 64 old then
    let s := s.setNum pa 8 x
    let cs := if dev then List.range 256 else (List.range 8).map (fun i => 8 * (core / 8) + i)
    let hold := cs.filter (fun c => (s.core c).watch.any (fun e => decide (e.1 = pa)))
    s.upMem (fun m => { m with watchUpd := m.watchUpd ++ hold.map (fun c => (c, pa, BitVec.ofNat 64 x)) })
  else s

/-- A lowered value reaches a core's copy (R165); a copy never rises (R166). -/
def updateWatch (s : State) (core pa : Nat) : State :=
  match s.mem.watchUpd.find? (fun e => decide (e.1 = core) && decide (e.2.1 = pa)) with
  | none => s
  | some (_, _, v) =>
    let s := s.upMem (fun m => { m with watchUpd := m.watchUpd.erase (core, pa, v) })
    s.modCore core (fun c => { c with watch := c.watch.map (fun e =>
      if e.1 = pa ∧ signed 64 v.toNat < signed 64 e.2.toNat then (pa, v) else e) })

/-! ### Operations of the synchronisation engine that are performed after issue (R240, R241, R276) -/

/-- Instructions whose operation is performed between issue and write: the deque takes, BNDRD and WALL. -/
def isLate : Instr → Bool
  | .dqpop .. | .dqsteal .. | .bndrd .. | .wall .. | .wallV .. => true
  | _ => false
/-- The WALL view of a group (R276). -/
def wallOf (s : State) (g : Group) : Nat := (s.now + g.ctl.wallOff.toNat) % 2 ^ 64
/-- The physical address that BNDRD keeps beside its operands, above the slots of the lanes. -/
def Entry.cellPa (e : Entry) : Nat :=
  (Tb.get VCell.zero e.slots 512).data.toNat + 2 ^ 32 * (Tb.get VCell.zero e.slots 513).data.toNat
/-- Result words of a deque take: the item and VAL, or an empty deque (R240). -/
def takeCells (x : Option DWord) : List VCell :=
  match x with
  | some x => [⟨x.setWidth 32, 0⟩, ⟨(x >>> 32).setWidth 32, 0⟩, ⟨1, 0⟩]
  | none => [VCell.zero, VCell.zero, ⟨2, 0⟩]

/-- Whether an instruction reads the WALL view. -/
def isWall : Instr → Bool
  | .wall .. | .wallV .. => true
  | _ => false
/-- One lane of WALL: the view as it now is (R276). -/
def wallLane (h : Nat) (e : Entry) (s : State) (l : Nat) : State :=
  let g := s.grp h
  match e.instr with
  | .wall .. => modEntry s h e.id (fun e => e.doneU (SCell.exact (wallOf s g)))
  | .wallV .. => modEntry s h e.id (fun e => e.done l [VCell.exact (wallOf s g)])
  | _ => s
/-- The WALL reads that a group issued before an entry are performed before it, so that successive reads never decrease (R276). -/
def wallsBefore (s : State) (h id : Nat) : State :=
  ((s.grp h).outst.filter (fun e => decide (e.id < id) && isWall e.instr)).foldl (fun s e =>
    (lanesOf (e.mask &&& ~~~e.performed)).foldl (wallLane h e) s) s

/-- The core whose deque an entry takes from (R240). -/
def dqCore (g : Group) (e : Entry) : Option Nat :=
  match e.instr with
  | .dqpop .. => some g.core
  | .dqsteal .. => some (e.uop.toNat % 256)
  | _ => none
/-- One lane of DQPOP or DQSTEAL. -/
def takeLane (h : Nat) (e : Entry) (s : State) (l : Nat) : State :=
  let g := s.grp h
  match e.instr with
  | .dqpop .. =>
    let (s, x) := popItem s g.launch g.core
    let s := if x.isSome then s.bump h 0x16 1 else s
    modEntry s h e.id (fun e => e.done l (takeCells x))
  | .dqsteal .. =>
    let (s, x) := stealItem s g.launch (e.uop.toNat % 256)
    let s := if x.isSome then s.bump h 0x17 1 else s
    modEntry s h e.id (fun e => e.done l (takeCells x))
  | _ => s
/-- The takes that a group issued before an order number from deques of a test are performed before it: accesses of a lane to one deque
keep program order (R143, R240). -/
def takesBefore (s : State) (h id : Nat) (t : Nat → Bool) : State :=
  ((s.grp h).outst.filter (fun e => decide (e.id < id) && (match dqCore (s.grp h) e with | some c => t c | none => false))).foldl
    (fun s e => (lanesOf (e.mask &&& ~~~e.performed)).foldl (takeLane h e) s) s

/-- BNDRD has found its cell, and may be performed: one that is re-injected translates first (R327). -/
def Entry.found (e : Entry) : Bool := (Tb.get? e.slots 512).isSome
/-- BNDRD reads its cell: where the core has no watch copy of it, an error of the cell's line is reported (R431). -/
def readCell (s : State) (h : Nat) (e : Entry) : State × DWord :=
  let g := s.grp h
  let s := forceBefore s h e.id [sectorOf e.cellPa]
  let s := if (s.core g.core).watch.any (fun w => decide (w.1 = e.cellPa)) then s else tellEntry s h e [⟨e.cellPa, e.uop.toNat, 0, none⟩]
  readWatch s g.core e.cellPa
/-- Perform one lane of such an operation. -/
def performLateLane (h : Nat) (e : Entry) (s : State) (l : Nat) : State :=
  let g := s.grp h
  match e.instr with
  | .dqpop .. | .dqsteal .. => takeLane h e (takesBefore s h e.id (fun c => decide (dqCore g e = some c))) l
  | .bndrd .. =>
    if !e.found then s
    else
    let (s, v) := readCell s h e
    modEntry s h e.id (fun e => e.done l [⟨v.setWidth 32, 0⟩, ⟨(v >>> 32).setWidth 32, 0⟩])
  | .wall .. | .wallV .. => wallLane h e (wallsBefore s h e.id) l
  | _ => s
/-- Perform what an outstanding entry needs, in lane order for these operations (R162). -/
def perform (s : State) (h id : Nat) : State :=
  match findEntry s h id with
  | none => s
  | some e =>
    if isLate e.instr then (lanesOf (e.mask &&& ~~~e.performed)).foldl (performLateLane h e) s else performEntry s h id

/-- Every operation of a group on its memory path is performed, in order: a release, a FENCE, a barrier arrival (R146). -/
def drainGroup (s : State) (h : Nat) : State :=
  let late : List (Nat × Bool × List Nat) :=
    ((s.grp h).outst.filter (fun e => isLate e.instr)).map (fun e => (e.id, (true, [])))
  (late.foldl (fun t o => Tb.put t o.1 o.2) (groupOps s h)).foldl
    (fun s o => if o.2.1 then perform s h o.1 else applyPend s o.1) s

/-- The store path of a core drains: its earlier stores reach their homes (R131). -/
def drainCore (s : State) (core : Nat) : State :=
  ((s.mem.pend.filter (fun p => decide (p.core = core))).map (·.id)).foldl storeHome s
/-- A release of the group at a scope: its own path and the store path of its core drain (R131, R146), and the detector publishes
(R150). -/
def release (s : State) (h : Nat) (sc : Scope) : State :=
  (drainCore (drainGroup s h) (s.grp h).core).modG h (fun g => g.publish sc)

end Sys2Proof.Machine
end

