-- ==== Sys2Proof/Machine/Kill.lean ====
section
/-! DEFINITION. Core dumps and kills (R40, R338, R343, R371, R381). -/

namespace Sys2Proof.Machine

/-- Locks that a stopped group holds are freed (R371). -/
def freeLocks (s : State) (h : Nat) : State :=
  (s.mem.cells.filter (fun c => decide (0x8000081000 ≤ c.1) && decide (c.1 < 0x8000089000) && decide (c.1 % 8 = 7))).foldl
    (fun s c => if s.num (c.1 - 7) 8 = 2 ^ 63 + h then s.setNum (c.1 - 7) 8 0 else s) s

/-- A group stands within a store or an AXADD of which some lanes have been accepted: no instruction boundary (R38, R139). -/
def Group.midway (g : Group) : Bool := match g.rejected with | some r => decide (r.done ≠ 0) | none => false
/-- A group stands within such a store, or within an atomic of which some locations have found request entries and others have not. -/
def Group.within (g : Group) : Bool :=
  g.midway || (match g.rejected with | some r => isAtomic r.entry.instr && g.outst.any (fun e => decide (e.id = r.entry.id)) | none => false)
/-- A killed group in user mode first completes the instruction within which it stands (R338): one without power cannot (R420). -/
def killWaits (s : State) (g : Group) : Bool := !g.sp.sv && g.within && !(s.die (dieOf g.core)).off

/-- A group dies (R338, R244, R221): its engine operations and stores complete, in the order that coherence asks for, its results are discarded,
a load that it holds rejected makes no further request (log entry 7), and its lanes pass to DONE with the effects of R40; a group in supervisor
mode that kills its own team dies at its EPC values. The locks that it holds are freed. On a die without power no operation is performed
(R420). -/
def killNow (s : State) (h : Nat) (atEpc : Bool) : State :=
  let g := s.grp h
  let ids := if g.ctl.rom = some 0x2C || (s.die (dieOf g.core)).off then [] else (g.outst.filter (fun e => isAtomic e.instr)).map (·.id)
  let s := ids.foldl (fun s id => performEntry s h id) s
  let s := s.modG h (fun g =>
    { g with
      outst := [], replay := [], rejected := none,
      lanes := if atEpc then g.lanes.map (fun x => if x.st = .done then x else { x with pc := x.epc }) else g.lanes,
      ctl := { g.ctl with dead := true, dying := false, rom := none, halted := false, marker := false, stopPend := false,
                          preemptPend := false } })
  freeLocks (lanesDone s h (fullMask (s.grp h).lanes.length)) h
/-- A kill reaches a group: at once, or at the end of the instruction within which the group stands. -/
def killGroup (s : State) (h : Nat) (atEpc : Bool) : State :=
  if killWaits s (s.grp h) then s.modG h (fun g => { g with ctl := { g.ctl with dying := true } }) else killNow s h atEpc
/-- A kill that waited takes effect at the next instruction boundary. -/
def killDue (s : State) (h : Nat) : State :=
  if (s.grp h).ctl.dying && !killWaits s (s.grp h) then killNow s h false else s

/-- ID0 of a group as it stands for a PC under COARSE (Table 18-9). -/
def Group.regionPc (g : Group) : PC := match g.sp.regions with | r :: _ => BitVec.ofNat 48 r.1.toNat | [] => 0
/-- The payload of a cause under COARSE: that of MISPC is a PC (Table 13-4). -/
def Group.coarsePayload (g : Group) (cause : Nat) (payload : DWord) : DWord := if cause = 0x25 then g.regionPc.setWidth 64 else payload
/-- What sections 0 and 1 of a core dump (Table 13-8) show of a group under COARSE (R435, Table 18-9): the frame registers, EPC and
LSTATE per lane and the replay queue, with every PC replaced by the group's ID0, the payload of MISPC among them (Table 13-4), and the
cause by its class code. -/
def coarseGroup (g : Group) : Group :=
  let pc := g.regionPc
  let cause := classCode (g.frame.tcause.toNat % 256)
  { Group.empty with
    launch := g.launch, team := g.team, gid := g.gid, width := g.width, regs := g.regs, core := g.core, sched := g.sched,
    place := g.place, issuedPc := pc, lanes := g.lanes.map (fun x => { x with pc := pc, epc := pc }),
    frame := { g.frame with
      tcause := BitVec.ofNat 11 (g.frame.tcause.toNat / 256 * 256 + cause), tpc := pc, tpayload := g.coarsePayload (g.frame.tcause.toNat % 256) g.frame.tpayload },
    replay := g.replay.map (fun e => { e with pc := pc }) }

/-- Section 3 of a core dump: the ranges that the driver names, as memory holds them before the stores of the team that are on their way
are released (R344). How the driver names them the spec does not say: the ranges are a free value (log entry 41). -/
def dumpMemory (s : State) (f : Nat) : List (Nat × List Byte) := (Config.dumpRanges f).map (fun r => (r.1, s.mem.bytes r.1 r.2))
/-- A core dump of a team under the disclosure policy (R343, R435: class dumps is class 4). The sections are written to the function's dump
area; Table 13-8 gives no layout, so which bytes say what is a free value (log entry 41). `self` is the group whose trap led to the kill, where one did. -/
def dumpTeam (s : State) (l : Launch) (t : Team) (cause : Nat) (payload : DWord) (self : Option Nat) : State :=
  let lev := levelOf s l.func 4
  if lev < 2 ∨ (s.func l.func).dumpSize = 0 then s
  else
    let hs := s.teamGroups t.launch t.id
    let full := decide (lev = 3)
    let d : Dump :=
      { launch := l.number, team := t.id, func := l.func, tstamp := s.now, cause := if full then cause else classCode cause,
        identity := Config.serial,
        payload := if full then payload else (s.grp (self.getD 0)).coarsePayload cause payload, whole := full,
        groups := hs.map (fun h => if full then s.grp h else coarseGroup (s.grp h)),
        stores := if full then s.mem.pend.filter (fun p => decide (p.launch = t.launch) && decide (p.team = t.id)) else [],
        tasks := if full then s.work.tasks.filter (fun x => decide (x.launch = t.launch) && decide (x.team = t.id)) else [],
        memory := if full then dumpMemory s l.func else [] }
    let s := s.setBytes (s.func l.func).dumpPa ((Config.dumpBytes s.free).take (s.func l.func).dumpSize)
    { s with dev := { s.dev with dumps := s.dev.dumps ++ [d] }, free := s.free + 1 }

/-- One team is killed. -/
def killTeam (s : State) (l : Launch) (t : Team) (cause : Nat) (payload : DWord) (dump : Bool) (self : Option Nat) : State :=
  let s := if dump then dumpTeam s l t cause payload self else s
  let hs := s.teamGroups t.launch t.id
  let s := hs.foldl (fun s h => killGroup s h (decide (self = some h))) s
  s.modTeam t.launch t.id (fun t => { t with dead := true })

/-- A kill ends the launch (R381): every resident team is killed, no other is dispatched, and images already written are
discarded (Table 15-11). The first kill gives the cause, and posts the KILL entry. A launch whose image is written has ended as saved
(R399), and no kill changes that. -/
def killLaunch (s : State) (key cause team : Nat) (tpc : PC) (payload : DWord) (dump : Bool) (self : Option Nat)
    (restFail : Bool) : State :=
  match s.launch? key with
  | none => s
  | some l =>
    let saved := match l.ending with | .saved _ => true | _ => false
    let first := decide (l.ending = .none)
    if saved then s
    else
    let s := if first then
        postJournal s 4 l.func 1 (toBytes 8 l.cb ++ toBytes 8 l.number ++ toBytes 4 team ++ toBytes 1 cause ++ toBytes 3 0 ++
          toBytes 8 tpc.toNat)
      else s
    let s := s.modLaunch key (fun l =>
      { l with stopDispatch := true, savedTeams := [], saveCmd := none,
               ending := if first then (if restFail then .restFail else .killed (BitVec.ofNat 8 cause)) else l.ending })
    let ts := s.work.teams.filter (fun t => decide (t.launch = key))
    ts.foldl (fun s t => killTeam s l t cause payload dump self) s

end Sys2Proof.Machine
end

