-- ==== Sys2Proof/Machine/Ops.lean ====
section
/-! DEFINITION. Issue of a word: the checks made at issue (R114 to R117, R53, R180), taking an exception (R325, R326, R328) and
returning from one (R327, R330), containment delivery (R126), the PAGE trap (R45, R227, R360), and the writing of late
results (R179, R180). -/

namespace Sys2Proof.Machine

/-! ### Late results -/

/-- Destinations of an entry for lanes of a mask, by the keys of `regKey`. -/
def destKeys (regs : Nat) (i : Instr) (m : Mask) : List Nat :=
  (writes regs i).flatMap (fun r =>
    match r.1 with
    | .v => (lanesOf m).map (fun l => regKey .v r.2 l)
    | .p => (lanesOf m).map (fun l => regKey .p r.2 l)
    | c => [regKey c r.2 0])

/-- A base-translation register from the four result words of BXLT and its VBASE. -/
def bOfCells (vbase : DWord) (cs : List VCell) : BReg :=
  let w := fun k => (cs.getD k VCell.zero).data
  ⟨vbase.setWidth 57, (w 1 ++ w 0).setWidth 52, w 2, (w 3).setWidth 16⟩

/-- The k-th of the four words of a popped fault record: FRQPOP holds them in the result words of lane 0. -/
def popWord (e : Entry) (k : Nat) : SCell :=
  ⟨(Tb.get VCell.zero e.slots (2 * k + 1)).data ++ (Tb.get VCell.zero e.slots (2 * k)).data, 0⟩
/-- The write of one destination of an entry for one lane: result word k. -/
def writeDest (g : Group) (e : Entry) (l : Nat) (r : Ref) (k : Nat) : Group :=
  let c := Tb.get VCell.zero e.slots (8 * l + k)
  match r.1 with
  | .v => g.setV r.2 l c
  | .p => g.setP r.2 l (mkPred (c.data.getLsbD 0) false)
  | .s => g.setS r.2 (match e.instr with | .frqpop _ => popWord e k | _ => ⟨e.uop, e.ueb⟩)
  | .b => g.setB r.2 (bOfCells e.uop (e.cells 0 0 4))
  | _ => g

/-- Write the words of FRQPOP that `ks` lists. -/
def popWords (g : Group) (d : Nat) (e : Entry) (ks : List Nat) : Group := ks.foldl (fun g k => g.setS (d + k) (popWord e k)) g

/-- DQPOP and DQSTEAL lanes that find no item keep their pair and receive VAL = 0 (R240); the entry lists them with bit 1 of
result word 2 set. -/
def emptyLane (e : Entry) (l : Nat) : Bool :=
  match e.instr with
  | .dqpop .. | .dqsteal .. => (Tb.get VCell.zero e.slots (8 * l + 2)).data.getLsbD 1
  | _ => false
/-- The results that an entry writes in the lanes of a mask: lane, register, number of the result word. -/
def resultJobs (regs : Nat) (e : Entry) (m : Mask) : List (Nat × Ref × Nat) :=
  let ds := writes regs e.instr
  (lanesOf m).flatMap (fun l =>
    ((ds.zip (List.range ds.length)).filter (fun r => !(emptyLane e l && decide (r.1.1 = .v)))).map (fun r => (l, r.1, r.2)))

/-- Write the results of an entry for the lanes of a mask; a contested destination keeps its value where the free choice
says so (R180). -/
def writeResults (s : State) (h : Nat) (e : Entry) (m : Mask) : State :=
  match e.instr with
  | .frqpop d =>
    let (ks, s) := (List.range 4).foldl (fun (r : List Nat × State) k =>
      if e.contested.contains (regKey .s (d.toNat + k) 0) then
        let (old, s) := r.2.choose
        (if old then r.1 else r.1 ++ [k], s)
      else (r.1 ++ [k], r.2)) ([], s)
    s.modG h (fun g => popWords g d.toNat e ks)
  | _ =>
    (resultJobs (s.grp h).regs e m).foldl (fun s j =>
      let keep := e.contested.contains (regKey j.2.1.1 j.2.1.2 j.1) ||
        (decide (j.2.1.1 ≠ .v) && decide (j.2.1.1 ≠ .p) && e.contested.contains (regKey j.2.1.1 j.2.1.2 0))
      let (old, s) := if keep then s.choose else (false, s)
      if old then s else s.modG h (fun g => writeDest g e j.1 j.2.1 j.2.2)) s

/-- A captured deque take shows what the pair of such a lane holds. -/
def fillEmpty (g : Group) (e : Entry) : Entry :=
  match e.instr with
  | .dqpop d _ | .dqsteal d _ _ =>
    (lanesOf e.mask).foldl (fun e l =>
      if emptyLane e l then
        e.setCells l [Tb.get VCell.zero g.r.v (64 * d.toNat + l), Tb.get VCell.zero g.r.v (64 * (d.toNat + 1) + l)]
      else e) e
  | _ => e

/-- The results of an entry arrive: every lane is written, and the entry leaves (R179). -/
def returnEntry (s : State) (h id : Nat) : State :=
  match findEntry s h id with
  | none => s
  | some e =>
    let s := writeResults s h e e.mask
    s.modG h (fun g => { g with outst := g.outst.filter (fun x => decide (x.id ≠ id)) })

/-- An entry whose every lane has been performed. -/
def Entry.ready (e : Entry) : Bool := decide (e.mask &&& ~~~e.performed = 0)

/-- Perform what remains of an entry and write its results. An entry with lanes that wait for the pager or a retry stays. -/
def finishEntry (s : State) (h id : Nat) : State :=
  let s := perform s h id
  match findEntry s h id with
  | none => s
  | some e => if e.ready then returnEntry s h id else s

/-- Every outstanding result of a group returns. -/
def finishAll (s : State) (h : Nat) : State := ((s.grp h).outst.map (·.id)).foldl (fun s id => finishEntry s h id) s

/-- A new outstanding entry. -/
def newEntry (s : State) (i : Instr) (m : Mask) (u : DWord) (slots : List (Nat × VCell)) (acc : List (Nat × LaneAcc)) : Entry :=
  { id := s.ids, instr := i, word := s.cur.word &&& 0x3FFFFFFF, pc := s.cur.wpc, valid := true, held := false, mask := m,
    performed := 0, uop := u, ueb := 0, slots := slots, acc := acc, contested := [], told := [] }
def addEntry (s : State) (h : Nat) (e : Entry) : State :=
  { (s.modG h (fun g => { g with outst := g.outst ++ [e] })) with ids := s.ids + 1 }

/-! ### Capture (R326) -/

/-- One captured entry: lanes performed in part are written; an entry performed whole is HELD with its results. -/
def captureEntry (s : State) (h : Nat) (e : Entry) : State × Entry :=
  if e.ready then (s, { fillEmpty (s.grp h) e with held := true, acc := [] })
  else
    let s := writeResults s h e (e.mask &&& e.performed)
    (s, { e with held := false, mask := e.mask &&& ~~~e.performed, performed := 0, acc := [] })

/-- The replay queue at entry: every outstanding instruction in issue order, with entry `last` (PAGE) at the end. -/
def capture (s : State) (h : Nat) (last : Option Nat) : State :=
  let es := (s.grp h).outst
  let es := es.filter (fun e => decide (some e.id ≠ last)) ++ es.filter (fun e => decide (some e.id = last))
  let (s, q) := es.foldl (fun (p : State × List Entry) e =>
    let (s, e') := captureEntry p.1 h e
    (s, p.2 ++ [e'])) (s, [])
  s.modG h (fun g => { g with replay := q, outst := [] })

/-! ### Trap entry (R325) -/

/-- Supervisor PC of a cause (Table 13-3, VTAB). -/
def vectorPc (s : State) (cause : Nat) : PC := BitVec.ofNat 48 (s.num (s.dev.vtab.toNat + 8 * cause) 8)

/-- Bytes of a group image (R397). -/
def groupImageSize (w regs : Nat) : Nat := alignUp (0xE000 + 6 * w * regs) 4096
/-- Offset of a group's image in its team's image (Table 15-9). -/
def groupImageOff (w regs tiles g : Nat) : Nat := alignUp (0x1000 + 0x8800 * tiles) 4096 + groupImageSize w regs * g
/-- The save area of a group, in the image that the distributor placed for its team (R319). -/
def saveArea (s : State) (g : Group) : Nat :=
  match s.team? g.launch g.team with
  | some t => if t.image = 0 then 0 else t.image + groupImageOff g.width g.regs t.tiles.length g.gid
  | none => 0

/-- A register of the bank: s56 to s63, p7 or b7 (R318). -/
def inBank (x : RegClass × Nat × Nat) : Bool :=
  match x.1 with
  | .s => decide (56 ≤ x.2.1) | .p => decide (x.2.1 = 7) | .b => decide (x.2.1 = 7) | _ => false
/-- The bank at every entry to supervisor mode (R319); the user values are kept (R318), with their uncorrectable errors (R53). -/
def swapIn (s56 : Nat) (g : Group) : Group :=
  let bank : Bank :=
    ⟨(List.range 8).map (fun i => (i, Tb.get SCell.zero g.r.s (56 + i))),
     (List.range g.width).map (fun l => (l, Tb.get 0 g.r.p (448 + l))), g.b 7, g.soft.filter inBank⟩
  let g := { g with bank := bank }
  let g := (List.range 8).foldl (fun g i => g.setS (56 + i) (SCell.exact (if i = 0 then s56 else 0))) g
  let g := (List.range g.width).foldl (fun g l => g.setP 7 l 0) g
  (g.setB 7 BReg.zero)

/-- The bank leaves and the user values return (R330). -/
def swapOut (g : Group) : Group :=
  let b := g.bank
  let g := b.s.foldl (fun g e => g.setS (56 + e.1) e.2) g
  let g := b.p.foldl (fun g e => g.setP 7 e.1 e.2) g
  let g := g.setB 7 b.b
  { g with bank := Bank.zero, soft := b.soft ++ g.soft }

/-- A double trap of a group (R328): it halts, a DOUBLE record is posted, and the firmware kills the team. The kill has the cause 0x30, though
Table 13-4 has it in fault records alone and Table 15-4 asks for the trap cause that led to the kill (DESIGN CHOICE, log entry 41). -/
def doubleAt (s : State) (h cause : Nat) (pc : PC) : State :=
  let g := s.grp h
  let code := if cause < 0x20 then cause else 0
  let s := s.modG h (fun g => { g with ctl := { g.ctl with halted := true } })
  let s := postRec s g.core (mkRec 3 code false pc 0 cause (g.sp.tag.toNat * 2 ^ 48 + h * 2 ^ 32))
  let dump := match s.launch? g.launch with | some l => l.rc.ctrl.getLsbD 1 | none => false
  killLaunch s g.launch 0x30 g.team pc (BitVec.ofNat 64 cause) dump (some h) false

/-- Steps 2 to 4 of trap entry at a vector. The group's lanes hold the PCs they keep; `epc` gives the PC of Table 13-4 for trapping
lanes. The wait counts of the user PC-sets are kept for the return (R25). -/
def enterAt (v : PC) (s : State) (h cause payload slot : Nat) (forced : Bool) (tmask pcm : Mask) (tpc : PC)
    (epc : Option PC) (last : Option Nat) : State :=
  let s := capture s h last
  let area := saveArea s (s.grp h)
  let rom := s.dev.romVecs.getLsbD cause
  let t := s.now
  s.modG h (fun g =>
    let g := { g with
      frame := ⟨BitVec.ofNat 11 (b2n forced * 1024 + slot * 256 + cause), BitVec.ofNat 64 payload, tmask, pcm, tpc,
                BitVec.ofNat 64 t, 0⟩,
      lanes := g.lanes.mapIdx (fun l x =>
        if x.st = .done then { x with lst := .done }
        else
          let e := match epc with | some q => if tmask.getLsbD l then q else x.pc | none => x.pc
          { x with epc := e, lst := x.st, pc := v, st := .run }),
      waits := [], rejected := none,
      sp := { g.sp with sv := true },
      ctl := { g.ctl with rom := if rom then some cause else none, romWork := [], userMarker := g.ctl.marker, marker := false,
                          userWaits := g.waits } }
    swapIn area g)
/-- Trap entry. A vector whose slot is 3 is a handler entry that raises MISPC in its place (R61); where the vector of MISPC has slot 3
too, nothing can be entered and the trap is a double trap. -/
def enterSupervisor (s : State) (h cause payload slot : Nat) (forced : Bool) (tmask pcm : Mask) (tpc : PC)
    (epc : Option PC) (last : Option Nat) : State :=
  let v := vectorPc s cause
  if slotOf v ≠ 3 then enterAt v s h cause payload slot forced tmask pcm tpc epc last
  else if slotOf (vectorPc s 0x25) ≠ 3 then enterAt (vectorPc s 0x25) s h 0x25 v.toNat slot forced tmask pcm tpc epc last
  else doubleAt s h cause tpc

/-- The lanes of the issue hold the chain's first PC again: the issue has no effect (R45). -/
def unissue (s : State) : State :=
  s.upG (fun g => (lanesOf s.cur.mask).foldl (fun g l => g.setLane l (fun x => { x with pc := s.cur.pc })) g)

/-- A trap raised by the word that issues, in supervisor mode. -/
def doubleTrap (s : State) (cause : Nat) : State :=
  let s := doubleAt (unissue s) s.cur.h cause s.cur.pc
  { s with cur := { s.cur with trapped := true } }
/-- The slot that a word takes within its chain (TCAUSE, Table 13-3; log entry 14). -/
def chainSlot (s : State) (wpc : PC) : Nat := slotOf wpc - slotOf s.cur.pc

/-- A trap to the supervisor raised by the word that issues. `own` says that the trapping lanes stand at the word itself
(Table 13-4: MISPC, KNOT, USER), not at the chain's first word. -/
def trap (s : State) (cause payload : Nat) (tmask : Mask) (own : Bool) : State :=
  if s.curG.sp.sv then doubleTrap s cause
  else
    let q := if own then s.cur.wpc else s.cur.pc
    let s := enterSupervisor (unissue s) s.cur.h cause payload (chainSlot s s.cur.wpc) false tmask 0 q (some q) none
    { s with cur := { s.cur with trapped := true } }

/-- Illegal-instruction (R177 and every rule that names it). -/
def illegal (s : State) : State := trap s 0x23 s.cur.word.toNat s.cur.mask false
/-- Misaligned PC (R61): `ts` are the lanes with their targets. -/
def misaligned (ts : List (Nat × PC)) : List (Nat × PC) := ts.filter (fun t => decide (slotOf t.2 = 3))
def mispc (s : State) (ts : List (Nat × PC)) : State :=
  let bad := misaligned ts
  trap s 0x25 ((bad.head?.map (fun t => t.2.toNat)).getD 0) (maskOf (bad.map (·.1))) true

/-- A comparator match raises DEBUG before the chain has any effect (R336): HIT bits and matching lanes. -/
def debugTrap (s : State) (hit : Nat) (m : Mask) : State :=
  trap (s.modCore s.cur.rd.core (fun c => { c with dbgHit := c.dbgHit ||| BitVec.ofNat 8 hit })) 0x2D hit m false

/-- The issue waits (R23, R27): nothing has issued. `why` is the reason by Table 18-3, 0 where the table has none. -/
def stall (s : State) (why : Nat) : State :=
  { ((unissue s).upG (fun g => { g with why := why })) with cur := { s.cur with stalled := true } }

/-! ### Deferred faults (R115 to R117, R125, R126) -/

/-- A failing lane: tokens of its poisoned operands in operand order, and its breach payload. -/
structure LaneFail where
  lane : Nat
  toks : List Word
  breach : Option Nat
  deriving DecidableEq, Repr

/-- Codes that the containment handler may take (Table 4-6, R125). -/
def containable (c : Nat) : Bool := decide (c = 1) || decide (c = 6) || decide (c = 7)

/-- Cause and payload (R117, Table 4-8). -/
def chooseFail (fs : List LaneFail) : Nat × Nat :=
  match fs.findSome? (fun f => f.toks.find? (fun t => !containable (tokCode t))) with
  | some t => (tokCode t, t.toNat)
  | none =>
    match fs.findSome? (fun f => f.toks.head?) with
    | some t => (tokCode t, t.toNat)
    | none => (0x20, (fs.findSome? (·.breach)).getD 0)

/-- Delivery to the containment handler (R126); a handler entry with slot 3 raises MISPC (R61). -/
def deliver (s : State) (cause payload s62 : Nat) : State :=
  if slotOf s.curG.sp.chandler = 3 then mispc s ((lanesOf s.cur.mask).map (fun l => (l, s.curG.sp.chandler)))
  else
  let s := (unissue s).bump s.cur.h 0x11 1
  let m := s.cur.mask
  let s := s.upG (fun g =>
    let g := { g with sp := { g.sp with hnd := true, hndMask := m } }
    let g := (((g.setS 60 (SCell.exact cause)).setS 61 (SCell.exact payload)).setS 62 (SCell.exact s62)).setS 63
      (SCell.exact s.cur.pc.toNat)
    (lanesOf m).foldl (fun g l => g.setLane l (fun x => { x with pc := g.sp.chandler })) g)
  { s with cur := { s.cur with trapped := true } }

/-- The deferred-fault trap with a cause, payload, failing mask, and what s62 receives. -/
def deferredTrap (s : State) (cause payload : Nat) (m : Mask) (s62 : Nat) : State :=
  let s := if cause = 0x20 ∨ cause = 0x21 then s.bump s.cur.h 0x14 1 else s
  let g := s.curG
  if !g.sp.sv && (containable cause || decide (cause = 0x20)) && decide (g.sp.chandler ≠ 0) && !g.sp.hnd then
    deliver s cause payload s62
  else trap (s.bump s.cur.h 0x12 1) cause payload m false

def deferred (s : State) (fs : List LaneFail) : State :=
  let c := chooseFail fs
  let m := maskOf (fs.map (·.lane))
  deferredTrap s c.1 c.2 m m.toNat

/-- What a commit point reads in a lane (R114, R115): operands checked for poison in operand order, operands whose bound must
fit EBUD, the predicate tested, and whether an ambiguous predicate fails. -/
structure Commit where
  ops : List Opd
  bud : List Opd
  pred : Option Byte
  amb : Bool

def Commit.none : Commit := ⟨[], [], Option.none, false⟩
def Commit.of (l : List Opd) : Commit := ⟨l, [], Option.none, false⟩

/-- Data operand of an access of a width (R224). -/
def State.odata (s : State) (d : Reg) (wd : Width) (l : Nat) : Opd :=
  match wd with
  | .d => s.opair d l
  | .q => .ofVs [s.rvN d.toNat l, s.rvN (d.toNat + 1) l, s.rvN (d.toNat + 2) l, s.rvN (d.toNat + 3) l]
  | _ => s.ov d l
/-- Second operand of ACAS (R234). -/
def State.onew (s : State) (d : Reg) (wd : Width) (l : Nat) : Opd :=
  if wd = .d then .ofVs [s.rvN (d.toNat + 2) l, s.rvN (d.toNat + 3) l] else .ofV (s.rvN (d.toNat + 1) l)

/-- The page that an access through b register n would reach, as its LIMIT or the table gives it: address and attributes. -/
def peekPage (s : State) (n : BitVec 3) (va : Nat) : Option (Nat × Nat) :=
  let b := s.cur.rd.b n.toNat
  if b.vbase.toNat ≤ va ∧ va < b.vbase.toNat + b.limit.toNat then some (b.pbase.toNat + (va - b.vbase.toNat), b.attr.toNat)
  else
    match walk s.mem s.cur.rd.sp.tag.toNat va with
    | .leaf level _ e => some (pteFrame e + va % leafSize level e, e % 2 ^ 16)
    | _ => none
/-- A mapped address whose page keeps no bounds (R118). -/
def bareVa (s : State) (n : BitVec 3) (va : Nat) : Bool :=
  decide (va < 2 ^ 57) &&
  (match peekPage s n va with | some (pa, a) => !keepsBnd pa (BitVec.ofNat 16 a) | none => false)
/-- Address of an element at VBASE of bN plus a scaled offset (R223). -/
def offVa (s : State) (n : BitVec 3) (scale off : Nat) : Nat := (s.cur.rd.b n.toNat).vbase.toNat + off * scale

/-- The commit points of Table 4-7, and every instruction that the table does not name (R114). Whether the poisoned data of a .c store whose
address is poisoned count under rule 1 of R117 the spec leaves open, for the page that says whether they commit is not known: they count where
the token's bits, used as an offset, fall in a page without BND, and of STT never (DESIGN CHOICE, log entry 42). -/
def commitOf (s : State) (i : Instr) (l : Nat) : Commit :=
  let store := fun (d o : Reg) (b : BitVec 3) (scale : Nat) (wd : Width) (f : StoreForm) =>
    match f with
    | .c => Commit.of (if bareVa s b (offVa s b scale (s.ov o l).v) then [s.ov o l, s.odata d wd l] else [s.ov o l])
    | .db => Commit.of [s.ov o l, s.odata d wd l]
    | _ => ⟨[s.ov o l, s.odata d wd l], [s.odata d wd l], none, false⟩
  let atom := fun (d o : Reg) (wd : Width) => Commit.mk [s.ov o l, s.odata d wd l] [s.odata d wd l] none false
  match i with
  | .st d b o wd f => store d o b 1 wd f
  | .scat d b o wd f => store d o b (widthBytes wd) wd f
  | .stt _ a b _ => .of [s.ov a l, s.os b]
  | .stu d _ _ => ⟨[s.os d], [s.os d], none, false⟩
  | .aadd d _ o wd _ | .amin d _ o wd _ | .amax d _ o wd _ | .aand d _ o wd _ | .aor d _ o wd _ | .axor d _ o wd _
  | .axch d _ o wd _ => atom d o wd
  | .acas d _ o wd _ =>
    ⟨[s.ov o l, s.odata d wd l, s.onew d wd l], [s.odata d wd l, s.onew d wd l], none, false⟩
  | .afadd d _ o _ _ | .axadd d _ o _ _ => atom d o .w
  | .axrd _ _ o _ _ => .of [s.ov o l]
  | .swsr _ r => .of [s.os r]
  | .bxlt d _ => .of [s.os d]
  | .bari a _ => .of [s.os a]
  | .barw a _ => .of [s.ov a l]
  | .dqpush _ a => .of [s.opair a l]
  | .dqsteal _ a _ => .of [s.os a]
  | .bndminCl a b | .bndminDev a b => .of [s.os a, s.opair b l]
  | .bndrd _ a => .of [s.os a]
  | .waitb a => .of [s.os a]
  | .timer a _ => .of [s.os a]
  | .tdesc _ v => .of [s.os v, s.osN (v.toNat + 1)]
  | .tsetd _ v _ => .of [s.os v]
  | .chk a => ⟨[s.ov a l], [s.ov a l], none, false⟩
  | .chkTwoRegisters a b => ⟨[s.ov a l, s.ov b l], [s.ov a l, s.ov b l], none, false⟩
  | .chkU a => ⟨[s.os a], [s.os a], none, false⟩
  | .chkp p amb => ⟨[], [], some (s.op p l), amb⟩
  | .brc p _ _ _ => ⟨[], [], some (s.op p l), s.cur.rd.sp.lflags.getLsbD 0⟩
  | .brx a => .of [s.opair a l]
  | .brxU a => .of [s.os a]
  | .ret r => .of [if s.cur.rd.sp.hnd && !s.cur.rd.sp.sv then s.osN 63 else s.opair r l]
  | .rqrd _ a _ | .rqrdV _ a _ => .of [s.os a]
  | .rqwr a b _ => .of [s.os a, s.os b]
  | .rqwrV a b _ => .of [s.os a, s.ov b l]
  | .tlbinvRange a b | .tlbinvTag a b | .tlbinvAll a b => .of [s.os a, s.os b]
  | .ctxsv a | .ctxrs a | .kill a => .of [s.os a]
  | .dbgset d a b _ => .of [s.os a, s.os b, s.os d]
  | .ssw _ r => .of [s.os r]
  | .sswV _ r => .of [s.ov r l]
  | _ => Commit.none

/-- BREACH payload of a bound (Table 4-8). -/
def breachBound (e : EB) : Nat := e.toNat
/-- BREACH payload of an ambiguous branch (Table 4-8). -/
def breachAmb : Nat := 2 ^ 26

/-- R115 in one lane. Where two committed operands of a lane exceed EBUD, the spec says only 'the lane's bound': the payload gives the
first in operand order (DESIGN CHOICE, log entry 42). In supervisor mode commit points check poison only (R318). -/
def laneFail (s : State) (c : Commit) (l : Nat) : Option LaneFail :=
  let sv := s.cur.rd.sp.sv
  let ptok := match c.pred with
    | some b => if pPois b then [mkTok (pCode b) s.pk] else []
    | none => ([] : List Word)
  let toks : List Word := c.ops.filterMap (·.tok) ++ ptok
  let over' := if sv then none else c.bud.find? (fun o => o.tok.isNone && !ebFits o.eb s.cur.rd.sp.ebud)
  let amb := !sv && c.amb && (match c.pred with | some b => pAmb b | none => false)
  let breach : Option Nat := match over' with
    | some o => some (breachBound o.eb)
    | none => if amb then some breachAmb else none
  if toks = [] ∧ breach = none then none else some ⟨l, toks, breach⟩

/-- The failing lanes of a word (R115). -/
def commitFails (s : State) (i : Instr) : List LaneFail :=
  (lanesOf s.cur.mask).filterMap (fun l => laneFail s (commitOf s i l) l)

/-! ### Sources chosen by an operand (R189, R190, R199), and run hazards (R180) -/

/-- Source lane of VSHFL (Table 7-5), or the lane itself (R199). -/
def shflLane (g : Group) (m : ShMode) (l vb : Nat) : Nat :=
  let w := g.width
  let j : Int :=
    match m with
    | .idx => (vb % w : Nat)
    | .up => (l : Int) - vb
    | .down => (l : Int) + vb
    | .xor => (l ^^^ (vb % 64) : Nat)
  if 0 ≤ j ∧ j < w ∧ (g.lane j.toNat).st ≠ .done then j.toNat else l
/-- Lane that SLANE reads, when there is one (R190). -/
def slaneLane (g : Group) (sb : Nat) : Option Nat :=
  let i := sb % 64
  if i < g.width ∧ (g.lane i).st ≠ .done then some i else none
/-- Whether a select takes its first source (R189). -/
def selFirst (b : Byte) (sense : Bool) : Bool := pVal b != sense
/-- The lowest lane of the issuing PC-set. -/
def State.lowLane (s : State) : Nat := (lanesOf s.cur.mask).headD 0

/-- The registers that an issue reads, each with the lanes in which it is read. Whether SLANE or VSHFL with a poisoned index and SSEL or VSEL
with a poisoned predicate read a source the spec leaves open: the lane is that of the token's bits, the source that of VAL = 0
(DESIGN CHOICE, log entry 29). -/
def readLanes (s : State) (i : Instr) : List (Ref × Mask) :=
  let m := s.cur.mask
  match i with
  | .vsel _ a b n t =>
    let f := maskOf ((lanesOf m).filter (fun l => selFirst (s.op n l) t))
    [(rp n, m), (rv a, f), (rv b, m &&& ~~~f)]
  | .ssel _ a b n t => [(rp n, m), (rs (if selFirst (s.op n s.lowLane) t then a else b), m)]
  | .vshfl _ a b md =>
    [(rv b, m), (rv a, maskOf ((lanesOf m).map (fun l => shflLane s.cur.rd md l (s.rv b l).data.toNat)))]
  | .slane _ a b _ => [(rs b, m), (rv a, match slaneLane s.cur.rd (s.os b).v with | some j => maskOf [j] | none => 0)]
  | .ret r => if s.cur.rd.sp.hnd && !s.cur.rd.sp.sv then [((.s, 63), m)] else (rpair r).map (fun x => (x, m))
  | _ => (reads i).map (fun r => (r, m))

/-- A register is a destination of an outstanding result, in some of the lanes. -/
def outstanding (g : Group) (r : Ref) (m : Mask) : Bool :=
  g.outst.any (fun e => (writes g.regs e.instr).contains r && (decide (r.1 ≠ .v) || decide (e.mask &&& m ≠ 0)))

/-- CTXSV reads and CTXRS writes the user's registers (R334, R335): those among them that an outstanding result writes, the oldest result's
first (DESIGN CHOICE of the order, log entry 29). What stands in the bank is not theirs, but for the p7 of CTXRS. -/
def contextRefs (g : Group) (i : Instr) : List Ref :=
  let open' := g.outst.flatMap (fun e => writes g.regs e.instr)
  match i with
  | .ctxsv _ => open'.filter (fun r => !inBank (r.1, r.2, 0))
  | .ctxrs _ => open'.filter (fun r => (chainWrites g.regs i).contains r)
  | _ => []
/-- The first run hazard of an issue (R180): a read, then a write. p0, whose writes are discarded (R49), is none, though it counts as a
destination that two words of a chain repeat (R169; DESIGN CHOICE, log entry 29). -/
def hazardOf (s : State) (i : Instr) : Option Ref :=
  let g := s.cur.rd
  let all := readLanes s i ++ (writes g.regs i).map (fun r => (r, s.cur.mask)) ++ (contextRefs g i).map (fun r => (r, fullMask g.width))
  (all.find? (fun x => decide (x.1 ≠ (RegClass.p, 0)) && outstanding g x.1 x.2)).map (·.1)
/-- HAZARD payload (Table 13-4). -/
def hazardPayload (r : Ref) : Nat :=
  (match r.1 with | .v => 0 | .s => 64 | .p => 128 | _ => 192) + r.2
/-- A soft error in some predicate, knot, base-translation or descriptor register of a group, one of the user bank included. -/
def softOf (g : Group) : Option Ref :=
  ((g.soft ++ g.bank.soft).find? (fun x => decide (x.1 ≠ .v) && decide (x.1 ≠ .s))).map (fun x => (x.1, x.2.1))
/-- Lanes that SRET moves to DONE, which it strikes from every knot (R330, R32, R40). -/
def sretKills (g : Group) : Bool :=
  (List.range g.lanes.length).any (fun l => g.frame.killm.getLsbD l && decide ((g.lane l).lst ≠ .done))
/-- A soft error in some knot that SRET with such lanes reads, as EXIT does (R53). -/
def sretSoft (g : Group) : Option Ref :=
  if sretKills g then (g.soft.find? (fun x => decide (x.1 = .k))).map (fun x => (x.1, x.2.1)) else none
/-- A soft error in a predicate, knot, base-translation or descriptor register that the issue reads (R53). CTXSV reads all of them, SRET the
knots from which it strikes lanes. -/
def arrayOf (s : State) (i : Instr) : Option Ref :=
  match i with
  | .ctxsv _ => softOf s.cur.rd
  | .sret => sretSoft s.cur.rd
  | _ =>
  (reads i).find? (fun r =>
    (decide (r.1 = .p) || decide (r.1 = .k) || decide (r.1 = .b) || decide (r.1 = .d)) && decide (r ≠ (RegClass.p, 0)) &&
    s.cur.rd.soft.any (fun x => decide (x.1 = r.1) && decide (x.2.1 = r.2)))
/-- Cells of vector and uniform registers with an uncorrectable error. -/
def softCells (l : List (RegClass × Nat × Nat)) : List (RegClass × Nat × Nat) := l.filter (fun x => decide (x.1 = .v) || decide (x.1 = .s))
/-- Tokens that an issue creates as it reads (event 0x13): one for each cell with an uncorrectable error that it reads (R53), and those of a
select whose predicate is poisoned (R112). CTXSV counts its own (`saveGroup`). -/
def madeTokens (s : State) (i : Instr) : Nat :=
  let rs := readLanes s i
  ((softCells s.cur.rd.soft).filter (fun x =>
    rs.any (fun r => decide (r.1 = (x.1, x.2.1)) && (decide (x.1 = .s) || r.2.getLsbD x.2.2)))).length +
  (match i with
   | .vsel _ _ _ n _ => ((lanesOf s.cur.mask).filter (fun l => pPois (s.op n l))).length
   | .ssel _ _ _ n _ => b2n (pPois (s.op n s.lowLane))
   | _ => 0)
/-- ARRAY payload (Table 13-4). -/
def arrayPayload (r : Ref) : Nat :=
  (match r.1 with | .p => 0 | .k => 64 | .b => 128 | _ => 192) + r.2

/-- Results that were outstanding before the issue and whose destinations it writes become contested (R180). `n` is the first
order number after them. CTXRS, which loads every user register, contests none: the late result is the value that such a register holds in
the end (DESIGN CHOICE, log entry 29). -/
def markContested (s : State) (i : Instr) (n : Nat) : State :=
  if s.curG.outst.all (fun e => decide (n ≤ e.id)) then s
  else
    s.upG (fun g =>
      let ks := destKeys g.regs i s.cur.mask
      { g with outst := g.outst.map (fun e =>
          if n ≤ e.id then e
          else { e with contested := e.contested ++ ks.filter (fun k => (destKeys g.regs e.instr e.mask).contains k) }) })

/-- After the effect of an instruction: nothing where it trapped or stalled. -/
def settle (s : State) (i : Instr) (r : State) : State :=
  if r.cur.trapped || r.cur.stalled then r else markContested r i s.ids

/-! ### Issue -/

/-- The checks of decoding on a decoded word (R177, checks 4 and 5; R319): whether the word is privileged here, or illegal. R177's check 5 does
not name the instructions that R319 makes illegal in supervisor mode: they are checked with it, before the poison check (DESIGN CHOICE, log
entry 54). -/
def privFails (s : State) (i : Instr) : Bool := privInstr i && !s.cur.rd.sp.sv
def fieldFails (s : State) (i : Instr) : Bool :=
  !i.wellFormed || beyondRegs s.cur.rd.regs i || (s.cur.rd.sp.sv && svIllegal i)

/-- The trap of a register read (R53) or of a run hazard (R180): its cause and payload. -/
def readTrap (s : State) (i : Instr) : Option (Nat × Nat) :=
  match arrayOf s i with
  | some r => some (0x29, arrayPayload r)
  | none => (if s.cur.rd.sp.lflags.getLsbD 3 then hazardOf s i else none).map (fun r => (0x27, hazardPayload r))
/-- A 32-bit difference is not negative. -/
def ahead (x y : Word) : Bool := !(x - y).msb
/-- Records that WAITB n covers (R138). -/
def coveredBy (n : Word) (fs : List FailRec) : List FailRec := fs.filter (fun r => ahead n r.lo)
/-- The record with the lowest LO. -/
def lowestRec (l : List FailRec) : Option FailRec :=
  l.foldl (fun b r => match b with | none => some r | some q => if ahead r.lo q.lo then some q else some r) none
/-- What the trap of a failing WAITB leaves of the records (R138). -/
def consume (n : Word) (fs : List FailRec) : List FailRec :=
  fs.filterMap (fun r => if !ahead n r.lo then some r else if ahead n r.hi then none else some { r with lo := n + 1 })

/-- An issue that raised BNDLOSS from state `s`. -/
def raisedLoss (s t : State) : Bool :=
  !s.curG.sp.sv && t.cur.trapped && t.curG.sp.sv && decide (t.curG.frame.tcause.toNat % 256 = 0x21)
/-- A WAITB that failed as a commit point from state `s` (Table 4-7): it has consumed the records that it covers. -/
def raisedCopy (s t : State) : Bool := t.cur.trapped && decide (t.curG.ctl.fails ≠ s.curG.ctl.fails)
/-- A WAITB that waits for copy tasks of the batches that it covers: whether it fails is not known before they have finished (R137), and the
traps of reading and of the run come after that check (R116). -/
def waitsCopy (i : Instr) (t : State) : Bool := match i with | .waitb _ => t.cur.stalled | _ => false

/-- A word issues: the decode checks (R177), the commit checks (R115), a failed copy of WAITB among them, and BNDLOSS, before every other fault
(R116); then the traps of reading and of the run (R53, R180), then its effect. -/
def issue (i : Instr) (s : State) (body : State → State) : Res :=
  if privFails s i then .next (trap s 0x24 s.cur.word.toNat s.cur.mask false)
  else if fieldFails s i then .next (illegal s)
  else
    match commitFails s i with
    | [] =>
      match readTrap s i with
      | none => .next (settle s i (body s))
      | some c =>
        let t := body s
        .next (if raisedLoss s t || raisedCopy s t || waitsCopy i t then t else trap s c.1 c.2 s.cur.mask false)
    | fs => .next (deferred s fs)

/-- The checks pass: the word issues and has its effect. -/
def passes (s : State) (i : Instr) : Bool :=
  !privFails s i && !fieldFails s i && decide (commitFails s i = []) && (readTrap s i).isNone

/-! ### PAGE on a demand load (R45, R227, R326) -/

/-- A demand load enters the fault path after its chain: its other lanes complete, and the load becomes the last replay
entry. -/
def pageLoad (s : State) (m : Mask) (n id : Nat) (wpc : PC) : State :=
  let s := (perform s s.cur.h id).bump s.cur.h 0x10 1
  enterSupervisor s s.cur.h 0x2B n (chainSlot s wpc) false m m s.cur.pc none (some id)

/-- A demand load asks for PAGE: at once when it stands alone, at the end of its chain otherwise (R45). -/
def askPage (s : State) (m : Mask) (n id : Nat) : State :=
  let s := { s with cur := { s.cur with page := some (m, n, id, s.cur.wpc) } }
  if s.cur.multi then s else { pageLoad s m n id s.cur.wpc with cur := { s.cur with trapped := true } }

/-- PREQ as a group reads it (R36). -/
def preqOf (s : State) (g : Group) : Bool := match s.team? g.launch g.team with | some t => t.preq | none => false
/-- A stop request has been taken. -/
def endStop (s : State) (h : Nat) : State :=
  s.modG h (fun g => { g with ctl := { g.ctl with stopPend := false, stopForced := false, stopDue := false } })
/-- A pending stop request is taken at a region edge (R340): the lanes stand after the word. -/
def stopAtEdge (s : State) (h : Nat) : State :=
  endStop (enterSupervisor s h 0x2E 0 (chainSlot s s.cur.wpc) false 0 0 s.cur.wpc none none) h
/-- An ENTER or LEAVE completes (R340). While PREQ is set the group is to be saved, and the stop stays pending (R401). -/
def regionEdge (s : State) : State :=
  if s.curG.ctl.stopPend && !preqOf s s.curG then
    let s := { s with cur := { s.cur with edge := true } }
    if s.cur.multi then s else { stopAtEdge s s.cur.h with cur := { s.cur with trapped := true } }
  else s

/-! ### Return from a trap (R327, R330) -/

/-- Re-inject one replay entry (R327): a held one has its results; any other waits for its operation to be performed again. Its contested
destinations stay contested; an image does not list them (Table 15-10), so after a restore the late result is the one they hold (DESIGN
CHOICE, log entry 29). -/
def reinject (s : State) (h : Nat) (e : Entry) : State :=
  if !e.valid then s
  else
    let slots := match e.instr with | .bndrd .. => if e.held then e.slots else Tb.erase (Tb.erase e.slots 512) 513 | _ => e.slots
    addEntry s h
      { e with id := s.ids, held := false, performed := if e.held then e.mask else 0, acc := [], slots := slots }

/-- The state that a lane returns to (R330). A lane that was DONE, at entry or in the image restored, is DONE. -/
def resumeLane (x : Lane) : Lane := if x.lst = .done ∧ x.st = .done then x else { x with pc := x.epc, st := x.lst }

/-- Waiters whose barrier phase was reached while the group was away are released (R42); the release is an acquire (R239). -/
def releaseLate (s : State) (h : Nat) : State :=
  let g := s.grp h
  (List.range 8).foldl (fun s i =>
    match barPa s g.launch g.team i with
    | none => s
    | some pa =>
      let ph := (readBar s pa).phase
      let late := (s.grp h).lanes.any (fun x =>
        match x.st with | .wait (.barrier j v) _ => decide (j.toNat = i) && phaseMet ph v.toNat | _ => false)
      let s := s.modG h (fun g => releaseWaiters g (BitVec.ofNat 3 i) ph)
      if late then acquire s h .team else s) s

/-! ### Timers (R277) -/

/-- One timer of a group. -/
def timerOf (g : Group) : TimerSel → Timer
  | .cyc => g.ctl.cyc | .wall => g.ctl.wal
def setTimer (g : Group) (t : TimerSel) (x : Timer) : Group :=
  match t with
  | .cyc => { g with ctl := { g.ctl with cyc := x } }
  | .wall => { g with ctl := { g.ctl with wal := x } }
/-- The words of its chain that a lane waiting on a timer passes over. -/
def onTimer (t : TimerSel) : LaneSt → Option Nat
  | .wait .cycTimer n => if t = .cyc then some n else none
  | .wait .wallAlarm n => if t = .wall then some n else none
  | _ => none
/-- A timer fires: the flag is set and the timer disarmed; waiting lanes are released, which clears the flag (R277). -/
def fireTimer (g : Group) (t : TimerSel) : Group :=
  let waits := g.lanes.any (fun x => (onTimer t x.st).isSome)
  let g := setTimer g t { timerOf g t with armed := false, fired := !waits }
  { g with lanes := g.lanes.map (fun x => match onTimer t x.st with | some n => { x with st := .run, pc := pcAfter n x.pc } | none => x) }
/-- Lanes that wait again on a timer that fired while the group was in supervisor mode are released. -/
def releaseTimers (g : Group) : Group :=
  [TimerSel.cyc, .wall].foldl (fun g t =>
    if (timerOf g t).fired && g.lanes.any (fun x => (onTimer t x.st).isSome) then fireTimer g t else g) g

/-- A pending STOP or PREEMPT is taken before the first user issue (R328): a STOP that was requested in supervisor mode (R412), that a
PAGE entry put off at a region edge (R342), or whose deadline ran out in supervisor mode. While PREQ is set a STOP stays pending (R401). -/
def takePending (s : State) (h : Nat) : State :=
  let g := s.grp h
  if g.ctl.preemptPend then
    (enterSupervisor { s with free := s.free + 1 } h 0x2F 0 0 false 0 0 (Config.freePc s.free) none none).modG h (fun g => { g with ctl := { g.ctl with preemptPend := false } })
  else if (g.ctl.stopForced || g.ctl.stopDue) && !preqOf s g then
    endStop (enterSupervisor { s with free := s.free + 1 } h 0x2E 0 0 g.ctl.stopForced 0 0 (Config.freePc s.free) none none) h
  else s

/-- SRET (R330): `resume` performs the re-injected operations again. The wait count of a user PC-set comes back with its PC; lanes whose EPC was
changed in supervisor mode bring a count of 0 to the set that they join (R25 names other sets, KNOT and WAIT alone; DESIGN CHOICE, log entry
19). -/
def returnFromTrap (resume : State → Nat → State) (s : State) (h : Nat) : State :=
  let s := finishAll s h
  let km := (s.grp h).frame.killm
  let q := (s.grp h).replay
  let s := s.modG h (fun g =>
    let g := swapOut g
    let lanes := g.lanes.map resumeLane
    { g with lanes := lanes, replay := [],
             waits := g.ctl.userWaits.filter (fun w => lanes.any (fun x => decide (x.st = .run) && decide (x.pc.toNat = w.1))),
             sp := { g.sp with sv := false, rst := false },
             ctl := { g.ctl with rom := none, romWork := [], marker := g.ctl.userMarker, userMarker := false, ctxrsUsed := false, userWaits := [],
                                 halted := g.ctl.rehalt, rehalt := false } })
  let s := (releaseLate (lanesDone s h km) h).modG h releaseTimers
  let s := resume (q.foldl (fun s e => reinject s h e) s) h
  if (s.grp h).sp.sv then s else takePending s h

end Sys2Proof.Machine
end

