-- ==== Sys2Proof/Machine/SpecialRegs.lean ====
section
/-! DEFINITION. The special registers (R54 to R59, R320 to R322): what a read returns. -/

namespace Sys2Proof.Machine

/-- WIDTH of STATUS (Table 2-6). -/
def widthCode (w : Nat) : Nat := if w = 16 then 0 else if w = 32 then 1 else 2
/-- STATUS in the unprivileged view (Table 2-6). -/
def statusUser (g : Group) : Nat := g.sp.flags.toNat + widthCode g.width * 64 + g.regs * 256 + b2n g.sp.hnd * 2 ^ 15
/-- STATUS in the supervisor view (Table 13-2). -/
def statusSv (g : Group) : Nat := statusUser g + b2n g.sp.sv * 2 ^ 22 + b2n g.sp.rst * 2 ^ 23
/-- REGION (Table 2-8). -/
def regionValue (g : Group) : Nat :=
  let id := fun k => match g.sp.regions[k]? with | some r => r.1.toNat | none => 0
  g.sp.regions.length * 2 ^ 59 + g.sp.ovf.toNat * 2 ^ 48 + id 0 * 2 ^ 36 + id 1 * 2 ^ 24 + id 2 * 2 ^ 12 + id 3

/-- The registers of Table 2-4 but STATUS, by the low bits of their number. LANEID reads lane 0's position (Table 2-5). -/
def commonReg (s : State) (g : Group) (n : Nat) : Option Nat :=
  match n with
  | 0 => some 0
  | 1 => some g.gid
  | 2 => some g.team
  | 4 => some g.sp.lflags.toNat
  | 5 => some g.sp.ebud.toNat
  | 6 => some (b2n (preqOf s g))
  | 7 => some g.sp.chandler.toNat
  | 8 => some g.sp.ctxclk.toNat
  | 9 => some (regionValue g)
  | _ => none
/-- SRSR: a register of Table 2-4, from the read view. -/
def userReg (s : State) (n : Nat) : Option Nat :=
  if n = 3 then some (statusUser s.cur.rd) else if n < 0x200 then commonReg s s.cur.rd n else none

end Sys2Proof.Machine
end

