-- ==== Sys2Proof/Machine/Ring.lean ====
section
/-! DEFINITION. The sample and trace rings (R430) and the region trace (R429). -/

namespace Sys2Proof.Machine

/-- Records that a ring holds (R430). -/
def ringCap (size : Nat) : Nat := (size - 64) / 32
/-- The device writes a record of 32 bytes (R430, Table 18-5); a full ring drops it and counts it. -/
def ringPut (s : State) (ring : Option Nat) (size : Nat) (b : List Byte) : State :=
  match ring with
  | none => s
  | some pa =>
  if size < 4096 then s
  else
    let wr := s.num pa 8
    let rd := s.num (pa + 8) 8
    if wr - rd = ringCap size then s.setNum (pa + 16) 8 (s.num (pa + 16) 8 + 1)
    else (s.setBytes (pa + 64 + 32 * (wr % ringCap size)) b).setNum pa 8 (wr + 1)

/-- ID0 to ID3 of REGION in 48 bits (Tables 18-2, 18-4). -/
def regionIds (g : Group) : Nat := regionValue g % 2 ^ 48
/-- A trace record (Table 18-4). -/
def traceRec (s : State) (g : Group) (kind func pc : Nat) : List Byte :=
  toBytes 32 (g.sp.regions.length * 2 ^ 251 + g.sp.ovf.toNat * 2 ^ 240 + mkHandle g.core g.sched g.place * 2 ^ 224 +
    g.team * 2 ^ 192 + regionIds g * 2 ^ 128 + kind * 2 ^ 120 + func * 2 ^ 112 + pc * 2 ^ 64 + s.now % 2 ^ 64)
/-- An ENTER or LEAVE of a group completes: its record, under the function's policy (R429, R435). -/
def traceRegion (s : State) (h kind : Nat) (pc : PC) : State :=
  let g := s.grp h
  let f := s.funcOf g.launch
  let lev := levelOf s f 2
  if !(s.func f).traced ∨ lev < 2 then s
  else
    let p := if lev = 3 then pc.toNat else regionIds g / 2 ^ 36
    ringPut s (s.die (dieOf g.core)).ringT s.dev.ringSize (traceRec s g kind f p)

end Sys2Proof.Machine
end

