-- ==== Sys2Proof/Machine/Flags.lean ====
section
/-! DEFINITION. Results with their flags and bounds: floating-point variants (R78, R79, R89, R108), comparisons (R105),
conversions (R81, R212), and the bounds of integer results (R99, R100). -/

namespace Sys2Proof.Machine

/-! ### Integer bounds -/

/-- R99, rule 3: an integer result outside the signed range of w bits is unbounded. -/
def intEb (w : Nat) (x : Int) (e : EB) : EB :=
  if x < -(2 : Int) ^ (w - 1) ∨ (2 : Int) ^ (w - 1) - 1 < x then ebInf else e
/-- The Bitwise class of Table 4-2. -/
def bitsEb (es : List EB) : EB := if es.all (fun e => decide (e = 0)) then 0 else ebInf
/-- eb_mul of two integers (R98). -/
def intMulEb (x y : Int) (ex ey : EB) : EB := ebMul x.natAbs 0 ex y.natAbs 0 ey

/-! ### Floating-point values -/

/-- A floating-point operand: NaN, infinity, or an exact value. -/
inductive FV
  | nan
  | inf (neg : Bool)
  | fin (x : Ex)
  deriving DecidableEq, Repr

def fvOf (f : Fmt) (x : Nat) : FV :=
  if isNaN f x then .nan else if isInf f x then .inf (fSign f x) else .fin (fpDecode f x)
def FV.opp : FV → FV
  | .nan => .nan
  | .inf n => .inf (!n)
  | .fin x => .fin x.neg'
def FV.isFin : FV → Bool
  | .fin _ => true
  | _ => false
/-- Magnitude and exponent of a finite value. -/
def FV.ex : FV → Ex
  | .fin x => x
  | _ => ⟨false, 0, -149⟩
/-- The bound of a source; NaN and infinity are unbounded (R99, rule 2). -/
def FV.srcEb (v : FV) (e : EB) : EB := if v.isFin then e else ebInf

/-- Product, with the flags of 0 × ∞ (R79, R203). -/
def FV.mul : FV → FV → FV × BitVec 5
  | .nan, _ => (.nan, 0)
  | _, .nan => (.nan, 0)
  | .inf n, .inf m => (.inf (n != m), 0)
  | .inf n, .fin y => if y.n = 0 then (.nan, flNV) else (.inf (n != y.neg), 0)
  | .fin x, .inf m => if x.n = 0 then (.nan, flNV) else (.inf (x.neg != m), 0)
  | .fin x, .fin y => (.fin (x.mul y), 0)
/-- Sum, with the flags of ∞ - ∞. -/
def FV.add : FV → FV → FV × BitVec 5
  | .nan, _ => (.nan, 0)
  | _, .nan => (.nan, 0)
  | .inf n, .inf m => if n = m then (.inf n, 0) else (.nan, flNV)
  | .inf n, .fin _ => (.inf n, 0)
  | .fin _, .inf m => (.inf m, 0)
  | .fin x, .fin y => (.fin (x.add y), 0)

/-! ### Variants (R87, R89, Table 3-6) -/

inductive Vari | full | short | trunc | lean
  deriving DecidableEq, Repr

/-- Variant of a class other than AUTO (R87). -/
def variOf : Cls → Vari
  | .short => .short | .lean => .lean | _ => .full

/-- The partial-product bits in columns 0 to 7. -/
def omitted (a b : Nat) : Nat :=
  (List.range 8).foldl (fun t i => if a.testBit i then t + (b % 2 ^ (8 - i)) <<< i else t) 0

/-- A result with its flags and its variant increment ρ. -/
structure Arith where
  bits : Nat
  flags : BitVec 5
  rho : EB
  deriving DecidableEq, Repr

/-- The exponent e_y of R89: that of the exact result x, -126 below the normal range. -/
def resultExp (x : Ex) : Int := if x.n = 0 then -126 else let k := log2Q x.n 1 + x.e; if k < -126 then -126 else k
/-- A magnitude of at least 2^128 (R89). -/
def beyond128 (x : Ex) : Bool := decide (x.n ≠ 0) && decide (128 ≤ log2Q x.n 1 + x.e)

/-- Deliver an exact result x through a variant (Table 3-6). `y` is the value that enters the result step (x with omitted
partial products left out when `om`), `eab` the sum of the exponents of the multiplied operands. The exponent e_y, the test for
2^128 and the inexact condition of the operation are those of x (R89, R98); log entry 38 names what remains open. -/
def deliverFp (f : Fmt) (v : Vari) (x y : Ex) (om : Bool) (eab : Int) : Arith :=
  let cut := decide (v = .short) || decide (v = .lean)
  let r : Rounded :=
    if cut && beyond128 x then ⟨f.infEnc + (if x.neg then 2 ^ (f.width - 1) else 0), true, true, false⟩
    else if cut then fpShort y
    else fpRoundEx f .rn y
  let nx := if om then !(fpDecode f r.bits).eqv x else r.nx
  let flags :=
    if r.ovf || !om then r.flags
    else if !nx then 0
    else if fMag f r.bits ≠ 0 ∧ fExp f r.bits = 0 then flNX ||| flUF else flNX
  let rho :=
    match v with
    | .full => rhoFull f r.bits nx
    | .short => rhoShort (resultExp x) nx
    | .trunc => rhoTwo eab om (ulpExp f r.bits - 1) nx
    | .lean => rhoTwo eab om (resultExp x - 15) nx
  ⟨r.bits, flags, if r.ovf then ebInf else rho⟩

/-- A result that is not finite. -/
def specialFp (f : Fmt) (v : FV) (fl : BitVec 5) : Arith :=
  match v with
  | .inf n => ⟨f.infEnc + (if n then 2 ^ (f.width - 1) else 0), fl, ebInf⟩
  | _ => ⟨f.nan, fl, ebInf⟩

/-- a + b. TRUNC computes as FULL and LEAN as SHORT (R89). -/
def fpAdd (f : Fmt) (v : Vari) (a b : FV) : Arith :=
  match a.add b with
  | (.fin x, _) =>
    let v := match v with | .trunc => Vari.full | .lean => Vari.short | v => v
    deliverFp f v x x false 0
  | (w, fl) => specialFp f w fl

/-- The product of finite operands as the multiplier of a variant forms it, and whether a 1 bit was omitted. -/
def partialMul (v : Vari) (a b : Ex) : Ex × Bool :=
  let p := a.mul b
  let o := omitted a.n b.n
  if (v = .trunc ∨ v = .lean) ∧ o ≠ 0 then (⟨p.neg, p.n - o, p.e⟩, true) else (p, false)

/-- a × b. -/
def fpMul (f : Fmt) (v : Vari) (a b : FV) : Arith :=
  match a.mul b with
  | (.fin x, _) =>
    let (y, om) := partialMul v a.ex b.ex
    deliverFp f v x y om (x.e + 46)
  | (w, fl) => specialFp f w fl

/-- a × b + c with one rounding (R78). -/
def fpFma (f : Fmt) (v : Vari) (a b c : FV) : Arith :=
  match a.mul b with
  | (.fin p, _) =>
    match c with
    | .fin z =>
      let (y, om) := partialMul v a.ex b.ex
      deliverFp f v (p.add z) (y.add z) om (p.e + 46)
    | w => specialFp f w 0
  | (w, fl) =>
    match c with
    | .nan => specialFp f .nan 0
    | _ => let t := w.add c; specialFp f t.1 (fl ||| t.2)

/-- The operands of an FP32 instruction of R203 or R207: which of add, multiply and fused, the values and their bounds. -/
inductive FpJob
  | add (a b : FV) (ea eb : EB)
  | mul (a b : FV) (ea eb : EB)
  | fma (a b c : FV) (ea eb ec : EB)
  deriving DecidableEq, Repr

/-- The Table 4-2 bound with ρ omitted. -/
def FpJob.base : FpJob → EB
  | .add _ _ ea eb => ebAdd ea eb
  | .mul a b ea eb => ebMul a.ex.n a.ex.e ea b.ex.n b.ex.e eb
  | .fma a b _ ea eb ec => ebAdd (ebMul a.ex.n a.ex.e ea b.ex.n b.ex.e eb) ec
/-- Whether AUTO considers the lane (R108). -/
def FpJob.finite : FpJob → Bool
  | .add a b _ _ => a.isFin && b.isFin
  | .mul a b _ _ => a.isFin && b.isFin
  | .fma a b c _ _ _ => a.isFin && b.isFin && c.isFin
def FpJob.run (f : Fmt) (v : Vari) : FpJob → Arith
  | .add a b _ _ => fpAdd f v a b
  | .mul a b _ _ => fpMul f v a b
  | .fma a b c _ _ _ => fpFma f v a b c

/-- exp(x) of R108 for a finite FP32 value or a scale held with 24 significand bits. -/
def exOf (v : FV) : Int := if v.ex.n = 0 then -126 else v.ex.e + 23
/-- eb_up(I(V)) of Table 4-4. -/
def FpJob.inc (v : Vari) (j : FpJob) : EB :=
  let mx := fun (x y : Int) => if x ≤ y then y else x
  let two := fun (eab h : Int) =>
    match v with
    | .full => ebUp2 (h - 24)
    | .short => ebUp2 (h - 15)
    | .trunc => rhoTwo eab true (h - 24) true
    | .lean => rhoTwo eab true (h - 15) true
  match j with
  | .add a b _ _ =>
    let h := mx (exOf a) (exOf b) + 1
    if v = .short ∨ v = .lean then ebUp2 (h - 15) else ebUp2 (h - 24)
  | .mul a b _ _ => two (exOf a + exOf b) (exOf a + exOf b + 1)
  | .fma a b c _ _ _ => two (exOf a + exOf b) (mx (exOf a + exOf b + 1) (exOf c) + 1)

/-- The variant of an issue (R87, R108). -/
def chooseVari (k : Cls) (ebud : EB) (js : List FpJob) : Vari :=
  match k with
  | .auto =>
    let fits := fun v => (js.filter (·.finite)).all (fun j => ebFits (ebAdd j.base (j.inc v)) ebud)
    if fits .lean then .lean else if fits .trunc then .trunc else if fits .short then .short else .full
  | k => variOf k

/-- Bits, bound and flags of one element (R99, R100). -/
def FpJob.out (f : Fmt) (v : Vari) (j : FpJob) : Nat × EB × BitVec 5 :=
  let r := j.run f v
  (r.bits, if fSpecial f r.bits then ebInf else ebAdd j.base r.rho, r.flags)

/-- An operand with the bound that R99 takes. -/
def fvEb (f : Fmt) (x : Nat) (e : EB) : FV × EB := let v := fvOf f x; (v, v.srcEb e)
def jobAdd (f : Fmt) (x y : Nat) (ex ey : EB) (neg : Bool) : FpJob :=
  let a := fvEb f x ex
  let b := fvEb f y ey
  .add a.1 (if neg then b.1.opp else b.1) a.2 b.2
def jobMul (f : Fmt) (x y : Nat) (ex ey : EB) : FpJob :=
  let a := fvEb f x ex
  let b := fvEb f y ey
  .mul a.1 b.1 a.2 b.2
def jobFma (f : Fmt) (x y z : Nat) (ex ey ez : EB) (neg : Bool) : FpJob :=
  let a := fvEb f x ex
  let b := fvEb f y ey
  let c := fvEb f z ez
  .fma (if neg then a.1.opp else a.1) b.1 c.1 a.2 b.2 c.2

/-- The scale of FSACC (R207): the product of two BF16 values, normalised to 24 significand bits, with the flag of 0 × ∞. -/
def scaleOf (x : Nat) : FV × BitVec 5 :=
  match (fvOf .bf16 (x % 65536)).mul (fvOf .bf16 (x / 65536)) with
  | (.fin p, fl) =>
    if p.n = 0 then (.fin ⟨p.neg, 0, -149⟩, fl)
    else (.fin ⟨p.neg, p.n <<< (23 - p.n.log2), p.e - (23 - p.n.log2 : Nat)⟩, fl)
  | r => r
/-- c + a × s (R207). -/
def jobScale (x y z : Nat) (ex ey ez : EB) : FpJob :=
  let a := fvEb .f32 x ex
  let b := (scaleOf y).1
  let c := fvEb .f32 z ez
  .fma a.1 b c.1 a.2 (b.srcEb ey) c.2

/-- The job of one lane of an FP32 instruction that takes a class; none where a source is poison. -/
def fpJob (s : State) (i : Instr) (l : Nat) : Option FpJob :=
  let two := fun (a b : Reg) (f : Opd → Opd → FpJob) =>
    let x := s.ov a l
    let y := s.ov b l
    if (firstTok [x, y]).isSome then none else some (f x y)
  let three := fun (a b d : Reg) (f : Opd → Opd → Opd → FpJob) =>
    let x := s.ov a l
    let y := s.ov b l
    let z := s.ov d l
    if (firstTok [x, y, z]).isSome then none else some (f x y z)
  match i with
  | .fadd _ a b _ => two a b (fun x y => jobAdd .f32 x.v y.v x.eb y.eb false)
  | .fsub _ a b _ => two a b (fun x y => jobAdd .f32 x.v y.v x.eb y.eb true)
  | .fmul _ a b _ => two a b (fun x y => jobMul .f32 x.v y.v x.eb y.eb)
  | .ffma d a b _ => three a b d (fun x y z => jobFma .f32 x.v y.v z.v x.eb y.eb z.eb false)
  | .ffms d a b _ => three a b d (fun x y z => jobFma .f32 x.v y.v z.v x.eb y.eb z.eb true)
  | .fsacc d a b _ => three a b d (fun x y z => jobScale x.v y.v z.v x.eb y.eb z.eb)
  | _ => none

/-- The variant that AUTO chooses for an issue (R108); in supervisor mode AUTO computes FULL (R318). -/
def autoVari (s : State) (i : Instr) : Vari :=
  if s.cur.rd.sp.sv then .full
  else chooseVari .auto s.cur.rd.sp.ebud ((lanesOf s.cur.mask).filterMap (fpJob s i))

/-! ### Comparisons (R105) -/

inductive Rel | eq | ne | lt | le | gt | ge
  deriving DecidableEq, Repr

/-- The relation on the sign of a difference. -/
def Rel.holds (r : Rel) (d : Int) : Bool :=
  match r with
  | .eq => decide (d = 0) | .ne => decide (d ≠ 0) | .lt => decide (d < 0) | .le => decide (d ≤ 0)
  | .gt => decide (0 < d) | .ge => decide (0 ≤ d)
/-- Whether some x - y in [d - w, d + w] gives the other outcome. -/
def Rel.amb (r : Rel) (d w : Int) : Bool :=
  match r with
  | .eq | .ne => if d = 0 then decide (0 < w) else decide (-w ≤ d ∧ d ≤ w)
  | .lt | .ge => if d < 0 then decide (0 ≤ d + w) else decide (d - w < 0)
  | .le | .gt => if d ≤ 0 then decide (0 < d + w) else decide (d - w ≤ 0)

/-- VAL and A for two values in units of 2^-157. -/
def compareFx (r : Rel) (a b : Int) (ea eb : EB) : Byte :=
  let d := a - b
  let big := ebBig ea || ebBig eb
  mkPred (r.holds d) (big || r.amb d ((ebNat ea : Int) + ebNat eb))

/-- Relation and signedness of an integer condition (Table 7-2). -/
def icond : ICond → Rel × Bool
  | .eq => (.eq, true) | .ne => (.ne, true) | .lt => (.lt, true) | .le => (.le, true) | .gt => (.gt, true)
  | .ge => (.ge, true) | .ltu => (.lt, false) | .leu => (.le, false) | .gtu => (.gt, false) | .geu => (.ge, false)

/-- The predicate of an integer comparison (R188). -/
def compareInt (w : Nat) (k : ICond) (a b : Opd) : Byte :=
  match firstTok [a, b] with
  | some t => predPois (tokCode t)
  | none =>
    let (r, sg) := icond k
    let rd := fun (x : Nat) => if sg then signed w x else (x : Int)
    compareFx r (rd a.v * (2 : Int) ^ 157) (rd b.v * (2 : Int) ^ 157) a.eb b.eb

/-- A finite FP32 value in units of 2^-157. -/
def fx157 (x : Ex) : Int := x.toInt (-157)
/-- The predicate of FCMP (R204). -/
def compareFp (k : FCond) (a b : Opd) : Byte :=
  match firstTok [a, b] with
  | some t => predPois (tokCode t)
  | none =>
    let x := fvOf .f32 a.v
    let y := fvOf .f32 b.v
    if x = .nan ∨ y = .nan then mkPred (decide (k = .ne) || decide (k = .uno)) true
    else
      let val := fun (v : FV) => match v with
        | .fin e => fx157 e
        | .inf n => if n then -(2 : Int) ^ 300 else (2 : Int) ^ 300
        | .nan => 0
      let go := fun r => compareFx r (val x) (val y) (x.srcEb a.eb) (y.srcEb b.eb)
      match k with
      | .eq => go .eq | .ne => go .ne | .lt => go .lt | .le => go .le | .gt => go .gt | .ge => go .ge
      | .ord => mkPred true (ebBig (x.srcEb a.eb) || ebBig (y.srcEb b.eb))
      | .uno => mkPred false (ebBig (x.srcEb a.eb) || ebBig (y.srcEb b.eb))

/-! ### Order (R203) -/

/-- a below b, with -0 below +0. -/
def fpBelow (a b : Nat) : Bool :=
  let x := fpDecode .f32 a
  let y := fpDecode .f32 b
  match fvOf .f32 a, fvOf .f32 b with
  | .inf n, .inf m => n && !m
  | .inf n, _ => n
  | _, .inf m => !m
  | _, _ => x.lt y || (x.eqv y && fSign .f32 a && !fSign .f32 b)
/-- FMIN and FMAX: bits, and the bound of the Order class. -/
def fpOrder (max : Bool) (a b : Nat) (ea eb : EB) : Nat × EB :=
  if isNaN .f32 a || isNaN .f32 b then (Fmt.nan .f32, ebInf)
  else
    let r := if fpBelow a b != max then a else b
    (r, if fSpecial .f32 r then ebInf else ebMax (ebSrc .f32 a ea) (ebSrc .f32 b eb))

/-! ### Conversions (R81, R212 to R214) -/

/-- Range of an integer format (Table 3-4). -/
def intMin : Fmt → Int
  | .i8 => -128 | .i4 => -7 | _ => -(2 : Int) ^ 31
def intMax : Fmt → Int
  | .i8 => 127 | .i4 => 7 | _ => (2 : Int) ^ 31 - 1
/-- An element of an integer format; INT4 code 0b1000 reads as -7 (R75). -/
def intElem (f : Fmt) (x : Nat) : Int := if f = .i4 ∧ x = 8 then -7 else signed f.width x
/-- Whether the code 0b1000 of INT4 was read: its input error (R75). -/
def in4 (f : Fmt) (x : Nat) : EB := if f = .i4 ∧ x = 8 then ebUp2 0 else 0

/-- Clamp to an integer format: NV without NX when out of range. `nx` says that rounding changed the value. -/
def toIntFmt (f : Fmt) (v : Int) (nx : Bool) : FpOut :=
  if v < intMin f then ⟨wrap f.width (intMin f), false, true, flNV⟩
  else if intMax f < v then ⟨wrap f.width (intMax f), false, true, flNV⟩
  else ⟨wrap f.width v, nx, false, if nx then flNX else 0⟩

/-- A magnitude n × 2^e rounded to an integer, and whether that changed it. Magnitudes of 2^64 and above keep an exponent of
64: they lie outside every integer format. -/
def roundInt (mode : Rnd) (x : Ex) : Int × Bool :=
  let (c, r, den) := scaleQ x.n 1 x.e
  let m := if roundUp mode x.neg c r den then c + 1 else c
  (if x.neg then -(m : Int) else m, decide (r ≠ 0))

/-- Conversion of one element (Table 3-4). An INT32 that overflows FP16 or E5M2 follows R77 under .sat as well: the table names no effect of
.sat for that pair, which R212 makes legal (log entry 38). -/
def convertElem (src dst : Fmt) (mode : Rnd) (sat : Bool) (x : Nat) : FpOut :=
  if src.isFloat then
    match fvOf src x with
    | .nan => if dst.isFloat then .exact dst.nan else .flagged 0 flNV
    | .inf n =>
      let sg := if n then 2 ^ (dst.width - 1) else 0
      if dst.isFloat then
        if dst = .e4m3 then ⟨0x7E + sg, true, true, flOF ||| flNX⟩
        else if sat then ⟨dst.maxEnc + sg, true, true, flOF ||| flNX⟩
        else .exact (dst.infEnc + sg)
      else ⟨wrap dst.width (if n then intMin dst else intMax dst), false, true, flNV⟩
    | .fin e =>
      if dst.isFloat then (fpRound dst mode sat e.neg e.n 1 e.e).out
      else let r := roundInt mode e; toIntFmt dst r.1 r.2
  else
    let v := intElem src x
    if dst.isFloat then (fpRound dst mode false (decide (v < 0)) v.natAbs 1 0).out else toIntFmt dst v false

/-- The bound of a converted element: R99 and the Conversion class, with the error of a reserved INT4 code. -/
def convertEb (src dst : Fmt) (mode : Rnd) (x : Nat) (r : FpOut) (e : EB) : EB :=
  ebRes dst r (ebAdd (ebAdd (if src.isFloat then ebSrc src x e else e) (in4 src x)) (rhoConv dst mode r.bits r.nx))

/-- Element i of a word (R76). -/
def elemOf (f : Fmt) (w i : Nat) : Nat := (w >>> (f.width * i)) % 2 ^ f.width

/-- FRND (R208). -/
def fpRndInt (mode : Rnd) (a : Nat) : FpOut :=
  match fvOf .f32 a with
  | .nan => .exact (Fmt.nan .f32)
  | .inf _ => .exact a
  | .fin x =>
    if 0 ≤ x.e then .exact a
    else
      let r := roundInt mode x
      let y := fpRound .f32 .rn false x.neg r.1.natAbs 1 0
      ⟨y.bits, r.2, false, if r.2 then flNX else 0⟩

/-- FSCALE (R206): a × 2^n with one rounding. Beyond 600 either way every n gives the same result. -/
def fpScale (a : Nat) (n : Int) : FpOut :=
  match fvOf .f32 a with
  | .nan => .exact (Fmt.nan .f32)
  | .inf _ => .exact a
  | .fin x => (fpRound .f32 .rn false x.neg x.n 1 (x.e + (max (-600) (min 600 n)))).out

/-- FCLASS (Table 7-9). -/
def fpClass (a : Nat) : Nat :=
  let neg := fSign .f32 a
  if isNaN .f32 a then 256
  else if isInf .f32 a then (if neg then 1 else 128)
  else if isZero .f32 a then (if neg then 8 else 16)
  else if fExp .f32 a = 0 then (if neg then 4 else 32)
  else if neg then 2 else 64

/-- eb_value rounded up to FP32 (R100, FBND). -/
def boundToFp (e : EB) : Nat := if ebBig e then 0x7F800000 else (fpRound .f32 .rp false false (ebNat e) 1 (-157)).bits
/-- eb_up(|x|) of an FP32 value, held at most 0xFF00 (R100, FSETB). -/
def fpToBound (x : Nat) : EB :=
  match fvOf .f32 x with
  | .fin e => ebUpQ e.n 1 e.e
  | _ => ebInf

end Sys2Proof.Machine
end

