-- ==== Sys2Proof/Machine/Uniform.lean ====
section
/-! DEFINITION. The uniform instructions (R187 to R191, Table 7-1). -/

namespace Sys2Proof.Machine

/-- A 64-bit value as signed. -/
def sg64 (x : Nat) : Int := signed 64 x
def low64 (x : Int) : Nat := wrap 64 x

/-- A uniform result from two sources. -/
def uni2 (s : State) (d a b : Reg) (f : Nat → Nat → Nat) (e : Opd → Opd → EB) : State :=
  let x := s.os a
  let y := s.os b
  uniOp s d [x, y] ⟨BitVec.ofNat 64 (f x.v y.v), e x y⟩
/-- A uniform result from one source. -/
def uni1 (s : State) (d a : Reg) (f : Nat → Nat) (e : Opd → EB) : State :=
  let x := s.os a
  uniOp s d [x] ⟨BitVec.ofNat 64 (f x.v), e x⟩
/-- The Bitwise class over two sources. -/
def bits2 (x y : Opd) : EB := bitsEb [x.eb, y.eb]
/-- The Order class. -/
def order2 (x y : Opd) : EB := ebMax x.eb y.eb
/-- The Add class of an integer result with exact value `f` (R99). -/
def addEb (w : Nat) (f : Int → Int → Int) (x y : Opd) : EB := intEb w (f (signed w x.v) (signed w y.v)) (ebAdd x.eb y.eb)
/-- The Multiply class of an integer product. -/
def mulEb (w : Nat) (x y : Opd) : EB :=
  intEb w (signed w x.v * signed w y.v) (intMulEb (signed w x.v) (signed w y.v) x.eb y.eb)
/-- Shifts of w bits by bits [7:0] of the count (R187, R192). -/
def shl (w x n : Nat) : Nat := if w ≤ n % 256 then 0 else (x <<< (n % 256)) % 2 ^ w
def shr (w x n : Nat) : Nat := if w ≤ n % 256 then 0 else x >>> (n % 256)
def sra (w x n : Nat) : Nat := wrap w (signed w x / (2 : Int) ^ (min (n % 256) w))
/-- High half of a product. -/
def mulHigh (w : Nat) (u : Bool) (x y : Nat) : Nat :=
  if u then x * y / 2 ^ w else wrap w (signed w x * signed w y / (2 : Int) ^ w)
/-- The smaller (or larger) of two values. -/
def pickOrder (w : Nat) (u max : Bool) (x y : Nat) : Nat :=
  let lt : Bool := if u then decide (y < x) else decide (signed w y < signed w x)
  if lt != max then y else x
/-- Number of 1 bits. -/
def popCount (w x : Nat) : Nat := ((List.range w).filter (fun i => x.testBit i)).length
/-- Leading zero bits. -/
def leadZero (w x : Nat) : Nat := if x = 0 then w else w - 1 - x.log2

def execSmov (d a : Reg) (s : State) : Res := issue (.smov d a) s (fun s => uni1 s d a id (·.eb))
def execSmovi (d : Reg) (i : BitVec 16) (s : State) : Res :=
  issue (.smovi d i) s (fun s => uniOp s d [] ⟨i.signExtend 64, 0⟩)
def execSmovh (d : Reg) (i : BitVec 16) (s : State) : Res :=
  issue (.smovh d i) s (fun s => uni1 s d d (fun x => x * 65536 + i.toNat) (fun x => bitsEb [x.eb]))
def execSadd (d a b : Reg) (s : State) : Res :=
  issue (.sadd d a b) s (fun s => uni2 s d a b (· + ·) (addEb 64 (· + ·)))
def execSaddi (d a : Reg) (i : BitVec 10) (s : State) : Res :=
  issue (.saddi d a i) s (fun s => uni1 s d a (fun x => low64 (sg64 x + i.toInt)) (fun x => intEb 64 (sg64 x.v + i.toInt) x.eb))
def execSsub (d a b : Reg) (s : State) : Res :=
  issue (.ssub d a b) s (fun s => uni2 s d a b (fun x y => low64 (sg64 x - sg64 y)) (addEb 64 (· - ·)))
def execSmul (d a b : Reg) (s : State) : Res := issue (.smul d a b) s (fun s => uni2 s d a b (· * ·) (mulEb 64))
def execSmulh (d a b : Reg) (u : Bool) (s : State) : Res :=
  issue (.smulh d a b u) s (fun s => uni2 s d a b (mulHigh 64 u) bits2)
def execSand (d a b : Reg) (s : State) : Res := issue (.sand d a b) s (fun s => uni2 s d a b (· &&& ·) bits2)
def execSor (d a b : Reg) (s : State) : Res := issue (.sor d a b) s (fun s => uni2 s d a b (· ||| ·) bits2)
def execSxor (d a b : Reg) (s : State) : Res := issue (.sxor d a b) s (fun s => uni2 s d a b (· ^^^ ·) bits2)
def execSshl (d a b : Reg) (s : State) : Res := issue (.sshl d a b) s (fun s => uni2 s d a b (shl 64) bits2)
def execSshr (d a b : Reg) (s : State) : Res := issue (.sshr d a b) s (fun s => uni2 s d a b (shr 64) bits2)
def execSsra (d a b : Reg) (s : State) : Res := issue (.ssra d a b) s (fun s => uni2 s d a b (sra 64) bits2)
def execSmin (d a b : Reg) (u : Bool) (s : State) : Res :=
  issue (.smin d a b u) s (fun s => uni2 s d a b (pickOrder 64 u false) order2)
def execSmax (d a b : Reg) (u : Bool) (s : State) : Res :=
  issue (.smax d a b u) s (fun s => uni2 s d a b (pickOrder 64 u true) order2)
/-- SCMP writes one outcome into every issuing lane (R188). -/
def execScmp (p : BitVec 3) (a b : Reg) (k : ICond) (s : State) : Res :=
  issue (.scmp p a b k) s (fun s => predOp s p (fun _ => compareInt 64 k (s.os a) (s.os b)))
/-- The token of a select whose predicate is poisoned (R112, R189). -/
def selTok (s : State) (b : Byte) : Word := mkTok (pCode b) s.pk
/-- SSEL takes the predicate of the lowest issuing lane and reads the selected source only (R189). -/
def execSsel (d a b : Reg) (n : BitVec 3) (sense : Bool) (s : State) : Res :=
  issue (.ssel d a b n sense) s (fun s =>
    let q := s.op n s.lowLane
    if pPois q then uniOp s d [] (SCell.tok (selTok s q))
    else uni1 s d (if selFirst q sense then a else b) id (·.eb))
def execSpopc (d a : Reg) (s : State) : Res :=
  issue (.spopc d a) s (fun s => uni1 s d a (popCount 64) (fun x => bitsEb [x.eb]))
def execSclz (d a : Reg) (s : State) : Res :=
  issue (.sclz d a) s (fun s => uni1 s d a (leadZero 64) (fun x => bitsEb [x.eb]))
/-- SLEA: the Address class of Table 4-2. -/
def execSlea (d a b : Reg) (k : BitVec 4) (s : State) : Res :=
  issue (.slea d a b k) s (fun s =>
    uni2 s d a b (fun x y => x + y * 2 ^ k.toNat)
      (fun x y => intEb 64 (sg64 x.v + sg64 y.v * (2 : Int) ^ k.toNat) (ebAdd x.eb (ebMulMag 1 k.toNat y.eb))))
/-- SLANE (R190). -/
def execSlane (d a b : Reg) (sx : Bool) (s : State) : Res :=
  issue (.slane d a b sx) s (fun s =>
    let y := s.os b
    match slaneLane s.cur.rd y.v with
    | some j =>
      let x := s.ov a j
      uniOp s d [y, x] ⟨BitVec.ofNat 64 (if sx then low64 (signed 32 x.v) else x.v), x.eb⟩
    | none => uniOp s d [y] ⟨0, ebInf⟩)
/-- SRSR (R191, R54). -/
def execSrsr (n : BitVec 10) (r : Reg) (s : State) : Res :=
  issue (.srsr n r) s (fun s =>
    match userReg s n.toNat with
    | some v => uniOp s r [] (SCell.exact v)
    | none => illegal s)
/-- SWSR (R191, R54, R59): STATUS clears flags, CHANDLER takes the PC. -/
def execSwsr (n : BitVec 10) (r : Reg) (s : State) : Res :=
  issue (.swsr n r) s (fun s =>
    let v := (s.os r).v
    if n = 3 then s.upG (fun g => { g with sp := { g.sp with flags := g.sp.flags &&& ~~~(BitVec.ofNat 5 v) } })
    else if n = 7 ∧ v % 4 ≠ 3 then s.upG (fun g => { g with sp := { g.sp with chandler := BitVec.ofNat 48 v } })
    else illegal s)

end Sys2Proof.Machine
end

