-- ==== Sys2Proof/Machine/Vector.lean ====
section
/-! DEFINITION. The vector integer and data-movement instructions (R192 to R201, Table 7-3). -/

namespace Sys2Proof.Machine

/-- A lane's result from two vector sources, with no flag. -/
def vec2 (s : State) (d a b : Reg) (f : Nat → Nat → Nat) (e : Opd → Opd → EB) : State :=
  vecOp s d (fun l =>
    let x := s.ov a l
    let y := s.ov b l
    laneOut [x, y] ⟨⟨BitVec.ofNat 32 (f x.v y.v), e x y⟩, 0⟩)
/-- A lane's result from one vector source. -/
def vec1 (s : State) (d a : Reg) (f : Nat → Nat) (e : Opd → EB) : State :=
  vecOp s d (fun l =>
    let x := s.ov a l
    laneOut [x] ⟨⟨BitVec.ofNat 32 (f x.v), e x⟩, 0⟩)
def sg32 (x : Nat) : Int := signed 32 x

def execVadd (d a b : Reg) (s : State) : Res :=
  issue (.vadd d a b) s (fun s => vec2 s d a b (· + ·) (addEb 32 (· + ·)))
def execVaddi (d a : Reg) (i : BitVec 10) (s : State) : Res :=
  issue (.vaddi d a i) s (fun s =>
    vec1 s d a (fun x => wrap 32 (sg32 x + i.toInt)) (fun x => intEb 32 (sg32 x.v + i.toInt) x.eb))
def execVsub (d a b : Reg) (s : State) : Res :=
  issue (.vsub d a b) s (fun s => vec2 s d a b (fun x y => wrap 32 (sg32 x - sg32 y)) (addEb 32 (· - ·)))
def execVmul (d a b : Reg) (s : State) : Res := issue (.vmul d a b) s (fun s => vec2 s d a b (· * ·) (mulEb 32))
def execVmulh (d a b : Reg) (u : Bool) (s : State) : Res :=
  issue (.vmulh d a b u) s (fun s => vec2 s d a b (mulHigh 32 u) bits2)
/-- VMAD (R193): the Fused class with ρ = 0. -/
def execVmad (d a b : Reg) (wide : Bool) (s : State) : Res :=
  issue (.vmad d a b wide) s (fun s =>
    if wide then
      vecOp64 s d (fun l =>
        let x := s.ov a l
        let y := s.ov b l
        let z := s.opair d l
        match firstTok [x, y, z] with
        | some t => ⟨0, ebPoison, some t⟩
        | none =>
          let r := sg32 x.v * sg32 y.v + sg64 z.v
          ⟨wrap 64 r, intEb 64 r (ebAdd (intMulEb (sg32 x.v) (sg32 y.v) x.eb y.eb) z.eb), none⟩)
    else
      vecOp s d (fun l =>
        let x := s.ov a l
        let y := s.ov b l
        let z := s.ov d l
        let r := sg32 x.v * sg32 y.v + sg32 z.v
        laneOut [x, y, z]
          ⟨⟨BitVec.ofNat 32 (wrap 32 r), intEb 32 r (ebAdd (intMulEb (sg32 x.v) (sg32 y.v) x.eb y.eb) z.eb)⟩, 0⟩))
/-- Element i of a word as VDP4 reads it (R194). -/
def dpElem (sgn : Bool) (x i : Nat) : Int := let e := x >>> (8 * i) % 256; if sgn then signed 8 e else (e : Int)
def dpSigns : DpMode → Bool × Bool
  | .ss => (true, true) | .uu => (false, false) | .su => (true, false) | .us => (false, true)
def execVdp4 (d a b : Reg) (g : DpMode) (s : State) : Res :=
  issue (.vdp4 d a b g) s (fun s =>
    vecOp s d (fun l =>
      let x := s.ov a l
      let y := s.ov b l
      let z := s.ov d l
      let p := fun i => (dpElem (dpSigns g).1 x.v i, dpElem (dpSigns g).2 y.v i)
      let r := (List.range 4).foldl (fun t i => t + (p i).1 * (p i).2) (sg32 z.v)
      let e := (List.range 4).foldl (fun t i => ebAdd t (intMulEb (p i).1 (p i).2 x.eb y.eb)) 0
      laneOut [x, y, z] ⟨⟨BitVec.ofNat 32 (wrap 32 r), intEb 32 r (ebAdd e z.eb)⟩, 0⟩))
def execVmin (d a b : Reg) (u : Bool) (s : State) : Res :=
  issue (.vmin d a b u) s (fun s => vec2 s d a b (pickOrder 32 u false) order2)
def execVmax (d a b : Reg) (u : Bool) (s : State) : Res :=
  issue (.vmax d a b u) s (fun s => vec2 s d a b (pickOrder 32 u true) order2)
/-- VABS (R195). -/
def absWord (f : Bool) (x : Opd) : VCell :=
  if f then
    (if isNaN .f32 x.v then ⟨0x7FC00000, ebInf⟩
     else ⟨BitVec.ofNat 32 (x.v % 2 ^ 31), if isInf .f32 x.v then ebInf else x.eb⟩)
  else ⟨BitVec.ofNat 32 (sg32 x.v).natAbs, intEb 32 (sg32 x.v).natAbs x.eb⟩
def execVabs (d a : Reg) (f : Bool) (s : State) : Res :=
  issue (.vabs d a f) s (fun s => vecOp s d (fun l => let x := s.ov a l; laneOut [x] ⟨absWord f x, 0⟩))
def execVand (d a b : Reg) (s : State) : Res := issue (.vand d a b) s (fun s => vec2 s d a b (· &&& ·) bits2)
def execVor (d a b : Reg) (s : State) : Res := issue (.vor d a b) s (fun s => vec2 s d a b (· ||| ·) bits2)
def execVxor (d a b : Reg) (s : State) : Res := issue (.vxor d a b) s (fun s => vec2 s d a b (· ^^^ ·) bits2)
/-- The three-input function of VLOP3 (R196). -/
def lop3 (t a b c : Nat) : Nat :=
  (List.range 32).foldl (fun r i =>
    if t.testBit (4 * b2n (a.testBit i) + 2 * b2n (b.testBit i) + b2n (c.testBit i)) then r + 2 ^ i else r) 0
def execVlop3 (d a b : Reg) (s' : BitVec 4) (s : State) : Res :=
  issue (.vlop3 d a b s') s (fun s =>
    vecOp s d (fun l =>
      let x := s.ov a l
      let y := s.ov b l
      let z := s.ov d l
      let t := s.osN s'.toNat
      laneOut [x, y, z, t] ⟨⟨BitVec.ofNat 32 (lop3 (t.v % 256) x.v y.v z.v), bitsEb [x.eb, y.eb, z.eb, t.eb]⟩, 0⟩))
def execVshl (d a b : Reg) (s : State) : Res := issue (.vshl d a b) s (fun s => vec2 s d a b (shl 32) bits2)
def execVshr (d a b : Reg) (s : State) : Res := issue (.vshr d a b) s (fun s => vec2 s d a b (shr 32) bits2)
def execVsra (d a b : Reg) (s : State) : Res := issue (.vsra d a b) s (fun s => vec2 s d a b (sra 32) bits2)
/-- Funnel shifts (R197). -/
def funnel (s : State) (d a b : Reg) (n : BitVec 4) (f : Nat → Nat → Nat) : State :=
  vecOp s d (fun l =>
    let x := s.ov a l
    let y := s.ov b l
    let t := s.osN n.toNat
    laneOut [x, y, t] ⟨⟨BitVec.ofNat 32 (f (x.v * 2 ^ 32 + y.v) (t.v % 32)), bitsEb [x.eb, y.eb, t.eb]⟩, 0⟩)
def execVfshl (d a b : Reg) (s' : BitVec 4) (s : State) : Res :=
  issue (.vfshl d a b s') s (fun s => funnel s d a b s' (fun x n => x <<< n / 2 ^ 32))
def execVfshr (d a b : Reg) (s' : BitVec 4) (s : State) : Res :=
  issue (.vfshr d a b s') s (fun s => funnel s d a b s' (fun x n => x >>> n))
def execVpopc (d a : Reg) (s : State) : Res :=
  issue (.vpopc d a) s (fun s => vec1 s d a (popCount 32) (fun x => bitsEb [x.eb]))
def execVclz (d a : Reg) (s : State) : Res :=
  issue (.vclz d a) s (fun s => vec1 s d a (leadZero 32) (fun x => bitsEb [x.eb]))
/-- Bit i is bit 31 - i. -/
def reverse32 (x : Nat) : Nat := (List.range 32).foldl (fun r i => if x.testBit (31 - i) then r + 2 ^ i else r) 0
def execVbrev (d a : Reg) (s : State) : Res :=
  issue (.vbrev d a) s (fun s => vec1 s d a reverse32 (fun x => bitsEb [x.eb]))
def execVcmp (p : BitVec 3) (a b : Reg) (k : ICond) (s : State) : Res :=
  issue (.vcmp p a b k) s (fun s => predOp s p (fun l => compareInt 32 k (s.ov a l) (s.ov b l)))
/-- VSEL reads the selected source only (R189). -/
def execVsel (d a b : Reg) (n : BitVec 3) (sense : Bool) (s : State) : Res :=
  issue (.vsel d a b n sense) s (fun s =>
    vecOp s d (fun l =>
      let q := s.op n l
      if pPois q then ⟨VCell.tok (selTok s q), 0⟩
      else ⟨s.rv (if selFirst q sense then a else b) l, 0⟩))
def execVmov (d a : Reg) (s : State) : Res := issue (.vmov d a) s (fun s => vecOp s d (fun l => ⟨s.rv a l, 0⟩))
def execVmovi (d : Reg) (i : BitVec 16) (s : State) : Res :=
  issue (.vmovi d i) s (fun s => vecOp s d (fun _ => ⟨⟨i.signExtend 32, 0⟩, 0⟩))
/-- VBCST (R198). -/
def execVbcst (d a : Reg) (hi : Bool) (s : State) : Res :=
  issue (.vbcst d a hi) s (fun s =>
    vecOp s d (fun _ =>
      let x := s.os a
      laneOut [x] ⟨⟨BitVec.ofNat 32 (if hi then x.v / 2 ^ 32 else x.v), x.eb⟩, 0⟩))
/-- VSHFL (R199). -/
def execVshfl (d a b : Reg) (m : ShMode) (s : State) : Res :=
  issue (.vshfl d a b m) s (fun s =>
    vecOp s d (fun l =>
      let y := s.ov b l
      match y.tok with
      | some t => ⟨VCell.tok t, 0⟩
      | none => ⟨s.rv a (shflLane s.cur.rd m l y.v), 0⟩))

/-- One step of a reduction (Table 7-6): value, bound and flags. The exact sum of .add is kept as an integer. -/
def redStep (o : RedOp) (acc : Nat × EB × BitVec 5) (x : Opd) : Nat × EB × BitVec 5 :=
  let (r, e, f) := acc
  match o with
  | .add => ((r + x.v) % 2 ^ 32, ebAdd e x.eb, f)
  | .min => (pickOrder 32 false false r x.v, ebMax e x.eb, f)
  | .max => (pickOrder 32 false true r x.v, ebMax e x.eb, f)
  | .minu => (pickOrder 32 true false r x.v, ebMax e x.eb, f)
  | .maxu => (pickOrder 32 true true r x.v, ebMax e x.eb, f)
  | .and => (r &&& x.v, bitsEb [e, x.eb], f)
  | .or => (r ||| x.v, bitsEb [e, x.eb], f)
  | .xor => (r ^^^ x.v, bitsEb [e, x.eb], f)
  | .fadd => let y := fp32Sum r x.v; (y.bits, fp32SumEb r x.v e x.eb, f ||| y.flags)
  | .fmin => let y := fpOrder false r x.v e x.eb; (y.1, y.2, f)
  | .fmax => let y := fpOrder true r x.v e x.eb; (y.1, y.2, f)
/-- The bound of a reduction of one lane, before any step: R99 for the floating forms, Bitwise for the bitwise forms. -/
def redFirst (o : RedOp) (x : Opd) : Nat × EB × BitVec 5 :=
  match o with
  | .and | .or | .xor => (x.v, bitsEb [x.eb], 0)
  | .fmin | .fmax => if isNaN .f32 x.v then (Fmt.nan .f32, ebInf, 0) else (x.v, ebSrc .f32 x.v x.eb, 0)
  | .fadd => if isNaN .f32 x.v then (Fmt.nan .f32, ebInf, 0) else (x.v, ebSrc .f32 x.v x.eb, 0)
  | _ => (x.v, x.eb, 0)
/-- VRED (R200). -/
def reduce (o : RedOp) (xs : List Opd) : LaneOut :=
  match firstTok xs with
  | some t => ⟨VCell.tok t, 0⟩
  | none =>
    match xs with
    | [] => ⟨VCell.zero, 0⟩
    | x :: t =>
      let r := t.foldl (redStep o) (redFirst o x)
      let sum := (xs.map (fun y => sg32 y.v)).sum
      ⟨⟨BitVec.ofNat 32 r.1, if o = .add then intEb 32 sum r.2.1 else r.2.1⟩, r.2.2⟩
def execVred (d a : Reg) (o : RedOp) (s : State) : Res :=
  issue (.vred d a o) s (fun s =>
    let r := reduce o ((lanesOf s.cur.mask).map (fun l => s.ov a l))
    vecOp s d (fun _ => r))
/-- VLANE (R201). -/
def execVlane (d : Reg) (team : Bool) (s : State) : Res :=
  issue (.vlane d team) s (fun s =>
    vecOp s d (fun l => ⟨VCell.exact (if team then s.cur.rd.gid * s.cur.rd.width + l else l), 0⟩))

end Sys2Proof.Machine
end

