-- ==== Sys2Proof/Machine/Float.lean ====
section
/-! DEFINITION. The floating-point instructions of the F pipe (R202 to R210, Table 7-7). -/

namespace Sys2Proof.Machine

/-- The variant of an issue (R87, R108). -/
def issueVari (s : State) (i : Instr) (k : Cls) : Vari := if k = .auto then autoVari s i else variOf k

/-- R203 and R207: each lane computes its job in the variant of the issue. `extra` gives flags that arise before the job. -/
def fpLanes (s : State) (i : Instr) (d : Reg) (k : Cls) (srcs : Nat → List Opd) (extra : Nat → BitVec 5) : State :=
  let v := issueVari s i k
  vecOp s d (fun l =>
    laneOut (srcs l)
      (match fpJob s i l with
       | some j => let r := j.out .f32 v; ⟨⟨BitVec.ofNat 32 r.1, r.2.1⟩, r.2.2 ||| extra l⟩
       | none => ⟨VCell.zero, 0⟩))

def execFadd (d a b : Reg) (k : Cls) (s : State) : Res :=
  issue (.fadd d a b k) s (fun s => fpLanes s (.fadd d a b k) d k (fun l => [s.ov a l, s.ov b l]) (fun _ => 0))
def execFsub (d a b : Reg) (k : Cls) (s : State) : Res :=
  issue (.fsub d a b k) s (fun s => fpLanes s (.fsub d a b k) d k (fun l => [s.ov a l, s.ov b l]) (fun _ => 0))
def execFmul (d a b : Reg) (k : Cls) (s : State) : Res :=
  issue (.fmul d a b k) s (fun s => fpLanes s (.fmul d a b k) d k (fun l => [s.ov a l, s.ov b l]) (fun _ => 0))
def execFfma (d a b : Reg) (k : Cls) (s : State) : Res :=
  issue (.ffma d a b k) s (fun s =>
    fpLanes s (.ffma d a b k) d k (fun l => [s.ov a l, s.ov b l, s.ov d l]) (fun _ => 0))
def execFfms (d a b : Reg) (k : Cls) (s : State) : Res :=
  issue (.ffms d a b k) s (fun s =>
    fpLanes s (.ffms d a b k) d k (fun l => [s.ov a l, s.ov b l, s.ov d l]) (fun _ => 0))
/-- FSACC (R207): a scale product of 0 × ∞ sets NV, whatever the other operands. -/
def execFsacc (d a b : Reg) (k : Cls) (s : State) : Res :=
  issue (.fsacc d a b k) s (fun s =>
    fpLanes s (.fsacc d a b k) d k (fun l => [s.ov a l, s.ov b l, s.ov d l])
      (fun l => (scaleOf (s.ov b l).v).2))

/-- FMIN and FMAX in every lane (R203). -/
def orderLanes (s : State) (max : Bool) (d a b : Reg) : State :=
  vecOp s d (fun l =>
    let x := s.ov a l
    let y := s.ov b l
    let r := fpOrder max x.v y.v x.eb y.eb
    laneOut [x, y] ⟨⟨BitVec.ofNat 32 r.1, r.2⟩, 0⟩)
def execFmin (d a b : Reg) (s : State) : Res := issue (.fmin d a b) s (fun s => orderLanes s false d a b)
def execFmax (d a b : Reg) (s : State) : Res := issue (.fmax d a b) s (fun s => orderLanes s true d a b)
def execFcmp (p : BitVec 3) (a b : Reg) (k : FCond) (s : State) : Res :=
  issue (.fcmp p a b k) s (fun s => predOp s p (fun l => compareFp k (s.ov a l) (s.ov b l)))
/-- FCLASS (R205); the bound of a NaN or an infinity is taken as unbounded (R99). -/
def execFclass (d a : Reg) (s : State) : Res :=
  issue (.fclass d a) s (fun s => vec1 s d a fpClass (fun x => bitsEb [ebSrc .f32 x.v x.eb]))

/-- The bound of FSCALE: the Scale rule of Table 4-2. -/
def scaleEb (x n : Opd) (r : FpOut) : EB :=
  let e := if n.eb = 0 then
      ebAdd (ebMulMag 1 (max (-600) (min 600 (sg32 n.v))) (ebSrc .f32 x.v x.eb)) (rhoFull .f32 r.bits r.nx)
    else ebInf
  ebRes .f32 r e
def execFscale (d a b : Reg) (s : State) : Res :=
  issue (.fscale d a b) s (fun s =>
    vecOp s d (fun l =>
      let x := s.ov a l
      let n := s.ov b l
      let r := fpScale x.v (sg32 n.v)
      laneOut [x, n] ⟨⟨BitVec.ofNat 32 r.bits, scaleEb x n r⟩, r.flags⟩))
/-- FRND (R208). -/
def execFrnd (d a : Reg) (r : Rnd) (s : State) : Res :=
  issue (.frnd d a r) s (fun s =>
    vecOp s d (fun l =>
      let x := s.ov a l
      let y := fpRndInt r x.v
      laneOut [x] ⟨⟨BitVec.ofNat 32 y.bits,
        ebRes .f32 y (ebAdd (ebSrc .f32 x.v x.eb) (rhoConv .i32 r y.bits y.nx))⟩, y.flags⟩))

/-- The element format of the half instructions (R209). -/
def halfFmt (bf : Bool) : Fmt := if bf then .bf16 else .f16
/-- Two element results in one word, with the larger bound and the flags of both (R209). -/
def halfOut (f : Fmt) (job : Nat → FpJob) : LaneOut :=
  let r := fun i => (job i).out f .full
  ⟨⟨BitVec.ofNat 32 ((r 0).1 + (r 1).1 * 65536), ebMax (r 0).2.1 (r 1).2.1⟩, (r 0).2.2 ||| (r 1).2.2⟩
def execFhadd (d a b : Reg) (k : Cls) (bf : Bool) (s : State) : Res :=
  issue (.fhadd d a b k bf) s (fun s =>
    let f := halfFmt bf
    vecOp s d (fun l =>
      let x := s.ov a l
      let y := s.ov b l
      laneOut [x, y] (halfOut f (fun i => jobAdd f (elemOf f x.v i) (elemOf f y.v i) x.eb y.eb false))))
def execFhmul (d a b : Reg) (k : Cls) (bf : Bool) (s : State) : Res :=
  issue (.fhmul d a b k bf) s (fun s =>
    let f := halfFmt bf
    vecOp s d (fun l =>
      let x := s.ov a l
      let y := s.ov b l
      laneOut [x, y] (halfOut f (fun i => jobMul f (elemOf f x.v i) (elemOf f y.v i) x.eb y.eb))))
def execFhfma (d a b : Reg) (k : Cls) (bf : Bool) (s : State) : Res :=
  issue (.fhfma d a b k bf) s (fun s =>
    let f := halfFmt bf
    vecOp s d (fun l =>
      let x := s.ov a l
      let y := s.ov b l
      let z := s.ov d l
      laneOut [x, y, z]
        (halfOut f (fun i => jobFma f (elemOf f x.v i) (elemOf f y.v i) (elemOf f z.v i) x.eb y.eb z.eb false))))

/-- FBND (R210). -/
def execFbnd (d a : Reg) (s : State) : Res :=
  issue (.fbnd d a) s (fun s => vecOp s d (fun l => let x := s.ov a l; laneOut [x] ⟨VCell.exact (boundToFp x.eb), 0⟩))
/-- FSETB (R210). -/
def execFsetb (d a b : Reg) (s : State) : Res :=
  issue (.fsetb d a b) s (fun s =>
    vecOp s d (fun l =>
      let x := s.ov a l
      let y := s.ov b l
      laneOut [x, y] ⟨⟨BitVec.ofNat 32 x.v, ebMax x.eb (fpToBound y.v)⟩, 0⟩))
/-- FCLRB (R210): illegal without BNDTRUST. -/
def execFclrb (d a : Reg) (s : State) : Res :=
  issue (.fclrb d a) s (fun s =>
    if s.cur.rd.sp.lflags.getLsbD 2 then vecOp s d (fun l => let x := s.ov a l; laneOut [x] ⟨VCell.exact x.v, 0⟩)
    else illegal s)

end Sys2Proof.Machine
end

