-- ==== Sys2Proof/Machine/Convert.lean ====
section
/-! DEFINITION. Conversions and special functions (R211 to R215, Tables 7-10 and 7-11). -/

namespace Sys2Proof.Machine

/-- CVT (R212). -/
def execCvt (d a : Reg) (src dst : Fmt) (r : Rnd) (sat : Bool) (s : State) : Res :=
  issue (.cvt d a src dst r sat) s (fun s =>
    vecOp s d (fun l =>
      let x := s.ov a l
      let e := elemOf src x.v 0
      let y := convertElem src dst r sat e
      laneOut [x] ⟨⟨BitVec.ofNat 32 y.bits, convertEb src dst r e y x.eb⟩, y.flags⟩))
/-- PKN (R213). -/
def execPkn (d a b : Reg) (f : Fmt) (sat : Bool) (s : State) : Res :=
  issue (.pkn d a b f sat) s (fun s =>
    vecOp s d (fun l =>
      let x := s.ov a l
      let y := s.ov b l
      let z := s.ov d l
      let w := f.width
      let src := if f.isFloat then Fmt.f32 else Fmt.i32
      let y0 := convertElem src f .rn sat x.v
      let y1 := convertElem src f .rn sat y.v
      let e := ebMax (convertEb src f .rn x.v y0 x.eb) (convertEb src f .rn y.v y1 y.eb)
      if w < 16 then
        laneOut [x, y, z] ⟨⟨BitVec.ofNat 32 (z.v * 2 ^ (2 * w) + y1.bits * 2 ^ w + y0.bits), ebMax z.eb e⟩, y0.flags ||| y1.flags⟩
      else laneOut [x, y] ⟨⟨BitVec.ofNat 32 (y1.bits * 2 ^ w + y0.bits), e⟩, y0.flags ||| y1.flags⟩))
/-- UNPKN (R214). -/
def execUnpkn (d a : Reg) (f : Fmt) (i : BitVec 3) (s : State) : Res :=
  issue (.unpkn d a f i) s (fun s =>
    vecOp s d (fun l =>
      let x := s.ov a l
      let e := elemOf f x.v i.toNat
      let dst := if f.isFloat then Fmt.f32 else Fmt.i32
      let y := convertElem f dst .rn false e
      laneOut [x] ⟨⟨BitVec.ofNat 32 y.bits, convertEb f dst .rn e y x.eb⟩, 0⟩))

/-- A special function in every lane (R215, R101): `p` is the propagated part for a finite argument. -/
def special (s : State) (d a : Reg) (f : Nat → FpOut) (p : Nat → EB → EB) : State :=
  vecOp s d (fun l =>
    let x := s.ov a l
    let y := f x.v
    let e := if fSpecial .f32 x.v then ebInf else ebAdd (p x.v x.eb) (rhoFull .f32 y.bits y.nx)
    laneOut [x] ⟨⟨BitVec.ofNat 32 y.bits, ebRes .f32 y e⟩, y.flags⟩)
/-- Table 4-3 calls every function but FSIN and FCOS unbounded for an unbounded argument. -/
def unlessBig (p : Nat → EB → EB) (a : Nat) (e : EB) : EB := if ebBig e then ebInf else p a e

def execFrcp (d a : Reg) (k : Cls) (s : State) : Res :=
  issue (.frcp d a k) s (fun s => special s d a fnRcp (unlessBig propRcp))
def execFrsq (d a : Reg) (k : Cls) (s : State) : Res :=
  issue (.frsq d a k) s (fun s => special s d a fnRsq (unlessBig propRsq))
def execFex2 (d a : Reg) (k : Cls) (s : State) : Res :=
  issue (.fex2 d a k) s (fun s => special s d a fnEx2 (unlessBig propEx2))
def execFlg2 (d a : Reg) (k : Cls) (s : State) : Res :=
  issue (.flg2 d a k) s (fun s => special s d a fnLg2 (unlessBig propLg2))
def execFsin (d a : Reg) (k : Cls) (s : State) : Res :=
  issue (.fsin d a k) s (fun s => special s d a (fnTrig 0) (fun _ => propTrig))
def execFcos (d a : Reg) (k : Cls) (s : State) : Res :=
  issue (.fcos d a k) s (fun s => special s d a (fnTrig 1) (fun _ => propTrig))

end Sys2Proof.Machine
end

