-- ==== Sys2Proof/Machine/Control.lean ====
section
/-! DEFINITION. The control instructions (R216 to R222, Table 8-1), and what stands in place of an instruction: an illegal
encoding (R177) and a fetch fault (Table 13-4). -/

namespace Sys2Proof.Machine

/-- Branch target (R61, R172). -/
def targetOf (s : State) (off : Int) (slot : Nat) : PC := mkPc ((packetOf s.cur.wpc : Int) + off) slot

/-- Lanes transfer, each to its target; a target of slot 3 raises MISPC and no lane moves (R61). -/
def transfer (s : State) (ts : List (Nat × PC)) : State :=
  if misaligned ts = [] then
    s.upG (fun g => ts.foldl (fun g t => g.setLane t.1 (fun x => { x with pc := t.2 })) g)
  else mispc s ts
/-- Every issuing lane transfers to one target. -/
def transferAll (s : State) (q : PC) : State := transfer s ((lanesOf s.cur.mask).map (fun l => (l, q)))

def execBra (o : BitVec 20) (s' : BitVec 2) (s : State) : Res :=
  issue (.bra o s') s (fun s => transferAll s (targetOf s o.toInt s'.toNat))
/-- BRC (R217): the lanes whose VAL differs from the sense branch. -/
def execBrc (p : BitVec 3) (o : BitVec 16) (s' : BitVec 2) (sense : Bool) (s : State) : Res :=
  issue (.brc p o s' sense) s (fun s =>
    transfer s (((lanesOf s.cur.mask).filter (fun l => pVal (s.op p l) != sense)).map
      (fun l => (l, targetOf s o.toInt s'.toNat))))
/-- The target in a pair of each issuing lane (R218, R219). -/
def pairTargets (s : State) (r : Reg) : List (Nat × PC) :=
  (lanesOf s.cur.mask).map (fun l => (l, BitVec.ofNat 48 (s.opair r l).v))
def execBrx (a : Reg) (s : State) : Res := issue (.brx a) s (fun s => transfer s (pairTargets s a))
def execBrxU (a : Reg) (s : State) : Res :=
  issue (.brxU a) s (fun s => transferAll s (BitVec.ofNat 48 (s.os a).v))
/-- CALL writes the PC after it into the link pair (R219). -/
def execCall (o : BitVec 20) (s' : BitVec 2) (s : State) : Res :=
  issue (.call o s') s (fun s =>
    let q := targetOf s o.toInt s'.toNat
    if slotOf q = 3 then transferAll s q
    else
      let k := (nextPc s.cur.wpc).toNat
      let lo := VCell.exact k
      let hi := VCell.exact (k / 2 ^ 32)
      let n := s.cur.rd.regs
      let ls := lanesOf s.cur.mask
      transferAll (s.upG (fun g => (g.setVs (n - 2) (ls.map (fun l => (l, lo)))).setVs (n - 1) (ls.map (fun l => (l, hi))))) q)
/-- RET (R219); while HND = 1 it ends the handler (R127). -/
def execRet (r : Reg) (s : State) : Res :=
  issue (.ret r) s (fun s =>
    if s.cur.rd.sp.hnd && !s.cur.rd.sp.sv then
      let q : PC := BitVec.ofNat 48 (s.osN 63).v
      if slotOf q = 3 then transferAll s q
      else (transferAll s q).upG (fun g => { g with sp := { g.sp with hnd := false, hndMask := 0 } })
    else transfer s (pairTargets s r))
def execEnrol (k : BitVec 3) (s : State) : Res :=
  issue (.enrol k) s (fun s => s.upG (fun g => enrolKnot g k.toNat s.cur.mask))
/-- REJOIN (R29): a knot whose lanes have arrived at another PC raises KNOT. -/
def execRejoin (k : BitVec 3) (s : State) : Res :=
  issue (.rejoin k) s (fun s =>
    let n := s.curG.k k.toNat
    if n.arrived ≠ 0 ∧ n.joinPc ≠ s.cur.wpc then trap s 0x26 k.toNat s.cur.mask true
    else s.upG (fun g => rejoinKnot g k.toNat s.cur.mask s.cur.wpc))
def execStrike (k : BitVec 3) (s : State) : Res :=
  issue (.strike k) s (fun s => s.upG (fun g => strikeKnot g k.toNat s.cur.mask))

/-- The lanes of ITEM in ascending order (R34): what each obtained. -/
def serveItems (s : State) (k core : Nat) : List Nat → State × List (Nat × DWord)
  | [] => (s, [])
  | l :: t =>
    match takeItem s k core with
    | (s, some x) =>
      let (s, xs) := serveItems s k core t
      (s, (l, x) :: xs)
    | (s, none) => serveItems s k core t
/-- The result words of a pair. -/
def pairCells (x : DWord) : List VCell := [⟨x.setWidth 32, 0⟩, ⟨(x >>> 32).setWidth 32, 0⟩]
/-- ITEM (R34, R35, R220): lanes without an item are struck from the knot and leave at the exit target. The group's earlier takes come before
it, since it may look at every deque of the launch. -/
def execItem (k : BitVec 3) (r : Reg) (o : BitVec 10) (s' : BitVec 2) (s : State) : Res :=
  issue (.item k r o s') s (fun s =>
    let q := targetOf s o.toInt s'.toNat
    if slotOf q = 3 then transferAll s q
    else
      let g := s.cur.rd
      let m := s.cur.mask
      let (s, got) := serveItems (takesBefore s s.cur.h s.ids (fun _ => true)) g.launch g.core (lanesOf m)
      let hits := maskOf (got.map (·.1))
      let miss := m &&& ~~~hits
      let s := (transfer s ((lanesOf miss).map (fun l => (l, q)))).upG (fun g =>
        let en := miss &&& (g.k k.toNat).enrolled
        if en = 0 then g else strikeKnot g k.toNat en)
      if got = [] then s
      else
        let e := newEntry s (.item k r o s') hits 0 [] []
        let e := got.foldl (fun e x => e.done x.1 (pairCells x.2)) e
        (addEntry s s.cur.h e).bump s.cur.h 0x16 got.length)
/-- YIELD (R37): with PREQ = 1 the group stops issuing and waits to be saved. -/
def execYield (s : State) : Res :=
  issue .yield s (fun s =>
    if preqOf s s.cur.rd then s.upG (fun g => { g with ctl := { g.ctl with saving := true } }) else s)
def execExit (s : State) : Res := issue .exit s (fun s => lanesDone s s.cur.h s.cur.mask)
def execNop (s : State) : Res := issue .nop s id
def execTrapu (i : BitVec 16) (s : State) : Res :=
  issue (.trapu i) s (fun s => trap s 0x2A i.toNat s.cur.mask true)

/-- A word that does not decode (R177): PRIV for a privileged opcode in user mode, ILLEGAL otherwise. -/
def execIllegalEncoding (w : Word) (s : State) : Res := issue (.illegalEncoding w) s illegal
/-- A word that cannot be fetched (Table 13-4): the payload names the address, and the lanes stand at the chain's first word.
In supervisor mode the group double-traps. -/
def execFetchFault (code va : Nat) (s : State) : Res :=
  .next (trap s 0x28 (code % 32 * 2 ^ 27 + va / 32 % 2 ^ 27) s.cur.mask false)

end Sys2Proof.Machine
end

