-- ==== Sys2Proof/Machine/Request.lean ====
section
/-! DEFINITION. Requests of the memory instructions: addresses and their checks (R225, R226, R228), the fault path (R227, R332,
R359), acceptance and rejection (R139), comparators (R336), and starting loads, stores and atomics on the memory path. -/

namespace Sys2Proof.Machine

/-! ### Contexts and lanes -/

/-- The context of the word that issues. -/
def issueCtx (s : State) : Ctx := let g := s.cur.rd; ⟨s.cur.h, g.core, g.sp.tag.toNat, g.sp.sv, s.cur.pc⟩

/-- How a lane's address fares (Table 8-3, R228 step 3): a final code, a recoverable fault, or an access. -/
inductive LaneRes
  | fail (code : Nat)
  | recov (level epa e : Nat)
  | ok (a : LaneAcc)
  deriving DecidableEq, Repr

/-- Address checks in the order of Table 8-3 (R225). `via` names the b register that serves the access (R51). -/
def laneAccess (s : State) (x : Ctx) (via : Option (Nat × BReg)) (k : AccKind) (align va : Nat) : State × LaneRes :=
  if 2 ^ 57 ≤ va then (s, .fail 5)
  else if va % align ≠ 0 then (s, .fail 4)
  else
    match (match via with | some (n, b) => translateB s x n b va k | none => translate s x va k) with
    | (s, .ok pa attr) => (s, .ok ⟨pa, va, attr, none⟩)
    | (s, .fault c) => (s, .fail c)
    | (s, .recov level epa e) => (s, .recov level epa e)

/-! ### Page records (R359) -/

/-- Faulting lanes that stopped at one entry. -/
structure PageAt where
  mask : Mask
  level : Nat
  epa : Nat
  e : Nat
  va : Nat
  deriving DecidableEq, Repr

/-- One PAGE record for each distinct entry, in ascending order of VA, and of the entry's address where lanes of one VA met several. -/
def pageRecs (x : Ctx) (wr : Bool) (ps : List PageAt) : List FaultRec :=
  let byEntry : List (Nat × PageAt) := ps.foldl (fun t p =>
    match Tb.get? t p.epa with
    | none => Tb.put t p.epa p
    | some q => Tb.put t p.epa { q with mask := q.mask ||| p.mask, va := min q.va p.va }) []
  let byVa : List (Nat × PageAt) := byEntry.foldl (fun t p => Tb.put t (p.2.va * 2 ^ 64 + p.1) p.2) []
  byVa.map (fun p =>
    let q := p.2
    mkRec 1 2 wr x.pc q.va q.mask.toNat
      (x.tag * 2 ^ 48 + x.h * 2 ^ 32 + q.level * 2 ^ 29 + b2n (pteMigr q.e) * 2 ^ 28 + pteFt q.e * 2 ^ 26))
def pageMask (ps : List PageAt) : Mask := ps.foldl (fun m p => m ||| p.mask) 0
def postPages (s : State) (core : Nat) (rs : List FaultRec) : State := rs.foldl (fun s r => postPage s core r) s

/-- The state before some translations, with the fault records and free choices that they took: nothing else of a failing issue
remains. -/
def keepRecords (s t : State) (core : Nat) : State :=
  { (s.modCore core (fun c => { c with frq := (t.core core).frq, frqOvf := (t.core core).frqOvf })) with free := t.free }

/-! ### Acceptance (R139) -/

/-- Request entries in use on a core: accesses not yet performed, and stores on their way (log entry 7). -/
def requestsUsed (s : State) (core : Nat) : Nat :=
  ((s.work.groups.filter (fun e => decide (e.2.core = core))).map (fun e => (e.2.outst.map (fun o => o.acc.length)).sum)).sum +
  (s.mem.pend.filter (fun p => decide (p.core = core))).length
/-- Lanes that a held instruction still has to place. -/
def Held.lanes (r : Held) : Nat := (lanesOf (if r.mask = 0 then r.entry.mask &&& ~~~r.done else r.mask)).length
/-- The held instruction of a core that was rejected first, with its group. -/
def firstHeld (s : State) (core : Nat) : Option (Nat × Held) :=
  (s.work.groups.filterMap (fun e => if e.2.core = core then e.2.rejected.map (fun r => (e.1, r)) else none)).foldl
    (fun b x => match b with | some y => if y.2.tries < x.2.tries then some x else b | none => some x) none
/-- Request entries that a group may take: those that the instruction rejected first needs are kept for it, so that 64 releases serve it
(R139, log entry 7). -/
def requestsFree (s : State) (core h : Nat) : Nat :=
  1024 - requestsUsed s core - (match firstHeld s core with | some (k, r) => if k = h then 0 else r.lanes | none => 0)

/-- Hold an instruction for lanes that were rejected. -/
def holdLanes (s : State) (h : Nat) (e : Entry) (m : Mask) : State :=
  s.modG h (fun g => { g with rejected := some ⟨e, m, 0, 0⟩ })
/-- The instruction as an earlier try of this issue left it held (R139). -/
def heldBefore (s : State) (i : Instr) : Option Held := s.cur.rd.rejected.filter (fun r => decide (r.entry.instr = i))
/-- The lanes of a store or an AXADD that an earlier try had accepted: this issue does not repeat them (R139). -/
def doneLanes (s : State) (i : Instr) : Mask := match heldBefore s i with | some r => r.done | none => 0
/-- Hold a store or an atomic whole: its chain has not issued, and issues again at the retry, without the lanes of `done`. -/
def holdWhole (s : State) (i : Instr) (done : Mask) : State :=
  let e := { newEntry s i s.cur.mask 0 [] [] with pc := s.cur.pc }
  let m := s.cur.mask &&& ~~~done
  let tries := match heldBefore s i with | some r => r.tries | none => 0
  ((stall s 4).upG (fun g => { g with rejected := some ⟨e, m, done, tries⟩ })).bump s.cur.h 0x0F (lanesOf m).length
/-- The lanes of some sectors or addends. -/
def jobLanes (js : List (PendKind × Mask × DWord)) : Mask := js.foldl (fun m j => m ||| j.2.1) (0 : Mask)
/-- The sectors of a store, or the atomic addends, of an issue: as many as find free request entries are on their way, and with some left
over the issue is held (R139). `note` takes the lanes accepted. -/
def acceptJobs (s : State) (i : Instr) (note : Mask → State → State) (js : List (PendKind × Mask × DWord)) : State :=
  let free := requestsFree s s.cur.rd.core s.cur.h
  let now := js.take free
  let m := jobLanes now
  let t := now.foldl (fun t j => pushPend t t.cur.h s.ids t.cur.wpc j.2.2.toNat j.2.1 j.1) (note m s)
  if js.length ≤ free then t else holdWhole t i (doneLanes s i ||| m)

/-! ### Comparators (R336) -/

/-- Comparators that match accesses of lanes: HIT bits and matching lanes. `rd` and `wr` say what the access does. -/
def dataMatch (s : State) (rd wr : Bool) (as : List (Mask × Nat)) : Nat × Mask :=
  let g := s.cur.rd
  ((s.core g.core).dbg).foldl (fun (r : Nat × Mask) e =>
    let k := e.2.k.toNat
    let kind := bits k 3 1
    let sz := bits k 9 4
    let on := k.testBit 0 && ((decide (kind = 1) && rd) || (decide (kind = 2) && wr) || decide (kind = 3)) &&
      (k.testBit 10 || decide (bits k 47 32 = g.sp.tag.toNat))
    let m := if on then
        as.foldl (fun m a => if a.2 >>> sz = e.2.v.toNat >>> sz then m ||| (a.1 &&& e.2.m) else m) (0 : Mask)
      else 0
    if m = 0 then r else (r.1 + 2 ^ e.1, r.2 ||| m)) (0, 0)

/-! ### Loads (R226, R227) -/

/-- Scale of the offset of a memory instruction (R223). -/
def offScale : Instr → Nat
  | .gath _ _ _ wd _ | .gaths _ _ _ wd _ | .scat _ _ _ wd _ => widthBytes wd
  | _ => 1
/-- Alignment of an access (R225, R235). -/
def alignOf : Instr → Nat
  | .axadd .. | .axrd .. => 32
  | .st _ _ _ wd _ | .scat _ _ _ wd _ => widthBytes wd
  | i => if isAtomic i then widthBytes (atomWidthOf i) else loadBytes i
def isSpec : Instr → Bool
  | .lds .. | .ldus .. | .gaths .. => true | _ => false
/-- The acquire scope of a load or atomic. -/
def acqOf : Instr → Option Scope
  | .ld _ _ _ _ (.acq sc) | .lds _ _ _ _ (.acq sc) | .gath _ _ _ _ (.acq sc) | .gaths _ _ _ _ (.acq sc) => some sc
  | i => acqScope (atomForm i)

/-- Address of a lane of an entry, from its captured operands. -/
def entryVa (e : Entry) (l : Nat) : Nat :=
  if isUniformLoad e.instr then e.uop.toNat
  else e.uop.toNat + (Tb.get VCell.zero e.slots (8 * l)).data.toNat * offScale e.instr

/-- One lane of an outstanding load (or of an atomic at its replay) starts: a token, an access, or a recoverable fault, in which
the lane stays pending. `m` is the mask that the lane stands for. -/
def startLane (x : Ctx) (via : Option (Nat × BReg)) (id : Nat) (r : State × List PageAt) (l : Nat) : State × List PageAt :=
  let (s, ps) := r
  match findEntry s x.h id with
  | none => r
  | some e =>
    let off := Tb.get VCell.zero e.slots (8 * l)
    if !isUniformLoad e.instr && decide (off.eb = ebPoison) then (tokenLane s x.h id l off.data, ps)
    else
      let va := entryVa e l
      let k : AccKind := if isAtomic e.instr then .rw else .read
      let new := fun (s : State) (c : Nat) => (tokenLane (s.bump x.h 0x13 1) x.h id l (vaTok c va), ps)
      match laneAccess s x via k (alignOf e.instr) va with
      | (s, .fail c) => new s c
      | (s, .recov level epa v) =>
        if isSpec e.instr then new s 2
        else (s, ps ++ [⟨if isUniformLoad e.instr then e.mask else maskOf [l], level, epa, v, va⟩])
      | (s, .ok a) =>
        (modEntry s x.h id (fun e => { e with acc := Tb.put e.acc l a }), ps)

/-- The lanes that an entry's accesses are made by: the lowest lane alone for a uniform load (R231). -/
def accessLanes (i : Instr) (m : Mask) : List Nat := if isUniformLoad i then (lanesOf m).take 1 else lanesOf m

/-- The end of a start of lanes: rejected lanes are held; faulting lanes enter the fault path, or are held while the record queue
has no room (R332); an acquire performs its entry and takes effect (R144). `page` enters the fault path. -/
def endStart (s : State) (x : Ctx) (id : Nat) (rej : Mask) (ps : List PageAt) (page : State → Mask → Nat → State) : State :=
  match findEntry s x.h id with
  | none => s
  | some e =>
    if rej = 0 ∧ ps = [] then
      match acqOf e.instr with
      | some sc => acquire (perform s x.h id) x.h sc
      | none => s
    else
      let rs := pageRecs x (isAtomic e.instr) ps
      if rej ≠ 0 ∨ pageRoom s x.core < rs.length then
        let m := rej ||| pageMask ps
        (holdLanes s x.h { e with pc := x.pc } m).bump x.h 0x0F (lanesOf m).length
      else page (postPages s x.core rs) (pageMask ps) rs.length

/-- A load issues: `uop` is the VBASE of its b register, or the MU address; the offsets are the operands it captures. -/
def loadBody (i : Instr) (n : BitVec 3) (uop : DWord) (off : Option Reg) (s : State) : State :=
  let m := s.cur.mask
  let x := issueCtx s
  let b := s.cur.rd.b n.toNat
  let slots := match off with
    | some o => (lanesOf m).foldl (fun t l => Tb.put t (8 * l) (s.rv o l)) ([] : List (Nat × VCell))
    | none => []
  let e := newEntry s i m uop slots []
  let ls := accessLanes i m
  let dm := dataMatch s true false
    ((ls.filter (fun l => decide ((Tb.get VCell.zero e.slots (8 * l)).eb ≠ ebPoison))).map
      (fun l => (if isUniformLoad i then m else maskOf [l], entryVa e l)))
  if dm.1 ≠ 0 then debugTrap s dm.1 dm.2
  else
    let free := requestsFree s x.core x.h
    let acc := ls.take free
    let rej := if isUniformLoad i then (if acc = [] then m else 0) else maskOf (ls.drop free)
    let (t, ps) := acc.foldl (startLane x (some (n.toNat, b)) e.id) (addEntry s x.h e, [])
    if s.cur.rd.sp.sv ∧ ps ≠ [] then doubleTrap (keepRecords s t x.core) 0x2B
    else endStart t x e.id rej ps (fun s m n => askPage s m n e.id)

/-! ### Stores and atomics: the checks of R228 and R235 -/

/-- One access of a store: the lane, the lanes it stands for, its address, and its committed data. -/
structure MemJob where
  lane : Nat
  mask : Mask
  va : Nat
  ops : List Opd
  deriving DecidableEq, Repr

/-- What sets a store apart: the access kind, alignment, the b register, whether bounds may be dropped (.db, AXADD), whether
poison is carried (.c), and whether it is an atomic. -/
structure StoreKind where
  acc : AccKind
  align : Nat
  breg : BitVec 3
  drop : Bool
  carry : Bool
  atomic : Bool
  deriving DecidableEq, Repr

/-- Translate every access of a store. -/
def translateJobs (x : Ctx) (k : StoreKind) (b : BReg) (s : State) : List MemJob → State × List (MemJob × LaneRes)
  | [] => (s, [])
  | j :: t =>
    let (s, r) := laneAccess s x (some (k.breg.toNat, b)) k.acc k.align j.va
    let (s, rs) := translateJobs x k b s t
    (s, (j, r) :: rs)

/-- The access lies in a mapped page that keeps no bounds. -/
def jobBare (s : State) (k : StoreKind) (r : MemJob × LaneRes) : Bool :=
  match r.2 with
  | .ok a => !keepsBnd a.pa a.attr
  | .fail c => (decide (c = 3) || decide (c = 4)) && bareVa s k.breg r.1.va
  | .recov _ _ _ => false

/-- The bound that BNDLOSS gives of an access: the largest of its committed operands (R117 says only 'the lane's bound': DESIGN CHOICE, log
entry 42). -/
def jobEb (j : MemJob) : EB := ebMaxL ((j.ops.filter (fun o => o.tok.isNone)).map (·.eb))
def jobMask (js : List MemJob) : Mask := js.foldl (fun m j => m ||| j.mask) 0

/-- The lanes of each racing access (R151): an access of an ordered atomic, or of a store. -/
def racing (s : State) (h : Nat) (atomic : Bool) (as : List (MemJob × LaneAcc)) : List (MemJob × LaneAcc) :=
  let g := s.grp h
  as.filter (fun a => raceOn g a.2.attr && raceTest s a.2.pa g.writer atomic)
/-- With RACELOG each racing sector is logged once as it is performed, since the first access of the issue records the sector as the
group's. -/
def raceLog (s : State) (x : Ctx) (rs : List (MemJob × LaneAcc)) : State :=
  (rs.foldl (fun (r : State × List Nat) a =>
    let k := sectorOf a.2.pa
    if r.2.contains k then r
    else (raceRecord (r.1.bump x.h 0x15 1) x true a.1.va a.2.pa (r.1.grp x.h).writer, k :: r.2)) (s, [])).1

/-- Steps 1 to 5 of R228 over a whole issue: either the state after the trap (or hold), or the state in which the accesses may be
made, with their translations. -/
def checkJobs (s : State) (i : Instr) (k : StoreKind) (js : List MemJob) : State ⊕ (State × List (MemJob × LaneAcc)) :=
  let x := issueCtx s
  let sv := s.cur.rd.sp.sv
  let (t, rs) := translateJobs x k (s.cur.rd.b k.breg.toNat) s js
  let u := keepRecords s t x.core
  let bare := rs.filter (jobBare s k)
  let pois := (bare.filter (fun r => k.carry && r.1.ops.any (fun o => o.tok.isSome)))
  let loss := if k.drop || sv then [] else bare.filter (fun r => decide (jobEb r.1 ≠ 0))
  let dm := dataMatch s (decide (k.acc ≠ .write)) true (js.map (fun j => (j.mask, j.va)))
  let bad := rs.filterMap (fun r => match r.2 with | .fail c => some (r.1, c) | _ => none)
  let pages := rs.filterMap (fun r => match r.2 with | .recov l p e => some (PageAt.mk r.1.mask l p e r.1.va) | _ => none)
  let as := rs.filterMap (fun r => match r.2 with | .ok a => some (r.1, a) | _ => none)
  if pois ≠ [] then
    .inl (deferred u (pois.map (fun r => ⟨r.1.lane, r.1.ops.filterMap (·.tok), none⟩)))
  else
    match loss with
    | r :: _ => .inl (deferredTrap u 0x21 (breachBound (jobEb r.1)) (jobMask (loss.map (·.1))) 0)
    | [] =>
      if dm.1 ≠ 0 then .inl (debugTrap u dm.1 dm.2)
      else
        match bad with
        | (j, c) :: _ =>
          .inl (deferredTrap u c (vaTok c j.va).toNat (jobMask (bad.map (·.1))) (jobMask (bad.map (·.1))).toNat)
        | [] =>
          if pages ≠ [] then
            let recs := pageRecs x true pages
            if sv then .inl (doubleTrap u 0x2B)
            else if pageRoom u x.core < recs.length then .inl (holdWhole u i (doneLanes s i))
            else .inl (trap ((postPages u x.core recs).bump x.h 0x10 1) 0x2B recs.length (pageMask pages) false)
          else
            match racing t x.h k.atomic as with
            | [] => .inr (t, as)
            | r :: q =>
              if (t.grp x.h).sp.lflags.getLsbD 4 then .inr (t, as)
              else .inl (trap (u.bump x.h 0x15 (q.length + 1)) 0x22 (vaTok 6 r.1.va).toNat (jobMask ((r :: q).map (·.1))) false)

/-! ### Writing (R228, step 6) -/

/-- A sector that one issue writes, with the lanes and the address. -/
structure SectorJob where
  w : SectorW
  mask : Mask
  va : Nat
  deriving DecidableEq, Repr

/-- Add a lane's element to the sectors written: later lanes override bytes (R142), the lowest poisoned lane gives the token. -/
def addSector (n : Nat) (t : List (Nat × SectorJob)) (a : MemJob × LaneAcc) : List (Nat × SectorJob) :=
  let k := sectorOf a.2.pa
  let o : Opd := (a.1.ops.head?).getD ⟨0, 0, none⟩
  let old := (Tb.get? t k).getD ⟨⟨32 * k, [], 0, none, keepsBnd a.2.pa a.2.attr⟩, 0, a.2.va / 32 * 32⟩
  let bs := ((toBytes n o.v).zip (List.range n)).foldl (fun b x => Tb.put b (a.2.pa % 32 + x.2) x.1) old.w.bytes
  Tb.put t k
    { old with
      mask := old.mask ||| a.1.mask,
      w := { old.w with
        bytes := bs,
        maxEb := if o.tok.isSome then old.w.maxEb else ebMax old.w.maxEb o.eb,
        token := if old.w.token.isSome then old.w.token else o.tok } }

/-- The race records take the writer of some accesses (R151). -/
def noteRaces (s : State) (h : Nat) (rel : Option Scope) (isAtomic : Bool) (asc : Option Scope) (as : List (MemJob × LaneAcc)) : State :=
  let g := s.grp h
  as.foldl (fun s a => if raceOn g a.2.attr then s.upMem (fun m => raceNote m a.2.pa g.writer rel isAtomic asc) else s) s
/-- What the race detector takes of the accesses of an issue whose lanes are accepted: RACELOG records of those that race, and their
writer (R151, R152). -/
def enterRaces (rel : Option Scope) (isAtomic : Bool) (asc : Option Scope) (as : List (MemJob × LaneAcc)) (m : Mask) (s : State) : State :=
  let now := as.filter (fun a => decide (a.1.mask &&& m ≠ 0))
  noteRaces (raceLog s (issueCtx s) (racing s s.cur.h isAtomic now)) s.cur.h rel isAtomic asc now
/-- Every lane of a store writes: one pending store per sector. -/
def writeJobs (s : State) (i : Instr) (n : Nat) (rel : Option Scope) (as : List (MemJob × LaneAcc)) : State :=
  acceptJobs s i (enterRaces rel false none as)
    ((as.foldl (addSector n) []).map (fun j => (.store [j.2.w], j.2.mask, BitVec.ofNat 64 j.2.va)))
/-- The accesses of an issue that no earlier try had accepted. -/
def newJobs (s : State) (i : Instr) (js : List MemJob) : List MemJob := js.filter (fun j => decide (j.mask &&& doneLanes s i = 0))
/-- The accesses `k` of an issue, after its release: an earlier try that had lanes accepted has made it, and an issue of which no access is
accepted makes none (R150, R139). -/
def releaseOnce (s : State) (i : Instr) (rel : Option Scope) (k : State → State) : State :=
  match rel with
  | none => k s
  | some sc =>
    if doneLanes s i ≠ 0 then k s
    else
      let t := release s s.cur.h sc
      if requestsFree t t.cur.rd.core t.cur.h = 0 then holdWhole s i 0 else k t

/-- A store issues: the checks, then a release where it is one, then the writes. The race record of a releasing write takes the interval
that follows its release: the spec does not say which (R150; DESIGN CHOICE, log entry 42). -/
def storeBody (i : Instr) (k : StoreKind) (n : Nat) (rel : Option Scope) (js : List MemJob) (s : State) : State :=
  match checkJobs s i k (newJobs s i js) with
  | .inl t => t
  | .inr (t, as) => releaseOnce t i rel (fun t => writeJobs t i n rel as)

/-! ### Atomics (R235 to R237) -/

/-- Native support (Table 5-4). -/
def native (i : Instr) (a : LaneAcc) : Bool :=
  decide (pteHome a.attr.toNat ≠ 3) &&
  (match pmem a.pa with
   | .hbm _ => true
   | .tarn => true
   | .lpddr => true
   | .cxl => decide (pteTier a.attr.toNat = 2) && (match i with | .aadd .. | .axch .. | .acas .. => true | _ => false)
   | _ => false)

/-- The AXADDs of one issue, by location. -/
def axaddGroups (as : List (MemJob × LaneAcc)) : List (Nat × (LaneAcc × Mask × List (Nat × VCell))) :=
  as.foldl (fun t a =>
    let o : Opd := (a.1.ops.head?).getD ⟨0, 0, none⟩
    let old := (Tb.get? t a.2.pa).getD (a.2, 0, [])
    Tb.put t a.2.pa (old.1, old.2.1 ||| a.1.mask, old.2.2 ++ [(a.1.lane, ⟨BitVec.ofNat 32 o.v, o.eb⟩)])) []

/-- The operand words that an atomic captures: its offset in slot 0, its data words from slot 1. -/
def atomSlots (s : State) (o : Reg) (data : List Nat) : List (Nat × VCell) :=
  (lanesOf s.cur.mask).foldl (fun t l =>
    (data.zip (List.range data.length)).foldl (fun t d => Tb.put t (8 * l + 1 + d.2) (s.rvN d.1 l)) (Tb.put t (8 * l) (s.rv o l))) []

/-- The lanes of an atomic that find request entries, whole locations in order of their lowest lanes, since one location is applied
undivided (R156); the others are rejected (R139). -/
def acceptAtoms (as : List (MemJob × LaneAcc)) (free : Nat) : List (Nat × LaneAcc) :=
  let acc : List (Nat × LaneAcc) := as.foldl (fun t a => Tb.put t a.1.lane a.2) []
  let locs := (acc.map (fun a => a.2.pa)).dedup
  let n := fun (pa : Nat) => (acc.filter (fun a => decide (a.2.pa = pa))).length
  let fit := locs.foldl (fun (r : List Nat × Nat) pa => if r.2 + n pa ≤ free then (pa :: r.1, r.2 + n pa) else r) ([], 0)
  acc.filter (fun a => fit.1.contains a.2.pa)
/-- The atomic is applied natively: AXADD travels to its engine and leaves nothing outstanding; any other is outstanding. An atomic that
the race detector checks is applied as it issues, so that no other access comes between its test and its record (R151). -/
def applyAtomic (s : State) (i : Instr) (n : BitVec 3) (o : Reg) (data : List Nat) (as : List (MemJob × LaneAcc)) : State :=
  let h := s.cur.h
  let f := atomForm i
  releaseOnce s i (relScope f) fun s =>
  match i with
  | .axadd _ _ _ wd _ =>
    let s := acceptJobs s i (enterRaces (relScope f) true (atomScope f) as)
      ((axaddGroups as).map (fun j =>
        (.axadd j.2.1.pa j.2.2.2 (decide (wd = .d)) (keepsBnd j.2.1.pa j.2.1.attr), j.2.2.1, BitVec.ofNat 64 j.2.1.va)))
    match acqScope f with
    | some sc => if s.cur.stalled then s else acquire (drainGroup s h) h sc
    | none => s
  | _ =>
    let s := raceLog s (issueCtx s) (racing s h true as)
    let checked := as.any (fun a => raceOn (s.grp h) a.2.attr)
    let acc := acceptAtoms as (if checked then as.length else requestsFree s s.cur.rd.core h)
    let e := newEntry s i s.cur.mask ((s.cur.rd.b n.toNat).vbase.setWidth 64) (atomSlots s o data) acc
    let rej := s.cur.mask &&& ~~~(maskOf (acc.map (·.1)))
    let s := addEntry s h e
    if rej ≠ 0 then (holdLanes s h { e with pc := s.cur.pc } rej).bump h 0x0F (lanesOf rej).length
    else
      match acqScope f with
      | some sc => acquire (perform s h e.id) h sc
      | none => if checked then perform s h e.id else s

/-- An atomic issues (R235): the checks, EMUL where some location has no native support (R155), then its application. -/
def atomicBody (i : Instr) (n : BitVec 3) (o : Reg) (ops : Nat → List Opd) (data : List Nat) (s : State) : State :=
  let js := (lanesOf s.cur.mask).map (fun l => MemJob.mk l (maskOf [l]) (offVa s n 1 (s.ov o l).v) (ops l))
  let k : StoreKind := ⟨.rw, alignOf i, n, (match i with | .axadd .. => true | _ => false), false, true⟩
  match checkJobs s i k (newJobs s i js) with
  | .inl t => t
  | .inr (t, as) =>
    if as.any (fun a => !native i a.2) then trap (keepRecords s t s.cur.rd.core) 0x2C s.cur.word.toNat s.cur.mask false
    else applyAtomic t i n o data as

end Sys2Proof.Machine
end

