-- ==== Sys2Proof/Machine/MemInstr.lean ====
section
/-! DEFINITION. Vector and uniform loads and stores, tile access, base translation and prefetch (R223 to R233, Tables 8-2 to
8-4). -/

namespace Sys2Proof.Machine

/-- VBASE of bN as the captured operand of a load. -/
def vbaseOf (s : State) (n : BitVec 3) : DWord := (s.cur.rd.b n.toNat).vbase.setWidth 64

/-! ### Loads (R226) -/

def execLd (d : Reg) (b : BitVec 3) (o : Reg) (wd : Width) (f : LoadForm) (s : State) : Res :=
  issue (.ld d b o wd f) s (fun s => loadBody (.ld d b o wd f) b (vbaseOf s b) (some o) s)
def execLds (d : Reg) (b : BitVec 3) (o : Reg) (wd : Width) (f : LoadForm) (s : State) : Res :=
  issue (.lds d b o wd f) s (fun s => loadBody (.lds d b o wd f) b (vbaseOf s b) (some o) s)
def execGath (d : Reg) (b : BitVec 3) (o : Reg) (wd : Width) (f : LoadForm) (s : State) : Res :=
  issue (.gath d b o wd f) s (fun s => loadBody (.gath d b o wd f) b (vbaseOf s b) (some o) s)
def execGaths (d : Reg) (b : BitVec 3) (o : Reg) (wd : Width) (f : LoadForm) (s : State) : Res :=
  issue (.gaths d b o wd f) s (fun s => loadBody (.gaths d b o wd f) b (vbaseOf s b) (some o) s)
/-- Address of a uniform access, in 64 bits (R225, R231). -/
def muAddr (s : State) (b : BitVec 3) (i : BitVec 13) : DWord := vbaseOf s b + BitVec.ofInt 64 (8 * i.toInt)
def execLdu (d : Reg) (b : BitVec 3) (i : BitVec 13) (s : State) : Res :=
  issue (.ldu d b i) s (fun s => loadBody (.ldu d b i) b (muAddr s b i) none s)
def execLdus (d : Reg) (b : BitVec 3) (i : BitVec 13) (s : State) : Res :=
  issue (.ldus d b i) s (fun s => loadBody (.ldus d b i) b (muAddr s b i) none s)

/-! ### Stores (R228) -/

/-- The accesses of a vector store. -/
def storeJobs (s : State) (d : Reg) (b : BitVec 3) (o : Reg) (wd : Width) (scale : Nat) : List MemJob :=
  (lanesOf s.cur.mask).map (fun l => ⟨l, maskOf [l], offVa s b scale (s.ov o l).v, [s.odata d wd l]⟩)
/-- The kind of a store by its form (R171, R121). -/
def storeKind (b : BitVec 3) (n : Nat) (f : StoreForm) : StoreKind := ⟨.write, n, b, decide (f = .db), decide (f = .c), false⟩
def relOfStore : StoreForm → Option Scope
  | .rel sc => some sc | _ => none
def execSt (d : Reg) (b : BitVec 3) (o : Reg) (wd : Width) (f : StoreForm) (s : State) : Res :=
  issue (.st d b o wd f) s (fun s =>
    storeBody (.st d b o wd f) (storeKind b (widthBytes wd) f) (widthBytes wd) (relOfStore f) (storeJobs s d b o wd 1) s)
def execScat (d : Reg) (b : BitVec 3) (o : Reg) (wd : Width) (f : StoreForm) (s : State) : Res :=
  issue (.scat d b o wd f) s (fun s =>
    storeBody (.scat d b o wd f) (storeKind b (widthBytes wd) f) (widthBytes wd) (relOfStore f)
      (storeJobs s d b o wd (widthBytes wd)) s)
/-- STU (R231): one access for the issuing lanes. -/
def execStu (d : Reg) (b : BitVec 3) (i : BitVec 13) (s : State) : Res :=
  issue (.stu d b i) s (fun s =>
    storeBody (.stu d b i) (storeKind b 8 .plain) 8 none [⟨s.lowLane, s.cur.mask, (muAddr s b i).toNat, [s.os d]⟩] s)

/-! ### Base translation and prefetch -/

/-- The words that BXLT leaves in its b register (R232). -/
def bxltCells (v : Nat) (r : TR) : List VCell :=
  match r with
  | .ok pa attr =>
    [⟨BitVec.ofNat 32 pa, 0⟩, ⟨BitVec.ofNat 32 (pa / 2 ^ 32), 0⟩,
     ⟨BitVec.ofNat 32 (tierSize attr.toNat - v % tierSize attr.toNat), 0⟩, ⟨attr.setWidth 32, 0⟩]
  | _ => [VCell.zero, VCell.zero, VCell.zero, VCell.zero]
/-- BXLT (R232): the translation of sa's page, without a permission check; LIMIT = 0 where there is none. -/
def execBxlt (d : Reg) (b : BitVec 3) (s : State) : Res :=
  issue (.bxlt d b) s (fun s =>
    let v := (s.os d).v
    let (s, r) := translate s (issueCtx s) v .any
    let e := (newEntry s (.bxlt d b) s.cur.mask (BitVec.ofNat 64 (v % 2 ^ 57)) [] []).setCells 0 (bxltCells v r)
    addEntry s s.cur.h { e with performed := e.mask })
/-- PREF has no effect that a program can observe (R229): every lane is dropped. -/
def execPref (l : PfLevel) (b : BitVec 3) (o : Reg) (s : State) : Res := issue (.pref l b o) s id

/-! ### Tile access (R233) -/

/-- A lane's pond address (R233). -/
def tileAddr (va sb n : Nat) : Nat := (va + sb % 2 ^ 32) % 2 ^ 32 / n * n
/-- Physical address of a team pond byte (R132). -/
def teamPond (t : Team) (a : Nat) : Nat :=
  let k := t.tiles.getD (a / 0x8000) 0
  pondPa (k / 64) (k % 64) (a % 0x8000)
/-- Lanes of an entry that have neither been performed nor have an access on its way. -/
def idleLanes (e : Entry) : List Nat :=
  if isUniformLoad e.instr then (if e.ready || !e.acc.isEmpty then [] else (lanesOf e.mask).take 1)
  else (lanesOf (e.mask &&& ~~~e.performed)).filter (fun l => (Tb.get? e.acc l).isNone)
/-- The tiles that the lanes of an LDT are still to access whose requests have not been accepted: rejected lanes, and those of an entry that
the replay queue or SRET holds unperformed. -/
def openTiles (e : Entry) : List Nat :=
  match e.instr with
  | .ldt .. =>
    let sb := Opd.ofS ⟨e.uop, e.ueb⟩
    (idleLanes e).filterMap (fun l =>
      let o := Opd.ofV (Tb.get VCell.zero e.slots (8 * l))
      if (firstTok [o, sb]).isSome then none else some (tileAddr o.v sb.v (loadBytes e.instr) / 0x8000))
  | _ => []
/-- A tile of a team is ENGINE while an unfinished task of the team names it (R133). -/
def engineTile (s : State) (k t tile : Nat) : Bool :=
  s.work.tasks.any (fun x => decide (x.launch = k) && decide (x.team = t) && (x.rset ++ x.wset).contains tile)
/-- The team of the group that issues. -/
def State.curTeam (s : State) : Option Team := s.team? s.cur.rd.launch s.cur.rd.team

/-- Issue-time checks of a tile access: a tile beyond the allocation is illegal (R132), an ENGINE tile stalls (R133). -/
def tileCheck (s : State) (as : List Nat) (ok : Team → State) : State :=
  match s.curTeam with
  | none => illegal s
  | some t =>
    if as.any (fun a => decide (t.tiles.length ≤ a / 0x8000)) then illegal s
    else if as.any (fun a => engineTile s t.launch t.id (a / 0x8000)) then stall s 6
    else ok t

/-- Lanes of an outstanding LDT start: tokens of poisoned operands, accesses of the others as far as request entries are free; the rest is
held (R139). -/
def startTile (s : State) (t : Team) (h : Nat) (e : Entry) (ls : List Nat) (sb : Opd) (off : Nat → Opd) (n : Nat) : State :=
  let bad := ls.filter (fun l => (firstTok [off l, sb]).isSome)
  let good := ls.filter (fun l => (firstTok [off l, sb]).isNone)
  let free := requestsFree s (s.grp h).core h
  let s := modEntry s h e.id (fun e =>
    (good.take free).foldl (fun e l =>
      let a := tileAddr (off l).v sb.v n
      { e with acc := Tb.put e.acc l ⟨teamPond t a, a, 0, none⟩ })
      (bad.foldl (fun e l => match firstTok [off l, sb] with
        | some k => e.done l (elemCells n ⟨0, ebPoison, some k⟩)
        | none => e) e))
  match good.drop free with
  | [] => s
  | rej => (holdLanes s h e (maskOf rej)).bump h 0x0F rej.length
def execLdt (d a b : Reg) (wd : Width) (s : State) : Res :=
  issue (.ldt d a b wd) s (fun s =>
    let n := widthBytes wd
    let sb := s.os b
    let ls := lanesOf s.cur.mask
    let as := (ls.filter (fun l => (firstTok [s.ov a l, sb]).isNone)).map (fun l => tileAddr (s.ov a l).v sb.v n)
    tileCheck s as (fun t =>
      let slots := ls.foldl (fun m l => Tb.put m (8 * l) (s.rv a l)) ([] : List (Nat × VCell))
      let u := s.cur.rd.s s.pk b.toNat
      let e := { newEntry s (.ldt d a b wd) s.cur.mask u.data slots [] with ueb := u.eb }
      startTile (addEntry s s.cur.h e) t s.cur.h { e with pc := s.cur.pc } ls sb (fun l => s.ov a l) n))
def execStt (d a b : Reg) (wd : Width) (s : State) : Res :=
  issue (.stt d a b wd) s (fun s =>
    let n := widthBytes wd
    let ls := lanesOf (s.cur.mask &&& ~~~doneLanes s (.stt d a b wd))
    let ad := fun l => tileAddr (s.ov a l).v (s.os b).v n
    tileCheck s (ls.map ad) (fun t =>
      writeJobs s (.stt d a b wd) n none (ls.map (fun l =>
        (⟨l, maskOf [l], ad l, [s.odata d wd l]⟩, ⟨teamPond t (ad l), ad l, 0x80, none⟩)))))

end Sys2Proof.Machine
end

