-- ==== Sys2Proof/Machine/AtomicInstr.lean ====
section
/-! DEFINITION. The eleven atomics (R234 to R237, Table 8-5). -/

namespace Sys2Proof.Machine

/-- Numbers of the data registers that an atomic reads. -/
def atomData (d : Reg) (wd : Width) : List Nat := (dataRefs d wd).map (·.2)

def execAadd (d : Reg) (b : BitVec 3) (o : Reg) (wd : Width) (f : AtomForm) (s : State) : Res :=
  issue (.aadd d b o wd f) s (fun s => atomicBody (.aadd d b o wd f) b o (fun l => [s.odata d wd l]) (atomData d wd) s)
def execAmin (d : Reg) (b : BitVec 3) (o : Reg) (wd : Width) (f : AtomForm) (s : State) : Res :=
  issue (.amin d b o wd f) s (fun s => atomicBody (.amin d b o wd f) b o (fun l => [s.odata d wd l]) (atomData d wd) s)
def execAmax (d : Reg) (b : BitVec 3) (o : Reg) (wd : Width) (f : AtomForm) (s : State) : Res :=
  issue (.amax d b o wd f) s (fun s => atomicBody (.amax d b o wd f) b o (fun l => [s.odata d wd l]) (atomData d wd) s)
def execAand (d : Reg) (b : BitVec 3) (o : Reg) (wd : Width) (f : AtomForm) (s : State) : Res :=
  issue (.aand d b o wd f) s (fun s => atomicBody (.aand d b o wd f) b o (fun l => [s.odata d wd l]) (atomData d wd) s)
def execAor (d : Reg) (b : BitVec 3) (o : Reg) (wd : Width) (f : AtomForm) (s : State) : Res :=
  issue (.aor d b o wd f) s (fun s => atomicBody (.aor d b o wd f) b o (fun l => [s.odata d wd l]) (atomData d wd) s)
def execAxor (d : Reg) (b : BitVec 3) (o : Reg) (wd : Width) (f : AtomForm) (s : State) : Res :=
  issue (.axor d b o wd f) s (fun s => atomicBody (.axor d b o wd f) b o (fun l => [s.odata d wd l]) (atomData d wd) s)
def execAxch (d : Reg) (b : BitVec 3) (o : Reg) (wd : Width) (f : AtomForm) (s : State) : Res :=
  issue (.axch d b o wd f) s (fun s => atomicBody (.axch d b o wd f) b o (fun l => [s.odata d wd l]) (atomData d wd) s)
/-- ACAS reads expected, then new (R234). -/
def execAcas (d : Reg) (b : BitVec 3) (o : Reg) (wd : Width) (f : AtomForm) (s : State) : Res :=
  issue (.acas d b o wd f) s (fun s =>
    atomicBody (.acas d b o wd f) b o (fun l => [s.odata d wd l, s.onew d wd l]) ((casRefs d wd).map (·.2)) s)
def execAfadd (d : Reg) (b : BitVec 3) (o : Reg) (wd : Width) (f : AtomForm) (s : State) : Res :=
  issue (.afadd d b o wd f) s (fun s => atomicBody (.afadd d b o wd f) b o (fun l => [s.ov d l]) [d.toNat] s)
/-- AXADD: width 0b010 adds FP32, 0b011 INT32, one register either way (Table 8-5). -/
def execAxadd (d : Reg) (b : BitVec 3) (o : Reg) (wd : Width) (f : AtomForm) (s : State) : Res :=
  issue (.axadd d b o wd f) s (fun s => atomicBody (.axadd d b o wd f) b o (fun l => [s.ov d l]) [d.toNat] s)
/-- AXRD reads no data operand and returns the cell's value (R92). -/
def execAxrd (d : Reg) (b : BitVec 3) (o : Reg) (wd : Width) (f : AtomForm) (s : State) : Res :=
  issue (.axrd d b o wd f) s (fun s => atomicBody (.axrd d b o wd f) b o (fun _ => []) [] s)

end Sys2Proof.Machine
end

