-- ==== Sys2Proof/Machine/SyncInstr.lean ====
section
/-! DEFINITION. Barriers, item deques, bound cells, batches and fences (R238 to R243, Table 8-6). -/

namespace Sys2Proof.Machine

/-! ### Barriers (R239) -/

/-- An index at or above the length of the team's barrier list is illegal (R238). -/
def withBarrier (s : State) (i : BitVec 3) (f : Nat → State) : State :=
  match barPa s s.cur.rd.launch s.cur.rd.team i.toNat with
  | none => illegal s
  | some pa => f pa

/-- BARI (R239). -/
def execBari (a : Reg) (i : BitVec 3) (s : State) : Res :=
  issue (.bari a i) s (fun s =>
    withBarrier s i (fun pa =>
      let v := (s.os a).v
      if v < 1 ∨ 1024 < v then illegal s
      else
        let s := touch s (barBanks s.cur.rd.core pa)
        let b := readBar s pa
        let p := (b.phase + 1) % 2 ^ 16
        releaseBar (writeBar s pa { b with expect := v, arrived := 0, phase := p, epoch := (b.epoch + 1) % 2 ^ 12 })
          s.cur.rd.launch s.cur.rd.team i p))

/-- The words of its chain that follow the word that issues. -/
def wordsAfter (s : State) : Nat := if nextPc s.cur.wpc = s.cur.next then 0 else if nextPc (nextPc s.cur.wpc) = s.cur.next then 1 else 2
/-- A lane that the word makes wait keeps its PC at that word (R23, R42), and runs on after the chain (log entry 15). -/
def park (s : State) (o : WaitOn) (x : Lane) : Lane := { x with pc := s.cur.wpc, st := .wait o (wordsAfter s) }
/-- A lane waits for a phase that is not reached (R160). -/
def waitLane (s : State) (i : BitVec 3) (pa l v : Nat) : State :=
  if phaseMet (readBar s pa).phase v then s
  else s.upG (fun g => g.setLane l (park s (.barrier i (BitVec.ofNat 16 v))))
def execBarw (a : Reg) (i : BitVec 3) (s : State) : Res :=
  issue (.barw a i) s (fun s =>
    withBarrier s i (fun pa =>
      acquire ((lanesOf s.cur.mask).foldl (fun s l => waitLane s i pa l ((s.ov a l).v % 2 ^ 16)) (touch s (barBanks s.cur.rd.core pa)))
        s.cur.h .team))

/-- One lane arrives and receives the phase that it may wait for (R239). -/
def arriveWith (d : Reg) (i : BitVec 3) (pa : Nat) (wait : Bool) (s : State) (l : Nat) : State :=
  let v := ((readBar s pa).phase + 1) % 2 ^ 16
  let s := (arriveLane s s.cur.h i l).upG (fun g => g.setV d.toNat l (VCell.exact v))
  if wait then waitLane s i pa l v else s
def execBaraw (d : Reg) (i : BitVec 3) (s : State) : Res :=
  issue (.baraw d i) s (fun s =>
    withBarrier s i (fun pa =>
      acquire ((lanesOf s.cur.mask).foldl (arriveWith d i pa true) (release s s.cur.h .team)) s.cur.h .team))
def execBard (d : Reg) (i : BitVec 3) (s : State) : Res :=
  issue (.bard d i) s (fun s =>
    withBarrier s i (fun pa => (lanesOf s.cur.mask).foldl (arriveWith d i pa false) (release s s.cur.h .team)))
def execBardDrop (i : BitVec 3) (s : State) : Res :=
  issue (.bardDrop i) s (fun s =>
    withBarrier s i (fun _ => (lanesOf s.cur.mask).foldl (fun s l => dropLane s s.cur.h i l) s))

/-! ### Item deques (R240) -/

/-- Lanes whose pair has a nonzero bound raise BNDLOSS (R240, R241), except in supervisor mode (R318). -/
def pairLoss (s : State) (r : Reg) : List (Nat × EB) :=
  if s.cur.rd.sp.sv then []
  else ((lanesOf s.cur.mask).map (fun l => (l, (s.opair r l).eb))).filter (fun x => decide (x.2 ≠ 0))
def lossTrap (s : State) (ls : List (Nat × EB)) : State :=
  deferredTrap s 0x21 (breachBound ((ls.head?.map (·.2)).getD 0)) (maskOf (ls.map (·.1))) 0

/-- One lane of DQPUSH. The group's earlier takes from the deque come before it. -/
def pushLane (p : BitVec 3) (a : Reg) (s : State) (l : Nat) : State :=
  let (t, ok) := pushItem s s.cur.rd.launch s.cur.rd.core (BitVec.ofNat 64 (s.opair a l).v)
  t.upG (fun g => g.setP p.toNat l (mkPred ok false))
def execDqpush (p : BitVec 3) (a : Reg) (s : State) : Res :=
  issue (.dqpush p a) s (fun s =>
    match pairLoss s a with
    | [] => (lanesOf s.cur.mask).foldl (pushLane p a) (takesBefore s s.cur.h s.ids (fun c => decide (c = s.cur.rd.core)))
    | ls => lossTrap s ls)
/-- DQPOP and DQSTEAL leave the pair and the predicate outstanding. -/
def execDqpop (d : Reg) (p : BitVec 3) (s : State) : Res :=
  issue (.dqpop d p) s (fun s => addEntry s s.cur.h (newEntry s (.dqpop d p) s.cur.mask 0 [] []))
def execDqsteal (d a : Reg) (p : BitVec 3) (s : State) : Res :=
  issue (.dqsteal d a p) s (fun s =>
    addEntry s s.cur.h (newEntry s (.dqsteal d a p) s.cur.mask (BitVec.ofNat 64 (s.os a).v) [] []))

/-! ### Bound cells (R241) -/

/-- The cell at sa: its physical address, or the state after its trap. A recoverable fault is NOTPRES for BNDMIN (R354), and for BNDRD too, which
R354 does not name and R241 sends through step 4 of R228 (DESIGN CHOICE, log entry 43); a cell outside HBM4, the Tarn and LPDDR6, or in a
POND page, is NOPERM. -/
def cellAt (s : State) (va : Nat) (k : AccKind) : State ⊕ (State × Nat) :=
  let x := issueCtx s
  let dm := dataMatch s true (decide (k = .rw)) [(s.cur.mask, va)]
  if dm.1 ≠ 0 then .inl (debugTrap s dm.1 dm.2)
  else
    let (t, r) := laneAccess s x none k 8 va
    let fail := fun (c : Nat) =>
      Sum.inl (deferredTrap (keepRecords s t x.core) c (vaTok c va).toNat s.cur.mask s.cur.mask.toNat)
    match r with
    | .fail c => fail c
    | .recov _ _ _ => fail 2
    | .ok a =>
      let fits : Bool := match pmem a.pa with | .hbm _ => true | .tarn => true | .lpddr => true | _ => false
      if fits && decide (pteHome a.attr.toNat ≠ 3) then .inr (t, a.pa) else fail 3

/-- Every lane's value is applied in ascending order, after the group's earlier accesses to the cell. -/
def minBody (a b : Reg) (dev : Bool) (s : State) : State :=
  match pairLoss s b with
  | [] =>
    match cellAt s (s.os a).v .rw with
    | .inl t => t
    | .inr (t, pa) =>
      let u := (reportErrors (forceBefore t t.cur.h t.ids [sectorOf pa]) (whoOf s s.cur.h) true s.cur.wpc [] [⟨pa, (s.os a).v, 0, none⟩]).1
      dropL1 ((lanesOf s.cur.mask).foldl (fun u l => applyMin u s.cur.rd.core pa dev (s.opair b l).v) u) s.cur.rd.core [sectorOf pa]
  | ls => lossTrap s ls
def execBndminCl (a b : Reg) (s : State) : Res := issue (.bndminCl a b) s (minBody a b false)
def execBndminDev (a b : Reg) (s : State) : Res := issue (.bndminDev a b) s (minBody a b true)
def execBndrd (d a : Reg) (s : State) : Res :=
  issue (.bndrd d a) s (fun s =>
    let v := (s.os a).v
    match cellAt s v .read with
    | .inl t => t
    | .inr (t, pa) =>
      addEntry t t.cur.h
        (newEntry t (.bndrd d a) s.cur.mask (BitVec.ofNat 64 v) [(512, VCell.exact pa), (513, VCell.exact (pa / 2 ^ 32))] []))

/-! ### Batches and fences (R242, R243) -/

/-- BATCH (R136). -/
def execBatch (s : State) : Res :=
  issue .batch s (fun s => s.upG (fun g => { g with ctl := { g.ctl with closed := g.ctl.closed + 1 } }))

/-- A 32-bit difference is zero or negative. -/
def notAfter (x y : Word) : Bool := (x - y).msb || decide (x = y)
/-- The group's unfinished copy tasks in closed batches that WAITB n waits for; WAITB 0 waits for nothing (R137). -/
def waitsFor (s : State) (n : Word) : Bool :=
  let g := s.cur.rd
  decide (n ≠ 0) && s.work.tasks.any (fun t =>
    decide (t.h = s.cur.h) && decide (t.launch = g.launch) && decide (t.team = g.team) &&
    (match t.batch with | some m => ahead n m && notAfter m g.ctl.closed | none => false))
/-- WAITB (R137, R138): it waits for the copy tasks of its closed batches, fails as a commit point on a record that it covers, before every
other fault of its own (R116), and acquires; a batch that is not closed is illegal. -/
def execWaitb (a : Reg) (s : State) : Res :=
  issue (.waitb a) s (fun s =>
    let n : Word := BitVec.ofNat 32 (s.os a).v
    let closed := ahead s.cur.rd.ctl.closed n
    if closed && waitsFor s n then stall s 0
    else
      match lowestRec (coveredBy n s.curG.ctl.fails) with
      | none => if closed then acquire s s.cur.h .dev else illegal s
      | some r =>
        deferredTrap (s.upG (fun g => { g with ctl := { g.ctl with fails := consume n g.ctl.fails } }))
          r.cause.toNat r.payload.toNat s.cur.mask r.va.toNat)

/-- FENCE: a release, and an acquire, at its scope (R144, R243). -/
def execFence (sc : Scope) (s : State) : Res :=
  issue (.fence sc) s (fun s => acquire (release s s.cur.h sc) s.cur.h sc)
/-- IFENCE discards the core's fetched words (R149, R243). -/
def execIfence (s : State) : Res :=
  issue .ifence s (fun s => s.modCore s.cur.rd.core (fun c => { c with fetched := [] }))

end Sys2Proof.Machine
end

