-- ==== Sys2Proof/Machine/CheckInstr.lean ====
section
/-! DEFINITION. Checks and poison tools (R266 to R271), regions and budget (R272 to R274), time (R275 to R277). -/

namespace Sys2Proof.Machine

/-! ### Checks -/

/-- CHK has no effect once its registers pass R115 (R267). -/
def execChk (a : Reg) (s : State) : Res := issue (.chk a) s id
def execChkTwoRegisters (a b : Reg) (s : State) : Res := issue (.chkTwoRegisters a b) s id
def execChkU (a : Reg) (s : State) : Res := issue (.chkU a) s id
/-- CHKP (R268). -/
def execChkp (p : BitVec 3) (amb : Bool) (s : State) : Res := issue (.chkp p amb) s id

/-- The test of PTEST in a lane (R269). -/
def ptestLane (s : State) (a : Reg) (m : PtMode) (l : Nat) : Bool :=
  let over' := fun (o : Opd) => o.tok.isSome || !ebFits o.eb s.cur.rd.sp.ebud
  match m with
  | .plain => (s.ov a l).tok.isSome
  | .bud => over' (s.ov a l)
  | .p => pPois (s.cur.rd.p (a.toNat % 8) l)
  | .u => (s.os a).tok.isSome
  | .ubud => over' (s.os a)
def execPtest (p : BitVec 3) (a : Reg) (m : PtMode) (s : State) : Res :=
  issue (.ptest p a m) s (fun s => predOp s p (fun l => mkPred (ptestLane s a m l) false))

/-- The token's payload as clean data (R270). -/
def tokData (o : Opd) : Nat := match o.tok with | some t => t.toNat | none => 0
def execPcode (d a : Reg) (m : PcMode) (s : State) : Res :=
  issue (.pcode d a m) s (fun s =>
    match m with
    | .plain => vecOp s d (fun l => ⟨VCell.exact (tokData (s.ov a l)), 0⟩)
    | .p => vecOp s d (fun l =>
        let b := s.cur.rd.p (a.toNat % 8) l
        ⟨VCell.exact (if pPois b then pCode b * 2 ^ 27 else 0), 0⟩)
    | .u => uniOp s d [] (SCell.exact (tokData (s.os a))))
/-- PSET writes a SOFT token in the lanes that the predicate selects, or the predicate's token (R271). -/
def execPset (d : Reg) (n : BitVec 3) (sense : Bool) (s : State) : Res :=
  issue (.pset d n sense) s (fun s =>
    let cells := (lanesOf s.cur.mask).filterMap (fun l =>
      let q := s.op n l
      if pPois q then some (l, VCell.tok (selTok s q))
      else if selFirst q sense then some (l, VCell.tok (mkTok 31 s.pk)) else none)
    (s.upG (fun g => g.setVs d.toNat cells)).bump s.cur.h 0x13 cells.length)

/-! ### Regions and budget -/

/-- ENTER (R273). -/
def execEnter (i : BitVec 12) (s : State) : Res :=
  issue (.enter i) s (fun s =>
    if i = 0 then illegal s
    else if s.curG.sp.regions.length < 16 then
      regionEdge (traceRegion (s.upG (fun g => { g with sp := { g.sp with regions := (i, g.sp.ebud) :: g.sp.regions } }))
        s.cur.h 1 s.cur.wpc)
    else
      regionEdge (traceRegion (s.upG (fun g =>
        { g with sp := { g.sp with ovf := if g.sp.ovf.toNat < 2047 then g.sp.ovf + 1 else g.sp.ovf } })) s.cur.h 3 s.cur.wpc))
/-- LEAVE (R273). -/
def execLeave (i : BitVec 16) (s : State) : Res :=
  issue (.leave i) s (fun s =>
    if s.curG.sp.ovf ≠ 0 then
      regionEdge (traceRegion (s.upG (fun g => { g with sp := { g.sp with ovf := g.sp.ovf - 1 } })) s.cur.h 4 s.cur.wpc)
    else
      match s.curG.sp.regions with
      | [] => illegal s
      | (id, e) :: t =>
        if i ≠ 0 ∧ i.toNat ≠ id.toNat then illegal s
        else
          regionEdge (traceRegion (s.upG (fun g => { g with sp := { g.sp with regions := t, ebud := e } })) s.cur.h 2 s.cur.wpc))
/-- EBSET lowers EBUD (R274, R107). -/
def execEbset (i : BitVec 16) (s : State) : Res :=
  issue (.ebset i) s (fun s =>
    s.upG (fun g => { g with sp := { g.sp with ebud := if i.toNat < g.sp.ebud.toNat then i else g.sp.ebud } }))
def execEbrd (d : Reg) (s : State) : Res :=
  issue (.ebrd d) s (fun s => uniOp s d [] (SCell.exact s.cur.rd.sp.ebud.toNat))

/-! ### Time -/

def execClock (d : Reg) (s : State) : Res :=
  issue (.clock d) s (fun s => uniOp s d [] (SCell.exact s.cur.rd.sp.ctxclk.toNat))
def execClockV (d : Reg) (s : State) : Res :=
  issue (.clockV d) s (fun s => vecOp s d (fun _ => ⟨VCell.exact s.cur.rd.sp.ctxclk.toNat, 0⟩))
/-- WALL is outstanding until its read reaches the counter (R276). -/
def execWall (d : Reg) (s : State) : Res :=
  issue (.wall d) s (fun s => addEntry s s.cur.h (newEntry s (.wall d) s.cur.mask 0 [] []))
def execWallV (d : Reg) (s : State) : Res :=
  issue (.wallV d) s (fun s => addEntry s s.cur.h (newEntry s (.wallV d) s.cur.mask 0 [] []))

/-- Whether a timer's deadline is reached (R277). CTXCLK counts one by one, so that it reaches its deadline where it equals it: of a sum that
passes 64 bits, once it has wrapped. -/
def timerDue (s : State) (g : Group) (t : TimerSel) : Bool :=
  let x := timerOf g t
  x.armed && (match t with | .cyc => decide (x.deadline = g.sp.ctxclk) | .wall => decide (x.deadline.toNat ≤ wallOf s g))
/-- A firing in the cycle of a TIMER issue counts as before it (R277). -/
def settleTimer (s : State) (t : TimerSel) : State :=
  s.upG (fun g => if timerDue s g t then fireTimer g t else g)

/-- TIMER, arm form: 0 disarms (R277). -/
def execTimer (a : Reg) (t : TimerSel) (s : State) : Res :=
  issue (.timer a t) s (fun s =>
    let s := settleTimer s t
    let v := (s.os a).v
    s.upG (fun g => setTimer g t
      { armed := decide (v ≠ 0), fired := false,
        deadline := BitVec.ofNat 64 (match t with | .cyc => g.sp.ctxclk.toNat + v | .wall => v) }))
def execTimerWait (t : TimerSel) (s : State) : Res :=
  issue (.timerWait t) s (fun s =>
    let s := settleTimer s t
    let x := timerOf s.curG t
    if x.fired then s.upG (fun g => setTimer g t { timerOf g t with fired := false })
    else if x.armed then
      s.upG (fun g => (lanesOf s.cur.mask).foldl (fun g l => g.setLane l
        (park s (match t with | .cyc => .cycTimer | .wall => .wallAlarm))) g)
    else s)
def execTimerPoll (p : BitVec 3) (t : TimerSel) (s : State) : Res :=
  issue (.timerPoll p t) s (fun s =>
    let s := settleTimer s t
    let f := (timerOf s.curG t).fired
    (predOp s p (fun _ => mkPred f false)).upG (fun g => setTimer g t { timerOf g t with fired := false }))

end Sys2Proof.Machine
end

