-- ==== Sys2Proof/Machine/Engine.lean ====
section
/-! DEFINITION. Engine tasks: descriptors (R245 to R248), block products and their bounds (R82 to R85, R88, R102, R109), what each
task computes from its inputs (R255 to R263), and what a finished task leaves (R80, R138, R253). -/

namespace Sys2Proof.Machine

/-! ### Descriptors (Table 9-1) -/

def dKind (d : BitVec 128) : Bool := d.getLsbD 127
def dFmt (d : BitVec 128) : Fmt := fmtOf (d.extractLsb' 124 3)
def dRows (d : BitVec 128) : Nat := (d.extractLsb' 113 11).toNat
def dCols (d : BitVec 128) : Nat := (d.extractLsb' 102 11).toNat
def dVrows (d : BitVec 128) : Nat := (d.extractLsb' 91 11).toNat
def dVcols (d : BitVec 128) : Nat := (d.extractLsb' 80 11).toNat
def dStride (d : BitVec 128) : Nat := (d.extractLsb' 58 22).toNat
def dAddr (d : BitVec 128) : Nat := (d.extractLsb' 0 57).toNat
/-- Element bits. -/
def dWidth (d : BitVec 128) : Nat := (dFmt d).width
/-- Bytes of a row, and the address of row r (R245). -/
def rowBytes (d : BitVec 128) : Nat := dCols d * dWidth d / 8
def rowAddr (d : BitVec 128) (r : Nat) : Nat := dAddr d + 32 * dStride d * r
def lastByte (d : BitVec 128) : Nat := rowAddr d (dRows d - 1) + rowBytes d - 1

/-- The requirements of R246 that every descriptor meets, in an allocation of n tiles. The rule's list has no upper limit for ROWS and COLS, of
which Table 9-1 says 1 to 1024: 1025 to 2047 are accepted (DESIGN CHOICE, log entry 11). -/
def descOk (n : Nat) (d : BitVec 128) : Bool :=
  decide (1 ≤ dRows d) && decide (1 ≤ dCols d) && decide (dVrows d ≤ dRows d) && decide (dVcols d ≤ dCols d) &&
  decide (dAddr d % 32 = 0) && decide (dCols d * dWidth d % 8 = 0) &&
  (decide (dRows d ≤ 1) || (decide (1 ≤ dStride d) && decide (rowBytes d ≤ 32 * dStride d))) &&
  (dKind d || (decide (dAddr d < 2 ^ 22) && decide (lastByte d < n * 0x8000)))
/-- The tile set (R247). -/
def tileSet (d : BitVec 128) : List Nat :=
  if dKind d then []
  else (List.range (lastByte d / 0x8000 + 1 - dAddr d / 0x8000)).map (fun i => dAddr d / 0x8000 + i)
/-- Overlap, and identical regions (R248). -/
def overlap (x y : BitVec 128) : Bool :=
  !dKind x && !dKind y && decide (dAddr x ≤ lastByte y) && decide (dAddr y ≤ lastByte x)
def sameRegion (x y : BitVec 128) : Bool :=
  decide (dAddr x = dAddr y) && decide (dStride x = dStride y) && decide (dRows x = dRows y) && decide (dCols x = dCols y) &&
  decide (dWidth x = dWidth y)

/-! ### Sectors of an operand -/

/-- A sector as a task reads it: 256 bits with their bound, or a token. -/
abbrev SecIn := Opd
/-- Sectors that hold n elements of w bits from the start of a row. -/
def secsOf (w n : Nat) : Nat := (n * w + 255) / 256
/-- An element of a row from the row's sectors. -/
def elemIn (w : Nat) (secs : List SecIn) (c : Nat) : Opd :=
  let o := secs.getD (c * w / 256) ⟨0, 0, none⟩
  { o with v := o.v / 2 ^ (c * w % 256) % 2 ^ w }
/-- A sector of the team's pond (R111: the origin of a token is the pond byte address). -/
def pondSector (m : MemSt) (t : Team) (a : Nat) : SecIn := readElem m (teamPond t a) a 32 true
/-- A row of n elements in the pond. -/
def pondRow (m : MemSt) (t : Team) (d : BitVec 128) (r n : Nat) : List Opd :=
  let secs := (List.range (secsOf (dWidth d) n)).map (fun k => pondSector m t (rowAddr d r + 32 * k))
  (List.range n).map (elemIn (dWidth d) secs)

/-- What identifies a task to translation and to the race detector (R151). A task that was issued in supervisor mode has user rights too, and
its bounds are checked: R318 speaks of accesses and commit points, not of tasks (DESIGN CHOICE, log entry 11). -/
def taskCtx (t : Task) : Ctx := ⟨t.h, t.core, t.tag.toNat, false, t.pc⟩
def taskWriter (s : State) (t : Task) : Writer :=
  ⟨t.launch, t.team, t.gid, match Tb.get? s.work.groups t.h with | some g => g.handle | none => t.h, t.interval⟩
/-- Whether the detector checks an access of a task. -/
def taskRace (t : Task) (attr : BitVec 16) : Bool := pteRc attr.toNat && t.lflags.getLsbD 1

/-- An access of a task to its team's pond, at the pond byte address that its token would name (R111). -/
def pondAcc (tm : Team) (a : Nat) : LaneAcc := ⟨teamPond tm a, a, 0, none⟩
/-- A task as an accessor: its function is its launch's (R424, R431). -/
def taskWho (s : State) (t : Task) : Accessor := ⟨s.funcOf t.launch, t.tag.toNat, t.h⟩
/-- Count n events of a code for a task (R424, R425). -/
def taskCount (s : State) (t : Task) (ev n : Nat) : State :=
  if n = 0 then s else s.count t.core (s.funcOf t.launch) ev n (some (t.launch, t.team))
/-- Accesses of a task that meet errors: each gives a token where it reads (event 0x13), and each line that is not among `met` one record
(R431). -/
def meetErrors (s : State) (t : Task) (wr : Bool) (met : List Nat) (as : List LaneAcc) : State × List Nat :=
  let n := (as.filter (fun a => (s.mem.err a.pa).isSome)).length
  reportErrors (if wr then s else taskCount s t 0x13 n) (taskWho s t) wr t.pc met as
/-- The core accepts a task's request for a sector of memory: the access with its translation, or the code of the token where it fails; a page
that is not present gives NOTPRES (R259, R365). -/
def acceptRead (s : State) (t : Task) (a : Nat) : State × (LaneAcc ⊕ Nat) :=
  match translate s (taskCtx t) a .read with
  | (s, .fault c) => (s, .inr c)
  | (s, .recov _ _ _) => (s, .inr 2)
  | (s, .ok pa attr) => (s, .inl ⟨pa, a, attr, none⟩)
/-- A sector of memory that cannot be read gives its token (R259). -/
def tokenSector (s : State) (t : Task) (c a : Nat) : State × SecIn := (taskCount s t 0x13 1, ⟨0, ebPoison, some (vaTok c a)⟩)
/-- An accepted sector is read, with the access made; the race detector tests it as its data are read (R151). -/
def readAccepted (s : State) (t : Task) (p : LaneAcc) : State × SecIn × List LaneAcc :=
  if taskRace t p.attr && raceTest s p.pa (taskWriter s t) false then
    let (s, x) := tokenSector (taskCount s t 0x15 1) t 6 p.va
    (s, x, [])
  else (s, readElem s.mem p.pa p.va 32 (keepsBnd p.pa p.attr), [p])
/-- A sector that a task reads, in the pond or in memory, with the access made. -/
def readSector (s : State) (t : Task) (tm : Team) (kind : Bool) (a : Nat) : State × SecIn × List LaneAcc :=
  if !kind then (s, pondSector s.mem tm a, [pondAcc tm a])
  else
    match acceptRead s t a with
    | (s, .inr c) => let (s, x) := tokenSector s t c a; (s, x, [])
    | (s, .inl p) => readAccepted (touch s (banksAt t.core false p.pa)) t p
/-- Some sectors one after another. -/
def readEach (t : Task) (tm : Team) (kind : Bool) : State → List Nat → State × List SecIn × List LaneAcc
  | s, [] => (s, [], [])
  | s, a :: as =>
    let (s, x, p) := readSector s t tm kind a
    let (s, xs, ps) := readEach t tm kind s as
    (s, x :: xs, p ++ ps)
/-- Some sectors, with the errors that they meet: the lines whose errors the task has met then, and the accesses made. -/
def readSectors (t : Task) (tm : Team) (kind : Bool) (met : List Nat) (s : State) (as : List Nat) :
    State × List SecIn × List Nat × List LaneAcc :=
  let (s, xs, ps) := readEach t tm kind s as
  let (s, met) := meetErrors s t false met ps
  (s, xs, met, ps)
/-- A row of n elements, wherever it lies, with the sectors of memory read for it. -/
def readRow (s : State) (t : Task) (tm : Team) (met : List Nat) (d : BitVec 128) (r n : Nat) : State × List Opd × List Nat × List Nat :=
  let (s, secs, met, ps) := readSectors t tm (dKind d) met s ((List.range (secsOf (dWidth d) n)).map (fun k => rowAddr d r + 32 * k))
  (s, (List.range n).map (elemIn (dWidth d) secs), met, if dKind d then ps.map (fun p => sectorOf p.pa) else [])

/-! ### Sectors written -/

/-- A number whose w-bit digits these are. -/
def packElems (w : Nat) : List Nat → Nat
  | [] => 0
  | x :: t => x % 2 ^ w + 2 ^ w * packElems w t

/-- The writes of one sector at a physical address. A last byte of which only one nibble is written keeps the other nibble, and
is not a byte written whole (R245, R119). -/
def secWrite (m : MemSt) (w : Nat) (bnd : Bool) (pa : Nat) (o : SecOut) : List SectorW :=
  let v := packElems w o.elems
  let nbits := w * o.elems.length
  let whole := nbits / 8
  let bytes := (toBytes whole v).zip (List.range whole) |>.map (fun x => (x.2, x.1))
  let mk := fun (b : List (Nat × Byte)) => (⟨pa, b, if o.tok.isSome then 0 else o.eb, o.tok, bnd⟩ : SectorW)
  if nbits % 8 = 0 then (if bytes = [] then [] else [mk bytes])
  else
    let last : Nat × Byte := (whole, BitVec.ofNat 8 (v / 2 ^ (8 * whole) % 16 + (m.byte (pa + whole)).toNat / 16 * 16))
    if whole = 31 then [mk bytes, mk [last]] else [mk (bytes ++ [last])]

/-- Split a row's results into sectors; `eb` combines the bounds of a sector's elements. -/
def rowOut (w : Nat) (eb : List Opd → EB) (es : List Opd) : List SecOut :=
  let per := 256 / w
  (List.range (secsOf w es.length)).map (fun k =>
    let xs := (es.drop (per * k)).take per
    ⟨xs.map (·.v), eb xs, firstTok xs⟩)
/-- The bound of a sector is the largest of its elements'. -/
def maxEbOf (xs : List Opd) : EB := ebMaxL ((xs.filter (fun o => o.tok.isNone)).map (·.eb))
/-- The writes of a row in the pond. -/
def pondWrites (m : MemSt) (t : Team) (d : BitVec 128) (r : Nat) (os : List SecOut) : List SectorW :=
  (os.zip (List.range os.length)).flatMap (fun o => secWrite m (dWidth d) true (teamPond t (rowAddr d r + 32 * o.2)) o.1)

/-! ### Block products (R82 to R85, R88) -/

/-- Significand and exponent of a block element: a BF16 significand is multiplied by 8 (R84). -/
def sigOf (f : Fmt) (x : Nat) : Ex :=
  let d := fpDecode f x
  if f = .bf16 then ⟨d.neg, d.n * 8, d.e - 3⟩ else d
def isHalf (f : Fmt) : Bool := decide (f = .f16) || decide (f = .bf16)
/-- The window w of a variant (Table 3-5), and whether it drops low product bits. -/
def blockW (f : Fmt) (v : Vari) : Nat :=
  match v with
  | .full => if isHalf f then 8 else 12
  | .trunc => if isHalf f then 8 else 12
  | _ => if isHalf f then 0 else 4
def blockDrop (v : Vari) : Bool := decide (v = .trunc) || decide (v = .lean)

/-- The result of a block: value, flags, increment, and whether the result is NaN, infinite or wrapped. -/
structure BlockOut where
  bits : Nat
  flags : BitVec 5
  inc : EB
  big : Bool
  deriving DecidableEq, Repr

/-- Products of a block whose operands are finite. -/
def blockProds (fa fb : Fmt) (xs : List (Nat × Nat)) : List Ex :=
  (xs.filter (fun x => (fvOf fa x.1).isFin && (fvOf fb x.2).isFin)).map (fun x => (sigOf fa x.1).mul (sigOf fb x.2))
/-- emax: the largest exponent among nonzero products. -/
def blockEmax (ps : List Ex) : Option Int :=
  (ps.filter (fun p => decide (p.n ≠ 0))).foldl (fun b p =>
    match b with | none => some p.e | some e => some (if e < p.e then p.e else e)) none

/-- fp8_block of R82 with the changes of R84, for finite operands with a nonzero product. -/
def blockSum (f : Fmt) (v : Vari) (ps : List Ex) (emax : Int) (acc : Nat) : BlockOut :=
  let w := blockW f v
  let dm := if isHalf f then 256 else 4
  let terms := ps.map (fun p =>
    let d := if blockDrop v then p.n % dm else 0
    let (q, r, _) := scaleQ (p.n - d) 1 (p.e - emax + w)
    ((if p.neg then -(q : Int) else q), decide (r ≠ 0), (⟨false, d, p.e⟩ : Ex)))
  let sum : Int := (terms.map (·.1)).sum
  let k := (terms.filter (·.2.1)).length
  let tau : Ex := terms.foldl (fun (t : Ex) x => t.add x.2.2) ⟨false, k, emax - w⟩
  let r := fpRoundEx .f32 .rn ((fpDecode .f32 acc).add ⟨decide (sum < 0), sum.natAbs, emax - w⟩)
  let inc := if r.nx then tau.add ⟨false, 1, ulpExp .f32 r.bits - 1⟩ else tau
  ⟨r.bits, r.flags ||| (if tau.n ≠ 0 then flNX else 0), if r.ovf then ebInf else ebUpQ inc.n 1 inc.e, r.ovf⟩

/-- A floating-point block with the special values of R83. -/
def fpBlock (v : Vari) (fa fb : Fmt) (xs : List (Nat × Nat)) (acc : Nat) : BlockOut :=
  let c := fvOf .f32 acc
  let nan := fun (fl : BitVec 5) => (⟨Fmt.nan .f32, fl, ebInf, true⟩ : BlockOut)
  let qs := xs.map (fun x => (fvOf fa x.1).mul (fvOf fb x.2))
  let infs := qs.filterMap (fun q => match q.1 with | .inf n => some n | _ => none)
  if c = .nan ∨ xs.any (fun x => isNaN fa x.1 || isNaN fb x.2) = true then nan 0
  else if qs.any (fun q => decide (q.2 ≠ 0)) then nan flNV
  else if infs.contains true ∧ infs.contains false then nan flNV
  else
    match infs with
    | n :: _ =>
      let r := (FV.inf n).add c
      (match r.1 with
       | .inf n => ⟨Fmt.infEnc .f32 + (if n then 2 ^ 31 else 0), r.2, ebInf, true⟩
       | _ => nan r.2)
    | [] =>
      if c.isFin = false then ⟨acc, 0, ebInf, true⟩
      else
        let ps := blockProds fa fb xs
        match blockEmax ps with
        | none => ⟨acc, 0, 0, false⟩
        | some e => blockSum fa v ps e acc

/-- An integer block (R85). -/
def intBlock (fa fb : Fmt) (xs : List (Nat × Nat)) (acc : Nat) : BlockOut :=
  let t := signed 32 acc + (xs.map (fun x => intElem fa x.1 * intElem fb x.2)).sum
  let big := decide (t < -(2 : Int) ^ 31) || decide ((2 : Int) ^ 31 - 1 < t)
  ⟨wrap 32 t, 0, if big then ebInf else 0, big⟩

/-! ### Bounds of a cell (R102, R109) -/

/-- The magnitude Σ|x| of a run of elements, none where an element is NaN or infinite. -/
def magSum (f : Fmt) (xs : List Nat) : Option Ex :=
  xs.foldl (fun t x =>
    match t with
    | none => none
    | some m =>
      if f.isFloat then (match fvOf f x with | .fin e => some (m.add { e with neg := false }) | _ => none)
      else some (m.add ⟨false, (intElem f x).natAbs, 0⟩)) (some ⟨false, 0, 0⟩)
/-- eb_mul_mag with a magnitude that may be +∞. -/
def mulMag (m : Option Ex) (e : EB) : EB :=
  match m with
  | some m => ebMulMag m.n m.e e
  | none => if e = 0 then 0 else ebInf

/-- What one row of A, or one row of B, brings to a step: its elements, the largest bound and the magnitude. -/
structure Side where
  bits : List Nat
  bound : EB
  mag : Option Ex
  deriving DecidableEq, Repr

/-- The elements of a step; those from position `n` on are masked in A or in B and count in nothing. -/
def sideOf (f : Fmt) (xs : List Opd) (n : Nat) : Side :=
  let live := xs.take n
  let zero := fun (k : Nat) => List.replicate k 0
  ⟨live.map (·.v) ++ zero (xs.length - n),
   ebMaxL (live.map (fun o => ebMax o.eb (in4 f o.v))), magSum f (live.map (·.v))⟩

/-- The input term of R102; n is |K|. -/
def cellIn (n : Nat) (a b : Side) : EB :=
  let kab := if n * ebNat a.bound = 0 ∨ b.bound = 0 then 0
    else if ebBig a.bound || ebBig b.bound then ebInf else ebUpQ (n * ebNat a.bound * ebNat b.bound) 1 (-314)
  let kab := if n ≠ 0 ∧ ebBig a.bound = true ∧ b.bound ≠ 0 then ebInf else kab
  ebAdd (ebAdd (mulMag a.mag b.bound) (mulMag b.mag a.bound)) kab

/-- What Table 4-5 has ê take beside exp(c) + 1. -/
def predTop (f : Fmt) (e : Int) : Int := if isHalf f then e + 25 else e + 12
/-- eb_up(I(V)) of Table 4-5 for an emax and an ê. -/
def predUp (f : Fmt) (v : Vari) (e h : Int) : EB :=
  let half := isHalf f
  let cut := decide (v = .short) || decide (v = .lean)
  let tau : Int := if cut then (if half then e + 3 else e) else if half then e - 5 else e - 8
  let dmax : Nat := if blockDrop v then (if half then 2040 else 48) else 0
  let x := ((⟨false, 1, tau⟩ : Ex).add ⟨false, dmax, e⟩).add ⟨false, 1, h - 24⟩
  ebUpQ x.n 1 x.e
/-- eb_up(I(V)) of a cell; 0 without a nonzero product. -/
def predInc (f : Fmt) (v : Vari) (emax : Option Int) (acc : Nat) : EB :=
  match emax with
  | none => 0
  | some e => predUp f v e (max (predTop f e) (fpExp .f32 acc + 1))
/-- The least that it can be, whatever exp(c) is. -/
def predLow (f : Fmt) (v : Vari) (emax : Option Int) : EB :=
  match emax with
  | none => 0
  | some e => predUp f v e (predTop f e)

/-! ### MMA and MMAG (R255, R256) -/

/-- An output row that is computed: its A row, accumulators and cell bounds. -/
structure MRow where
  i : Nat
  a : List Opd
  acc : List Nat
  cb : List EB
  deriving DecidableEq, Repr

/-- Elements of a block (R254). -/
def blkOf : Fmt → Nat
  | .i4 => 32 | .f16 => 8 | .bf16 => 8 | _ => 16

/-- The first poisoned contribution of a row (R113). -/
def rowToken (a : List Opd) (bs : List (List Opd)) (c : List Opd) (n : Nat) : Option Word :=
  match (List.range n).findSome? (fun k =>
      firstTok ((a.getD k ⟨0, 0, none⟩) :: bs.map (fun b => b.getD k ⟨0, 0, none⟩))) with
  | some t => some t
  | none => firstTok c

/-- The step's elements of a row. -/
def stepElems (xs : List Opd) (k0 blk : Nat) : List Opd :=
  (List.range blk).map (fun i => xs.getD (k0 + i) ⟨0, 0, none⟩)

/-- The side with the magnitude taken as 0 where an element is NaN: what R102 states of the input term without it. -/
def Side.sure (f : Fmt) (x : Side) : Side := if x.bits.any (isNaN f) then { x with mag := some ⟨false, 0, 0⟩ } else x
/-- Whether R109 leaves the prediction of a cell open (log entry 19): an element is NaN, or the accumulator is special and a product is
nonzero. -/
def predOpen (fa fb : Fmt) (a b : Side) (acc : Nat) (emax : Option Int) : Bool :=
  a.bits.any (isNaN fa) || b.bits.any (isNaN fb) || (fSpecial .f32 acc && emax.isSome)
/-- What the rules do state of an open prediction: it is no smaller than this; n is |K|. -/
def predSure (fa fb : Fmt) (n : Nat) (v : Vari) (a b : Side) (cb : EB) (emax : Option Int) : EB :=
  ebAdd (ebAdd cb (cellIn n (a.sure fa) (b.sure fb))) (predLow fa v emax)
/-- The free bit that says whether the open predictions of a step fit in a variant. -/
def openFits (free : Nat) (v : Vari) : Bool :=
  Config.freeBit (free + (match v with | .lean => 0 | .trunc => 1 | _ => 2))

/-- One block step (R255): the variant (R109), the rows after it, and the flags. -/
def mmaStep (fa fb : Fmt) (k : Cls) (ebud : EB) (free : Nat) (n k0 : Nat) (bs : List (List Opd)) (rows : List MRow) :
    Vari × List MRow × BitVec 5 :=
  let blk := blkOf fa
  let live := min blk (n - k0)
  let int := !fa.isFloat
  let bsd := bs.map (fun b => sideOf fb (stepElems b k0 blk) live)
  let sides := rows.map (fun r => sideOf fa (stepElems r.a k0 blk) live)
  let base := (rows.zip sides).map (fun r => (r.1.cb.zip bsd).map (fun c => ebAdd c.1 (cellIn live r.2 c.2)))
  let fits := fun (v : Vari) =>
    ((rows.zip sides).zip base).all (fun r =>
      (((r.1.1.acc.zip r.1.1.cb).zip bsd).zip r.2).all (fun c =>
        let emax := blockEmax (blockProds fa fb (r.1.2.bits.zip c.1.2.bits))
        if predOpen fa fb r.1.2 c.1.2 c.1.1.1 emax then
          ebFits (predSure fa fb live v r.1.2 c.1.2 c.1.1.2 emax) ebud && openFits free v
        else ebFits (ebAdd c.2 (predInc fa v emax c.1.1.1)) ebud))
  let v : Vari :=
    if int then .full
    else
      match k with
      | .auto => if fits .lean then .lean else if fits .trunc then .trunc else if fits .short then .short else .full
      | k => variOf k
  let outs := ((rows.zip sides).zip base).map (fun r =>
    (r.1.1, ((r.1.1.acc.zip bsd).zip r.2).map (fun c =>
      let xs := r.1.2.bits.zip c.1.2.bits
      let o := if int then intBlock fa fb xs c.1.1 else fpBlock v fa fb xs c.1.1
      (o.bits, if o.big then ebInf else ebAdd c.2 o.inc, o.flags))))
  (v, outs.map (fun o => { o.1 with acc := o.2.map (·.1), cb := o.2.map (·.2.1) }),
   outs.foldl (fun f o => o.2.foldl (fun f x => f ||| x.2.2) f) 0)

/-- All steps of a task, with the number of steps in each variant (FULL, SHORT, TRUNC, LEAN); each takes three free bits. -/
def mmaSteps (fa fb : Fmt) (k : Cls) (ebud : EB) (n : Nat) (bs : List (List Opd)) :
    Nat → List Nat → List MRow → BitVec 5 → List Nat → List MRow × BitVec 5 × List Nat
  | _, [], rows, fl, cnt => (rows, fl, cnt)
  | free, k0 :: ks, rows, fl, cnt =>
    let (v, rows', f) := mmaStep fa fb k ebud free n k0 bs rows
    let i := match v with | .full => 0 | .short => 1 | .trunc => 2 | .lean => 3
    mmaSteps fa fb k ebud n bs (free + 3) ks rows' (fl ||| f) (cnt.modify i (· + 1))

/-- The rows that a task selects: row of A, or the token of a poisoned index (R255, R256). -/
def mmaRow (a : BitVec 128) (idx : Option (List (Nat × VCell))) (rows : Mask) (i : Nat) : Option (Nat ⊕ Word) :=
  match idx with
  | none => if i < dVrows a then some (.inl i) else none
  | some m =>
    if !rows.getLsbD i then none
    else
      let c := Tb.get VCell.zero m i
      if c.eb = ebPoison then some (.inr c.data)
      else if c.data.toNat < dVrows a then some (.inl c.data.toNat) else none

/-- An accumulator of the resident bank as an operand. -/
def bankCell (cells : List (Nat × VCell)) (i j : Nat) : Opd := .ofV (Tb.get VCell.zero cells (32 * i + j))

/-- What an MMA or MMAG task leaves: rows computed, rows poisoned, flags, steps. -/
def mmaRun (m : MemSt) (t : Task) (tm : Team) (bank : Option (List (Nat × VCell))) (free : Nat) (a b c : BitVec 128) (k : Cls)
    (z : Bool) (idx : Option (List (Nat × VCell))) (rows : Mask) : List MRow × List (Nat × Word) × BitVec 5 × List Nat :=
  let nc := min (dVcols c) (dVrows b)
  let n := min (dVcols a) (dVcols b)
  let bs := (List.range nc).map (fun j => pondRow m tm b j n)
  let sel := (List.range (dVrows c)).filterMap (fun i => (mmaRow a idx rows i).map (fun r => (i, r)))
  let ins := sel.map (fun x =>
    match x.2 with
    | .inr w => (x.1, (Sum.inr w : List Opd × List Opd ⊕ Word))
    | .inl r =>
      let av : List Opd := pondRow m tm a r n
      let cv : List Opd := if z then List.replicate nc ⟨0, 0, none⟩
        else match bank with
          | some cells => (List.range nc).map (bankCell cells x.1)
          | none => pondRow m tm c x.1 nc
      match rowToken av bs cv n with
      | some w => (x.1, .inr w)
      | none => (x.1, .inl (av, cv)))
  let good := ins.filterMap (fun x =>
    match x.2 with
    | .inl (av, cv) => some (MRow.mk x.1 av (cv.map (·.v)) (cv.map (·.eb)))
    | .inr _ => none)
  let bad := ins.filterMap (fun x => match x.2 with | .inr w => some (x.1, w) | .inl _ => none)
  if nc = 0 then ([], [], 0, [0, 0, 0, 0])
  else
    let (good, fl, cnt) :=
      mmaSteps (dFmt a) (dFmt b) k t.ebud n bs free ((List.range (dCols a / blkOf (dFmt a))).map (· * blkOf (dFmt a))) good 0
        [0, 0, 0, 0]
    (good, bad, fl, cnt)

/-- The write of a sector that holds no masked column: its bound is the row's, and what lies between its elements and the next
row keeps its bytes (R103). -/
def wholeSector (m : MemSt) (w : SectorW) : SectorW :=
  { w with bytes := (List.range 32).map (fun i => (i, (Tb.get? w.bytes i).getD (m.byte (w.pa + i)))) }
/-- Row bounds (R103) and poisoned rows (R113) of a region of FP32 or INT32 elements, of which the first `nc` columns are valid. -/
def rowsOut (m : MemSt) (tm : Team) (c : BitVec 128) (nc : Nat) (good : List MRow) (bad : List (Nat × Word)) : List SectorW :=
  let whole := fun (w : SectorW) => if dCols c ≤ nc then wholeSector m w else w
  good.flatMap (fun r =>
    let e := ebMaxL r.cb
    (pondWrites m tm c r.i (rowOut 32 (fun _ => e) (r.acc.map (fun v => ⟨v, e, none⟩)))).map whole) ++
  bad.flatMap (fun r => pondWrites m tm c r.1 (rowOut 32 (fun _ => 0) (List.replicate nc ⟨0, ebPoison, some r.2⟩)))
/-- The bank after a task. -/
def bankOut (cells : List (Nat × VCell)) (nc : Nat) (good : List MRow) (bad : List (Nat × Word)) : List (Nat × VCell) :=
  let cells := good.foldl (fun m r => ((r.acc.zip r.cb).zip (List.range nc)).foldl (fun m x =>
    Tb.put m (32 * r.i + x.2) ⟨BitVec.ofNat 32 x.1.1, x.1.2⟩) m) cells
  bad.foldl (fun m r => (List.range nc).foldl (fun m j => Tb.put m (32 * r.1 + j) (VCell.tok r.2)) m) cells

/-! ### Residency (R257) -/

/-- The bank takes the valid elements of dC and their sector bounds. -/
def loadBank (m : MemSt) (tm : Team) (c : BitVec 128) : List (Nat × VCell) :=
  (List.range (dVrows c)).foldl (fun t i =>
    ((pondRow m tm c i (dVcols c)).zip (List.range (dVcols c))).foldl (fun t x =>
      Tb.put t (32 * i + x.2) (match x.1.tok with | some w => VCell.tok w | none => ⟨BitVec.ofNat 32 x.1.v, x.1.eb⟩)) t) []
/-- The bank's valid elements return to dC. -/
def storeBank (m : MemSt) (tm : Team) (c : BitVec 128) (cells : List (Nat × VCell)) : List SectorW :=
  let nc := dVcols c
  let rows := (List.range (dVrows c)).map (fun i => (i, (List.range nc).map (bankCell cells i)))
  rowsOut m tm c nc
    (rows.filterMap (fun r => if (firstTok r.2).isNone then some ⟨r.1, [], r.2.map (·.v), r.2.map (·.eb)⟩ else none))
    (rows.filterMap (fun r => (firstTok r.2).map (fun w => (r.1, w))))

/-! ### TCOPY (R259, R260) -/

/-- Rows and elements valid in both descriptors. -/
def copyRows (a c : BitVec 128) : Nat := min (dVrows a) (dVrows c)
def copyCols (a c : BitVec 128) : Nat := min (dVcols a) (dVcols c)
/-- The sectors that a copy moves: row and sector number. -/
def copySecs (a c : BitVec 128) : List (Nat × Nat) :=
  (List.range (copyRows a c)).flatMap (fun r => (List.range (secsOf (dWidth a) (copyCols a c))).map (fun k => (r, k)))
/-- The part of a sector that is written. -/
def copyOut (a c : BitVec 128) (k : Nat) (x : SecIn) : SecOut :=
  let w := dWidth a
  let per := 256 / w
  ⟨(List.range (min per (copyCols a c - per * k))).map (fun i => x.v / 2 ^ (w * i) % 2 ^ w), x.eb, x.tok⟩
/-- The address of a sector of a copy's source. -/
def srcAt (a : BitVec 128) (k : Nat × Nat) : Nat := rowAddr a k.1 + 32 * k.2
/-- What a sector that was read writes into the pond. -/
def copyWrite (m : MemSt) (tm : Team) (a c : BitVec 128) (k : Nat × Nat) (x : SecIn) : List SectorW :=
  secWrite m (dWidth a) true (teamPond tm (rowAddr c k.1 + 32 * k.2)) (copyOut a c k.2 x)

/-- One sector of a copy to memory, with the first of failures 1 to 4 that holds (R260). -/
def copySector (s : State) (t : Task) (a c : BitVec 128) (md : CopyMode) (k : Nat × Nat) (x : SecIn) : State × CopyRes :=
  let va := rowAddr c k.1 + 32 * k.2
  let pois := match x.tok with | some w => (tokCode w, w.toNat) | none => (0, 0)
  if x.tok.isSome ∧ md ≠ .c then (s, .fail pois.1 pois.2 va)
  else if x.tok.isNone ∧ md = .none ∧ ebFits x.eb t.ebud = false then (s, .fail 0x20 (breachBound x.eb) va)
  else
    match translate s (taskCtx t) va .write with
    | (s, .fault e) => (s, .fail e (vaTok e va).toNat va)
    | (s, .recov _ _ _) => (s, .fail 2 (vaTok 2 va).toNat va)
    | (s, .ok pa attr) =>
      let bnd := keepsBnd pa attr
      if !bnd && x.tok.isSome then (s, .fail pois.1 pois.2 va)
      else if !bnd && decide (x.eb ≠ 0) && decide (md ≠ .db) then (s, .fail 0x21 (breachBound x.eb) va)
      else (s, .ok va pa bnd (copyOut a c k.2 x) (taskRace t attr))
/-- The race test of one destination sector, made with its write (R151, R152). -/
def copyRace (t : Task) (s : State) (r : CopyRes) : State × CopyRes :=
  match r with
  | .ok va pa _ _ true =>
    let w := taskWriter s t
    if raceTest s pa w false then
      let s := taskCount s t 0x15 1
      if t.lflags.getLsbD 4 then (raceRecord s (taskCtx t) true va pa w, r)
      else (s, .fail 6 (vaTok 6 va).toNat va)
    else (s, r)
  | r => (s, r)
def copyRaces (t : Task) : State → List CopyRes → State × List CopyRes
  | s, [] => (s, [])
  | s, r :: rs =>
    let (s, r) := copyRace t s r
    let (s, rs) := copyRaces t s rs
    (s, r :: rs)
/-- What one sector of a copy to memory writes there, for elements of w bits. -/
def CopyRes.writes (m : MemSt) (w : Nat) : CopyRes → List SectorW
  | .ok _ pa bnd o _ => secWrite m w bnd pa o
  | .fail _ _ _ => []
/-- What a copy to memory does: a failing sector makes the task write nothing, and the one of the lowest address gives the record
(R123, R260). An element that shares its byte with one outside the copy is put beside what memory holds there then (R259). -/
def copyEnd (m : MemSt) (w : Nat) (o : TaskOut) (rs : List CopyRes) : TaskOut :=
  let fails := rs.filterMap (fun r => match r with | .fail ca p va => some (ca, p, va) | .ok .. => none)
  let first := fails.foldl (fun (b : Option (Nat × Nat × Nat)) f =>
    match b with | none => some f | some g => if f.2.2 < g.2.2 then some f else some g) none
  match first with
  | some f => { o with fail := some (BitVec.ofNat 8 f.1, BitVec.ofNat 32 f.2.1, BitVec.ofNat 64 f.2.2) }
  | none =>
    { o with ws := rs.flatMap (·.writes m w), races := rs.filterMap (fun r => match r with | .ok _ pa _ _ true => some pa | _ => none) }

/-- A copy moves on by one sector, any of those that it has still to request or to read (R252, R409). A request that is accepted takes its
translation; a sector of memory is read some time after that, once its banks serve (R140), and what fails gives its token or its failure at
once. The sectors of a copy to memory are written together as the copy finishes, since one that fails makes it write nothing (R260). -/
def copyMove (s : State) (t : Task) (tm : Team) (a c : BitVec 128) (md : CopyMode) (o : TaskOut) : State × TaskOut :=
  let (i, s1) := s.pick (o.late.length + o.reqs.length)
  match o.late[i]?, o.reqs[i - o.late.length]? with
  | some x, _ =>
    let o := { o with late := o.late.eraseIdx i }
    if dKind c then
      let (s, r) := copySector s1 t a c md x.1 ⟨x.2.1, x.2.2.1, x.2.2.2⟩
      (s, { o with copy := o.copy ++ [r] })
    else
      (match acceptRead s1 t (srcAt a x.1) with
       | (s, .inr e) =>
         let (s, v) := tokenSector s t e (srcAt a x.1)
         (s, { o with ws := o.ws ++ copyWrite s.mem tm a c x.1 v })
       | (s, .inl p) =>
         let (id, s) := s.newId
         (s, { o with reqs := o.reqs ++ [⟨id, x.1, p⟩] }))
  | none, some q =>
    (match reachBanks s1 (banksAt t.core false q.acc.pa) with
     | (false, u) => ({ u with free := s.free }, o)
     | (true, u) =>
       let (u, v, ps) := readAccepted u t q.acc
       let (u, met) := meetErrors u t false o.met ps
       (u, { o with reqs := o.reqs.eraseIdx (i - o.late.length), ws := o.ws ++ copyWrite u.mem tm a c q.sec v, met := met,
                    read := sectorOf q.acc.pa :: o.read }))
  | none, none => (s, o)

/-! ### TFILL, TSCALE, TCONV (R261 to R263) -/

def fillTask (m : MemSt) (tm : Team) (c : BitVec 128) (x : SCell) : List SectorW :=
  let o := Opd.ofS x
  (List.range (dVrows c)).flatMap (fun r =>
    pondWrites m tm c r (rowOut (dWidth c) maxEbOf (List.replicate (dVcols c) { o with v := o.v % 2 ^ dWidth c })))

/-- The scale of an element: TSCALE's forms .acc, .accr and .accc. -/
def scaleJob (form : Nat) (x c : Opd) (sn : Opd) (y : Opd) : Option FpJob × BitVec 5 :=
  if form = 1 then
    (if (firstTok [x, sn, c]).isSome then none else some (jobScale x.v (sn.v % 2 ^ 32) c.v x.eb sn.eb c.eb), (scaleOf (sn.v % 2 ^ 32)).2)
  else (if (firstTok [x, y, c]).isSome then none else some (jobFma .f32 x.v y.v c.v x.eb y.eb c.eb false), 0)
/-- One element of TSCALE: result and flags. -/
def scaleElem (form : Nat) (v : Vari) (x c sn y : Opd) : Opd × BitVec 5 :=
  if form = 0 then
    match firstTok [x, sn] with
    | some w => (⟨0, ebPoison, some w⟩, 0)
    | none =>
      let n : Opd := { sn with v := sn.v % 2 ^ 32 }
      let r := fpScale x.v (sg32 n.v)
      (⟨r.bits, scaleEb x n r, none⟩, r.flags)
  else
    match firstTok [x, if form = 1 then sn else y, c] with
    | some w => (⟨0, ebPoison, some w⟩, 0)
    | none =>
      match scaleJob form x c { sn with v := sn.v % 2 ^ 32 } y with
      | (some j, f) => let o := j.out .f32 v; (⟨o.1, o.2.1, none⟩, o.2.2 ||| f)
      | (none, f) => (⟨0, 0, none⟩, f)
/-- The element of row r and column k of the scale operand. -/
def scaleOpd (form r k : Nat) (bs : List Opd) : Opd := bs.getD (if form = 2 then r else k) ⟨0, 0, none⟩
def scaleTask (s : State) (t : Task) (tm : Team) (met : List Nat) (form : Nat) (a b c : BitVec 128) (k : Cls) (x : SCell) :
    State × TaskOut :=
  let sn := Opd.ofS x
  let (s, bs, met, got) := if form ≤ 1 then (s, [], met, []) else readRow s t tm met b 0 (dCols b)
  let nc := dVcols c
  let rows := (List.range (dVrows c)).map (fun r => (r, (pondRow s.mem tm a r nc).zip (pondRow s.mem tm c r nc)))
  let js := rows.flatMap (fun r => (r.2.zip (List.range nc)).filterMap (fun e =>
    (scaleJob form e.1.1 e.1.2 { sn with v := sn.v % 2 ^ 32 } (scaleOpd form r.1 e.2 bs)).1))
  let v := if form = 0 then .full else chooseVari k t.ebud js
  let outs := rows.map (fun r => (r.1, (r.2.zip (List.range nc)).map (fun e =>
    scaleElem form v e.1.1 e.1.2 sn (scaleOpd form r.1 e.2 bs))))
  (s, ⟨outs.flatMap (fun r => pondWrites s.mem tm c r.1 (rowOut 32 maxEbOf (r.2.map (·.1)))), [],
       outs.foldl (fun f r => r.2.foldl (fun f e => f ||| e.2) f) 0, none, none, [], [], [], [], met, got⟩)

/-- TCONV of one row: the converted elements with flags, and the bound of each destination sector (R104). -/
def convRow (f g : Fmt) (r : Rnd) (sat : Bool) (xs : List Opd) : List SecOut × BitVec 5 :=
  let outs := xs.map (fun x => (x, convertElem f g r sat x.v))
  let per := 256 / g.width
  ((List.range (secsOf g.width outs.length)).map (fun k =>
    let ys := (outs.drop (per * k)).take per
    let clean := ys.filter (fun y => y.1.tok.isNone)
    let odd := clean.any (fun y => fSpecial f y.1.v || fSpecial g y.2.bits || y.2.ovf)
    let e := ebAdd (ebMaxL (clean.map (fun y => ebAdd y.1.eb (in4 f y.1.v)))) (ebMaxL (clean.map (fun y => rhoConv g r y.2.bits y.2.nx)))
    ⟨ys.map (fun y => y.2.bits), if odd then ebInf else e, firstTok (ys.map (·.1))⟩),
   outs.foldl (fun fl y => if y.1.tok.isSome then fl else fl ||| y.2.flags) 0)
def convTask (m : MemSt) (tm : Team) (a c : BitVec 128) (r : Rnd) (sat : Bool) : TaskOut :=
  let outs := (List.range (dVrows a)).map (fun i => (i, convRow (dFmt a) (dFmt c) r sat (pondRow m tm a i (dVcols a))))
  ⟨outs.flatMap (fun o => pondWrites m tm c o.1 o.2.1), [], outs.foldl (fun f o => f ||| o.2.2) 0, none, none, [], [], [], [], [], []⟩

/-! ### The life of a task -/

/-- Halves of a core's task table (R400): which half a function's tasks use, and how many entries and rows it has. -/
def halfOf (c : Core) (f : Nat) : Nat := match c.split with | some (_, g) => b2n (decide (f = g)) | none => 0
def halfEntries (c : Core) : Nat := if c.split.isSome then 32 else 64
def halfRows (c : Core) : Nat := if c.split.isSome then 16 else 32

def isTgive : TaskOp → Bool
  | .tgive _ => true | _ => false
def isTtake : TaskOp → Bool
  | .ttake _ => true | _ => false
/-- Whether a task waits for an earlier one (R251, R135, R257). A residency holds the tiles of its dC against every later task but
the TTAKE that ends it. -/
def taskWaits (t e : Task) : Bool :=
  decide (e.id < t.id) &&
  ((decide (e.launch = t.launch) && decide (e.team = t.team) &&
    !(isTtake t.op && isTgive e.op && e.out.isSome) &&
    ((t.rset ++ t.wset).any (fun x => e.wset.contains x) || (!t.rename && t.wset.any (fun x => e.rset.contains x)))) ||
   (t.onBank && e.onBank && decide (e.core = t.core) && decide (e.half = t.half) && !(isTgive e.op && e.out.isSome)))
/-- A task of a renamed write finishes after the earlier readers have read (log entry 11). -/
def finishWaits (t e : Task) : Bool :=
  decide (e.id < t.id) && decide (e.launch = t.launch) && decide (e.team = t.team) && e.out.isNone &&
  t.wset.any (fun x => e.rset.contains x)

/-- Sectors of the first n elements of some rows of a region in the pond. -/
def rowReads (tm : Team) (d : BitVec 128) (rows : List Nat) (n : Nat) : List LaneAcc :=
  rows.flatMap (fun r => (List.range (secsOf (dWidth d) n)).map (fun k => pondAcc tm (rowAddr d r + 32 * k)))
/-- What a task other than a copy reads of the pond as it starts, but for a row operand of TSCALE. -/
def pondReads (t : Task) (tm : Team) : List LaneAcc :=
  match t.op with
  | .mma a b c _ z idx rows =>
    let nc := min (dVcols c) (dVrows b)
    let n := min (dVcols a) (dVcols b)
    let sel := (List.range (dVrows c)).filterMap (fun i => match mmaRow a idx rows i with | some (.inl r) => some (i, r) | _ => none)
    if nc = 0 then []
    else rowReads tm a (sel.map (·.2)) n ++ rowReads tm b (List.range nc) n ++
      (if z || t.onBank then [] else rowReads tm c (sel.map (·.1)) nc)
  | .tscale form a _ c _ _ =>
    rowReads tm a (List.range (dVrows c)) (dVcols c) ++ (if form = 0 then [] else rowReads tm c (List.range (dVrows c)) (dVcols c))
  | .tconv a _ _ _ => rowReads tm a (List.range (dVrows a)) (dVcols a)
  | .tgive c => rowReads tm c (List.range (dVrows c)) (dVcols c)
  | .tcopy _ _ _ | .tfill _ _ | .ttake _ => []

/-- What a task computes when it starts; `met` lists the lines whose errors it has met. A copy that reads the pond reads all of it now (R251,
R260); its sectors in memory are all still to be requested. -/
def runTask (s : State) (t : Task) (tm : Team) (met : List Nat) : State × TaskOut :=
  let plain := fun (ws : List SectorW) => (⟨ws, [], 0, none, none, [], [], [], [], met, []⟩ : TaskOut)
  let cells := ((Tb.get? (s.core t.core).banks t.half).map (·.cells)).getD []
  match t.op with
  | .mma a b c k z idx rows =>
    let nc := min (dVcols c) (dVrows b)
    let r := mmaRun s.mem t tm (if t.onBank then some cells else none) s.free a b c k z idx rows
    let s := { s with free := s.free + 3 * (dCols a / blkOf (dFmt a)) }
    if t.onBank then (s, { plain [] with flags := r.2.2.1, bank := some (bankOut cells nc r.1 r.2.1), steps := r.2.2.2 })
    else (s, { plain (rowsOut s.mem tm c nc r.1 r.2.1) with flags := r.2.2.1, steps := r.2.2.2 })
  | .tcopy a c _ =>
    let ks := copySecs a c
    if dKind a then (s, { plain [] with late := ks.map (fun k => (k, (0, 0, none))) })
    else
      let (s, xs, met, _) := readSectors t tm false met s (ks.map (srcAt a))
      if dKind c then (s, { plain [] with late := (ks.zip xs).map (fun x => (x.1, (x.2.v, x.2.eb, x.2.tok))), met := met })
      else (s, { plain ((ks.zip xs).flatMap (fun x => copyWrite s.mem tm a c x.1 x.2)) with met := met })
  | .tfill c x => (s, plain (fillTask s.mem tm c x))
  | .tscale form a b c k x => scaleTask s t tm met form a b c k x
  | .tconv a c r sat => (s, { convTask s.mem tm a c r sat with met := met })
  | .tgive c => (s, { plain [] with bank := some (loadBank s.mem tm c) })
  | .ttake c => (s, plain (storeBank s.mem tm c cells))

/-- The tasks that a group issued and that have not finished, but for a residency, which its save writes back (R253, R258, R278). -/
def groupTasks (s : State) (g : Group) : List Task :=
  s.work.tasks.filter (fun x => decide (x.launch = g.launch) && decide (x.team = g.team) && decide (x.gid = g.gid) &&
    !(isTgive x.op && x.out.isSome))
def setTasks (s : State) (f : List Task → List Task) : State := { s with work := { s.work with tasks := f s.work.tasks } }
def setBank (s : State) (core half : Nat) (f : ResBank → ResBank) : State :=
  s.modCore core (fun c => { c with banks := Tb.modify c.banks half f })

/-- A residency that is reloaded and has neither bank nor table entry yet (R258, R398): an issued TGIVE takes its bank at issue. -/
def awaitsBank (s : State) (t : Task) : Bool :=
  isTgive t.op && t.out.isNone && (match Tb.get? (s.core t.core).banks t.half with | some b => decide (b.task ≠ t.id) | none => true)
/-- Entries of a core's task table, or of a half, that are taken (R249, R400). -/
def entriesUsed (s : State) (core half : Nat) : Nat :=
  (s.work.tasks.filter (fun e => decide (e.core = core) && decide (e.half = half) && !awaitsBank s e)).length
/-- A residency that is reloaded waits for the bank that another team holds, and for a free entry (R249, R258). -/
def bankTaken (s : State) (t : Task) : Bool :=
  awaitsBank s t && ((Tb.get? (s.core t.core).banks t.half).isSome || decide (halfEntries (s.core t.core) ≤ entriesUsed s t.core t.half))
/-- A residency of the team is still to be reloaded: its groups do not issue yet (R258, R398). -/
def reloading (s : State) (k team : Nat) : Bool :=
  s.work.tasks.any (fun t => decide (t.launch = k) && decide (t.team = team) && t.out.isNone && bankTaken s t)
/-- The banks of some of a team's tiles. -/
def tileBanks (tm : Team) (ts : List Nat) : List Nat := (ts.map (fun x => teamPond tm (0x8000 * x) / 2 ^ 18)).dedup
/-- A task starts (R251) once the banks of the tiles that it reads serve (R140): its inputs are read, with the errors that they meet (R431),
and a residency loads its bank. -/
def startTask (s : State) (id : Nat) : State :=
  match s.work.tasks.find? (fun t => decide (t.id = id)) with
  | none => s
  | some t =>
    if t.out.isSome || (s.die (dieOf t.core)).off || s.work.tasks.any (taskWaits t) || bankTaken s t then s
    else
      match s.team? t.launch t.team with
      | none => s
      | some tm =>
        match reachBanks s (tileBanks tm t.rset) with
        | (false, s) => s
        | (true, s) =>
        let (s, met) := meetErrors s t false [] (pondReads t tm)
        let (s, o) := runTask s t tm met
        let s := match t.op with
          | .tgive d => s.modCore t.core (fun c =>
            let b := (Tb.get? c.banks t.half).getD ⟨t.launch, t.team, t.id, d, [], false⟩
            { c with banks := Tb.put c.banks t.half { b with cells := o.bank.getD [] } })
          | _ => s
        setTasks s (fun l => l.map (fun x => if x.id = id then { x with out := some o } else x))

/-! ### Failure records (R138) -/

/-- The failure that comes first: lower batch, earlier task, lower address. -/
def failFirst (x y : FailRec) : Bool :=
  let d := x.batch - y.batch
  if d ≠ 0 then d.msb else decide (x.seq < y.seq) || (decide (x.seq = y.seq) && decide (x.va.toNat < y.va.toNat))
/-- A record that keeps the details that come first. -/
def failKeep (r n : FailRec) : FailRec :=
  if failFirst n r then { n with lo := r.lo, hi := r.hi } else r
/-- Record a failure of batch n.batch. -/
def addFail (n : FailRec) (l : List FailRec) : List FailRec :=
  let b := n.batch
  if l.any (fun r => ahead b r.lo && ahead r.hi b) then l.map (fun r => if ahead b r.lo && ahead r.hi b then failKeep r n else r)
  else if l.length < 16 then l ++ [n]
  else
    let top := l.foldl (fun (t : Option FailRec) r =>
      match t with | none => some r | some q => if (q.lo - b).toInt < (r.lo - b).toInt then some r else some q) none
    l.map (fun r =>
      if some r = top then
        let r' := failKeep r n
        { r' with lo := if ahead r.lo b then b else r.lo, hi := if ahead b r.hi then b else r.hi }
      else r)

/-- What a finished task does to its group: flags (R80), which a group that has retired does not take (R253), and a failure record (R138). -/
def taskToGroup (t : Task) (o : TaskOut) (g : Group) : Group :=
  if g.launch ≠ t.launch ∨ g.team ≠ t.team ∨ g.gid ≠ t.gid then g
  else
    let g := if g.retired then g else g.orFlags o.flags
    match o.fail, t.batch with
    | some f, some b => { g with ctl := { g.ctl with fails := addFail ⟨b, b, f.1, f.2.1, f.2.2, b, t.id⟩ g.ctl.fails } }
    | _, _ => g

/-- Charge of the block steps of a task, for each valid cell (R255, R302, Table 12-3), in hundredths. -/
def taskCharge (t : Task) (o : TaskOut) : Nat :=
  match t.op with
  | .mma a b c _ _ idx rows =>
    let q := if (dFmt a).isFloat then ((o.steps.zip [100, 85, 75, 60]).map (fun x => x.1 * x.2)).sum else 100 * o.steps.sum
    let n := ((List.range (dVrows c)).filter (fun i => match mmaRow a idx rows i with | some (.inl _) => true | _ => false)).length
    q * (if isHalf (dFmt a) then 8 else 4) * (n * min (dVcols c) (dVrows b))
  | _ => 0

/-- The pond byte address of a physical address in one of the team's tiles. -/
def pondAddr (tm : Team) (pa : Nat) : Nat :=
  let x := (pa - 0x9000000000) / 0x8000
  tm.tiles.findIdx (fun k => decide (k = x / 128 * 64 + x % 128)) * 0x8000 + pa % 0x8000
/-- Whether a copy goes to memory. -/
def Task.toMemory (t : Task) : Bool := match t.op with | .tcopy _ c _ => dKind c | _ => false
/-- What a task writes as it finishes, with the errors that its writes meet (R431). The race tests of a copy to memory are made with its writes
(R151). -/
def finishOut (s : State) (t : Task) (tm : Team) (o : TaskOut) : State × TaskOut :=
  match t.op, t.toMemory with
  | .tcopy a _ _, true =>
    let (s, rs) := copyRaces t s o.copy
    let e := copyEnd s.mem (dWidth a) o rs
    let as := if e.fail.isSome then [] else
      rs.flatMap (fun r => match r with | .ok va pa _ _ _ => [(⟨pa, va, 0, none⟩ : LaneAcc)] | .fail _ _ _ => [])
    ((meetErrors s t true o.met as).1, e)
  | _, _ => ((meetErrors s t true o.met (o.ws.map (fun w => pondAcc tm (pondAddr tm w.pa)))).1, o)
/-- The banks that a task's writes go to as it finishes: those of its tiles, or of the sectors of memory that it has requested. -/
def finishBanks (t : Task) (tm : Team) (o : TaskOut) : List Nat :=
  tileBanks tm t.wset ++ (o.copy.flatMap (fun r => match r with | .ok _ pa _ _ _ => banksAt t.core false pa | .fail _ _ _ => [])).dedup
/-- Every access of a task happens before each access of its team to the task's tiles after their owner bits flip (R134): the team's cores
drop their first-level copies of the sectors that the task read or wrote. -/
def dropTeamL1 (s : State) (tm : Team) (ks : List Nat) : State :=
  (if tm.pair then [tm.core, tm.core + 1] else [tm.core]).foldl (fun s c => dropL1 s c ks) s

/-! ### Errors of the array (R400, R431) -/

/-- The sectors of some rows of a started task's result take a token (R113). -/
def poisonRows (tm : Team) (d : BitVec 128) (rows : Mask) (k : Word) (o : TaskOut) : TaskOut :=
  let hit := ((List.range (dRows d)).filter (fun i => rows.getLsbD i)).flatMap (fun i =>
    (List.range (secsOf (dWidth d) (dCols d))).map (fun j => sectorOf (teamPond tm (rowAddr d i + 32 * j))))
  { o with
    ws := o.ws.map (fun w => if hit.contains (sectorOf w.pa) then { w with token := some k, maxEb := 0 } else w),
    bank := o.bank.map (fun cells => cells.map (fun c => if rows.getLsbD (c.1 / 32) then (c.1, VCell.tok k) else c)) }
/-- An uncorrected error of a core's matrix array in one half: rows of one of that half's running matrix tasks become poison, as MEMUE with
the packet of the task's instruction (R53, R111, R113, R400). Which task and which rows are free values (log entry 2). -/
def arrayError (s : State) (core half : Nat) : State :=
  let running := s.work.tasks.filter (fun t => decide (t.core = core) && decide (t.half = half) && t.out.isSome &&
    (match t.op with | .mma .. => true | _ => false))
  match running with
  | [] => s
  | t0 :: _ =>
    let (i, s) := s.pick running.length
    let t := running.getD i t0
    let rows := Config.freeMask s.free
    match t.op, s.team? t.launch t.team with
    | .mma _ _ c _ _ _ _, some tm =>
      let s := taskCount s t 0x13 ((List.range (dVrows c)).filter (fun i => rows.getLsbD i)).length
      { setTasks s (fun l => l.map (fun x =>
          if x.id = t.id then { x with out := x.out.map (poisonRows tm c rows (mkTok 1 (packetOf t.pc))) } else x)) with free := s.free + 1 }
    | _, _ => s

/-- A task that has nothing left to request or to read makes its writes, and is gone. A TTAKE ends the residency and frees its TGIVE's entry
(R257). -/
def endTask (s : State) (t : Task) (tm : Team) (o : TaskOut) : State :=
  let (s, o) := finishOut s t tm o
  let w := taskWriter s t
  let s := s.upMem (fun m => o.races.foldl (fun m pa => raceNote m pa w none false none) (o.ws.foldl applySector m))
  let s := dropTeamL1 s tm (o.read ++ o.ws.map (fun w => sectorOf w.pa))
  let s := s.modG t.h (taskToGroup t o)
  let s := (o.steps.zip (List.range 4)).foldl (fun s x => taskCount s t (0x09 + x.2) x.1) s
  let q := taskCharge t o
  let s := if q = 0 then s else
    countCharge (addCharge s t.core (s.funcOf t.launch) q) t.core (s.funcOf t.launch) q t.launch t.team
  let s := match o.bank with | some cells => setBank s t.core t.half (fun b => { b with cells := cells }) | none => s
  match t.op with
  | .ttake _ =>
    let give := ((Tb.get? (s.core t.core).banks t.half).map (·.task)).getD t.id
    let s := s.modCore t.core (fun c => { c with banks := Tb.erase c.banks t.half })
    setTasks s (fun l => l.filter (fun x => decide (x.id ≠ t.id) && decide (x.id ≠ give)))
  | _ => setTasks s (fun l => l.filter (fun x => decide (x.id ≠ t.id)))
/-- A started task makes progress: a copy that has sectors to request or to read moves on by one, any other task finishes once the banks that
it writes serve (R140, R252, R409). -/
def finishTask (s : State) (id : Nat) : State :=
  match s.work.tasks.find? (fun t => decide (t.id = id)) with
  | none => s
  | some t =>
    match t.out, s.team? t.launch t.team with
    | some o, some tm =>
      if isTgive t.op || (s.die (dieOf t.core)).off || s.work.tasks.any (finishWaits t) then s
      else
        match t.op, decide (o.late = []) && decide (o.reqs = []) with
        | .tcopy a c md, false =>
          let (s, o) := copyMove s t tm a c md o
          setTasks s (fun l => l.map (fun x => if x.id = id then { x with out := some o } else x))
        | _, _ =>
          match reachBanks s (finishBanks t tm o) with
          | (false, s) => s
          | (true, s) => endTask s t tm o
    | _, _ => s

/-! ### Whether a group can issue -/

/-- A group that is not halted (R339), saved (R37) or dead (R338), holds no rejected lanes (R139), waits at no switch marker (R181), and whose
die has power (R420), team is awake (R393) and bank is loaded again (R398). -/
def canIssue (s : State) (g : Group) : Bool :=
  !g.ctl.halted && !g.ctl.saving && !g.ctl.saved && !g.ctl.dead &&
  (match g.rejected with | none => true | some r => decide (r.mask = 0)) &&
  !(g.ctl.marker && decide (g.outst ≠ [])) && !(s.die (dieOf g.core)).off &&
  (match s.team? g.launch g.team with | some t => !t.waking | none => true) && !reloading s g.launch g.team

end Sys2Proof.Machine
end

