-- ==== Sys2Proof/Machine/EngineInstr.lean ====
section
/-! DEFINITION. Issue of the engine instructions (R249 to R251, R254 to R265, Tables 9-2 to 9-5), and the start and finish of
tasks. -/

namespace Sys2Proof.Machine

/-! ### Requirements on operands (Table 9-3) -/

/-- A pond region of the team. -/
def pondDesc (n : Nat) (d : BitVec 128) : Bool := descOk n d && !dKind d
/-- The formats that pair (R254), with the accumulator's. -/
def mmaFmts (a b c : Fmt) : Bool :=
  match a, b with
  | .e4m3, .e4m3 => decide (c = .f32)
  | .e4m3, .e5m2 => decide (c = .f32)
  | .e5m2, .e4m3 => decide (c = .f32)
  | .e5m2, .e5m2 => decide (c = .f32)
  | .bf16, .bf16 => decide (c = .f32)
  | .f16, .f16 => decide (c = .f32)
  | .i8, .i8 => decide (c = .i32)
  | .i4, .i4 => decide (c = .i32)
  | _, _ => false
/-- An accumulator region: at most 32 by 32, or 16 in a split array, in the issuing core's pond (R132, R254). -/
def accDesc (s : State) (t : Team) (c : BitVec 128) : Bool :=
  let core := s.cur.rd.core
  let lim := halfRows (s.core core)
  pondDesc t.tiles.length c && (decide (dFmt c = .f32) || decide (dFmt c = .i32)) && decide (dRows c ≤ lim) &&
  decide (dCols c ≤ lim) && (tileSet c).all (fun i => decide (t.tiles.getD i 0 / 64 = core))
/-- MMA, and MMAG (`gather`) whose A may have any number of rows. -/
def mmaOk (s : State) (t : Team) (a b c : BitVec 128) (gather : Bool) : Bool :=
  let n := t.tiles.length
  pondDesc n a && pondDesc n b && accDesc s t c && mmaFmts (dFmt a) (dFmt b) (dFmt c) &&
  decide (dRows b = dCols c) && decide (dCols b = dCols a) && decide (dCols a % blkOf (dFmt a) = 0) &&
  (if gather then decide (dRows c ≤ s.cur.rd.width) else decide (dRows a = dRows c)) && !overlap c a && !overlap c b
def copyOk (n : Nat) (a c : BitVec 128) : Bool :=
  descOk n a && descOk n c && decide (dRows a = dRows c) && decide (dCols a = dCols c) && decide (dFmt a = dFmt c) &&
  !(dKind a && dKind c) && (!overlap a c || sameRegion a c)
def scaleOk (n form : Nat) (a b c : BitVec 128) : Bool :=
  pondDesc n a && pondDesc n c && decide (dFmt a = .f32) && decide (dFmt c = .f32) && decide (dRows a = dRows c) &&
  decide (dCols a = dCols c) && (!overlap a c || sameRegion a c) &&
  (decide (form ≤ 1) ||
    (descOk n b && decide (dFmt b = .f32) && decide (dRows b = 1) &&
     decide (dCols b = if form = 2 then dRows c else dCols c) && !overlap b c))
def convOk (n : Nat) (a c : BitVec 128) (sat : Bool) : Bool :=
  pondDesc n a && pondDesc n c && decide (dRows a = dRows c) && decide (dCols a = dCols c) && cvtOk (dFmt a) (dFmt c) sat &&
  (!overlap a c || sameRegion a c)

/-! ### Issue of a task (R249, R250) -/

/-- Tile accesses of the team that were issued earlier are performed, and so is the issuing group's path, which the task follows
(R133, R145). -/
def tileDrain (s : State) : State :=
  let g := s.cur.rd
  let isPond := fun (k : Nat) => match pmem (32 * k) with | .pond _ => true | _ => false
  (s.teamGroups g.launch g.team).foldl (fun s h =>
    if h = s.cur.h then drainGroup s h
    else forceBefore s h s.ids ((groupOps s h).flatMap (fun o => o.2.2.filter isPond))) s

/-- Another group of the team is still to make a tile access that it issued before: lanes of an LDT on one of some tiles whose requests have
not been accepted, in its replay queue too, or the rest of an STT. A task that names the tile waits for it, so that the access lies before
the task whole (R133, R134). What waits for a tile that is ENGINE comes after the tasks that name it, and the supervisor's own task does not
wait for what its trap captured (DESIGN CHOICE, log entry 7). -/
def tileMidway (s : State) (tiles : List Nat) : Bool :=
  let g := s.cur.rd
  let thread := tiles.filter (fun k => !engineTile s g.launch g.team k)
  (s.teamGroups g.launch g.team).any (fun h =>
    let o := s.grp h
    decide (h ≠ s.cur.h) &&
    ((o.outst ++ o.replay.filter (fun e => e.valid && !e.held)).any (fun e => (openTiles e).any (fun k => thread.contains k)) ||
     (match o.rejected with
      | some r => (match r.entry.instr with | .stt .. => decide (r.done ≠ 0) | _ => false)
      | none => false)))

/-- What a task takes besides its operation: its sets (Table 9-2), whether it works on the bank, and its batch. -/
structure TaskShape where
  op : TaskOp
  rset : List Nat
  wset : List Nat
  onBank : Bool
  batch : Option Word

/-- The task of an issue. -/
def mkTask (s : State) (x : TaskShape) (half : Nat) (rename : Bool) : Task :=
  let g := s.cur.rd
  { id := s.ids, core := g.core, half := half, launch := g.launch, team := g.team, h := s.cur.h, gid := g.gid, pc := s.cur.pc,
    op := x.op, ebud := g.sp.ebud, lflags := g.sp.lflags, interval := s.curG.ctl.interval, tag := g.sp.tag, batch := x.batch,
    rset := x.rset, wset := x.wset, rename := rename, onBank := x.onBank, out := none }

/-- A task issues: illegal operands trap, a full table or want of a rename slot stalls the group, and otherwise the task enters
the table (R246, R249, R135). -/
def issueTask (s : State) (ok : Team → Bool) (x : TaskShape) : State :=
  match s.curTeam with
  | none => illegal s
  | some t =>
    if !ok t then illegal s
    else
      let g := s.cur.rd
      let c := s.core g.core
      let half := halfOf c (s.funcOf g.launch)
      let rename := s.work.tasks.any (fun e =>
        decide (e.launch = g.launch) && decide (e.team = g.team) && x.wset.any (fun k => e.rset.contains k))
      let used := entriesUsed s g.core half
      let slots := (s.work.tasks.filter (fun e => decide (e.core = g.core) && e.rename)).length
      if halfEntries c ≤ used then stall s 7
      else if rename ∧ 16 ≤ slots then stall s 8
      else if tileMidway s (x.rset ++ x.wset) then stall s 0
      else
        let s := tileDrain s
        { (setTasks s (fun l => l ++ [mkTask s x half rename])) with ids := s.ids + 1 }

/-- The resident bank of the issuing core, or half. -/
def curBank (s : State) : Option ResBank :=
  let g := s.cur.rd
  let c := s.core g.core
  Tb.get? c.banks (halfOf c (s.funcOf g.launch))
/-- The bank that accepts a task on descriptor c: the team's own, not ended, of the same descriptor (R257). -/
def residentFor (s : State) (c : BitVec 128) : Bool :=
  match curBank s with
  | some b =>
    decide (b.launch = s.cur.rd.launch) && decide (b.team = s.cur.rd.team) && !b.ended && decide (b.desc = c)
  | none => false

def desc (s : State) (d : BitVec 4) : BitVec 128 := s.cur.rd.d d.toNat
/-- In supervisor mode AUTO computes FULL (R318). -/
def taskCls (s : State) (k : Cls) : Cls := if s.cur.rd.sp.sv ∧ k = .auto then .exact else k

/-- MMA and MMAG (R254 to R257). -/
def mmaBody (a b e : BitVec 4) (idx : Option Reg) (k : Cls) (z : Bool) (s : State) : State :=
  let da := desc s a
  let db := desc s b
  let dc := desc s e
  let res := residentFor s dc
  let ix := idx.map (fun v => (lanesOf s.cur.mask).map (fun l => (l, s.rv v l)))
  issueTask s (fun t => mmaOk s t da db dc idx.isSome)
    { op := .mma da db dc (taskCls s k) z ix s.cur.mask,
      rset := tileSet da ++ tileSet db ++ (if z || res then [] else tileSet dc),
      wset := if res then [] else tileSet dc, onBank := res, batch := none }
def execMma (a b e : BitVec 4) (k : Cls) (z : Bool) (s : State) : Res :=
  issue (.mma a b e k z) s (mmaBody a b e none k z)
def execMmag (a b e : BitVec 4) (v : Reg) (k : Cls) (z : Bool) (s : State) : Res :=
  issue (.mmag a b e v k z) s (mmaBody a b e (some v) k z)

/-- TCOPY (R259, R260) joins the open batch (R136). -/
def execTcopy (a e : BitVec 4) (m : CopyMode) (s : State) : Res :=
  issue (.tcopy a e m) s (fun s =>
    let da := desc s a
    let dc := desc s e
    issueTask s (fun t => copyOk t.tiles.length da dc)
      { op := .tcopy da dc m, rset := tileSet da, wset := tileSet dc, onBank := false,
        batch := some (s.curG.ctl.closed + 1) })
/-- TFILL (R261). -/
def execTfill (e : BitVec 4) (v : Reg) (s : State) : Res :=
  issue (.tfill e v) s (fun s =>
    let dc := desc s e
    issueTask s (fun t => pondDesc t.tiles.length dc)
      { op := .tfill dc (s.cur.rd.s s.pk v.toNat), rset := [], wset := tileSet dc, onBank := false, batch := none })

/-- TSCALE (R262). -/
def scaleBody (form : Nat) (a b e : BitVec 4) (v : Option Reg) (k : Cls) (s : State) : State :=
  let da := desc s a
  let db := desc s b
  let dc := desc s e
  let x := match v with | some v => s.cur.rd.s s.pk v.toNat | none => SCell.zero
  issueTask s (fun t => scaleOk t.tiles.length form da db dc)
    { op := .tscale form da db dc (taskCls s k) x,
      rset := tileSet da ++ (if form ≤ 1 then [] else tileSet db) ++ (if form = 0 then [] else tileSet dc),
      wset := tileSet dc, onBank := false, batch := none }
def execTscaleExp (a e : BitVec 4) (v : Reg) (s : State) : Res :=
  issue (.tscaleExp a e v) s (scaleBody 0 a 0 e (some v) .exact)
def execTscaleAcc (a e : BitVec 4) (v : Reg) (k : Cls) (s : State) : Res :=
  issue (.tscaleAcc a e v k) s (scaleBody 1 a 0 e (some v) k)
def execTscaleAccr (a b e : BitVec 4) (k : Cls) (s : State) : Res :=
  issue (.tscaleAccr a b e k) s (scaleBody 2 a b e none k)
def execTscaleAccc (a b e : BitVec 4) (k : Cls) (s : State) : Res :=
  issue (.tscaleAccc a b e k) s (scaleBody 3 a b e none k)
/-- TCONV (R263). -/
def execTconv (a e : BitVec 4) (r : Rnd) (sat : Bool) (s : State) : Res :=
  issue (.tconv a e r sat) s (fun s =>
    let da := desc s a
    let dc := desc s e
    issueTask s (fun t => convOk t.tiles.length da dc sat)
      { op := .tconv da dc r sat, rset := tileSet da, wset := tileSet dc, onBank := false, batch := none })

/-- TGIVE (R257, R258): the bank is taken at issue; a team that holds it may not take it again. While the team's own TTAKE, which ends the
residency, has not finished, its next TGIVE waits (DESIGN CHOICE, log entry 28). -/
def execTgive (e : BitVec 4) (s : State) : Res :=
  issue (.tgive e) s (fun s =>
    let dc := desc s e
    let g := s.cur.rd
    let x : TaskShape := { op := .tgive dc, rset := tileSet dc, wset := tileSet dc, onBank := true, batch := none }
    match curBank s with
    | some b =>
      if decide (b.launch = g.launch) && decide (b.team = g.team) && !b.ended then illegal s
      else if (match s.curTeam with | some t => accDesc s t dc | none => false) then stall s 9
      else illegal s
    | none =>
      let t := issueTask s (fun t => accDesc s t dc) x
      if t.cur.trapped || t.cur.stalled then t
      else
        t.modCore g.core (fun c =>
          { c with banks := Tb.put c.banks (halfOf c (s.funcOf g.launch)) ⟨g.launch, g.team, s.ids, dc, [], false⟩ }))
/-- TTAKE (R257, R258). -/
def execTtake (e : BitVec 4) (s : State) : Res :=
  issue (.ttake e) s (fun s =>
    let dc := desc s e
    let g := s.cur.rd
    let t := issueTask s (fun t => accDesc s t dc && residentFor s dc)
      { op := .ttake dc, rset := [], wset := tileSet dc, onBank := true, batch := none }
    if t.cur.trapped || t.cur.stalled then t
    else setBank t g.core (halfOf (s.core g.core) (s.funcOf g.launch)) (fun b => { b with ended := true }))

/-! ### Descriptor instructions (R264) -/

def execTdesc (e : BitVec 4) (v : Reg) (s : State) : Res :=
  issue (.tdesc e v) s (fun s =>
    let d := BitVec.ofNat 128 ((s.os v).v + 2 ^ 64 * (s.osN (v.toNat + 1)).v)
    if d.getLsbD 57 then illegal s else s.upG (fun g => g.setD e.toNat d))

/-- Low bit and width of a field (Table 9-5); .adv replaces ADDR. -/
def tfieldAt : TField → Nat × Nat
  | .addr => (0, 57) | .rows => (113, 11) | .cols => (102, 11) | .vrows => (91, 11) | .vcols => (80, 11)
  | .stride => (58, 22) | .fmt => (124, 3) | .kind => (127, 1) | .adv => (0, 57)
/-- A descriptor with one field replaced. -/
def setField (d : BitVec 128) (lo w x : Nat) : BitVec 128 :=
  let n := d.toNat
  BitVec.ofNat 128 (n % 2 ^ lo + 2 ^ lo * (x % 2 ^ w) + 2 ^ (lo + w) * (n / 2 ^ (lo + w)))
def execTsetd (e : BitVec 4) (v : Reg) (f : TField) (s : State) : Res :=
  issue (.tsetd e v f) s (fun s =>
    let x := (s.os v).v
    let d := desc s e
    let at' := tfieldAt f
    if f = .adv then s.upG (fun g => g.setD e.toNat (setField d 0 57 (dAddr d + x)))
    else if 2 ^ at'.2 ≤ x then illegal s
    else s.upG (fun g => g.setD e.toNat (setField d at'.1 at'.2 x)))

/-! ### Tasks start and finish -/

/-- TASK_START: a task that waits for none starts (R251). -/
def execTaskStart (id : Nat) (s : State) : Res := .next (startTask s id)
/-- TASK_FINISH (R80, R133, R253). -/
def execTaskFinish (id : Nat) (s : State) : Res := .next (finishTask s id)

end Sys2Proof.Machine
end

