-- ==== Sys2Proof/Machine/Image.lean ====
section
/-! DEFINITION. The context image of a group (R396, R397, Table 15-10): its bytes, and a group loaded from them (R335). -/

namespace Sys2Proof.Machine

/-! ### Lane states in 24 bits (LSTATE, Table 13-3) -/

def lstateOf : LaneSt → Nat
  | .run => 0
  | .knot k => 2 + 32 * k.toNat
  | .wait (.barrier i p) _ => 4 + 32 * i.toNat + 256 * p.toNat
  | .wait .cycTimer _ => 4 + 8
  | .wait .wallAlarm _ => 4 + 16
  | .done => 6
/-- The words of its chain that a waiting lane passes over. -/
def skipOf : LaneSt → Nat
  | .wait _ n => n | _ => 0
def ofLstate (x n : Nat) : LaneSt :=
  match bits x 2 1 with
  | 0 => .run
  | 1 => .knot (BitVec.ofNat 3 (x / 32))
  | 2 => if bits x 4 3 = 0 then .wait (.barrier (BitVec.ofNat 3 (x / 32)) (BitVec.ofNat 16 (x / 256))) n
    else if bits x 4 3 = 1 then .wait .cycTimer n else .wait .wallAlarm n
  | _ => .done

/-! ### Replay entries (Table 13-5) -/

def entryWord0 (e : Entry) : Nat := b2n e.valid * 2 ^ 63 + b2n e.held * 2 ^ 62 + e.word.toNat
def entryHeader (e : Entry) (w : Nat) : Nat :=
  match w with
  | 0 => entryWord0 e
  | 1 => e.pc.toNat
  | 2 => e.mask.toNat
  | _ => e.uop.toNat
def entrySlot (e : Entry) (l k : Nat) : VCell := Tb.get VCell.zero e.slots (8 * l + k)

/-! ### The parts of a group image -/

/-- A part of fixed size, its unused bytes zero. -/
def pad (n : Nat) (l : List Byte) : List Byte := (l ++ List.replicate (n - l.length) 0).take n
/-- What a save keeps beside an image: the image's address, its CHECK and bytes by their numbers. R39, R182 and R398 make a save and a restore
unobservable, the tables of an image have no place for these bytes, and R396 has its reserved bytes 0: how they are kept the spec does not say
(DESIGN CHOICE, log entry 20). -/
def putNote (s : State) (pa check : Nat) (bs : List (Nat × Byte)) : State :=
  { s with dev := { s.dev with
      notes := (pa, check, bs.filter (fun b => decide (b.2 ≠ 0))) :: s.dev.notes.filter (fun n => decide (n.1 ≠ pa)) } }
/-- What was kept beside the image at an address: at that place, or at another where an image of the same CHECK was written. -/
def noteOf (s : State) (pa : Nat) : List (Nat × Byte) :=
  let c := s.num (pa + 4) 4
  match s.dev.notes.find? (fun n => decide (n.1 = pa) && decide (n.2.1 = c)) with
  | some n => n.2.2
  | none => match s.dev.notes.find? (fun n => decide (n.2.1 = c)) with | some n => n.2.2 | none => []
/-- The bytes kept beside the images in a range of memory that is copied go with them. -/
def moveNotes (s : State) (src size dst : Nat) : State :=
  let ns := (s.dev.notes.filter (fun n => decide (src ≤ n.1) && decide (n.1 < src + size))).map (fun n => (dst + (n.1 - src), n.2))
  { s with dev := { s.dev with notes := ns ++ s.dev.notes.filter (fun n => ns.all (fun x => decide (x.1 ≠ n.1))) } }
/-- A number kept there, and bytes to keep from a number on. -/
def noteNum (n : List (Nat × Byte)) (i k : Nat) : Nat := ofBytes ((List.range k).map (fun j => Tb.get 0 n (i + j)))
def noteBytes (i : Nat) (bs : List Byte) : List (Nat × Byte) := bs.mapIdx (fun j b => (i + j, b))

/-- Bytes of the elements of a table. -/
def tableBytes (n : Nat) (f : Nat → List Byte) : List Byte := (List.range n).flatMap f

/-- The user view of a group that is saved (R334, R37): a group in supervisor mode from its frame, with KILLM lanes DONE; any
other as it stands, with what the save captured (R339) and the frame registers as the last trap left them. -/
def savedForm (g : Group) : Group :=
  if g.sp.sv then
    let g := swapOut g
    { g with lanes := g.lanes.mapIdx (fun l x => if g.frame.killm.getLsbD l ∧ x.lst ≠ .done then { x with lst := .done } else x) }
  else
    { g with lanes := g.lanes.map (fun x => { x with epc := x.pc, lst := x.st }),
             ctl := { g.ctl with userMarker := g.ctl.marker && decide (g.replay ≠ []) } }

def timerBits (t : Timer) : Nat := b2n t.armed + 2 * b2n t.fired
/-- Bytes from 0x100. -/
def imageScalars (s : State) (g : Group) : List Byte :=
  toBytes 8 (statusUser g) ++ toBytes 8 g.sp.ebud.toNat ++ toBytes 8 g.sp.chandler.toNat ++ toBytes 8 g.sp.ctxclk.toNat ++
  toBytes 8 (s.now + g.ctl.wallOff.toNat) ++ toBytes 8 g.ctl.wallOff.toNat ++ toBytes 8 g.ctl.cyc.deadline.toNat ++
  toBytes 8 g.ctl.wal.deadline.toNat ++ toBytes 8 (timerBits g.ctl.cyc + 4 * timerBits g.ctl.wal) ++
  toBytes 4 g.ctl.closed.toNat ++ toBytes 24 0 ++ toBytes 4 g.ctl.interval.toNat ++
  tableBytes 4 (fun t => toBytes 6 (g.ctl.pubs.getD t 0).toNat)
def imageRegions (g : Group) : List Byte :=
  tableBytes 16 (fun i => match g.sp.regions[i]? with
    | some r => toBytes 8 (r.1.toNat + 65536 * r.2.toNat)
    | none => toBytes 8 0) ++ toBytes 8 g.sp.regions.length ++ toBytes 8 g.sp.ovf.toNat
def imageKnots (g : Group) : List Byte :=
  tableBytes 8 (fun i =>
    let k := g.k i
    toBytes 8 k.enrolled.toNat ++ toBytes 8 k.arrived.toNat ++ toBytes 8 k.joinPc.toNat ++ toBytes 8 (b2n k.armed))
def imageFrame (g : Group) : List Byte :=
  let f := g.frame
  toBytes 8 f.tcause.toNat ++ toBytes 8 f.tpayload.toNat ++ toBytes 8 f.tmask.toNat ++ toBytes 8 f.pcm.toNat ++
  toBytes 8 f.tpc.toNat ++ toBytes 8 f.tstamp.toNat ++ toBytes 8 f.killm.toNat ++ toBytes 8 g.replay.length
def imageB (b : BReg) : List Byte :=
  toBytes 8 b.vbase.toNat ++ toBytes 8 b.pbase.toNat ++ toBytes 4 b.limit.toNat ++ toBytes 4 b.attr.toNat
def imageLane (g : Group) (l : Nat) : List Byte :=
  if l < g.lanes.length then
    let x := g.lane l
    pad 64 (toBytes 8 x.epc.toNat ++ toBytes 8 (lstateOf x.lst) ++ tableBytes 8 (fun i =>
      let a := arrOf g i l
      toBytes 4 (b2n a.valid * 2 ^ 31 + b2n a.dropped * 2 ^ 30 + a.epoch.toNat * 65536 + a.phase.toNat)))
  else toBytes 64 0
def imageFails (g : Group) : List Byte :=
  tableBytes 16 (fun i => match g.ctl.fails[i]? with
    | none => toBytes 32 0
    | some r => toBytes 4 1 ++ toBytes 4 r.lo.toNat ++ toBytes 4 r.hi.toNat ++ toBytes 4 r.cause.toNat ++
        toBytes 4 r.payload.toNat ++ toBytes 8 r.va.toNat ++ toBytes 4 0)
/-- An entry of 2,048 bytes. -/
def imageEntry (e : Entry) : List Byte :=
  pad 2048 (tableBytes 4 (fun w => toBytes 8 (entryHeader e w)) ++
    tableBytes 64 (fun l => tableBytes 4 (fun k => toBytes 4 (entrySlot e l k).data.toNat) ++
      tableBytes 4 (fun k => toBytes 2 (entrySlot e l k).eb.toNat)))
/-- What a save keeps beside the image of a group: its switch-marker wait in progress (R182), the lanes of a containment handler (R126), what a
waiting lane passes over (R23), the fifth operand word of ACAS.d and the shadow of UOP (log entry 20). -/
def groupNote (g : Group) : List (Nat × Byte) :=
  noteBytes 14 (toBytes 1 (b2n g.ctl.userMarker)) ++ noteBytes 16 (toBytes 8 g.sp.hndMask.toNat) ++
  (List.range g.lanes.length).flatMap (fun l => noteBytes (0xE30 + 64 * l) (toBytes 1 (skipOf (g.lane l).lst))) ++
  (g.replay.mapIdx (fun i e =>
    let a := 0x2000 + 2048 * i
    (List.range 64).flatMap (fun l => noteBytes (a + 1568 + 6 * l)
      (toBytes 4 (entrySlot e l 4).data.toNat ++ toBytes 2 (entrySlot e l 4).eb.toNat)) ++
    noteBytes (a + 1952) (toBytes 2 e.ueb.toNat))).flatten
/-- The registers v, data then shadows. A register with an uncorrectable error is read as poison (R53), the word in packet `pk` reading
it. -/
def imageV (pk : Nat) (g : Group) : List Byte :=
  let at' := fun (i : Nat) => g.v pk (i / g.width) (i % g.width)
  tableBytes (g.width * g.regs) (fun i => toBytes 4 (at' i).data.toNat) ++
  tableBytes (g.width * g.regs) (fun i => toBytes 2 (at' i).eb.toNat)

/-- Everything after CHECK. -/
def imageBody (s : State) (g : Group) (retiring : Bool) : List Byte :=
  pad 248 (toBytes 4 g.gid ++ toBytes 1 (widthCode g.width) ++ toBytes 1 g.regs ++
    toBytes 1 (b2n (g.ctl.halted || g.ctl.rehalt) + 2 * b2n retiring)) ++
  pad 256 (imageScalars s g) ++ pad 256 (imageRegions g) ++ pad 256 (imageKnots g) ++ pad 256 (imageFrame g) ++
  pad 256 (tableBytes 8 (fun i => imageB (g.b i))) ++ pad 512 (tableBytes 16 (fun i => toBytes 16 (g.d i).toNat)) ++
  pad 512 (tableBytes 64 (fun i => toBytes 8 (g.s s.pk i).data.toNat)) ++
  pad 512 (tableBytes 64 (fun i => toBytes 2 (g.s s.pk i).eb.toNat)) ++
  tableBytes 8 (fun n => tableBytes 64 (fun l => if l < g.width then [g.p n l] else [0])) ++
  tableBytes 64 (imageLane g) ++ imageFails g ++
  pad 0xC000 (g.replay.flatMap imageEntry) ++ pad (groupImageSize g.width g.regs - 0xE000) (imageV s.pk g)
/-- The group image: VERSION, CHECK and the rest (R396). -/
def groupImage (s : State) (g : Group) (retiring : Bool) : List Byte :=
  let body := imageBody s g retiring
  toBytes 4 1 ++ toBytes 4 (crc32c (toBytes 4 1 ++ toBytes 4 0 ++ body)) ++ body

/-! ### Loading an image (R335) -/

/-- Version, check word, group number, width and registers match, and so does the header of the team's image. -/
def imageOk (s : State) (pa : Nat) (g : Group) : Bool :=
  !(match s.team? g.launch g.team with | some t => t.hdrBad | none => false) &&
  decide (s.num pa 4 = 1) && decide (s.num (pa + 8) 4 = g.gid) && decide (s.num (pa + 12) 1 = widthCode g.width) &&
  decide (s.num (pa + 13) 1 = g.regs) &&
  decide (s.num (pa + 4) 4 =
    crc32c (toBytes 4 1 ++ toBytes 4 0 ++ s.mem.bytes (pa + 8) (groupImageSize g.width g.regs - 8)))

/-- A base-translation register as it is restored: VBASE alone (R357). -/
def loadB (s : State) (pa : Nat) : BReg := ⟨BitVec.ofNat 57 (s.num pa 8), 0, 0, 0⟩
/-- A 16-bit shadow of an image: a reserved encoding is read as unbounded (R96). -/
def loadEb (s : State) (pa : Nat) : EB := ebRead (BitVec.ofNat 16 (s.num pa 2))
/-- A replay entry, at a number of its group image's kept bytes `n`. Its instruction is the word's, and one that does not decode is cancelled. A held BXLT keeps its VBASE alone, as
every base-translation register does (R357). -/
def loadEntry (s : State) (n : List (Nat × Byte)) (at' pa id : Nat) : Entry :=
  let w0 := s.num pa 8
  let word := BitVec.ofNat 32 w0
  let cell := fun (p q : Nat) => (⟨BitVec.ofNat 32 (s.num p 4), loadEb s q⟩ : VCell)
  let slots := (List.range 64).foldl (fun t l =>
    let t := (List.range 4).foldl (fun t k => Tb.set VCell.zero t (8 * l + k) (cell (pa + 32 + 24 * l + 4 * k) (pa + 48 + 24 * l + 2 * k))) t
    Tb.set VCell.zero t (8 * l + 4)
      ⟨BitVec.ofNat 32 (noteNum n (at' + 1568 + 6 * l) 4), BitVec.ofNat 16 (noteNum n (at' + 1572 + 6 * l) 2)⟩) ([] : List (Nat × VCell))
  let i := match decodeWord word with | .ok iw => iw.i | .error _ => .nop
  let held := w0.testBit 62
  let slots := match i with | .bxlt .. => if held then [] else slots | _ => slots
  { id := id, instr := i, word := word, pc := BitVec.ofNat 48 (s.num (pa + 8) 8),
    valid := w0.testBit 63 && (match decodeWord word with | .ok _ => true | .error _ => false), held := held,
    mask := BitVec.ofNat 64 (s.num (pa + 16) 8), performed := 0, uop := BitVec.ofNat 64 (s.num (pa + 24) 8),
    ueb := BitVec.ofNat 16 (noteNum n (at' + 1952) 2), slots := slots, acc := [], contested := [], told := [] }

/-- A timer from the flags and its deadline. -/
def loadTimer (f : Nat) (d : Nat) : Timer := ⟨f.testBit 0, f.testBit 1, BitVec.ofNat 64 d⟩
/-- The user registers of an image: those of the supervisor bank's names go to the user bank. The reserved bit of a descriptor (Table 9-1)
stays 0 (R9). -/
def loadRegs (s : State) (pa : Nat) (g : Group) : Group :=
  let sc := fun (i : Nat) => (⟨BitVec.ofNat 64 (s.num (pa + 0x800 + 8 * i) 8), loadEb s (pa + 0xA00 + 2 * i)⟩ : SCell)
  let n := g.width * g.regs
  let g := (List.range 56).foldl (fun g i => g.setS i (sc i)) g
  let g := (List.range 7).foldl (fun g k => (List.range g.width).foldl (fun g l => g.setP k l (s.byte (pa + 0xC00 + 64 * k + l))) g) g
  let g := (List.range 7).foldl (fun g i => g.setB i (loadB s (pa + 0x500 + 24 * i))) g
  let g := (List.range 16).foldl (fun g i => g.setD i (BitVec.ofNat 128 (s.num (pa + 0x600 + 16 * i) 16) &&& ~~~(2 ^ 57))) g
  let g := (List.range 8).foldl (fun g i =>
    let q := pa + 0x300 + 32 * i
    g.setK i ⟨BitVec.ofNat 64 (s.num q 8), BitVec.ofNat 64 (s.num (q + 8) 8), BitVec.ofNat 48 (s.num (q + 16) 8),
      decide (s.num (q + 24) 8 % 2 = 1)⟩) g
  let g := (List.range n).foldl (fun g i =>
    g.setV (i / g.width) (i % g.width)
      ⟨BitVec.ofNat 32 (s.num (pa + 0xE000 + 4 * i) 4), loadEb s (pa + 0xE000 + 4 * n + 2 * i)⟩) g
  { g with bank :=
      ⟨(List.range 8).map (fun i => (i, sc (56 + i))), (List.range g.width).map (fun l => (l, s.byte (pa + 0xC00 + 448 + l))),
       loadB s (pa + 0x500 + 24 * 7), []⟩ }
/-- An error budget of an image: none exceeds 0xFF00 (R107). -/
def loadEbud (s : State) (pa : Nat) : EB := BitVec.ofNat 16 (min 0xFF00 (s.num pa 2))
/-- The lanes, special registers, frame and replay queue of an image. -/
def loadState (s : State) (pa : Nat) (g : Group) : Group :=
  let q := pa + 0x100
  let fl := s.num (q + 64) 8
  let f := fun (i : Nat) => s.num (pa + 0x400 + 8 * i) 8
  let hnd := (s.num q 8).testBit 15
  let note := noteOf s pa
  let lanes := g.lanes.mapIdx (fun l x =>
    { x with epc := BitVec.ofNat 48 (s.num (pa + 0xE00 + 64 * l) 8), lst := ofLstate (s.num (pa + 0xE08 + 64 * l) 8) (noteNum note (0xE30 + 64 * l) 1) })
  let depth := s.num (pa + 0x280) 8
  let regions : List (BitVec 12 × EB) := (List.range (min depth 16)).map (fun i =>
    (BitVec.ofNat 12 (s.num (pa + 0x200 + 8 * i) 8), loadEbud s (pa + 0x202 + 8 * i)))
  let fails := (List.range 16).filterMap (fun i =>
    let r := pa + 0x1E00 + 32 * i
    if s.num r 1 % 2 = 0 then none
    else
      let lo : Word := BitVec.ofNat 32 (s.num (r + 4) 4)
      some (FailRec.mk lo (BitVec.ofNat 32 (s.num (r + 8) 4)) (BitVec.ofNat 8 (s.num (r + 12) 4)) (BitVec.ofNat 32 (s.num (r + 16) 4))
        (BitVec.ofNat 64 (s.num (r + 20) 8)) lo 0))
  let arr := (List.range g.width).foldl (fun t l => (List.range 8).foldl (fun t i =>
    let w := s.num (pa + 0xE10 + 64 * l + 4 * i) 4
    Tb.set Arrival.clear t (64 * i + l) ⟨w.testBit 31, w.testBit 30, BitVec.ofNat 12 (w / 65536), BitVec.ofNat 16 w⟩) t) ([] : List (Nat × Arrival))
  { g with
    lanes := lanes, arr := arr,
    frame := ⟨BitVec.ofNat 11 (f 0), BitVec.ofNat 64 (f 1), BitVec.ofNat 64 (f 2), BitVec.ofNat 64 (f 3), BitVec.ofNat 48 (f 4),
      BitVec.ofNat 64 (f 5), BitVec.ofNat 64 (f 6)⟩,
    replay := (List.range (min 24 (f 7))).map (fun i => loadEntry s note (0x2000 + 2048 * i) (pa + 0x2000 + 2048 * i) i),
    sp := { g.sp with
      flags := BitVec.ofNat 5 (s.num q 8), ebud := loadEbud s (q + 8), chandler := BitVec.ofNat 48 (s.num (q + 16) 8),
      ctxclk := BitVec.ofNat 64 (s.num (q + 24) 8), hnd := hnd,
      hndMask := if hnd then BitVec.ofNat 64 (noteNum note 16 8) &&& fullMask g.lanes.length else 0,
      regions := regions, ovf := BitVec.ofNat 11 (s.num (pa + 0x288) 8) },
    ctl := { g.ctl with
      cyc := loadTimer fl (s.num (q + 48) 8), wal := loadTimer (fl / 4) (s.num (q + 56) 8),
      closed := BitVec.ofNat 32 (s.num (q + 72) 4), fails := fails, interval := BitVec.ofNat 32 (s.num (q + 100) 4),
      pubs := (List.range 4).map (fun t => BitVec.ofNat 32 (s.num (q + 104 + 6 * t) 6)),
      wallOff := BitVec.ofNat 64 (s.num (q + 32) 8 - s.now),
      rehalt := (s.num (pa + 14) 1).testBit 0, userMarker := decide (noteNum note 14 1 = 1), ctxrsUsed := true } }
/-- CTXRS on an image that matches (R335, R398). -/
def loadImage (s : State) (h pa : Nat) : State := s.modG h (fun g => loadState s pa (loadRegs s pa g))

end Sys2Proof.Machine
end

