-- ==== Sys2Proof/Machine/Replay.lean ====
section
/-! DEFINITION. Operations performed again: lanes that were rejected (R139, R332) and replay entries (R327). -/

namespace Sys2Proof.Machine

/-- The context of an entry whose operation is performed outside its issue. -/
def entryCtx (s : State) (h : Nat) (e : Entry) : Ctx := let g := s.grp h; ⟨h, g.core, g.sp.tag.toNat, g.sp.sv, e.pc⟩

/-- The group enters the fault path for an outstanding load, outside an issue; in supervisor mode that is a double trap (R328). `slot` is the
slot that the load had in its chain. -/
def pageResume (h : Nat) (e : Entry) (slot : Nat) (s : State) (m : Mask) (n : Nat) : State :=
  if (s.grp h).sp.sv then doubleAt s h 0x2B e.pc
  else
    let s := (perform s h e.id).bump h 0x10 1
    enterSupervisor s h 0x2B n slot false m m e.pc none (some e.id)

/-- The accesses of an atomic that find request entries, by whole locations (R156), of those that its lanes now make. -/
def fitAtoms (old new : List (Nat × LaneAcc)) (free : Nat) : List (Nat × LaneAcc) :=
  let fresh := new.filter (fun a => (Tb.get? old a.1).isNone)
  let fit := acceptAtoms (fresh.map (fun a => (MemJob.mk a.1 (maskOf [a.1]) a.2.va [], a.2))) free
  new.filter (fun a => (Tb.get? old a.1).isSome || (Tb.get? fit a.1).isSome)
/-- A load or an atomic again: each lane translates afresh, through the TLB (R327); lanes beyond the free request entries stay
rejected, those of an atomic by whole locations, since one location is applied undivided (R156). -/
def resumeAccess (s : State) (h : Nat) (e : Entry) (slot : Nat) : State :=
  let x := entryCtx s h e
  let ls := idleLanes e
  let free := requestsFree s x.core h
  if isAtomic e.instr then
    let (s, ps) := ls.foldl (startLane x none e.id) (s, [])
    let s := modEntry s h e.id (fun q => { q with acc := fitAtoms e.acc q.acc free })
    let rej := match findEntry s h e.id with
      | some q => maskOf ((idleLanes q).filter (fun l => !(pageMask ps).getLsbD l))
      | none => 0
    endStart s x e.id rej ps (pageResume h e slot)
  else
    let (s, ps) := (ls.take free).foldl (startLane x none e.id) (s, [])
    let rej := if isUniformLoad e.instr then (if free = 0 then e.mask else 0) else maskOf (ls.drop free)
    endStart s x e.id rej ps (pageResume h e slot)
/-- LDT again: it waits while a task names the tile (R133). -/
def resumeTile (s : State) (h : Nat) (e : Entry) : State :=
  let g := s.grp h
  match s.team? g.launch g.team with
  | none => s
  | some t =>
    let n := loadBytes e.instr
    let sb := Opd.ofS ⟨e.uop, e.ueb⟩
    let off := fun (l : Nat) => Opd.ofV (Tb.get VCell.zero e.slots (8 * l))
    let ls := idleLanes e
    let busy := ls.filter (fun l =>
      (firstTok [off l, sb]).isNone && engineTile s t.launch t.id (tileAddr (off l).v sb.v n / 0x8000))
    if busy ≠ [] then holdLanes s h e (maskOf ls)
    else startTile s t h e ls sb off n
/-- BNDRD again: a cell that no longer translates gives its token (log entry 21). -/
def resumeCell (s : State) (h : Nat) (e : Entry) : State :=
  let va := e.uop.toNat
  match laneAccess s (entryCtx s h e) none .read 8 va with
  | (s, .ok a) =>
    modEntry s h e.id (fun e =>
      { e with slots := Tb.put (Tb.put e.slots 512 (VCell.exact a.pa)) 513 (VCell.exact (a.pa / 2 ^ 32)) })
  | (s, r) =>
    let c := match r with | .fail c => c | _ => 2
    modEntry (s.bump h 0x13 (lanesOf e.mask).length) h e.id
      (fun e => (lanesOf e.mask).foldl (fun e l => e.done l [VCell.tok (vaTok c va), VCell.tok (vaTok c va)]) e)

/-- One outstanding entry whose operation must be performed again. In supervisor mode only a held one has any left to perform, since trap
entry captured the user's. -/
def resumeEntry (s : State) (h id slot : Nat) : State :=
  match findEntry s h id with
  | none => s
  | some e =>
    if e.ready || !(s.grp h).rejected.isNone || (s.grp h).ctl.halted then s
    else
      match e.instr with
      | .ldt .. => resumeTile s h e
      | .bxlt .. =>
        let v := e.uop.toNat
        let (s, r) := translate s (entryCtx s h e) v .any
        modEntry s h id (fun e => { (e.setCells 0 (bxltCells v r)) with performed := e.mask })
      | .bndrd .. => if (Tb.get? e.slots 512).isSome then s else resumeCell s h e
      | i => if isLate i then s else if idleLanes e = [] then s else resumeAccess s h e slot
/-- Every entry in issue order, until one enters the fault path or is held. A re-injected word stands alone, with C clear: its slot in its
chain is 0 (R326, log entry 14). -/
def resumeAll (s : State) (h : Nat) : State := ((s.grp h).outst.map (·.id)).foldl (fun s id => resumeEntry s h id 0) s

/-- The held lanes of a load or an atomic try again; the count of releases goes on where some are rejected again (R139). Where none is, the
entries that stand behind it are performed again in their turn (R327). -/
def retryAccess (s : State) (h : Nat) (r : Held) : State :=
  let pc := match findEntry s h r.entry.id with | some e => e.pc | none => r.entry.pc
  let s := resumeEntry (s.modG h (fun g => { g with rejected := none })) h r.entry.id (slotOf pc - slotOf r.entry.pc)
  match (s.grp h).rejected with
  | some q =>
    s.modG h (fun g => { g with rejected := some { q with entry := { q.entry with pc := r.entry.pc }, tries := r.tries } })
  | none => resumeAll s h
/-- REQUEST_RETRY (R139, R332): the held lanes of a load or an atomic try again. A store or an atomic that is held whole issues again at its
chain's first word, where its lanes that were not accepted walk the table afresh (R365): an empty mask says that it may. A kill that waited
for the instruction takes effect once it is whole (R338). A die without power makes no request (R420). -/
def retryRequest (s : State) (h : Nat) : State :=
  match (s.grp h).rejected with
  | none => s
  | some r =>
    if (s.die (dieOf (s.grp h).core)).off then s
    else if (findEntry s h r.entry.id).isSome then killDue (retryAccess s h r) h
    else s.modG h (fun g => { g with rejected := some { r with mask := 0 } })
def execRequestRetry (h : Nat) (s : State) : Res := .next (retryRequest s h)

end Sys2Proof.Machine
end

