-- ==== Sys2Proof/Machine/Supervisor.lean ====
section
/-! DEFINITION. The supervisor instructions (R329 to R339, Tables 13-1 to 13-6). -/

namespace Sys2Proof.Machine

/-! ### Return, replay queue, fault records -/

/-- The lanes that SRET would set running, with their EPCs. -/
def sretTargets (g : Group) : List (Nat × PC) :=
  (g.lanes.zip (List.range g.lanes.length)).filterMap (fun x =>
    if (x.1.lst = .done ∧ x.1.st = .done) ∨ g.frame.killm.getLsbD x.2 = true ∨ x.1.lst ≠ .run then none else some (x.2, x.1.epc))
/-- SRET (R330); an EPC of slot 3, which an image can bring, raises MISPC in place of the return (R61). -/
def execSret (s : State) : Res :=
  issue .sret s (fun s =>
    if misaligned (sretTargets s.curG) = [] then returnFromTrap resumeAll s s.cur.h else mispc s (sretTargets s.curG))

/-- The replay entry that sa[4:0] names; an index of 24 or more is illegal (R331). -/
def replayIndex (v : Nat) : Nat := v % 32
/-- RQRD of a header word. -/
def execRqrd (d a : Reg) (w : BitVec 2) (s : State) : Res :=
  issue (.rqrd d a w) s (fun s =>
    let i := replayIndex (s.os a).v
    if 24 ≤ i then illegal s
    else
      let x := match s.cur.rd.replay[i]? with | some e => entryHeader e w.toNat | none => 0
      addEntry s s.cur.h ((newEntry s (.rqrd d a w) s.cur.mask 0 [] []).doneU (SCell.exact x)))
/-- RQRD.v: lanes outside MASK read 0. -/
def execRqrdV (d a : Reg) (n : BitVec 2) (s : State) : Res :=
  issue (.rqrdV d a n) s (fun s =>
    let i := replayIndex (s.os a).v
    if 24 ≤ i then illegal s
    else
      let x := fun (l : Nat) => match s.cur.rd.replay[i]? with
        | some e => if e.mask.getLsbD l then entrySlot e l n.toNat else VCell.zero
        | none => VCell.zero
      addEntry s s.cur.h ((lanesOf s.cur.mask).foldl (fun e l => e.done l [x l]) (newEntry s (.rqrdV d a n) s.cur.mask 0 [] [])))
/-- Change a captured entry; an index beyond the captured entries changes nothing (log entry 22). -/
def setReplay (s : State) (i : Nat) (f : Entry → Entry) : State := s.upG (fun g => { g with replay := g.replay.modify i f })
/-- RQWR of a header word: word 1 is illegal. -/
def execRqwr (a b : Reg) (w : BitVec 2) (s : State) : Res :=
  issue (.rqwr a b w) s (fun s =>
    let i := replayIndex (s.os a).v
    let x : DWord := BitVec.ofNat 64 (s.os b).v
    if 24 ≤ i ∨ w = 1 then illegal s
    else
      setReplay s i (fun e =>
        if w = 0 then { e with valid := x.getLsbD 63, held := x.getLsbD 62 }
        else if w = 2 then { e with mask := e.mask &&& x } else { e with uop := x, ueb := 0 }))
def execRqwrV (a b : Reg) (n : BitVec 2) (s : State) : Res :=
  issue (.rqwrV a b n) s (fun s =>
    let i := replayIndex (s.os a).v
    if 24 ≤ i then illegal s
    else
      setReplay s i (fun e =>
        (lanesOf s.cur.mask).foldl (fun e l => { e with slots := Tb.set VCell.zero e.slots (8 * l + n.toNat) (s.rv b l) }) e))

/-- FRQPOP (R332): the oldest record, or four zero words. -/
def execFrqpop (d : Reg) (s : State) : Res :=
  issue (.frqpop d) s (fun s =>
    let c := s.cur.rd.core
    let q := (s.core c).frq
    let r := q.headD ⟨0, 0, 0, 0⟩
    let words := [r.w0, r.w1, r.w2, r.w3].flatMap pairCells
    let s := s.modCore c (fun c => { c with frq := q.drop 1 })
    let e := (newEntry s (.frqpop d) s.cur.mask 0 [] []).setCells 0 words
    addEntry s s.cur.h { e with performed := e.mask })

/-! ### Invalidation (R333, R365) -/

/-- The recipients: every core, and the firmware processor (256). -/
def recipients : List Nat := List.range 257
/-- Send an invalidation. -/
def sendInval (s : State) (by_ : Option Nat) (tag base pages : Nat) (mode : BitVec 2) : State × Nat :=
  let (id, s) := s.newId
  let iv : Inval := ⟨id, by_, BitVec.ofNat 16 tag, base, pages, mode, [], recipients, [], []⟩
  ({ s with work := { s.work with invals := s.work.invals ++ [iv] } }, id)
/-- TLBINV: a ninth without acknowledgement stalls; it is a release at device scope. -/
def tlbinvBody (tag base pages : Nat) (mode : BitVec 2) (s : State) : State :=
  if 8 ≤ s.curG.ctl.invs.length then stall s 12
  else
    let s := release s s.cur.h .dev
    if mode = 0 ∧ pages = 0 then s
    else
      let (s, id) := sendInval s (some s.cur.h) tag base pages mode
      s.upG (fun g => { g with ctl := { g.ctl with invs := g.ctl.invs ++ [id] } })
def execTlbinvRange (a b : Reg) (s : State) : Res :=
  issue (.tlbinvRange a b) s (fun s =>
    let x := (s.os b).v
    tlbinvBody (x % 65536) (bits (s.os a).v 56 12 * 4096) (bits x 47 16) 0 s)
def execTlbinvTag (a b : Reg) (s : State) : Res :=
  issue (.tlbinvTag a b) s (fun s => tlbinvBody ((s.os b).v % 65536) 0 0 1 s)
def execTlbinvAll (a b : Reg) (s : State) : Res := issue (.tlbinvAll a b) s (tlbinvBody 0 0 0 2)
def execTlbwait (s : State) : Res :=
  issue .tlbwait s (fun s => if s.curG.ctl.invs = [] then acquire s s.cur.h .dev else stall s 12)

/-! ### Context (R334, R335) -/

/-- The lanes of a saved supervisor frame that KILLM names, and that are not DONE yet. -/
def killmLanes (g : Group) : List Nat :=
  if g.sp.sv then (List.range g.lanes.length).filter (fun l => g.frame.killm.getLsbD l && decide ((g.lane l).lst ≠ .done)) else []
/-- Those lanes pass to DONE in the user's lane states, and leave the knots and a containment handler (R32, R221). -/
def killmDone (g : Group) : Group :=
  let ls := killmLanes g
  let u := { g with lanes := g.lanes.mapIdx (fun l x => { x with pc := x.epc, st := if ls.contains l then .done else x.lst }) }
  let u := endHandler (strikeAll u (maskOf ls))
  { u with lanes := (u.lanes.zip g.lanes).map (fun x => { x.2 with epc := x.1.pc, lst := x.1.st }) }
/-- The lanes of KILLM as their group is saved (R334): they pass to DONE with the effects of R40, drops from every barrier among them. -/
def saveKillm (s : State) (h : Nat) : State :=
  match killmLanes (s.grp h) with
  | [] => s
  | l :: t => dropLanes (s.modG h killmDone) h (l :: t)
/-- A group in user mode that is saved halted has its operations captured that its SRET re-injected and that have not been performed (R327,
R339); any other has none. -/
def captureHalted (s : State) (h : Nat) : State := if (s.grp h).sp.sv then s else capture s h none
/-- The group's image is written and the group issues nothing more (R334, R37): its stores are released at system scope (R150). Every
outstanding result returns first: with DEBUG clear R180 lets CTXSV read the old or the new value of a register that a supervisor's result
writes, and the image holds the new one (DESIGN CHOICE, log entry 29). -/
def saveGroup (s : State) (h pa : Nat) : State :=
  let s := match softCells ((s.grp h).soft ++ (s.grp h).bank.soft) with | [] => s | xs => s.bump h 0x13 xs.length
  let s := captureHalted (saveKillm (release (finishAll s h) h .sys) h) h
  let g := s.grp h
  let retiring := g.lanes.all (fun x => decide (x.st = .done))
  let img := groupImage s (savedForm g) retiring
  let s := putNote (s.setBytes pa img) pa (ofBytes ((img.drop 4).take 4)) (groupNote (savedForm g))
  s.modG h (fun g => { g with ctl := { g.ctl with saved := true, saving := false } })
/-- CTXSV: the save waits for the group's tasks (R253, R278). -/
def execCtxsv (a : Reg) (s : State) : Res :=
  issue (.ctxsv a) s (fun s =>
    let pa := (s.os a).v
    let c := s.curG.frame.tcause.toNat % 256
    if pa % 4096 ≠ 0 ∨ !(c = 0x2E ∨ c = 0x2F ∨ preqOf s s.curG = true) then illegal s
    else if groupTasks s s.curG ≠ [] then stall s 0
    else saveGroup s s.cur.h pa)
/-- An image that does not match loads nothing, and is reported (R335, R398). -/
def restFail (s : State) (h : Nat) : State :=
  let g := s.grp h
  let s := match s.launch? g.launch with
    | some l => postJournal s 10 l.func 0 (toBytes 8 l.cb ++ toBytes 8 l.number ++ toBytes 4 g.team ++ toBytes 4 g.gid)
    | none => s
  s.modG h (fun g => { g with ctl := { g.ctl with ctxrsUsed := true, restFailed := true } })
/-- CTXRS: p7 says whether the image was loaded. -/
def execCtxrs (a : Reg) (s : State) : Res :=
  issue (.ctxrs a) s (fun s =>
    let pa := (s.os a).v
    let g := s.curG
    if !g.sp.rst || g.ctl.ctxrsUsed then illegal s
    else
      let ok := imageOk s pa g
      let s := if ok then loadImage s s.cur.h pa else restFail s s.cur.h
      s.upG (fun g => g.setPs 7 ((List.range g.width).map (fun l => (l, mkPred ok false)))))

/-! ### Debug (R336) -/

/-- Controls that DBGSET refuses. -/
def dbgBad (k : Nat) : Bool := decide (4 ≤ bits k 3 1) || decide (57 < bits k 9 4) || (decide (bits k 3 1 = 0) && decide (bits k 9 4 ≠ 0))
/-- The fields that DBGK holds: its reserved bits stay 0. -/
def dbgControl (k : Nat) : BitVec 48 := BitVec.ofNat 48 (bits k 47 32 * 2 ^ 32 + k % 2 ^ 11)
def execDbgset (d a b : Reg) (n : BitVec 3) (s : State) : Res :=
  issue (.dbgset d a b n) s (fun s =>
    let k := (s.os d).v
    if dbgBad k then illegal s
    else
      s.modCore s.cur.rd.core (fun c =>
        { c with dbg := Tb.set Comparator.zero c.dbg n.toNat
                   ⟨BitVec.ofNat 57 (s.os a).v, BitVec.ofNat 64 (s.os b).v, dbgControl k⟩,
                 dbgHit := c.dbgHit &&& ~~~(BitVec.ofNat 8 (2 ^ n.toNat)) }))

/-! ### The supervisor register view (R320 to R322, R337) -/

/-- Registers held per group or per core (Table 13-1). -/
def svReg (s : State) (n : Nat) : Option Nat :=
  let g := s.cur.rd
  let c := s.core g.core
  let cmp := fun (i : Nat) => Tb.get Comparator.zero c.dbg i
  if n = 0x203 then some (statusSv g)
  else if 0x200 ≤ n ∧ n ≤ 0x209 then commonReg s g (n - 0x200)
  else if 0x220 ≤ n ∧ n ≤ 0x227 then some (cmp (n - 0x220)).v.toNat
  else if 0x228 ≤ n ∧ n ≤ 0x22F then some (cmp (n - 0x228)).m.toNat
  else if 0x230 ≤ n ∧ n ≤ 0x237 then some (cmp (n - 0x230)).k.toNat
  else
    match n with
    | 0x210 => some s.dev.scbase.toNat
    | 0x211 => some s.dev.vtab.toNat
    | 0x212 => some g.frame.tcause.toNat
    | 0x213 => some g.frame.tpayload.toNat
    | 0x214 => some g.frame.tmask.toNat
    | 0x215 => some g.frame.pcm.toNat
    | 0x216 => some g.frame.tpc.toNat
    | 0x217 => some g.frame.tstamp.toNat
    | 0x21A => some g.frame.killm.toNat
    | 0x21B => some g.sp.tag.toNat
    | 0x21C => some g.core
    | 0x21D => some (c.frq.length + b2n c.frqOvf * 65536)
    | 0x238 => some c.dbgHit.toNat
    | _ => none
/-- Registers held per lane; LANEID differs by lane, and a uniform read of it gives lane 0's (Table 2-5). -/
def laneReg (s : State) (n l : Nat) : Option Nat :=
  match n with
  | 0x200 => some l
  | 0x218 => some (s.cur.rd.lane l).epc.toNat
  | 0x219 => some (lstateOf (s.cur.rd.lane l).lst)
  | _ => none

def execSsr (n : BitVec 10) (r : Reg) (s : State) : Res :=
  issue (.ssr n r) s (fun s =>
    match svReg s n.toNat with
    | some x => uniOp s r [] (SCell.exact x)
    | none => illegal s)
def execSsrV (n : BitVec 10) (r : Reg) (s : State) : Res :=
  issue (.ssrV n r) s (fun s =>
    match svReg s n.toNat, laneReg s n.toNat 0 with
    | none, none => illegal s
    | x, _ => vecOp64 s r (fun l => ⟨match laneReg s n.toNat l with | some y => y | none => x.getD 0, 0, none⟩))
def execSsrP (n : BitVec 10) (r : Reg) (s : State) : Res :=
  issue (.ssrP n r) s (fun s =>
    match svReg s n.toNat with
    | some x => predOp s (r.setWidth 3) (fun l => mkPred (x.testBit l) false)
    | none => illegal s)
/-- SSW of a register held per group or per core: its RW fields take the value, its W1C fields clear (R9). A CHANDLER value of slot 3 is
illegal, as R59 says of SWSR; R337 does not say it of SSW (DESIGN CHOICE, log entry 54). -/
def execSsw (n : BitVec 10) (r : Reg) (s : State) : Res :=
  issue (.ssw n r) s (fun s =>
    let x : DWord := BitVec.ofNat 64 (s.os r).v
    match n.toNat with
    | 0x203 =>
      let hnd := x.getLsbD 15
      let m := if !hnd then 0 else if s.curG.sp.hnd then s.curG.sp.hndMask else Config.freeMask s.free &&& fullMask s.cur.rd.width
      { (s.upG (fun g => { g with sp := { g.sp with flags := g.sp.flags &&& ~~~(x.setWidth 5), hnd := hnd, hndMask := m } })) with
        free := s.free + 1 }
    | 0x205 => s.upG (fun g => { g with sp := { g.sp with ebud := if 0xFF00 < x.toNat % 65536 then 0xFF00 else x.setWidth 16 } })
    | 0x207 => if x.toNat % 4 = 3 then illegal s else s.upG (fun g => { g with sp := { g.sp with chandler := x.setWidth 48 } })
    | 0x21A => s.upG (fun g => { g with frame := { g.frame with killm := x } })
    | 0x21D => if x.getLsbD 16 then s.modCore s.cur.rd.core (fun c => { c with frqOvf := false }) else s
    | 0x238 => s.modCore s.cur.rd.core (fun c => { c with dbgHit := c.dbgHit &&& ~~~(x.setWidth 8) })
    | _ => illegal s)
/-- SSW.v writes EPC, the one per-lane register with a writable field. -/
def execSswV (n : BitVec 10) (r : Reg) (s : State) : Res :=
  issue (.sswV n r) s (fun s =>
    let ls := lanesOf s.cur.mask
    if n ≠ 0x218 ∨ ls.any (fun l => decide ((s.ov r l).v % 4 = 3)) = true then illegal s
    else s.upG (fun g => ls.foldl (fun g l => g.setLane l (fun x => { x with epc := BitVec.ofNat 48 (s.ov r l).v })) g))

/-! ### Kill and halt (R338, R339) -/

def execKill (a : Reg) (s : State) : Res :=
  issue (.kill a) s (fun s =>
    s.upG (fun g => { g with frame := { g.frame with killm := g.frame.killm ||| BitVec.ofNat 64 (s.os a).v } }))
/-- KILL.team ends the launch with the cause of the trap that the group serves (R381). -/
def killOwn (s : State) (h : Nat) (dump : Bool) : State :=
  let g := s.grp h
  killLaunch s g.launch (g.frame.tcause.toNat % 256) g.team g.frame.tpc g.frame.tpayload dump (some h) g.ctl.restFailed
def execKillTeam (s : State) : Res := issue .killTeam s (fun s => killOwn s s.cur.h false)
def execKillDump (s : State) : Res := issue .killDump s (fun s => killOwn s s.cur.h true)
def execHalt (s : State) : Res := issue .halt s (fun s => s.upG (fun g => { g with ctl := { g.ctl with halted := true } }))

end Sys2Proof.Machine
end

