-- ==== Sys2Proof/Machine/Events.lean ====
section
/-! DEFINITION. Steps of the memory path and of the groups: results, atomics, stores (R156, R179, R365), pre-emption and stop
deadlines (R36 to R38, R340), timers (R277), retention (R140), watch copies (R165), invalidation (R365). -/

namespace Sys2Proof.Machine

/-! ### Results, atomics, stores -/

/-- The group's outstanding atomic is one that the emulation routine serves under its locks (R369). -/
def emulated (s : State) (h : Nat) : Bool := decide ((s.grp h).ctl.rom = some 0x2C)
/-- A result returns once its accesses are served (R140), or the first half of some 128-bit loads of CXL memory does (R142). A die without
power returns none (R420). -/
def returnResult (s : State) (h id : Nat) : State :=
  match findEntry s h id with
  | none => s
  | some e =>
    if (s.die (dieOf (s.grp h).core)).off then s
    else
      match reachBanks s (entryBanks s h e) with
      | (false, s) => s
      | (true, s) =>
        let t := tearLoad s h e
        if findEntry t h id = some e then finishEntry t h id else t
/-- RESULT_RETURN: an outstanding result is performed, if it was not, and written (R179). -/
def execResultReturn (h id : Nat) (s : State) : Res := .next (if emulated s h then s else returnResult s h id)

/-- A store reaches its home once the banks there serve (R140): whole, or the two 64-bit halves of 16 bytes of CXL memory one after the
other (R142). -/
def homeStep (s : State) (id : Nat) : State :=
  match s.mem.pend.find? (fun p => decide (p.id = id)) with
  | none => s
  | some p =>
    if (s.die (dieOf p.core)).off then s
    else
    match reachBanks s p.banks with
    | (false, s) => s
    | (true, s) =>
      if p.tears then
        let (tear, s) := s.choose
        if tear then tearStore (forceBefore s p.h id p.sectors) p else storeHome s id
      else storeHome s id
/-- The engine applies the lanes of one location of an outstanding atomic (R156), or an AXADD that reaches it. -/
def applyAtomicAt (s : State) (h id : Nat) : State :=
  match findEntry s h id with
  | none => if (s.mem.pend.any (fun p => decide (p.id = id) && decide (p.h = h))) then homeStep s id else s
  | some e =>
    if !isAtomic e.instr || (s.die (dieOf (s.grp h).core)).off then s
    else
      match e.acc with
      | [] => s
      | _ :: _ =>
        match reachBanks s (entryBanks s h e) with
        | (true, s) => performLocation (forceBefore s h id e.sectors) h id
        | (false, s) => s
def execAtomicApply (h id : Nat) (s : State) : Res := .next (if emulated s h then s else applyAtomicAt s h id)

/-- STORE_REACHES_HOME (R365). -/
def execStoreReachesHome (id : Nat) (s : State) : Res := .next (homeStep s id)

/-! ### Images in the context area (R319, R389, R394) -/

/-- Tiles of a team (R21), lanes, groups, and bytes of its image (Table 15-9). -/
def LaunchRec.tiles (r : LaunchRec) : Nat := alignUp r.pond 0x8000 / 0x8000
def LaunchRec.lanes (r : LaunchRec) : Nat := r.team.1 * r.team.2.1 * r.team.2.2
def LaunchRec.groups (r : LaunchRec) : Nat := alignUp r.lanes r.width / r.width
def LaunchRec.teams (r : LaunchRec) : Nat := r.grid.1 * r.grid.2.1 * r.grid.2.2
def LaunchRec.imageSize (r : LaunchRec) : Nat := groupImageOff r.width r.regs r.tiles r.groups

/-- Images of a function that are in use: address and size. -/
def imagesOf (s : State) (f : Nat) : List (Nat × Nat) :=
  s.work.launches.flatMap (fun l =>
    if l.func ≠ f then []
    else
      (l.savedTeams.map (fun t => (t.2, l.rc.imageSize))) ++
      (s.work.teams.filterMap (fun t => if t.launch = l.key ∧ t.image ≠ 0 then some (t.image, l.rc.imageSize) else none)))
/-- The lowest place in a function's context area where an image of a size fits (log entry 23). -/
def imageRoom (s : State) (f size : Nat) : Option Nat :=
  let fn := s.func f
  let used := imagesOf s f
  let ok := fun (a : Nat) => decide (a + size ≤ fn.ctxPa + fn.ctxSize) &&
    used.all (fun u => decide (a + size ≤ u.1) || decide (u.1 + u.2 ≤ a))
  let starts := fn.ctxPa :: used.map (fun u => u.1 + u.2)
  if fn.ctxSize = 0 then none
  else (starts.filter ok).foldl (fun b a => match b with | none => some a | some c => some (min a c)) none
/-- Whether a team has room for its image, and the team with it. -/
def placeImage (s : State) (l : Launch) (t : Team) : Option Nat :=
  if t.image ≠ 0 then some t.image else imageRoom s l.func l.rc.imageSize

/-! ### Pre-emption (R36 to R38) -/

/-- No lane of the group is outside the parked states. -/
def parked (g : Group) : Bool := g.lanes.all (fun x => decide (x.st ≠ .run))
/-- A request reaches the core: PREQ reads 1, the deadline count starts, and parked and halted groups are saved at once (R37,
R339). A core without power takes none (R420). Where the context area has no room for the team's image, its groups are saved once it has (`assignImage`, log entry 23). -/
def requestPreempt (s : State) (k t : Nat) : State :=
  match s.launch? k, s.team? k t with
  | some l, some tm =>
    if tm.preq || tm.dead || (s.die (dieOf tm.core)).off then s
    else
      let a := (placeImage s l tm).getD 0
      let s := s.modTeam k t (fun x => { x with preq := true, preqCnt := 0, preqLim := (s.func l.func).deadline, image := a })
      (s.teamGroups k t).foldl (fun s h => s.modG h (fun g =>
        if parked g || g.ctl.halted then { g with ctl := { g.ctl with saving := true } } else g)) s
  | _, _ => s
/-- A requested team that has no place for its image takes one when there is room. -/
def assignImage (s : State) (k t : Nat) : State :=
  match s.launch? k, s.team? k t with
  | some l, some tm =>
    if tm.preq && decide (tm.image = 0) then s.modTeam k t (fun x => { x with image := (placeImage s l tm).getD 0 }) else s
  | _, _ => s
def execPreqRequest (k t : Nat) (s : State) : Res := .next (requestPreempt s k t)

/-- The deadline forces a save of one group: it stops at its next instruction boundary with the cause PREEMPT, or after its SRET (R328). A
die without power forces nothing (R420). A group that executes HALT while PREQ is 1 is saved once it is resumed, and one that a restore
halted again here: R339 has only those that are halted as PREQ becomes 1 saved at once (DESIGN CHOICE, log entry 23). -/
def forcePreempt (s : State) (h : Nat) : State :=
  let g := s.grp h
  if g.midway || (s.die (dieOf g.core)).off || g.ctl.saved || g.ctl.saving || g.ctl.dead then s
  else if g.sp.sv then s.modG h (fun g => { g with ctl := { g.ctl with preemptPend := true } })
  else if g.ctl.halted || g.lanes.all (fun x => decide (x.st = .done)) then s.modG h (fun g => { g with ctl := { g.ctl with saving := true } })
  else enterSupervisor { s with free := s.free + 1 } h 0x2F 0 0 false 0 0 (Config.freePc s.free) none none
/-- PRE_EMPTION_DEADLINE (R38). -/
def preemptDeadline (s : State) (k t : Nat) : State :=
  let s := assignImage s k t
  match s.team? k t with
  | none => s
  | some tm =>
    if tm.preq && decide (tm.preqLim ≤ tm.preqCnt) && decide (tm.image ≠ 0) then (s.teamGroups k t).foldl forcePreempt s else s
def execPreEmptionDeadline (k t : Nat) (s : State) : Res := .next (preemptDeadline s k t)

/-- STOP_DEADLINE (R340): a group that met no region edge in time traps with FORCED, or after its SRET (R328). One that has retired takes no
stop, and while PREQ is set the group is to be saved and the stop stays pending (R401). -/
def stopForced (s : State) (h : Nat) : State :=
  let g := s.grp h
  if !g.ctl.stopPend || decide (g.ctl.stopCnt < g.ctl.stopLim) || g.ctl.saved || g.ctl.saving || g.ctl.dead || g.retired || preqOf s g || g.midway ||
      (s.die (dieOf g.core)).off then s
  else if g.sp.sv then s.modG h (fun g => { g with ctl := { g.ctl with stopForced := true } })
  else
    endStop (enterSupervisor { s with free := s.free + 1 } h 0x2E 0 0 true 0 0 (Config.freePc s.free) none none) h
def execStopDeadline (h : Nat) (s : State) : Res := .next (stopForced s h)

/-! ### Timers (R277) -/

def fireIfDue (s : State) (h : Nat) (t : TimerSel) : State :=
  s.modG h (fun g => if timerDue s g t && !g.ctl.saved && !(s.die (dieOf g.core)).off then fireTimer g t else g)
def execCycleTimerFire (h : Nat) (s : State) : Res := .next (fireIfDue s h .cyc)
def execWallAlarmFire (h : Nat) (s : State) : Res := .next (fireIfDue s h .wall)

/-! ### Retention (R140): no value changes -/

/-- A bank that was not accessed for 2^20 cycles begins its entry. -/
def execRetentionEntry (b : Nat) (s : State) : Res :=
  .next (if (bankSt s b).1 = .active ∧ (bankSt s b).2 + 2 ^ 20 ≤ bankClk s b then setBankSt s b .entering else s)
def execRetentionEntryEnd (b : Nat) (s : State) : Res :=
  .next (if (bankSt s b).1 = .entering ∧ (bankSt s b).2 + 512 ≤ bankClk s b then setBankSt s b .retained else s)
/-- A bank leaves retention for the access that waits. -/
def execRetentionExit (b : Nat) (s : State) : Res :=
  .next (if (bankSt s b).1 = .exiting ∧ (bankSt s b).2 + 256 ≤ bankClk s b then setBankSt s b .active else s)

/-! ### Watch copies (R165) -/

def execWatchCopyUpdate (core pa : Nat) (s : State) : Res := .next (updateWatch s core pa)

/-! ### Invalidation (R365) -/

/-- Whether an invalidation covers the addresses from lo to hi of a tag. -/
def Inval.covers (v : Inval) (tag : BitVec 16) (lo hi : Nat) : Bool :=
  decide (v.mode = 2) || (decide (v.tag = tag) &&
    (decide (v.mode = 1) || (decide (lo < v.base + 4096 * v.pages) && decide (v.base < hi))))
def Inval.coversB (v : Inval) (tag : BitVec 16) (b : BReg) : Bool :=
  decide (b.limit ≠ 0) && v.covers tag b.vbase.toNat (b.vbase.toNat + b.limit.toNat)
/-- A covered b register keeps VBASE alone. -/
def Inval.clearB (v : Inval) (tag : BitVec 16) (b : BReg) : BReg := if v.coversB tag b then ⟨b.vbase, 0, 0, 0⟩ else b
/-- A BXLT that is outstanding, or captured with its result, leaves its b register with LIMIT 0 when its range is covered. -/
def Inval.clearEntry (v : Inval) (tag : BitVec 16) (e : Entry) : Entry :=
  match e.instr with
  | .bxlt .. =>
    if v.coversB tag (bOfCells e.uop (e.cells 0 0 4)) then e.setCells 0 [VCell.zero, VCell.zero, VCell.zero, VCell.zero] else e
  | _ => e
/-- Steps 1 and 2 for a group: its b registers, the user's b7 included, and its outstanding and captured BXLTs. -/
def Inval.clearGroup (v : Inval) (g : Group) : Group :=
  let tag := g.sp.tag
  { g with r := { g.r with b := g.r.b.map (fun e => (e.1, v.clearB tag e.2)) },
           bank := { g.bank with b := v.clearB tag g.bank.b },
           outst := g.outst.map (v.clearEntry tag), replay := g.replay.map (v.clearEntry tag) }
/-- Frames that covered translations of a core name. -/
def coveredFrames (s : State) (v : Inval) (core : Nat) : List (Nat × Nat × Nat) :=
  let gs := s.work.groups.filter (fun e => decide (e.2.core = core))
  let ts := ((s.core core).tlb.filter (fun t => v.covers t.tag t.vpage (t.vpage + t.size))).map
    (fun t => (core, pteFrame t.pte.toNat, t.size))
  let bs := gs.flatMap (fun e => (e.2.bank.b :: e.2.r.b.map (·.2)).filterMap (fun b =>
    if v.coversB e.2.sp.tag b then some (core, b.pbase.toNat, b.limit.toNat) else none))
  ts ++ bs
/-- An outstanding operation that has taken a translation and is not done: accesses on their way, and a BNDRD that has not read. -/
def Entry.translated (e : Entry) : Bool := decide (e.acc ≠ []) || (match e.instr with | .bndrd .. => !e.ready | _ => false)
/-- What a core has to drain of a copy task: the accepted requests for sectors of memory that have not been read; and a copy to memory that has
requested a sector, since its sectors are written together (R260, R365, R409; log entry 11). -/
def Task.open (t : Task) : List Nat :=
  match t.out with
  | none => []
  | some o => (if o.copy.any (fun r => match r with | .ok .. => true | .fail .. => false) then [t.id] else []) ++ o.reqs.map (·.id)
/-- Operations of a core that have taken a translation and are not done: accesses, stores on their way, sectors of copy tasks. -/
def openOps (s : State) (core : Nat) (ok : BitVec 16 → Bool) : List Nat :=
  ((s.work.groups.filter (fun e => decide (e.2.core = core) && ok e.2.sp.tag)).flatMap
    (fun e => (e.2.outst.filter Entry.translated).map (·.id))) ++
  (s.mem.pend.filter (fun p => decide (p.core = core) && ok p.tag)).map (·.id) ++
  (s.work.tasks.filter (fun t => decide (t.core = core) && ok t.tag)).flatMap Task.open

def modInval (s : State) (id : Nat) (f : Inval → Inval) : State :=
  { s with work := { s.work with invals := s.work.invals.map (fun v => if v.id = id then f v else v) } }
def findInval (s : State) (id : Nat) : Option Inval := s.work.invals.find? (fun v => decide (v.id = id))
/-- INVALIDATION_RECEIVE: steps 1 and 2 of R365. Recipient 256 is the firmware processor. -/
def receiveInval (s : State) (core id : Nat) : State :=
  match findInval s id with
  | none => s
  | some v =>
    if !v.waitFor.contains core || v.received.contains core then s
    else
      let ops := openOps s core (fun tag => decide (v.mode = 2) || decide (tag = v.tag))
      let frames := coveredFrames s v core
      let s := s.modCore core (fun c => { c with
        tlb := c.tlb.filter (fun t => !v.covers t.tag t.vpage (t.vpage + t.size)),
        nodes := c.nodes.filter (fun n => !v.covers n.tag n.base (n.base + n.size)) })
      let s := { s with work := { s.work with groups := s.work.groups.map (fun e =>
        if e.2.core = core then (e.1, v.clearGroup e.2) else e) } }
      modInval s id (fun v =>
        { v with received := core :: v.received, covered := v.covered ++ ops, frames := v.frames ++ frames })
def execInvalidationReceive (core id : Nat) (s : State) : Res := .next (receiveInval s core id)

/-- The recipient has drained: no covered operation of its own is left (R365, step 3). -/
def drained (s : State) (v : Inval) (core : Nat) : Bool :=
  v.received.contains core && (openOps s core (fun _ => true)).all (fun i => !v.covered.contains i)
/-- Whether a physical address lies in the covered frames of a core. -/
def Inval.inFrames (v : Inval) (core pa : Nat) : Bool :=
  v.frames.any (fun f => decide (f.1 = core) && decide (f.2.1 ≤ pa) && decide (pa < f.2.1 + f.2.2))
/-- INVALIDATION_ACK: steps 4 and 5 of R365; the last acknowledgement ends the invalidation. -/
def ackInval (s : State) (core id : Nat) : State :=
  match findInval s id with
  | none => s
  | some v =>
    if !v.waitFor.contains core || !drained s v core then s
    else
      let s := s.modCore core (fun c =>
        { c with fetched := c.fetched.filter (fun e => !v.inFrames core e.1),
                 l1 := c.l1.filter (fun e => !v.inFrames core (32 * e.1)) })
      let left := v.waitFor.filter (fun c => decide (c ≠ core))
      if left ≠ [] then modInval s id (fun v => { v with waitFor := left })
      else
        let s := { s with work := { s.work with invals := s.work.invals.filter (fun v => decide (v.id ≠ id)) } }
        match v.byGroup with
        | none => s
        | some h => s.modG h (fun g => { g with ctl := { g.ctl with invs := g.ctl.invs.filter (fun i => decide (i ≠ id)) } })
def execInvalidationAck (core id : Nat) (s : State) : Res := .next (ackInval s core id)

end Sys2Proof.Machine
end

