-- ==== Sys2Proof/Machine/Lines.lean ====
section
/-! DEFINITION. Launch lines (R373 to R376), launch records and their checks (R377, R378), completion (R380), and where a team
fits (R19, R21, R22, R391). Control blocks and records are named by physical addresses (log entry 25). -/

namespace Sys2Proof.Machine

/-! ### Lines -/

/-- Whether n bytes at an address lie in memory (R345). -/
def hasMem (pa n : Nat) : Bool := decide (pmem pa ≠ .none) && decide (pmem (pa + n - 1) ≠ .none)
/-- A line by the address of its control block. -/
def State.line? (s : State) (cb : Nat) : Option Line := s.work.lines.find? (fun l => decide (l.cb = cb))
def State.modLine (s : State) (cb : Nat) (f : Line → Line) : State :=
  { s with work := { s.work with lines := s.work.lines.map (fun l => if l.cb = cb then f l else l) } }
/-- The command line of a function. -/
def State.cmdLine? (s : State) (f : Nat) : Option Line := s.work.lines.find? (fun l => l.isCmd && decide (l.func = f))
/-- Bytes read by physical address: where no memory lies (R345), free values (log entry 25). -/
def physByte (s : State) (pa : Nat) : Byte := if pmem pa = .none then Config.voidByte s.now pa else s.mem.byte pa
def physBytes (s : State) (pa n : Nat) : List Byte := (List.range n).map (fun i => physByte s (pa + i))
def physNum (s : State) (pa n : Nat) : Nat := ofBytes (physBytes s pa n)
/-- A number written by physical address: dropped where no memory lies (log entry 25). -/
def physSet (s : State) (pa n x : Nat) : State := if hasMem pa n then s.setNum pa n x else s
/-- LAST and COUNT of a control block (Table 15-1). -/
def lineLast (s : State) (cb : Nat) : Nat := physNum s (cb + 8) 8
def lineCount (s : State) (cb : Nat) : Nat := physNum s (cb + 16) 8
/-- The device has read a record: LAST and COUNT (R376). -/
def lineRead (s : State) (cb pa : Nat) : State := physSet (physSet s (cb + 8) 8 pa) (cb + 16) 8 (lineCount s cb + 1)
/-- Where a launch line may lie: in the degraded mode of the ports in host memory alone (R421, log entry 26). -/
def linePlace (s : State) (pa : Nat) : Bool := !s.dev.degraded || decide (pmem pa = .cxl)

/-- A NEXT value that breaks the line (R376). -/
def nextBad (n : Nat) : Bool := decide (n % 128 ≠ 0) || decide (2 ^ 57 ≤ n)
/-- The monitor reads the NEXT field that it watches (R375, R376). In the degraded mode it can hold no device memory, so it sees no record
there (R421, log entry 26). -/
def watchNext (s : State) (cb : Nat) : State :=
  match s.line? cb with
  | none => s
  | some l =>
    if l.broken then s
    else
      let n := physNum s (lineLast s cb) 8
      if n = 0 ∨ linePlace s (lineLast s cb) = false then s.modLine cb (fun l => { l with sawNext := none })
      else if nextBad n then
        (postJournal s 8 l.func 0 (toBytes 8 cb ++ toBytes 8 n)).modLine cb (fun l => { l with broken := true, sawNext := none })
      else s.modLine cb (fun l => { l with sawNext := if linePlace s n then some (BitVec.ofNat 64 n) else none })
/-- LINE_NOTIFY (R375). -/
def execLineNotify (cb : Nat) (s : State) : Res := .next (watchNext s cb)

def newLine (cb f proc queue : Nat) (isCmd : Bool) : Line :=
  { cb := cb, func := f, proc := proc, queue := queue, isCmd := isCmd, broken := false, destroyed := false, sawNext := none,
    active := none, restores := [] }
/-- A line is armed. -/
def armLine (s : State) (l : Line) : State := watchNext { s with work := { s.work with lines := s.work.lines ++ [l] } } l.cb
/-- LINEADDR_WRITE: the function's command line, in place of the one it had (R376). The degraded mode has no monitor for a control block in
device memory (R421). -/
def lineaddr (s : State) (f : Nat) (a : DWord) : State :=
  if 64 < f then s
  else
    let s := s.modFunc f (fun x => { x with lineAddr := a })
    let s := { s with work := { s.work with lines := s.work.lines.filter (fun l => !(l.isCmd && decide (l.func = f))) } }
    if linePlace s a.toNat then armLine s (newLine a.toNat f 0 0 true) else s
def execLineaddrWrite (f : Nat) (a : DWord) (s : State) : Res := .next (lineaddr s f a)

/-! ### Completion (R380, Table 15-4) -/

/-- Size of a function's MSI-X table (R378). -/
def msixSize (f : Nat) : Nat := if f = 64 then 2048 else 64
def sendMsix (s : State) (f v : Nat) : State := { s with dev := { s.dev with msix := s.dev.msix ++ [(f, v)] } }
/-- What a completion needs: the function and the tag that it writes in, the line and number it names, its address, value and
interrupt. -/
structure Done where
  func : Nat
  tag : Nat
  cb : Nat
  number : Nat
  addr : Nat
  val : Nat
  msix : Option Nat
  deriving DecidableEq, Repr
/-- Completion: the COMPLETE entry, the status word, the value, as user-mode stores, and the message. Where the address is none the writes are not made,
and where it does not translate they could not be made (CWF); a misaligned address does not translate (log entry 26). -/
def complete (s : State) (d : Done) (code cause : Nat) : State :=
  let (s, pa) : State × Option (Nat × BitVec 16) :=
    if d.addr = 0 ∨ d.addr % 16 ≠ 0 then (s, none)
    else match engineAccess s d.tag d.addr .write with
      | (s, .inl p) => (s, some p)
      | (s, .inr _) => (s, none)
  let w := s.dev.jseq % 2 ^ 32 * 2 ^ 32 + cause % 256 * 2 ^ 24 + code
  let cwf := decide (d.addr ≠ 0) && pa.isNone
  let s := postJournal s 3 d.func code (toBytes 8 d.cb ++ toBytes 8 d.number ++ toBytes 8 w ++ toBytes 1 (b2n cwf))
  let s := match pa with
    | some p => s.upMem (fun m => exactStore (exactStore m (p.1 + 8) p.2 (toBytes 8 w)) p.1 p.2 (toBytes 8 d.val))
    | none => s
  match d.msix with
  | some v => if v < msixSize d.func then sendMsix s d.func v else s
  | none => s

/-! ### Launch records (Table 15-2) -/

def readRecord (s : State) (pa : Nat) : LaunchRec :=
  let n := fun (o k : Nat) => physNum s (pa + o) k
  { dqSize := n 96 4, dqArea := BitVec.ofNat 64 (n 88 8), compVal := BitVec.ofNat 64 (n 80 8),
    compAddr := BitVec.ofNat 64 (n 72 8), args := BitVec.ofNat 64 (n 64 8), barriers := BitVec.ofNat 64 (n 56 8), nbar := n 55 1,
    ctrl := BitVec.ofNat 8 (n 54 1), msix := BitVec.ofNat 16 (n 52 2), prio := n 51 1, flags := BitVec.ofNat 8 (n 50 1),
    ebud := BitVec.ofNat 16 (n 48 2), pond := n 44 4, regs := n 43 1, width := 16 * 2 ^ n 42 1,
    team := (n 36 2 + 1, n 38 2 + 1, n 40 2 + 1), grid := (n 24 4 + 1, n 28 4 + 1, n 32 4 + 1),
    entry := BitVec.ofNat 64 (n 16 8), codeBase := BitVec.ofNat 64 (n 8 8), next := BitVec.ofNat 64 (n 0 8),
    raw := physBytes s pa 128 }

/-- MALFORMED (Table 15-3). -/
def LaunchRec.malformed (r : LaunchRec) (f : Nat) : Bool :=
  decide (2 ^ 57 ≤ r.codeBase.toNat) || decide (r.codeBase.toNat % 256 ≠ 0) || decide (r.entry.toNat % 4 = 3) ||
  decide (2 ^ 48 ≤ r.entry.toNat) || !(r.width = 16 || r.width = 32 || r.width = 64) ||
  !([16, 24, 32, 40, 48, 56, 64].contains r.regs) || decide (0xFF00 < r.ebud.toNat) || decide (11 < r.prio) ||
  decide (8 < r.nbar) || (decide (0 < r.nbar) && decide (r.barriers.toNat % 32 ≠ 0)) || decide (r.compAddr.toNat % 16 ≠ 0) ||
  (r.flags.getLsbD 4 && !r.flags.getLsbD 1) || (r.ctrl.getLsbD 0 && decide (msixSize f ≤ r.msix.toNat)) ||
  (r.raw.drop 100).any (fun b => decide (b ≠ 0)) || decide (4 ≤ r.ctrl.toNat) || decide (32 ≤ r.flags.toNat)

/-! ### Where a team fits (R19, R21, R22) -/

/-- A place: the core, or the lower core of a pair, and whether it is a pair. -/
def coreOfGroup (core : Nat) (pair : Bool) (g : Nat) : Nat := if pair then core + g % 2 else core
def schedOfGroup (pair : Bool) (g : Nat) : Nat := if pair then g / 2 % 4 else g % 4
/-- Groups, lanes and vector registers in use on a scheduler. -/
def schedUse (s : State) (core sched : Nat) (ex : List (Nat × Nat)) : Nat × Nat × Nat :=
  let gs := (s.work.groups.filter (fun e =>
    decide (e.2.core = core) && decide (e.2.sched = sched) && !ex.contains (e.2.launch, e.2.team))).map (·.2)
  (gs.length, (gs.map (·.width)).sum, (gs.map (fun g => g.width * g.regs)).sum)
/-- Addresses of the valid entries among n at an address. -/
def validEntries (m : MemSt) (pa n : Nat) : List Nat :=
  (m.cells.filter (fun c => decide (pa ≤ c.1) && decide (c.1 < pa + 8 * n) && decide (c.1 % 8 = 0) && c.2.getLsbD 0)).map (·.1)
/-- Frames of POND pages under an entry at level n of a tag (R129, R353). -/
def pondFrames (m : MemSt) (tag : Nat) : Nat → Nat → List Nat
  | 0, e => if pteHome e = 3 ∧ leafBad m.carved tag 0 e = false then [pteFrame e] else []
  | k + 1, e =>
    if (k = 0 ∧ pteLeaf e = true) ∨ interiorBad e = true then []
    else (validEntries m (pteFrame e) 512).flatMap (fun a => pondFrames m tag k (m.num a 8))
/-- Tiles of a core that POND pages hold, which no team is given (R129). -/
def pageTiles (m : MemSt) (core : Nat) : List Nat :=
  let frames := (validEntries m 0x8000000000 65536).flatMap (fun a => pondFrames m ((a - 0x8000000000) / 8) 5 (m.num a 8))
  (frames.filter (fun f => decide (pmem f = .pond core))).flatMap (fun f => let t := f % 0x400000 / 0x8000; [t, t + 1])
/-- Tiles of a core that teams hold. -/
def tilesUsed (s : State) (core : Nat) (ex : List (Nat × Nat)) : List Nat :=
  (s.work.teams.filter (fun t => !ex.contains (t.launch, t.id))).flatMap (fun t =>
    (t.tiles.filter (fun x => decide (x / 64 = core))).map (· % 64))
def tilesFree (s : State) (core : Nat) (ex : List (Nat × Nat)) : List Nat :=
  let used := tilesUsed s core ex ++ pageTiles s.mem core
  (List.range 64).filter (fun t => !used.contains t)
/-- Room for a team of a record on a core or pair, teams in `ex` not counted. -/
def roomAt (s : State) (r : LaunchRec) (core : Nat) (pair : Bool) (ex : List (Nat × Nat)) : Bool :=
  let gs := (List.range r.groups).map (fun g => (coreOfGroup core pair g, schedOfGroup pair g))
  let scheds := (if pair then [core, core + 1] else [core]).flatMap (fun c => (List.range 4).map (fun q => (c, q)))
  let fits := scheds.all (fun x =>
    let n := (gs.filter (fun y => decide (y = x))).length
    let u := schedUse s x.1 x.2 ex
    decide (u.1 + n ≤ 16) && decide (u.2.1 + n * r.width ≤ 512) && decide (u.2.2 + n * r.width * r.regs ≤ 32768))
  let pond :=
    if pair then decide (min r.tiles 64 ≤ (tilesFree s core ex).length) && decide (r.tiles - 64 ≤ (tilesFree s (core + 1) ex).length)
    else decide (r.tiles ≤ (tilesFree s core ex).length)
  fits && pond
/-- Teams resident on a core. -/
def teamsOn (s : State) (core : Nat) : List Team :=
  s.work.teams.filter (fun t => decide (t.core = core) || (t.pair && decide (t.core + 1 = core)))
/-- A core that may take a team of a function: not waiting for a split, and a split core only for its two functions (R400). -/
def coreOpen (s : State) (core f : Nat) : Bool :=
  let c := s.core core
  c.splitPend.isNone && (match c.split with | some (a, b) => decide (f = a) || decide (f = b) | none => true)
/-- Whether a launch's teams run on a pair (R21). -/
def LaunchRec.pair (r : LaunchRec) : Bool := decide (64 < r.tiles)
/-- The lowest place of a cluster with room (R392). -/
def placeIn (s : State) (r : LaunchRec) (f cluster : Nat) (pair : Bool) (ex : List (Nat × Nat)) : Option Nat :=
  let cores := (List.range 8).map (fun i => 8 * cluster + i)
  if pair then
    (cores.filter (fun c => decide (c % 2 = 0))).find? (fun c => coreOpen s c f && coreOpen s (c + 1) f && roomAt s r c true ex)
  else cores.find? (fun c => coreOpen s c f && roomAt s r c false ex)
/-- Whether a function may use a cluster (R389). -/
def inPartition (s : State) (f cluster : Nat) : Bool := decide (f = 64) || (s.func f).clusters.getLsbD cluster
/-- Whether a team of a record fits an empty place of the partition (Table 15-3). -/
def fitsEmpty (s : State) (r : LaunchRec) (f : Nat) : Bool :=
  (List.range 32).any (inPartition s f) && decide (r.tiles ≤ 128) && roomAt State.reset r 0 r.pair []
/-- LIMIT (Table 15-3). -/
def LaunchRec.limit (s : State) (r : LaunchRec) (f : Nat) : Bool :=
  decide (1024 < r.team.1) || decide (1024 < r.team.2.1) || decide (1024 < r.team.2.2) || decide (1024 < r.lanes) ||
  decide (2 ^ 32 < r.teams) || decide (2 ^ 22 < r.pond) || !fitsEmpty s r f
/-- The code of a rejected record, or 0. -/
def recordCode (s : State) (r : LaunchRec) (f : Nat) : Nat := if r.malformed f then 2 else if r.limit s f then 3 else 0

/-! ### Admission (R379) -/

/-- Space tag of process p of a function (R384). -/
def tagOf (f p : Nat) : Nat := 64 * f + p + 1
def recDone (l : Line) (r : LaunchRec) (number : Nat) : Done :=
  ⟨l.func, tagOf l.func l.proc, l.cb, number, r.compAddr.toNat, r.compVal.toNat,
   if r.ctrl.getLsbD 0 then some r.msix.toNat else none⟩
/-- A launch of a record on a line. -/
def newLaunch (s : State) (l : Line) (r : LaunchRec) (number : Nat) : Launch :=
  { key := s.ids, cb := l.cb, number := number, func := l.func, proc := l.proc, queue := l.queue,
    tag := BitVec.ofNat 16 (tagOf l.func l.proc), seq := s.ids, rc := r, nextTeam := 0, savedTeams := [], stopDispatch := false,
    ending := .none, dqPages := [], dqFull := false, saveOff := none, saveCmd := none, stops := [] }
/-- Admit a record at an address under a number: rejected records complete at once (R378). -/
def admitAt (s : State) (l : Line) (pa : Nat) (r : LaunchRec) (number : Nat) (f : Launch → Launch) : State :=
  let code := recordCode s r l.func
  if code ≠ 0 then complete s (recDone l r number) code 0
  else
    let s := postJournal s 2 l.func 0 (toBytes 8 l.cb ++ toBytes 8 number ++ toBytes 8 pa)
    let n := f (newLaunch s l r number)
    { s with
      ids := s.ids + 1, work := { s.work with
        launches := s.work.launches ++ [n],
        lines := s.work.lines.map (fun x => if x.cb = l.cb then { x with active := some n.key } else x) } }

/-! ### Launch images (R399, log entry 27) -/

/-- Bytes of the header: VERSION, CHECK, record with NEXT 0, lowest undispatched TEAMID, which may be 2^32, saved teams, deque entries. -/
def launchHeader (l : Launch) (m q : Nat) : List Byte :=
  let body := toBytes 8 0 ++ l.rc.raw.drop 8 ++ toBytes 8 l.nextTeam ++ toBytes 8 m ++ toBytes 8 q
  let body := pad (4096 - 8) body
  toBytes 4 1 ++ toBytes 4 (crc32c (toBytes 4 1 ++ toBytes 4 0 ++ body)) ++ body
def launchImageOk (s : State) (pa : Nat) : Bool :=
  decide (s.num pa 4 = 1) && decide (s.num (pa + 4) 4 = crc32c (toBytes 4 1 ++ toBytes 4 0 ++ s.mem.bytes (pa + 8) 4088))
/-- Offset of saved team i's image in a launch image. -/
def teamOffset (r : LaunchRec) (m i : Nat) : Nat := alignUp (0x1000 + 8 * m) 4096 + i * alignUp r.imageSize 4096
/-- The imaged launch is admitted under a new number: saved teams, then undispatched ones; its deque entries wait where they
are (R399). A core number of 256 names no core. The record of its ADMIT entry is the one that the launch image holds: the entry names the
image's address, which the spec does not say (DESIGN CHOICE, log entry 27). -/
def admitImage (s : State) (l : Line) (pa : Nat) : State :=
  let s := s.setNum (l.cb + 16) 8 (lineCount s l.cb + 1)
  let s := s.modLine l.cb (fun l => { l with restores := l.restores.drop 1 })
  let r := readRecord s (pa + 8)
  let m := s.num (pa + 144) 8
  let q := s.num (pa + 152) 8
  let teams := (List.range m).map (fun i => let a := pa + s.num (pa + 0x1000 + 8 * i) 8; (s.num (a + 8) 4, a))
  let next := s.num (pa + 136) 8
  let key := s.ids
  let at' := pa + teamOffset r m m
  let items : List (DWord × DqPlace) := (List.range q).map (fun i => (BitVec.ofNat 64 (s.num (at' + 8 * i) 8), .mem (at' + 8 * i)))
  let t := admitAt s l pa r (lineCount s l.cb) (fun n => { n with nextTeam := next, savedTeams := teams })
  if (t.launch? key).isSome ∧ items ≠ [] then setDeque t key 256 items else t

/-- LAUNCH_ADMIT (R376, R379): the next imaged launch, or the next record. -/
def launchAdmit (s : State) (cb : Nat) : State :=
  match s.line? cb with
  | none => s
  | some l =>
    if l.isCmd || l.active.isSome || l.destroyed || l.broken then s
    else
      match l.restores with
      | pa :: _ => admitImage s l pa
      | [] =>
        match l.sawNext with
        | none => s
        | some a =>
          let pa := a.toNat
          let s := lineRead s cb pa
          let s := admitAt s l pa (readRecord s pa) (lineCount s cb) id
          watchNext s cb
def execLaunchAdmit (cb : Nat) (s : State) : Res := .next (launchAdmit s cb)

/-! ### The end of a launch (R380) -/

/-- Every team has retired, or the launch ends otherwise and none is resident. -/
def launchOver (s : State) (l : Launch) : Bool :=
  s.work.teams.all (fun t => decide (t.launch ≠ l.key)) &&
  (match l.ending with
   | .none => l.saveCmd.isNone && decide (l.savedTeams = []) && decide (l.rc.teams ≤ l.nextTeam)
   | _ => true)
def endCode : LaunchEnd → Nat × Nat
  | .none => (0, 0) | .killed c => (1, c.toNat) | .cancelled => (4, 0) | .restFail => (5, 0) | .saved _ => (8, 0)
/-- LAUNCH_FINISH: every store of its teams reaches its home first, those on a die that has lost its power apart (R420). -/
def launchFinish (s : State) (k : Nat) : State :=
  match s.launch? k with
  | none => s
  | some l =>
    if !launchOver s l then s
    else
      let c := endCode l.ending
      let d : Done := ⟨l.func, l.tag.toNat, l.cb, l.number, l.rc.compAddr.toNat, l.rc.compVal.toNat,
        if l.rc.ctrl.getLsbD 0 then some l.rc.msix.toNat else none⟩
      let s := ((s.mem.pend.filter (fun p => decide (p.launch = k) && !(s.die (dieOf p.core)).off)).map (·.id)).foldl storeHome s
      let s := complete s d c.1 c.2
      { s with work := { s.work with
          launches := s.work.launches.filter (fun x => decide (x.key ≠ k)),
          deques := s.work.deques.filter (fun x => decide (x.launch ≠ k)),
          lines := s.work.lines.map (fun x => if x.active = some k then { x with active := none } else x) } }
def execLaunchFinish (k : Nat) (s : State) : Res := .next (launchFinish s k)

end Sys2Proof.Machine
end

