-- ==== Sys2Proof/Machine/Distributor.lean ====
section
/-! DEFINITION. The distributor and the firmware's care of teams: dispatch and restore (R15, R159, R391, R392, R398, R444), retirement
(R43), saves (R394 to R396), slices and virtual time (R389, R390), cluster power (R393). -/

namespace Sys2Proof.Machine

/-! ### Candidates (R391) -/

/-- The next team of a launch: its lowest saved team, or its lowest undispatched TEAMID; with the image to restore. -/
def nextTeam (l : Launch) : Option (Nat × Option Nat) :=
  if l.stopDispatch then none
  else
    match l.savedTeams.foldl (fun (b : Option (Nat × Nat)) t =>
      match b with | none => some t | some u => if t.1 < u.1 then some t else some u) none with
    | some t => some (t.1, some t.2)
    | none => if l.nextTeam < l.rc.teams then some (l.nextTeam, none) else none
/-- Residencies in the header of a team's image: their descriptors, whose reserved bit stays 0 (Table 9-1, R9). Table 15-9 has room for one;
that of the second core of a pair is kept beside the image (R258, log entries 20 and 28). -/
def imageResident (s : State) (a : Nat) : List (BitVec 128) :=
  let n := noteOf s a
  ((if (s.num (a + 48) 1).testBit 0 then [BitVec.ofNat 128 (s.num (a + 64) 16)] else []) ++
   (if noteNum n 48 1 = 1 then [BitVec.ofNat 128 (noteNum n 80 16)] else [])).map (fun d => d &&& ~~~(2 ^ 57))
/-- The core of a pair or single place where an accumulator region lies. -/
def bankCore (core : Nat) (pair : Bool) (d : BitVec 128) : Nat := if pair ∧ 64 ≤ dAddr d / 0x8000 then core + 1 else core
/-- The place that a launch's next team would take in a cluster. -/
def candPlace (s : State) (l : Launch) (cluster : Nat) (ex : List (Nat × Nat)) : Option Nat :=
  match nextTeam l with
  | none => none
  | some (_, img) =>
    let pair := match img with | some a => (s.num (a + 48) 1).testBit 1 | none => l.rc.pair
    placeIn s l.rc l.func cluster pair ex
/-- Launches that are active on a line. -/
def activeLaunches (s : State) : List Launch :=
  s.work.launches.filter (fun l => (match l.ending with | .none => true | _ => false) &&
    s.work.lines.any (fun x => decide (x.active = some l.key)))
/-- Whether a cluster can take teams: its die has power, and it is not in a gating sequence (R393, R420). -/
def clusterOpen (s : State) (c : Nat) : Bool := !(s.cluster c).gating && !(s.die (c / 4)).off
def candidates (s : State) (cluster : Nat) : List Launch :=
  if !clusterOpen s cluster then []
  else (activeLaunches s).filter (fun l => inPartition s l.func cluster && (candPlace s l cluster []).isSome)
/-- Position of a function in the order of slices from the holder. -/
def sliceRank (holder f : Nat) : Nat := (f + 65 - holder) % 65
/-- Order of two numbers lists. -/
def lexLt : List Nat → List Nat → Bool
  | [], _ => false
  | _, [] => false
  | a :: t, b :: u => decide (a < b) || (decide (a = b) && lexLt t u)
/-- The keys of R391. -/
def candKey (s : State) (holder : Nat) (l : Launch) : List Nat :=
  [sliceRank holder l.func, (Tb.get Proc.reset (s.func l.func).procs l.proc).vtime.toNat, l.proc, l.rc.prio, l.queue]
def bestCand (s : State) (cluster : Nat) : Option Launch :=
  let h := (s.cluster cluster).holder
  (candidates s cluster).foldl (fun b l =>
    match b with | none => some l | some x => if lexLt (candKey s h l) (candKey s h x) then some l else some x) none

/-! ### Virtual time (R390) -/

def modProc (s : State) (f p : Nat) (u : Proc → Proc) : State :=
  s.modFunc f (fun x => { x with procs := Tb.put x.procs p (u (Tb.get Proc.reset x.procs p)) })
/-- The addition for one process, and its teams counted to now. -/
def addVtime (s : State) (f p : Nat) : State :=
  let mine := fun (t : Team) => match s.launch? t.launch with | some l => decide (l.func = f) && decide (l.proc = p) | none => false
  let sum := ((s.work.teams.filter mine).map (fun t => t.lanes * (s.now - t.resident))).sum
  let w := (Tb.get Proc.reset (s.func f).procs p).weight
  let s := { s with work := { s.work with teams := s.work.teams.map (fun t => if mine t then { t with resident := s.now } else t) } }
  if sum = 0 then s else modProc s f p (fun x => { x with vtime := x.vtime + BitVec.ofNat 64 ((sum + w - 1) / w) })
/-- Processes with a resident team. -/
def residentProcs (s : State) : List (Nat × Nat) :=
  s.work.teams.filterMap (fun t => (s.launch? t.launch).map (fun l => (l.func, l.proc)))
/-- VIRTUAL_TIME_ADD, every 100 µs. -/
def virtualTime (s : State) : State :=
  if s.now < s.dev.lastVt + 100000 then s
  else
    let s := (residentProcs s).foldl (fun s x => addVtime s x.1 x.2) s
    { s with dev := { s.dev with lastVt := s.now } }
def execVirtualTimeAdd (s : State) : Res := .next (virtualTime s)

/-- Processes that have a candidate for a cluster. -/
def candProcs (s : State) (cluster : Nat) : List (Nat × Nat) := (candidates s cluster).map (fun l => (l.func, l.proc))
/-- A process that gains a candidate, having had none for any cluster when that was served last, starts no lower than its function's others
(R390). -/
def noteCands (s : State) (cluster : Nat) : State :=
  let cs := candProcs s cluster
  let s := cs.foldl (fun s x =>
    let pr := Tb.get Proc.reset (s.func x.1).procs x.2
    if pr.had ≠ [] then s
    else
      let others := (s.func x.1).procs.filter (fun y => decide (y.2.had ≠ []))
      let low := (others.map (fun y => y.2.vtime.toNat)).foldl
        (fun (b : Option Nat) v => match b with | none => some v | some w => some (min v w)) none
      modProc s x.1 x.2 (fun p => { p with had := [cluster], vtime := BitVec.ofNat 64 (max p.vtime.toNat (low.getD 0)) })) s
  { s with work := { s.work with funcs := s.work.funcs.map (fun f =>
      (f.1, { f.2 with procs := f.2.procs.map (fun p =>
        (p.1, { p.2 with had := (if cs.contains (f.1, p.1) then [cluster] else []) ++ p.2.had.filter (· ≠ cluster) })) })) } }

/-! ### Deques that move (R395) -/

/-- A launch's entries on one core join its deque on another, beyond the far end. -/
def moveDeque (s : State) (k src dst : Nat) : State :=
  let a := dequeOf s k src
  if src = dst ∨ a = [] then s else setDeque (setDeque s k dst (a ++ dequeOf s k dst)) k src []
/-- Cores where a launch has a resident team. -/
def coresOf (s : State) (k : Nat) : List Nat :=
  (s.work.teams.filter (fun t => decide (t.launch = k))).flatMap (fun t => if t.pair then [t.core, t.core + 1] else [t.core])
/-- Entries of cores that a launch has left go to the lowest core where it is resident. -/
def settleDeques (s : State) (k : Nat) : State :=
  match (coresOf s k).foldl (fun (b : Option Nat) c => match b with | none => some c | some d => some (min c d)) none with
  | none => s
  | some dst =>
    let held := (s.work.deques.filter (fun d => decide (d.launch = k) && !(coresOf s k).contains d.core)).map (·.core)
    held.foldl (fun s c => moveDeque s k c dst) s

/-! ### Dispatch -/

/-- Translate the barrier objects of a team (R444): their physical addresses, or the code of the first that fails. -/
def barrierPas (tag : Nat) : State → List Nat → State × (List Nat ⊕ Nat)
  | s, [] => (s, .inl [])
  | s, a :: as =>
    match engineTranslate s tag a .write with
    | (s, .inr c) => (s, .inr c)
    | (s, .inl p) =>
      match barrierPas tag s as with
      | (s, .inl ps) => (s, .inl (p :: ps))
      | (s, .inr c) => (s, .inr c)
def barrierVas (r : LaunchRec) (t : Nat) : List Nat := (List.range r.nbar).map (fun i => r.barriers.toNat + 256 * t + 32 * i)
/-- Barrier objects at dispatch (R159), their reserved bytes 0 (Table 5-5). No core keeps an older copy of them (R158). -/
def initBarriers (s : State) (lanes : Nat) (ps : List Nat) : State :=
  dropL1All (ps.foldl (fun s p => writeBar (s.setNum p 32 0) p (BarObj.mk 0 lanes 0 1 0)) s) (ps.map sectorOf)

/-- The lowest free place of a scheduler (R358). -/
def freePlace (s : State) (core sched : Nat) : Nat :=
  let used := (s.work.groups.filter (fun e => decide (e.2.core = core) && decide (e.2.sched = sched))).map (·.2.place)
  ((List.range 16).find? (fun p => !used.contains p)).getD 0
/-- A group at dispatch (R14, R46, R58): its lanes in RUN at the entry PC. -/
def freshGroup (l : Launch) (team gid core sched place age : Nat) : Group :=
  let r := l.rc
  let q : PC := r.entry.setWidth 48
  let g : Group := { Group.empty with
    launch := l.key, team := team, gid := gid, width := r.width, regs := r.regs, core := core, sched := sched, place := place,
    age := age,
    lanes := (List.range r.width).map (fun i => if gid * r.width + i < r.lanes then ⟨q, .run, 0, .run⟩ else ⟨q, .done, 0, .done⟩),
    sp := { Special.zero with ebud := r.ebud, lflags := r.flags.setWidth 5, tag := l.tag } }
  g.setS 0 ⟨r.args, 0⟩
/-- A group that is dispatched to restore its image (R318, R398). -/
def restoreForm (s : State) (g : Group) : Group :=
  let v := vectorPc s 0x3F
  let g := { g with
    lanes := g.lanes.map (fun x => if x.st = .done then x else { x with pc := v }),
    sp := { g.sp with sv := true, rst := true },
    ctl := { g.ctl with rom := if s.dev.romVecs.getLsbD 0x3F then some 0x3F else none } }
  swapIn (saveArea s g) g
/-- Stop requests that the group took with it (R401). -/
def withStop (l : Launch) (g : Group) : Group :=
  match l.stops.find? (fun x => decide (x.1 = g.team) && decide (x.2.1 = g.gid)) with
  | some x => { g with ctl := { g.ctl with stopPend := true, stopCnt := x.2.2.1, stopLim := x.2.2.2 } }
  | none => g
/-- A group takes its place. A restore whose vector has slot 3 raises MISPC in supervisor mode: a double trap (R61, R328). -/
def addGroup (s : State) (l : Launch) (t : Team) (restore : Bool) (gid : Nat) : State :=
  let core := coreOfGroup t.core t.pair gid
  let sched := schedOfGroup t.pair gid
  let place := freePlace s core sched
  let g := withStop l (freshGroup l t.id gid core sched place t.age)
  let g := if restore then restoreForm s g else g
  let s := { s with work := { s.work with groups := Tb.put s.work.groups (mkHandle core sched place) g } }
  if restore ∧ slotOf (vectorPc s 0x3F) = 3 then doubleAt s (mkHandle core sched place) 0x25 (vectorPc s 0x3F) else s

/-- Tiles of a team: the lowest free ones, tiles 64 onward on the second core of a pair (R132). -/
def pickTiles (s : State) (r : LaunchRec) (core : Nat) (pair : Bool) : List Nat :=
  let take := fun (c n : Nat) => ((tilesFree s c []).take n).map (fun t => 64 * c + t)
  if pair then take core (min r.tiles 64) ++ take (core + 1) (r.tiles - 64) else take core r.tiles
/-- Tiles hold no bound of an earlier team at a fresh dispatch, as the examples of R279 need; their data stay (log entry 56). -/
def clearTiles (s : State) (tiles : List Nat) : State :=
  s.upMem (fun m => { m with bounds := m.bounds.filter (fun b => !tiles.any (fun t =>
    decide (b.1 / 1024 = sectorOf (pondPa (t / 64) (t % 64) 0) / 1024))) })
/-- Tiles and their bounds from an image (R398). -/
def loadTile (s : State) (image : Nat) (x : Nat × Nat) : State :=
  let src := image + 0x1000 + 0x8800 * x.2
  let dst := pondPa (x.1 / 64) (x.1 % 64) 0
  let s := s.setBytes dst (s.mem.bytes src 0x8000)
  s.upMem (fun m => (List.range 1024).foldl (fun m k => m.setBound (dst + 32 * k) (BitVec.ofNat 16 (m.num (src + 0x8000 + 2 * k) 2))) m)
/-- A counter of the team view in an image (R427): counts resume where the codes agree. The image holds the views of one core: those of the
second core of a pair have no saved code. -/
def loadView (s : State) (core image i : Nat) : Nat × Nat :=
  let a := image + 256 + 16 * i
  let code := (Tb.get (0 : Byte) (s.core core).events i).toNat
  let saved := s.num (a + 8) 1
  (16 * core + i, if code = saved ∧ code ≠ 0 ∧ code ≤ 0x19 then s.num a 6 else 0xFFFFFFFFFFFE)
def loadViews (s : State) (core : Nat) (pair : Bool) (image : Nat) : List (Nat × Nat) :=
  (List.range 16).map (loadView s core image) ++
  (if pair then (List.range 16).map (fun i => (16 * (core + 1) + i, 0xFFFFFFFFFFFE)) else [])
/-- A residency of an image is loaded again, as TGIVE would (R258): at once where the bank is free, else once the other team's residency has
ended (`startTask`), before the team's groups issue. The task belongs to no group: its handle is 0. -/
def loadResidency (l : Launch) (t : Team) (s : State) (d : BitVec 128) : State :=
  let c := bankCore t.core t.pair d
  let half := halfOf (s.core c) l.func
  let task : Task := ⟨s.ids, c, half, l.key, t.id, 0, 0, 0, .tgive d, 0, 0, 0, l.tag, none, tileSet d, tileSet d, false, true, none⟩
  startTask { (setTasks s (fun ts => ts ++ [task])) with ids := s.ids + 1 } s.ids
/-- The header of a team's image matches the launch (R335). -/
def headerOk (s : State) (l : Launch) (team image : Nat) : Bool :=
  let r := l.rc
  decide (s.num image 4 = 1) &&
  decide (s.num (image + 4) 4 = crc32c (toBytes 4 1 ++ toBytes 4 0 ++ s.mem.bytes (image + 8) 4088)) &&
  decide (s.num (image + 8) 4 = team) && decide (s.num (image + 12) 4 = r.tiles) &&
  decide (s.num (image + 16) 2 = r.team.1 - 1) && decide (s.num (image + 18) 2 = r.team.2.1 - 1) &&
  decide (s.num (image + 20) 2 = r.team.2.2 - 1) && decide (s.num (image + 22) 1 = widthCode r.width) &&
  decide (s.num (image + 23) 1 = r.regs) && decide (s.num (image + 24) 4 = r.groups) &&
  decide (s.num (image + 28) 4 = groupImageSize r.width r.regs) &&
  decide (s.num (image + 32) 8 = groupImageOff r.width r.regs r.tiles 0)

/-- A team takes its place: fresh, or from its image. Its lanes see what earlier launches and their own earlier place wrote, so its cores drop
their first-level copies (R143, R145). At a fresh dispatch its tiles keep the data that stood there, without their bounds (log entry 56). -/
def placeTeam (s : State) (l : Launch) (team : Nat) (img : Option Nat) (core : Nat) (bars : List Nat) : State :=
  let r := l.rc
  let pair := match img with | some a => (s.num (a + 48) 1).testBit 1 | none => r.pair
  let image := match img with | some a => a | none => (imageRoom s l.func r.imageSize).getD 0
  let cl := clusterOf core
  let wake := (s.cluster cl).gated || (s.cluster cl).waking
  let t : Team :=
    { launch := l.key, id := team, core := core, pair := pair, lanes := r.lanes, ngroups := r.groups,
      tiles := pickTiles s r core pair, barPa := bars, preq := false, preqCnt := 0, preqLim := 0, image := image,
      hdrBad := match img with | some a => !headerOk s l team a | none => false,
      age := s.ids, waking := wake, dead := false, resident := s.now,
      views := match img with | some a => loadViews s core pair a | none => [], bridge := 0 }
  let s := s.modCluster cl (fun c => { c with gated := false, waking := wake })
  let s := { s with ids := s.ids + 1, work := { s.work with teams := s.work.teams ++ [t] } }
  let s := s.modLaunch l.key (fun x =>
    match img with
    | some _ => { x with savedTeams := x.savedTeams.filter (fun y => decide (y.1 ≠ team)) }
    | none => { x with nextTeam := x.nextTeam + 1 })
  let s := match img with
    | some a => (imageResident s a).foldl (loadResidency l t) ((t.tiles.zip (List.range t.tiles.length)).foldl (fun s x => loadTile s a x) s)
    | none => initBarriers (clearTiles s t.tiles) r.lanes bars
  let s := (if pair then [core, core + 1] else [core]).foldl (fun s c => s.modCore c (fun x => { x with l1 := [] })) s
  let s := (List.range r.groups).foldl (fun s g => addGroup s l t img.isSome g) s
  let s := s.modLaunch l.key (fun x => { x with stops := x.stops.filter (fun y => decide (y.1 ≠ team)) })
  settleDeques s l.key

/-- Dispatch or restore of a launch's next team (R392, R444). -/
def dispatchTeam (s : State) (l : Launch) (cluster : Nat) : State :=
  match nextTeam l, candPlace s l cluster [] with
  | some (team, img), some core =>
    match barrierPas l.tag.toNat s (barrierVas l.rc team) with
    | (s, .inr c) => killLaunch s l.key c team 0 0 false none false
    | (s, .inl ps) => placeTeam s l team img core ps
  | _, _ => s
/-- DISPATCH: one distributor cycle serves the next cluster (R392). -/
def dispatch (s : State) (cluster : Nat) : State :=
  if cluster ≠ s.dev.nextCluster then s
  else
    let s := noteCands s cluster
    let s := match bestCand s cluster with | some l => dispatchTeam s l cluster | none => s
    { s with dev := { s.dev with nextCluster := (cluster + 1) % 32 } }
def execDispatch (cluster : Nat) (s : State) : Res := .next (dispatch s cluster)

/-! ### A team leaves (R43, R394, R395) -/

/-- A split that waits for the core to be empty takes effect (R400). -/
def settleSplit (s : State) (core : Nat) : State :=
  match (s.core core).splitPend with
  | none => s
  | some x => if teamsOn s core = [] then s.modCore core (fun c => { c with split := x, splitPend := none }) else s
/-- The team's places, tiles, entries, bank and pending stores' owner go; its stop requests stay with the launch. -/
def removeTeam (s : State) (t : Team) : State :=
  let mine := fun (k x : Nat) => decide (k = t.launch) && decide (x = t.id)
  let s := match s.launch? t.launch with | some l => addVtime s l.func l.proc | none => s
  let stops := (s.work.groups.filter (fun e => mine e.2.launch e.2.team && e.2.ctl.stopPend)).map
    (fun e => (t.id, e.2.gid, e.2.ctl.stopCnt, e.2.ctl.stopLim))
  let s := s.modLaunch t.launch (fun l => { l with stops := l.stops ++ stops })
  let cores := if t.pair then [t.core, t.core + 1] else [t.core]
  let s := { s with work := { s.work with
    groups := s.work.groups.filter (fun e => !mine e.2.launch e.2.team),
    tasks := s.work.tasks.filter (fun x => !mine x.launch x.team),
    teams := s.work.teams.filter (fun x => !mine x.launch x.id) } }
  let s := cores.foldl (fun s c => settleSplit (s.modCore c (fun x =>
    { x with banks := x.banks.filter (fun b => !mine b.2.launch b.2.team) })) c) s
  let cl := clusterOf t.core
  let s := if s.work.teams.any (fun x => decide (clusterOf x.core = cl)) then s
    else s.modCluster cl (fun c => { c with idleSince := s.now })
  settleDeques s t.launch

/-- Tasks of a team other than its residency. -/
def openTasks (s : State) (t : Team) : List Task :=
  s.work.tasks.filter (fun x => decide (x.launch = t.launch) && decide (x.team = t.id) && !(isTgive x.op && x.out.isSome))
/-- A group that has retired: every lane DONE, every result back. -/
def groupRetired (g : Group) : Bool :=
  g.lanes.all (fun x => decide (x.st = .done)) && decide (g.outst = []) && !g.ctl.saved && !g.ctl.halted && !g.sp.sv
/-- RETIRE (R43). A killed team retires too, once the kill has reached each of its groups: their lanes are DONE and its results discarded
(R338). On a die without power nothing goes home and no group retires, but a killed team leaves (R420). -/
def retireTeam (s : State) (k t : Nat) : State :=
  match s.team? k t with
  | none => s
  | some tm =>
    let off := (s.die (dieOf tm.core)).off
    let ok := (s.teamGroups k t).all (fun h =>
      if tm.dead then off || !(s.grp h).ctl.dying else !off && groupRetired (s.grp h))
    if ok ∧ (openTasks s tm = [] ∨ (off = true ∧ tm.dead = true)) then
      let s := if off then s else (s.teamGroups k t).foldl drainGroup s
      (removeTeam s tm).modLaunch k (fun l => { l with stops := l.stops.filter (fun x => decide (x.1 ≠ t)) })
    else s
def execRetire (k t : Nat) (s : State) : Res := .next (retireTeam s k t)

/-- The banks that a team holds go back to its tiles, as TTAKE would put them (R258). -/
def storeBanks (s : State) (t : Team) : State :=
  (if t.pair then [t.core, t.core + 1] else [t.core]).foldl (fun s c =>
    ((s.core c).banks.filter (fun b => decide (b.2.launch = t.launch) && decide (b.2.team = t.id))).foldl (fun s b =>
      s.upMem (fun m => (storeBank m t b.2.desc b.2.cells).foldl applySector m)) s) s
/-- Descriptors of the residencies that a team holds. -/
def teamResident (s : State) (t : Team) : List (BitVec 128) :=
  (if t.pair then [t.core, t.core + 1] else [t.core]).flatMap (fun c =>
    (((s.core c).banks.map (·.2)).filter (fun b => decide (b.launch = t.launch) && decide (b.team = t.id))).map (·.desc))
/-- What a save keeps beside the header of a team's image: its second residency (log entries 20 and 28). -/
def teamNote (s : State) (t : Team) : List (Nat × Byte) :=
  match (teamResident s t)[1]? with
  | some d => (48, 1) :: noteBytes 80 (toBytes 16 d.toNat)
  | none => []
/-- The team header (Table 15-9). -/
def teamHeader (s : State) (l : Launch) (t : Team) : List Byte :=
  let r := l.rc
  let bank := teamResident s t
  let view := fun (i : Nat) => toBytes 6 (Tb.get 0 t.views (16 * t.core + i)) ++ toBytes 2 0 ++
    toBytes 1 (Tb.get (0 : Byte) (s.core t.core).events i).toNat ++ toBytes 7 0
  let body := toBytes 4 t.id ++ toBytes 4 r.tiles ++ toBytes 2 (r.team.1 - 1) ++ toBytes 2 (r.team.2.1 - 1) ++
    toBytes 2 (r.team.2.2 - 1) ++ toBytes 1 (widthCode r.width) ++ toBytes 1 r.regs ++ toBytes 4 r.groups ++
    toBytes 4 (groupImageSize r.width r.regs) ++ toBytes 8 (groupImageOff r.width r.regs r.tiles 0) ++ toBytes 8 s.now ++
    toBytes 16 (b2n (bank[0]?).isSome + 2 * b2n t.pair) ++ toBytes 16 ((bank[0]?.map (·.toNat)).getD 0) ++ toBytes 176 0 ++
    (List.range 16).flatMap view
  let body := pad 4088 body
  toBytes 4 1 ++ toBytes 4 (crc32c (toBytes 4 1 ++ toBytes 4 0 ++ body)) ++ body
/-- A tile of a team in its image. -/
def saveTile (s : State) (image : Nat) (x : Nat × Nat) : State :=
  let dst := image + 0x1000 + 0x8800 * x.2
  let src := pondPa (x.1 / 64) (x.1 % 64) 0
  let bnds := (List.range 1024).flatMap (fun k => toBytes 2 (s.mem.bound (src + 32 * k)).toNat)
  s.setBytes dst (s.mem.bytes src 0x8000 ++ bnds)

/-- Groups that stopped to be saved are saved once their results are back (R37) and their tasks have finished (R253), halted ones as they stand
(R339); groups that have retired are saved as retiring (R44). The save reads every register of the group: one of class p, k, b or d with an uncorrectable error
raises ARRAY (R53). -/
def saveReady (s : State) (h : Nat) : State :=
  let g := s.grp h
  let pa := saveArea s g
  if g.ctl.saved || g.ctl.dead || !((g.ctl.saving && (decide (g.outst = []) || g.ctl.halted)) || groupRetired g) || decide (groupTasks s g ≠ []) then s
  else
    match softOf g with
    | some r =>
      if g.sp.sv then saveGroup s h pa
      else (enterSupervisor { s with free := s.free + 1 } h 0x29 (arrayPayload r) 0 false 0 0 (Config.freePc s.free) none none).modG h
        (fun g => { g with ctl := { g.ctl with saving := false } })
    | none => saveGroup s h pa
/-- TEAM_SAVE (R394): once every group is saved and every task has finished, the image is made whole and the team's places are
freed. Without PREQ it follows the CTXSV of a STOP (R334). A team whose groups have all retired retires instead (Table 15-11). A die without
power saves nothing (R420). -/
def teamSave (s : State) (k t : Nat) : State :=
  let s := assignImage s k t
  match s.team? k t, s.launch? k with
  | some tm, some l =>
    if (s.die (dieOf tm.core)).off = true ∨ tm.image = 0 ∨ (!tm.preq && !(s.teamGroups k t).any (fun h => (s.grp h).ctl.saved)) = true ∨ tm.dead = true ∨ (s.teamGroups k t).all (fun h => groupRetired (s.grp h)) = true then s
    else
      let s := (s.teamGroups k t).foldl saveReady s
      if !(s.teamGroups k t).all (fun h => (s.grp h).ctl.saved) ∨ openTasks s tm ≠ [] then s
      else
        let s := s.count tm.core l.func 0x18 1 (some (k, t))
        let tm := (s.team? k t).getD tm
        let s := storeBanks s tm
        let s := (tm.tiles.zip (List.range tm.tiles.length)).foldl (fun s x => saveTile s tm.image x) s
        let hdr := teamHeader s l tm
        let s := putNote (s.setBytes tm.image hdr) tm.image (ofBytes ((hdr.drop 4).take 4)) (teamNote s tm)
        let s := removeTeam s tm
        let s := s.modLaunch k (fun l => { l with savedTeams := l.savedTeams ++ [(t, tm.image)] })
        postJournal s 9 l.func 0 (toBytes 8 l.cb ++ toBytes 8 l.number ++ toBytes 4 t ++ toBytes 8 tm.image)
  | _, _ => s
def execTeamSave (k t : Nat) (s : State) : Res := .next (teamSave s k t)

/-! ### Slices (R389) -/

/-- Functions that share a cluster: those whose mask includes it, and the PF. -/
def sharers (s : State) (cluster : Nat) : List Nat :=
  (s.work.funcs.filter (fun f => decide (f.1 < 64) && f.2.clusters.getLsbD cluster)).map (·.1) ++ [64]
/-- The next holder in ascending order, wrapping. -/
def nextHolder (s : State) (cluster : Nat) : Nat :=
  let h := (s.cluster cluster).holder
  match (sharers s cluster).find? (fun f => decide (h < f)) with
  | some f => f
  | none => (sharers s cluster).headD 64
/-- Teams of other functions in a cluster, in the order in which they make room: largest PRIO first, then the latest. -/
def victims (s : State) (f cluster : Nat) : List Team :=
  let ts := s.work.teams.filter (fun t =>
    decide (clusterOf t.core = cluster) && !t.dead && (match s.launch? t.launch with
      | some l => decide (l.func ≠ f)
      | none => false))
  let prio : Team → Nat := fun t => match s.launch? t.launch with | some l => l.rc.prio | none => 0
  ts.foldl (fun l t =>
    let before := fun (u : Team) => decide (prio t < prio u) || (decide (prio t = prio u) && decide (t.age < u.age))
    l.takeWhile before ++ [t] ++ l.dropWhile before) []
/-- Whether the image of a team fits in its function's context area, as that now stands. -/
def imageFits (s : State) (t : Team) : Bool :=
  match s.launch? t.launch with | some l => (placeImage s l t).isSome | none => false
/-- Request victims in turn until the launch's team would fit without them; a team whose image no longer fits is passed over. -/
def makeRoom (cluster : Nat) (l : Launch) : State → List Team → List (Nat × Nat) → State
  | s, [], _ => s
  | s, v :: vs, ex =>
    if (candPlace s l cluster ex).isSome then s
    else if imageFits s v then makeRoom cluster l (requestPreempt s v.launch v.id) vs ((v.launch, v.id) :: ex)
    else makeRoom cluster l s vs ex
/-- A launch of a function whose next team fits nowhere in the cluster. -/
def starved (s : State) (f cluster : Nat) : Option Launch :=
  (activeLaunches s).find? (fun l => decide (l.func = f) && inPartition s f cluster && (nextTeam l).isSome &&
    (candPlace s l cluster []).isNone)
/-- SLICE: the slice passes when its time is over, or early when its holder has no candidate. -/
def slice (s : State) (cluster : Nat) : State :=
  let c := s.cluster cluster
  let early := (candidates s cluster).all (fun l => decide (l.func ≠ c.holder))
  if s.now < c.sliceStart + (s.func c.holder).slice ∧ early = false then s
  else
    let f := nextHolder s cluster
    let s := s.modCluster cluster (fun c => { c with holder := f, sliceStart := s.now })
    match starved s f cluster with
    | none => s
    | some l => makeRoom cluster l s (victims s f cluster) []
def execSlice (cluster : Nat) (s : State) : Res := .next (slice s cluster)

/-! ### Power of a cluster (R393) -/

def clusterIdle (s : State) (c : Nat) : Bool :=
  s.work.teams.all (fun t => decide (clusterOf t.core ≠ c)) && s.work.tasks.all (fun t => decide (clusterOf t.core ≠ c))
/-- CLUSTER_GATE: the gating sequence starts after 100 µs, unless a dispatch to the cluster falls in this cycle. -/
def clusterGate (s : State) (c : Nat) : State :=
  let x := s.cluster c
  if x.gated || x.gating || x.waking || !clusterIdle s c || decide (s.now < x.idleSince + 100000) then s
  else if s.dev.nextCluster = c ∧ (bestCand s c).isSome then s
  else s.modCluster c (fun x => { x with gating := true, idleSince := s.now })
def execClusterGate (c : Nat) (s : State) : Res := .next (clusterGate s c)
/-- GATING_SEQUENCE_END, after 2 µs. -/
def gatingEnd (s : State) (c : Nat) : State :=
  let x := s.cluster c
  if x.gating ∧ x.idleSince + 2000 ≤ s.now then s.modCluster c (fun x => { x with gating := false, gated := true }) else s
def execGatingSequenceEnd (c : Nat) (s : State) : Res := .next (gatingEnd s c)
/-- CLUSTER_WAKE_END: the teams dispatched to the cluster begin to issue. -/
def wakeEnd (s : State) (c : Nat) : State :=
  let s := s.modCluster c (fun x => { x with waking := false })
  { s with work := { s.work with teams := s.work.teams.map (fun t =>
      if clusterOf t.core = c then { t with waking := false } else t) } }
def execClusterWakeEnd (c : Nat) (s : State) : Res := .next (wakeEnd s c)

end Sys2Proof.Machine
end

