-- ==== Sys2Proof/Machine/Commands.lean ====
section
/-! DEFINITION. The commands of the Basin firmware (R382 to R388, R399, R400, R363, R367, Tables 15-5, 15-6). A command that
waits (for acknowledgements, for teams) is completed by a later step of the same command. -/

namespace Sys2Proof.Machine

/-! ### A command record (Table 15-5) -/

structure Cmd where
  op : Nat
  cflags : Nat
  msix : Nat
  rsv : Nat
  compAddr : Nat
  compVal : Nat
  p : List Nat
  deriving DecidableEq, Repr
def readCmd (s : State) (pa : Nat) : Cmd :=
  ⟨physNum s (pa + 8) 2, physNum s (pa + 10) 2, physNum s (pa + 12) 2, physNum s (pa + 14) 2, physNum s (pa + 16) 8,
   physNum s (pa + 24) 8, (List.range 12).map (fun i => physNum s (pa + 32 + 8 * i) 8)⟩
/-- Parameter word i. -/
def Cmd.w (c : Cmd) (i : Nat) : Nat := c.p.getD i 0
/-- The next command of a function: a command starts after the completion of the one before it, unless that was ASYNC (R383). -/
def nextCmd (s : State) (f : Nat) : Option (Nat × Cmd) :=
  match s.cmdLine? f with
  | none => none
  | some l =>
    if l.broken || s.work.cmds.any (fun w => decide (w.f = f) && !w.async) then none
    else l.sawNext.map (fun a => (a.toNat, readCmd s a.toNat))

/-- What a command does once accepted: it completes with a code, or waits. -/
inductive Act
  | done (s : State) (code : Nat)
  | wait (s : State) (u : CmdWait → CmdWait)

/-- Operations that Table 15-6 reserves to the PF. -/
def pfOnly (op : Nat) : Bool := decide (0x100 ≤ op) && decide (op ≤ 0x108)
/-- Checks that every command takes (R383). -/
def cmdBad (f : Nat) (c : Cmd) : Bool :=
  decide (c.rsv ≠ 0) || decide (4 ≤ c.cflags) || decide (c.compAddr % 16 ≠ 0) ||
  (c.cflags.testBit 1 && decide (msixSize f ≤ c.msix))
/-- The code that refuses a command: DENIED (6) first, then BADARG (7); `k` is the command's own. -/
def refusal (f : Nat) (c : Cmd) (k : Option Nat) : Option Nat :=
  if (f ≠ 64 ∧ pfOnly c.op = true) ∨ k = some 6 then some 6 else if cmdBad f c then some 7 else k
def cmdDone (f cb number : Nat) (c : Cmd) : Done :=
  ⟨f, tagOf f 0, cb, number, c.compAddr, c.compVal, if c.cflags.testBit 1 then some c.msix else none⟩
def waitOf' (f cb number : Nat) (c : Cmd) : CmdWait :=
  { f := f, cb := cb, number := number, opcode := c.op, compAddr := BitVec.ofNat 64 c.compAddr,
    compVal := BitVec.ofNat 64 c.compVal, cflags := BitVec.ofNat 16 c.cflags, msix := BitVec.ofNat 16 c.msix, inval := none,
    launch := none, team := 0, work := [], async := c.cflags.testBit 0 }
/-- The COMMAND entry (Table 15-8). -/
def postCommand (s : State) (f : Nat) (c : Cmd) : State :=
  postJournal s 1 f 0 (toBytes 2 c.op ++ toBytes 2 c.cflags ++ toBytes 4 0 ++ (List.range 4).flatMap (fun i => toBytes 8 (c.w i)))
/-- The next command of a function, where its opcode is the one named: it is refused, or accepted and acts. -/
def startCmd (s : State) (f : Nat) (ok : Cmd → Bool) (check : State → Cmd → Option Nat) (act : State → Cmd → Act) : State :=
  match s.cmdLine? f, nextCmd s f with
  | some l, some (pa, c) =>
    if !ok c then s
    else
      let s := lineRead s l.cb pa
      let number := lineCount s l.cb
      let s := match refusal f c (check s c) with
        | some code => complete s (cmdDone f l.cb number c) code 0
        | none =>
          match act (postCommand s f c) c with
          | .done s code => complete s (cmdDone f l.cb number c) code 0
          | .wait s u => { s with work := { s.work with cmds := s.work.cmds ++ [u (waitOf' f l.cb number c)] } }
      watchNext s l.cb
  | _, _ => s
/-- Complete a command that waits, where its condition holds. -/
def finishCmd (s : State) (f op : Nat) (ready : State → CmdWait → Bool) (act : State → CmdWait → State × Nat) : Option State :=
  match s.work.cmds.find? (fun w => decide (w.f = f) && decide (w.opcode = op) && ready s w) with
  | none => none
  | some w =>
    let s := { s with work := { s.work with cmds := s.work.cmds.erase w } }
    let r := act s w
    let d : Done := ⟨w.f, tagOf w.f 0, w.cb, w.number, w.compAddr.toNat, w.compVal.toNat,
      if w.cflags.getLsbD 1 then some w.msix.toNat else none⟩
    some (complete r.1 d r.2 0)
/-- One step of a command. -/
def command (s : State) (f op : Nat) (check : State → Cmd → Option Nat) (act : State → Cmd → Act)
    (ready : State → CmdWait → Bool) (fin : State → CmdWait → State × Nat) : State :=
  match finishCmd s f op ready fin with
  | some t => t
  | none => startCmd s f (fun c => decide (c.op = op)) check act
/-- A command that completes where it is accepted. -/
def quick (s : State) (f op : Nat) (check : State → Cmd → Option Nat) (act : State → Cmd → State × Nat) : State :=
  startCmd s f (fun c => decide (c.op = op)) check (fun s c => let r := act s c; .done r.1 r.2)

/-- BADARG unless a condition holds. -/
def need (b : Bool) : Option Nat := if b then none else some 7
/-- The first refusal of several. -/
def firstBad : List (Option Nat) → Option Nat
  | [] => none
  | some k :: _ => some k
  | none :: t => firstBad t

/-! ### Lines -/

/-- NOP_COMMAND. -/
def execNopCommand (f : Nat) (s : State) : Res := .next (quick s f 0x0001 (fun _ _ => none) (fun s _ => (s, 0)))

/-- A line that a command names: another function's is denied to a virtual function, none is BADARG, and so is a command line, which the launch
commands and LINE_DESTROY do not reach: a broken one is replaced by LINEADDR (R376; DESIGN CHOICE, log entry 30). -/
def lineRef (s : State) (f cb : Nat) : Option Nat :=
  match s.line? cb with
  | none => some 7
  | some l => if f ≠ 64 ∧ l.func ≠ f then some 6 else if l.isCmd then some 7 else none
def lineCreateOk (s : State) (f : Nat) (c : Cmd) : Option Nat :=
  let b := c.w 1
  match s.line? (c.w 0) with
  | some l => if f ≠ 64 ∧ l.func ≠ f then some 6 else some 7
  | none =>
    need (decide (c.w 0 % 64 = 0) && hasMem (c.w 0) 64 && linePlace s (c.w 0) && decide (b = bits b 5 0 + bits b 11 8 * 256) &&
      s.work.lines.all (fun l => l.isCmd || decide (l.func ≠ f) || decide (l.proc ≠ bits b 5 0) || decide (l.queue ≠ bits b 11 8)))
def lineCreateAct (s : State) (f : Nat) (c : Cmd) : State × Nat :=
  let ls := s.work.lines.filter (fun l => !l.isCmd)
  if 256 ≤ (ls.filter (fun l => decide (l.func = f))).length ∨ 4031 ≤ ls.length then (s, 3)
  else (armLine s (newLine (c.w 0) f (bits (c.w 1) 5 0) (bits (c.w 1) 11 8) false), 0)
def execLineCreate (f : Nat) (s : State) : Res :=
  .next (quick s f 0x0002 (fun s c => lineCreateOk s f c) (fun s c => lineCreateAct s f c))

/-- Records linked after one, in link order. Each holds a NEXT in memory, so the list is no longer than memory's (log entry 25). -/
def linked (s : State) : Nat → Nat → List Nat
  | 0, _ => []
  | n + 1, pa =>
    let x := physNum s pa 8
    if x = 0 ∨ nextBad x = true ∨ linePlace s x = false then [] else x :: linked s n x
/-- LINE_DESTROY kills the active launch; launch images that wait for their admission on the line are dropped with it, of which the spec says
nothing (DESIGN CHOICE, log entry 47). -/
def destroyAct (s : State) (c : Cmd) : Act :=
  let cb := c.w 0
  let later := linked s (s.mem.cells.length + 1) (lineLast s cb)
  let s := s.modLine cb (fun l => { l with destroyed := true, restores := [] })
  let s := match (s.line? cb).bind (·.active) with
    | some k => (killLaunch s k 0 0 0 0 false none false).modLaunch k (fun l =>
      match l.ending with | .saved _ => l | _ => { l with ending := .cancelled })
    | none => s
  .wait s (fun w => { w with work := cb :: later })
/-- Cancel a record that was never admitted. -/
def cancelRecord (cb : Nat) (s : State) (pa : Nat) : State :=
  match s.line? cb with
  | none => s
  | some l =>
    let s := lineRead s cb pa
    complete s (recDone l (readRecord s pa) (lineCount s cb)) 4 0
def destroyFin (s : State) (w : CmdWait) : State × Nat :=
  let cb := w.work.headD 0
  let s := (w.work.drop 1).foldl (cancelRecord cb) s
  ({ s with work := { s.work with lines := s.work.lines.filter (fun l => decide (l.cb ≠ cb)) } }, 0)
/-- LINE_DESTROY: it completes after the active launch has. -/
def execLineDestroy (f : Nat) (s : State) : Res :=
  .next (command s f 0x0003 (fun s c => lineRef s f (c.w 0)) destroyAct
    (fun s w => match s.line? (w.work.headD 0) with | some l => l.active.isNone | none => true) destroyFin)

/-! ### Processes and invalidation -/

/-- A firmware invalidation has been acknowledged by every recipient. -/
def acked (s : State) (w : CmdWait) : Bool := match w.inval with | some id => (findInval s id).isNone | none => true
def procAct (s : State) (f : Nat) (c : Cmd) : Act :=
  let p := c.w 0
  let s := modProc s f p (fun x => { x with weight := c.w 1 })
  let s := s.setNum (0x8000000000 + 8 * tagOf f p) 8 (c.w 2)
  let r := sendInval s none (tagOf f p) 0 0 1
  .wait r.1 (fun w => { w with inval := some r.2 })
/-- PROC_CONFIG. -/
def execProcConfig (f : Nat) (s : State) : Res :=
  .next (command s f 0x0004 (fun _ c => need (decide (c.w 0 < 64) && decide (1 ≤ c.w 1) && decide (c.w 1 ≤ 255)))
    (fun s c => procAct s f c) acked (fun s _ => (s, 0)))
def invalidateAct (s : State) (f : Nat) (c : Cmd) : Act :=
  if c.w 1 = 0 then .done s 0
  else
    let r := sendInval s none (tagOf f (c.w 2)) (c.w 0 / 4096 * 4096) (c.w 1) 0
    .wait r.1 (fun w => { w with inval := some r.2 })
/-- INVALIDATE. -/
def execInvalidate (f : Nat) (s : State) : Res :=
  .next (command s f 0x0005
    (fun _ c => need (decide (c.w 0 < 2 ^ 57) && decide (c.w 1 < 2 ^ 32) && decide (c.w 2 < 64)))
    (fun s c => invalidateAct s f c) acked (fun s _ => (s, 0)))

/-! ### Launches -/

/-- The launch that P0 and P1 name: a number above COUNT names none, and neither does 0 (log entry 30). -/
def launchRef (s : State) (f : Nat) (c : Cmd) : Option Nat :=
  match lineRef s f (c.w 0) with
  | some k => some k
  | none => need (decide (1 ≤ c.w 1) && decide (c.w 1 ≤ lineCount s (c.w 0)))
/-- The named launch, when it has not finished. -/
def launchOf (s : State) (c : Cmd) : Option Launch :=
  s.work.launches.find? (fun l => decide (l.cb = c.w 0) && decide (l.number = c.w 1))
def teamRef (s : State) (f : Nat) (c : Cmd) : Option Nat :=
  match launchRef s f c with
  | some k => some k
  | none => match launchOf s c with
    | some l => need (decide (c.w 2 < l.rc.teams))
    | none => none

/-- A stop request for a team (R340): its groups take it, or will when the team is resident. One in supervisor mode takes it after SRET, before
its first user issue (R328). -/
def requestStop (s : State) (l : Launch) (t : Nat) : State :=
  let lim := (s.func l.func).deadline
  match s.team? l.key t with
  | some _ =>
    (s.teamGroups l.key t).foldl (fun s h => s.modG h (fun g =>
      if g.ctl.stopPend || g.ctl.dead then g
      else { g with ctl := { g.ctl with stopPend := true, stopDue := g.sp.sv, stopCnt := 0, stopLim := lim } })) s
  | none =>
    if l.nextTeam ≤ t ∨ l.savedTeams.any (fun x => decide (x.1 = t)) = true then
      s.modLaunch l.key (fun l => { l with stops := l.stops ++ (List.range l.rc.groups).map (fun g => (t, g, 0, lim)) })
    else s
/-- Every group of the team has trapped. -/
def stopsDone (s : State) (w : CmdWait) : Bool :=
  match w.launch with
  | none => true
  | some k =>
    match s.launch? k with
    | none => true
    | some l => l.stops.all (fun x => decide (x.1 ≠ w.team)) && (s.teamGroups k w.team).all (fun h => !(s.grp h).ctl.stopPend)
def stopAct (s : State) (c : Cmd) : Act :=
  match launchOf s c with
  | none => .done s 0
  | some l => .wait (requestStop s l (c.w 2)) (fun w => { w with launch := some l.key, team := c.w 2 })
/-- STOP_REQUEST. -/
def execStopRequest (f : Nat) (s : State) : Res :=
  .next (command s f 0x0006 (fun s c => teamRef s f c) stopAct stopsDone (fun s _ => (s, 0)))
/-- A halted group goes on, and its replay entries that waited are performed again (R327, R339); without power it does not (R420). -/
def resumeGroup (s : State) (h : Nat) : State :=
  if (s.grp h).ctl.halted && !(s.die (dieOf (s.grp h).core)).off then resumeAll (s.modG h (fun g => { g with ctl := { g.ctl with halted := false } })) h else s
/-- RESUME (R339). It reaches the groups that are halted as it is served: one that is saved, or restored and not past its SRET, is halted
again by its image (DESIGN CHOICE, log entry 45). -/
def execResume (f : Nat) (s : State) : Res :=
  .next (quick s f 0x0007 (fun s c => teamRef s f c) (fun s c =>
    match launchOf s c with
    | none => (s, 0)
    | some l => ((s.teamGroups l.key (c.w 2)).foldl resumeGroup s, 0)))
/-- KILL_COMMAND (R381). -/
def execKillCommand (f : Nat) (s : State) : Res :=
  .next (quick s f 0x0008 (fun s c => match launchRef s f c with | some k => some k | none => need (decide (c.w 2 < 2)))
    (fun s c => match launchOf s c with
      | none => (s, 0)
      | some l => (killLaunch s l.key 0 0 0 0 (decide (c.w 2 = 1)) none false, 0)))

/-- An offset in a function's context area. -/
def areaOffset (s : State) (f off : Nat) : Bool := decide (off % 4096 = 0) && decide (off < (s.func f).ctxSize)
def saveLaunchOk (s : State) (f : Nat) (c : Cmd) : Option Nat :=
  match launchRef s f c with
  | some k => some k
  | none => match launchOf s c with
    | none => none
    | some l => need (areaOffset s l.func (c.w 2) && l.saveCmd.isNone)
def saveLaunchAct (s : State) (c : Cmd) : Act :=
  match launchOf s c with
  | none => .done s 0
  | some l =>
    let s := s.modLaunch l.key (fun l => { l with stopDispatch := true, saveOff := some (c.w 2), saveCmd := some (c.w 1) })
    let ts := s.work.teams.filter (fun t => decide (t.launch = l.key))
    .wait (ts.foldl (fun s t => requestPreempt s t.launch t.id) s) (fun w => { w with launch := some l.key })
/-- Entries of a launch's deques in the image: those in the SRAM core by core, then the overflow area's (R399). -/
def imageItems (s : State) (k : Nat) : List DWord :=
  let ds := (List.range 257).flatMap (fun c => dequeOf s k c)
  (ds.filter (fun e => e.2.slot?.isNone)).map (·.1) ++ (ds.filter (fun e => e.2.slot?.isSome)).map (·.1)
/-- The launch image (R399). -/
def writeLaunchImage (s : State) (l : Launch) (pa : Nat) : State :=
  let m := l.savedTeams.length
  let items := imageItems s l.key
  let teams := l.savedTeams.zip (List.range m)
  let parts := teams.map (fun t => (pa + teamOffset l.rc m t.2, s.mem.bytes t.1.2 l.rc.imageSize))
  let s := teams.foldl (fun s t => moveNotes s t.1.2 l.rc.imageSize (pa + teamOffset l.rc m t.2)) s
  let s := s.setBytes pa (launchHeader l m items.length)
  let s := s.setBytes (pa + 0x1000) (teams.flatMap (fun t => toBytes 8 (teamOffset l.rc m t.2)))
  let s := parts.foldl (fun s p => s.setBytes p.1 p.2) s
  s.setBytes (pa + teamOffset l.rc m m) (items.flatMap (fun x => toBytes 8 x.toNat))
def saveLaunchReady (s : State) (w : CmdWait) : Bool :=
  match w.launch with
  | none => true
  | some k => s.work.teams.all (fun t => decide (t.launch ≠ k))
def saveLaunchFin (s : State) (w : CmdWait) : State × Nat :=
  match w.launch.bind s.launch? with
  | none => (s, 0)
  | some l =>
    match l.ending, l.saveOff with
    | .none, some off =>
      let s := writeLaunchImage s l ((s.func l.func).ctxPa + off)
      (s.modLaunch l.key (fun l => { l with ending := .saved off, savedTeams := [] }), 0)
    | _, _ => (s, 0)
/-- SAVE_LAUNCH. -/
def execSaveLaunch (f : Nat) (s : State) : Res :=
  .next (command s f 0x0009 (fun s c => saveLaunchOk s f c) saveLaunchAct saveLaunchReady saveLaunchFin)
/-- Where the image of RESTORE_LAUNCH lies: in the context area of the line's function. -/
def restoreArea (s : State) (c : Cmd) : Nat :=
  (s.func (match s.line? (c.w 0) with | some l => l.func | none => 64)).ctxPa + c.w 1
/-- RESTORE_LAUNCH completes DONE when it is accepted, before the admission, and an image with a bad VERSION or CHECK completes with BADARG:
neither is in R384 or R399 (DESIGN CHOICE, log entries 30 and 47). -/
def execRestoreLaunch (f : Nat) (s : State) : Res :=
  .next (quick s f 0x000A
    (fun s c => match lineRef s f (c.w 0) with
      | some k => some k
      | none => need (areaOffset s (match s.line? (c.w 0) with | some l => l.func | none => 64) (c.w 1) &&
          launchImageOk s (restoreArea s c)))
    (fun s c => (s.modLine (c.w 0) (fun l => { l with restores := l.restores ++ [restoreArea s c] }), 0)))

/-! ### Journal copy and host attention (R387, R388) -/

/-- A fault record under COARSE (Table 18-9): addresses without their low 21 bits, the class code, also of the cause that a DOUBLE without a
code names, no PC. -/
def coarseRec (r : FaultRec) : FaultRec :=
  let low := fun (x : Nat) => x / 2 ^ 21 * 2 ^ 21
  let w0 := r.w0.toNat
  let w2 := if r.kind = 5 then r.w2.toNat / 2 ^ 52 * 2 ^ 52 + low (r.w2.toNat % 2 ^ 52)
    else if r.kind = 3 then classCode r.w2.toNat else r.w2.toNat
  ⟨BitVec.ofNat 64 (w0 / 2 ^ 56 * 2 ^ 56 + classCode (bits w0 55 51) * 2 ^ 51 + bits w0 50 50 * 2 ^ 50),
   BitVec.ofNat 64 (low r.w1.toNat), BitVec.ofNat 64 w2, r.w3⟩
def setRange (l : List Byte) (at' : Nat) (b : List Byte) : List Byte := l.take at' ++ b ++ l.drop (at' + b.length)
/-- An entry of another function as the PF receives it: KILL, ATTENTION and FAULTREC entries under the level that the function had for fault
records when the entry was posted (R435, R437, log entry 31). -/
def pfEntry (lev : Nat) (e : List Byte) : List Byte :=
  let kind := ofBytes ((e.drop 16).take 2)
  let body := e.drop 24
  let word := fun (i : Nat) => BitVec.ofNat 64 (bodyNum body (8 * i) 8)
  if lev = 3 ∨ !(kind = 4 ∨ kind = 5 ∨ kind = 6) then e
  else if lev = 2 then
    if kind = 4 then setRange (setRange e 44 (toBytes 1 (classCode (bodyNum body 20 1)))) 48 (toBytes 8 0)
    else if kind = 5 then setRange e 32 (toBytes 8 (bodyNum body 8 8 / 2 ^ 21 * 2 ^ 21))
    else setRange e 24 (recBytes (coarseRec ⟨word 0, word 1, word 2, word 3⟩))
  else toBytes 64 0
/-- Bytes written as user-mode stores of a tag, sector by sector, where they translate. -/
def userWrite (tag : Nat) : Nat → State → Nat → List Byte → State
  | 0, s, _, _ => s
  | n + 1, s, va, bs =>
    let k := 32 - va % 32
    let s := match engineAccess s tag va .write with
      | (s, .inl x) => s.upMem (fun m => exactStore m x.1 x.2 (bs.take k))
      | (s, .inr _) => s
    if bs.length ≤ k then s else userWrite tag n s (va + k) (bs.drop k)
/-- One slot of JOURNAL_COPY. -/
def copySlot (f seq : Nat) (tag dst : Nat) (s : State) : State :=
  let pa := 0x8000100000 + 64 * (seq % 65536)
  let e := s.mem.bytes pa 64
  let fits := decide (s.num pa 8 = seq) && decide (seq ≠ 0) && (decide (f = 64) || decide (s.num (pa + 18) 1 = f))
  userWrite tag 3 s dst (if !fits then toBytes 64 0 else if f = 64 then pfEntry (Tb.get 3 s.dev.jlevels (seq % 65536)) e else e)
def execJournalCopy (f : Nat) (s : State) : Res :=
  .next (quick s f 0x000B
    (fun _ c => need (decide (1 ≤ c.w 1) && decide (c.w 1 ≤ 65536) && decide (c.w 3 < 64)))
    (fun s c => ((List.range (c.w 1)).foldl (fun s i => copySlot f (c.w 0 + i) (tagOf f (c.w 3)) (c.w 2 + 64 * i) s) s, 0)))
/-- EVENT. -/
def execEvent (f : Nat) (s : State) : Res :=
  .next (quick s f 0x000C (fun _ c => need (decide (c.w 0 < msixSize f)))
    (fun s c => (s.modFunc f (fun x => { x with eventVec := some (c.w 0) }), 0)))
/-- The host's attention: an ATTENTION entry, then the function's EVENT message (R388). -/
def attention (s : State) (f tag reason list va : Nat) : State :=
  let s := postJournal s 5 f 0 (toBytes 2 tag ++ toBytes 1 reason ++ toBytes 1 list ++ toBytes 4 0 ++ toBytes 8 va)
  match (s.func f).eventVec with | some v => sendMsix s f v | none => s

/-! ### Functions, areas, carve-outs -/

/-- FUNC_CONFIG. -/
def execFuncConfig (f : Nat) (s : State) : Res :=
  .next (quick s f 0x0100
    (fun _ c => need (decide (c.w 0 ≤ 64) && decide (c.w 1 < 2 ^ 32) &&
      (decide (c.w 2 = 0) || (decide (100000 ≤ c.w 2) && decide (c.w 2 ≤ 100000000))) && decide (c.w 3 ≤ 255) &&
      (decide (c.w 4 = 0) || (decide (4096 ≤ c.w 4) && decide (c.w 4 ≤ 16777215)))))
    (fun s c =>
      (s.modFunc (c.w 0) (fun x => { x with
        clusters := BitVec.ofNat 32 (c.w 1), slice := if c.w 2 = 0 then 1000000 else c.w 2,
        dqWeight := if c.w 3 = 0 then 16 else c.w 3, deadline := if c.w 4 = 0 then 60000 else c.w 4 }), 0)))
/-- A range that lies in HBM4, of one die or of several, or in LPDDR6. -/
def inHbmOrLpddr (pa size : Nat) : Bool :=
  match pmem pa, pmem (pa + size - 1) with
  | .hbm _, .hbm _ => true
  | .lpddr, .lpddr => true
  | _, _ => false
/-- An area in HBM4 or LPDDR6, 4 KiB aligned. -/
def areaOk (pa size : Nat) : Bool :=
  decide (pa % 4096 = 0) && decide (size % 4096 = 0) && (decide (size = 0) || inHbmOrLpddr pa size)
/-- CTX_AREA. -/
def execCtxArea (f : Nat) (s : State) : Res :=
  .next (quick s f 0x0101 (fun _ c => need (decide (c.w 0 ≤ 64) && areaOk (c.w 1) (c.w 2) && areaOk (c.w 3) (c.w 4)))
    (fun s c => (s.modFunc (c.w 0) (fun x =>
      { x with ctxPa := c.w 1, ctxSize := c.w 2, dumpPa := c.w 3, dumpSize := c.w 4 }), 0)))
/-- CARVE (R346): the carve-out stays reserved until reset. -/
def execCarve (f : Nat) (s : State) : Res :=
  .next (quick s f 0x0102 (fun _ c => need (decide (c.w 0 ≤ 8)))
    (fun s c => (s.upMem (fun m => if m.carved.contains (c.w 0) then m else { m with carved := m.carved ++ [c.w 0] }), 0)))

/-! ### The pool (R363) -/

/-- The record of pool list i, and its fields. -/
def poolRec (i : Nat) : Nat := 0x8000080000 + 32 * i
def poolHead (s : State) (i : Nat) : Nat := s.num (poolRec i) 8
def poolTail (s : State) (i : Nat) : Nat := s.num (poolRec i + 8) 8
def poolBase (s : State) (i : Nat) : Nat := s.num (poolRec i + 16) 8
def poolCap (s : State) (i : Nat) : Nat := s.num (poolRec i + 24) 4
def poolCount (s : State) (i : Nat) : Nat := (poolTail s i + 2 ^ 64 - poolHead s i) % 2 ^ 64
def poolEntry (s : State) (i k : Nat) : Nat := poolBase s i + 8 * (k % max 1 (poolCap s i))
/-- The firmware adds a frame. -/
def poolPush (s : State) (i frame : Nat) : State :=
  let t := poolTail s i
  (s.setNum (poolEntry s i t) 8 frame).setNum (poolRec i + 8) 8 (t + 1)
/-- Frame sizes (Table 14-8). -/
def poolSize (i : Nat) : Nat := if i < 8 then 0x200000 else if i = 8 then 0x10000 else 0x1000
def poolMem (i pa : Nat) : Bool :=
  match pmem pa with
  | .hbm d => decide (i = d) || decide (i = 9)
  | .lpddr => decide (i = 8) || decide (i = 9)
  | .tarn => decide (i = 9)
  | _ => false
def frameOk (s : State) (i pa : Nat) : Bool :=
  decide (pa % poolSize i = 0) && poolMem i pa && !inCarve s.mem.carved pa (poolSize i)
def framesOf (s : State) (c : Cmd) : List Nat := (List.range (c.w 2)).map (fun i => s.num (c.w 1 + 8 * i) 8)
/-- POOL_ADD. -/
def execPoolAdd (f : Nat) (s : State) : Res :=
  .next (quick s f 0x0103
    (fun s c => need (decide (c.w 0 ≤ 9) && hasMem (c.w 1) (max 1 (8 * c.w 2)) &&
      (List.range (c.w 2)).all (fun i => frameOk s (c.w 0) (s.num (c.w 1 + 8 * i) 8))))
    (fun s c =>
      if poolCap s (c.w 0) < poolCount s (c.w 0) + c.w 2 then (s, 3)
      else ((framesOf s c).foldl (fun s p => poolPush s (c.w 0) p) s, 0)))

/-! ### Migration (R367) -/

/-- The entries of a page: one, or the 16 of a C16 page. -/
def pageEntries (level epa e : Nat) : List Nat :=
  if level = 0 ∧ pteC16 e = true then (List.range 16).map (fun i => epa / 128 * 128 + 8 * i) else [epa]
/-- The entry during the migration, and after it. -/
def migrating (e : Nat) : Nat := e &&& 0x1FFC ||| 0xA000
def migrated (e frame : Nat) : Nat := frame / 4096 * 2 ^ 24 + (e &&& 0x31FFC) + 1
def migrateOk (s : State) (c : Cmd) : Option Nat :=
  if 2 ^ 16 ≤ c.w 0 ∨ 2 ^ 57 ≤ c.w 1 then some 7
  else match walk s.mem (c.w 0) (c.w 1) with
    | .leaf level _ e => need (decide (c.w 2 % leafSize level e = 0) && !leafBad s.mem.carved (c.w 0) level (migrated e (c.w 2)))
    | _ => some 7
def migrateAct (s : State) (c : Cmd) : Act :=
  match walk s.mem (c.w 0) (c.w 1) with
  | .leaf level epa e =>
    let s := (pageEntries level epa e).foldl (fun s a => s.setNum a 8 (migrating (s.num a 8))) s
    let sz := leafSize level e
    let r := sendInval s none (c.w 0) (c.w 1 / sz * sz) (sz / 4096) 0
    .wait r.1 (fun w => { w with inval := some r.2, work := [level, epa, e, c.w 2] })
  | _ => .done s 7
/-- Data and bounds of a frame, sector by sector. -/
def moveSector (bnd : Bool) (src dst : Nat) (s : State) (k : Nat) : State :=
  let s := s.setBytes (dst + 32 * k) (s.mem.bytes (src + 32 * k) 32)
  if bnd then s.upMem (fun m => m.setBound (dst + 32 * k) (m.bound (src + 32 * k))) else s
/-- The pool list of a page's frame. -/
def listOfFrame (tier frame : Nat) : Option Nat :=
  if tier = 0 then some (frame / 0x1000000000) else if tier = 1 then some 8 else none
def migrateFin (s : State) (w : CmdWait) : State × Nat :=
  match w.work with
  | [level, epa, e, new] =>
    let old := pteFrame e
    let sz := leafSize level e
    let s := (List.range (sz / 32)).foldl (moveSector (pteBnd e) old new) s
    let s := s.upMem (fun m => { m with race := m.race.filter (fun r => !(decide (old ≤ 32 * r.1) && decide (32 * r.1 < old + sz))) })
    let s := (pageEntries level epa e).foldl (fun s a => s.setNum a 8 (migrated e new)) s
    match listOfFrame (pteTier e) old with
    | none => (s, 0)
    | some i =>
      (if poolCount s i < poolCap s i then poolPush s i old
       else postJournal s 7 64 0 (toBytes 8 i ++ toBytes 8 old), 0)
  | _ => (s, 0)
/-- MIGRATE. -/
def execMigrate (f : Nat) (s : State) : Res := .next (command s f 0x0104 migrateOk migrateAct acked migrateFin)

/-! ### Split arrays and vectors -/

/-- SPLIT (R400). -/
def execSplit (f : Nat) (s : State) : Res :=
  .next (quick s f 0x0105
    (fun _ c => need (decide (c.w 0 < 256) &&
      (decide (c.w 1 = 0xFFFF) || (decide (c.w 1 ≤ 64) && decide (c.w 2 ≤ 64) && decide (c.w 1 ≠ c.w 2)))))
    (fun s c =>
      (settleSplit (s.modCore (c.w 0) (fun x =>
        { x with splitPend := some (if c.w 1 = 0xFFFF then none else some (c.w 1, c.w 2)) })) (c.w 0), 0)))
/-- VECTOR: a signed image takes a cause's vector; the signature has the scheme of R433 (DEDUCED, log entry 13). -/
def execVector (f : Nat) (s : State) : Res :=
  .next (quick s f 0x0106
    (fun s c => need (decide (c.w 0 < 64) && hasMem (c.w 1) (max 1 (c.w 2)) && hasMem (c.w 3) 512 &&
      rsaVerify Config.firmwareKey (s.mem.bytes (c.w 1) (c.w 2)) (s.mem.bytes (c.w 3) 512)))
    (fun s c =>
      let img := s.mem.bytes (c.w 1) (c.w 2)
      let s := s.setNum (s.dev.vtab.toNat + 8 * c.w 0) 8 (Config.imagePc (c.w 0) (c.w 1)).toNat
      ({ s with dev := { s.dev with romVecs := s.dev.romVecs &&& ~~~(BitVec.ofNat 64 (2 ^ c.w 0)),
                                    images := Tb.put s.dev.images (c.w 0) img } }, 0)))

/-- Opcodes of Table 15-6. -/
def knownOp (c : Cmd) : Bool :=
  (decide (1 ≤ c.op) && decide (c.op ≤ 12)) || (decide (0x100 ≤ c.op) && decide (c.op ≤ 0x108) && (decide (c.op ≠ 0x107) || decide (c.w 0 ≤ 6)))
/-- UNKNOWN_COMMAND_OPCODE (R384), and a POLICY whose P0 selects no operation (R438). -/
def execUnknownCommandOpcode (f : Nat) (s : State) : Res :=
  .next (startCmd s f (fun c => !knownOp c) (fun _ _ => some 7) (fun s _ => .done s 7))

end Sys2Proof.Machine
end

