-- ==== Sys2Proof/Machine/PolicyCmds.lean ====
section
/-! DEFINITION. The POLICY command (R426, R430, R433 to R441, Tables 18-7, 18-10 to 18-12). -/

namespace Sys2Proof.Machine

/-- One operation of POLICY: P0 selects it. -/
def policyOp (s : State) (f op : Nat) (check : State → Cmd → Option Nat) (act : State → Cmd → State × Nat) : State :=
  startCmd s f (fun c => decide (c.op = 0x107) && decide (c.w 0 = op)) check (fun s c => let r := act s c; .done r.1 r.2)

/-! ### LOAD and CLEAR (R433, R434, R438) -/

def readPolicy (s : State) (pa : Nat) : Policy :=
  ⟨BitVec.ofNat 64 (s.num (pa + 8) 8), BitVec.ofNat 16 (s.num (pa + 16) 2), s.num (pa + 18) 1, s.mem.bytes pa 1152⟩
/-- Fields in their ranges, reserved bits 0, a higher sequence, and a signature that verifies. -/
def policyOk (s : State) (pa : Nat) : Bool :=
  let n := fun (o k : Nat) => s.num (pa + o) k
  let zero := fun (o k : Nat) => (s.mem.bytes (pa + o) k).all (fun b => decide (b = 0))
  let present := match (s.func (n 4 4)).policy with | some p => p.seq.toNat | none => 0
  decide (n 0 4 = 1) && decide (n 4 4 < 64) && decide (1 ≤ n 8 8) && decide (n 16 2 < 2 ^ 12) && decide (2 ≤ n 18 1) &&
  decide (n 18 1 ≤ 64) && zero 19 45 && zero 580 60 && (s.byte (pa + 575)).getLsbD 7 && decide (n 576 4 % 2 = 1) &&
  decide (3 ≤ n 576 4) && decide (present < n 8 8) &&
  rsaVerify (s.mem.bytes (pa + 64) 516) (s.mem.bytes pa 640) (s.mem.bytes (pa + 640) 512)
/-- POLICY LOAD. -/
def execLoad (f : Nat) (s : State) : Res :=
  .next (policyOp s f 0 (fun s c => need (decide (c.w 1 % 64 = 0) && hasMem (c.w 1) 1152 && policyOk s (c.w 1)))
    (fun s c => (s.modFunc (s.num (c.w 1 + 4) 4) (fun x => { x with policy := some (readPolicy s (c.w 1)) }), 0)))
/-- POLICY CLEAR: the function has no line and no saved or resident team. -/
def execClear (f : Nat) (s : State) : Res :=
  .next (policyOp s f 6
    (fun s c => need (decide (c.w 1 ≤ 64) && s.work.lines.all (fun l => decide (l.func ≠ c.w 1)) &&
      s.work.launches.all (fun l => decide (l.func ≠ c.w 1) ||
        (decide (l.savedTeams = []) && s.work.teams.all (fun t => decide (t.launch ≠ l.key))))))
    (fun s c => (s.modFunc (c.w 1) (fun x => { x with policy := none }), 0)))

/-! ### COUNTERS (R426) -/

/-- A team has groups on a core (R21). -/
def onCore (t : Team) (core : Nat) : Bool := decide (t.core = core) || (t.pair && decide (t.core + 1 = core))
/-- Give counter i of a core a code: a new code clears its counts, and every resident team's view loses its value. -/
def programCounter (core : Nat) (s : State) (x : Nat × Nat) : State :=
  let i := x.1
  let code := x.2
  let old := (Tb.get (0 : Byte) (s.core core).events i).toNat
  if old = code then s
  else
    let s := s.modCore core (fun c =>
      { c with events := Tb.set 0 c.events i (BitVec.ofNat 8 code), counts := c.counts.filter (fun e => decide (e.1 / 128 ≠ i)) })
    { s with work := { s.work with teams := s.work.teams.map (fun t =>
        if onCore t core then { t with views := Tb.put t.views (16 * core + i) 0xFFFFFFFFFFFE } else t) } }
def codesOf (c : Cmd) : List (Nat × Nat) := (List.range 16).map (fun i => (i, (c.w (2 + i / 8)) / 2 ^ (8 * (i % 8)) % 256))
/-- POLICY COUNTERS. -/
def execCounters (f : Nat) (s : State) : Res :=
  .next (policyOp s f 1
    (fun _ c => need ((decide (c.w 1 < 256) || decide (c.w 1 = 0xFFFF)) && (codesOf c).all (fun x => decide (x.2 ≤ 0x19))))
    (fun s c =>
      let cores := if c.w 1 = 0xFFFF then List.range 256 else [c.w 1]
      (cores.foldl (fun s k => (codesOf c).foldl (programCounter k) s) s, 0)))

/-! ### READ (R435 to R437, R439) -/

/-- A row of Table 18-11. -/
def readRow' (s : State) (unit index func event count team : Nat) (coarse view : Bool) : List Byte :=
  toBytes 2 unit ++ toBytes 1 index ++ toBytes 1 func ++ toBytes 1 (b2n coarse + 2 * b2n view) ++ toBytes 1 event ++ toBytes 2 0 ++
  toBytes 6 count ++ toBytes 2 0 ++ toBytes 8 s.now ++ toBytes 4 0 ++ toBytes 4 team
/-- A count as COARSE releases it. -/
def coarseCount (x : Nat) : Nat := if x = 0xFFFFFFFFFFFE then x else x / 65536 * 65536
/-- An aggregate row over (function, amount) of a class: the sum over the functions at AGGREGATE, when enough of them contribute (R436).
AGGMIN is at least 2 (R433). -/
def aggregate (s : State) (cls : Nat) (xs : List (Nat × Nat)) : Option Nat :=
  let ys := xs.filter (fun x => decide (levelOf s x.1 cls = 1) && decide (x.2 ≠ 0))
  let k := maxList (ys.map (fun x => match (s.func x.1).policy with | some p => p.aggMin | none => 2))
  if ys = [] ∨ ys.length < k then none else some ((ys.map (·.2)).sum)
/-- Functions 0 to 64. -/
def allFuncs : List Nat := List.range 65
/-- The row of one quantity of a unit for a function, under the function's level for a class (Table 18-9). -/
def ownRow (s : State) (unit index f event cls v : Nat) : List (List Byte) :=
  match levelOf s f cls with
  | 3 => [readRow' s unit index f event v 0 false false]
  | 2 => [readRow' s unit index f event (coarseCount v) 0 true false]
  | _ => []
/-- The amount of an aggregate row as its 48 bits hold it. -/
def aggRow (s : State) (unit index event : Nat) (x : Option Nat) : List (List Byte) :=
  match x with | some x => [readRow' s unit index 0x7F event (min x 0xFFFFFFFFFFFF) 0 false false] | none => []
/-- Rows of the team views of counter i on a core, for one function, in order of team. -/
def viewRows (s : State) (core i ev f : Nat) : List (List Byte) :=
  (s.work.teams.filter (fun t => onCore t core && decide (s.funcOf t.launch = f))).filterMap (fun t =>
    let v := Tb.get 0 t.views (16 * core + i)
    match levelOf s f 0 with
    | 3 => some (readRow' s core i f ev v t.id false true)
    | 2 => some (readRow' s core i f ev (coarseCount v) t.id true true)
    | _ => none)
/-- Rows of counter i of a core: for each function its count and then its team views, and the aggregate row last (R439, log entry 32). -/
def counterRows (s : State) (core : Nat) (views : Bool) : List (List Byte) :=
  (List.range 16).flatMap (fun i =>
    let ev := (Tb.get (0 : Byte) (s.core core).events i).toNat
    let v := fun (f : Nat) => Tb.get 0 (s.core core).counts (128 * i + f)
    if ev = 0 then []
    else allFuncs.flatMap (fun f => ownRow s core i f ev 0 (v f) ++ (if views then viewRows s core i ev f else [])) ++
      aggRow s core i ev (aggregate s 0 (allFuncs.map (fun f => (f, v f)))))
/-- Rows of the aggregate stall histogram of a core, over the functions whose samples are at AGGREGATE. -/
def stallRows (s : State) (core : Nat) : List (List Byte) :=
  (List.range 32).flatMap (fun k =>
    aggRow s core (0x20 + k) 0 (aggregate s 1 (allFuncs.map (fun f => (f, Tb.get 0 (s.core core).stalls (128 * k + f))))))
/-- Rows of the energy of a die: the functions, the unattributed energy, the aggregate. -/
def energyRows (s : State) (d : Nat) : List (List Byte) :=
  let v := fun (f : Nat) => Tb.get 0 (s.func f).energy d
  allFuncs.flatMap (fun f => ownRow s d 0x40 f 0 5 (v f)) ++ [readRow' s d 0x40 0x7E 0 (s.die d).unattr 0 false false] ++
    aggRow s d 0x40 0 (aggregate s 5 (allFuncs.map (fun f => (f, v f))))
/-- Rows of the aggregate fault classes, over the functions whose fault records are at AGGREGATE. -/
def classRows (s : State) : List (List Byte) :=
  [1, 2, 3].flatMap (fun k =>
    aggRow s 0 (0x47 + k) 0 (aggregate s 3 (allFuncs.map (fun f => (f, Tb.get 0 s.dev.aggClass (128 * k + f))))))
/-- All rows of a READ (log entry 32). -/
def readRows (s : State) (c : Cmd) : List (List Byte) :=
  let cores := if c.w 1 = 0xFFFF then List.range 256 else [c.w 1]
  let views := (c.w 3).testBit 0
  let energy := (c.w 3).testBit 1
  cores.flatMap (fun k => counterRows s k views ++ (if energy then stallRows s k else [])) ++
  (if energy then (List.range 8).flatMap (energyRows s) ++ classRows s else []) ++ [readRow' s 0 0xFF 0 0 0 0 false false]
/-- POLICY READ. -/
def execRead (f : Nat) (s : State) : Res :=
  .next (policyOp s f 2
    (fun _ c => need ((decide (c.w 1 < 256) || decide (c.w 1 = 0xFFFF)) && hasMem (c.w 2) 32 && decide (c.w 3 < 4)))
    (fun s c => (s.setBytes (c.w 2) (readRows s c).flatten, 0)))

/-! ### SAMPLE (R428 to R430) -/

/-- A ring's header with WR, RD and DROP 0. -/
def resetRing (s : State) (pa : Nat) : State := s.setBytes pa (toBytes 64 0)
def ringSizeOk (n : Nat) : Bool := [4096, 8192, 16384, 32768, 65536].contains n
/-- The eight rings of n bytes at pa + 64 KiB × d lie in HBM4 or LPDDR6 (R430). -/
def inRingMem (pa n : Nat) : Bool := (List.range 8).all (fun d => inHbmOrLpddr (pa + 0x10000 * d) n)
/-- POLICY SAMPLE. -/
def execSample (f : Nat) (s : State) : Res :=
  .next (policyOp s f 3
    (fun _ c => need ((decide (c.w 1 = 0) || (decide (8 ≤ c.w 1) && decide (c.w 1 ≤ 16))) && ringSizeOk (c.w 4) &&
      inRingMem (c.w 2) (c.w 4) && inRingMem (c.w 3) (c.w 4) && decide (c.w 6 < 2)))
    (fun s c =>
      let s := (List.range 8).foldl (fun s d =>
        let a := c.w 2 + 0x10000 * d
        let b := c.w 3 + 0x10000 * d
        (resetRing (resetRing s a) b).modDie d (fun x => { x with ringS := some a, ringT := some b })) s
      let s := allFuncs.foldl (fun s g =>
        let on := if g = 64 then (c.w 6).testBit 0 else (c.w 5).testBit g
        if (s.func g).traced = on then s else s.modFunc g (fun x => { x with traced := on })) s
      ({ s with dev := { s.dev with sampleN := c.w 1, ringSize := c.w 4 } }, 0)))

/-! ### QUOTE and IDENTITY (R440, R441) -/

/-- Bytes [383:0] of a quote. -/
def quoteBody (s : State) (c : Cmd) : List Byte :=
  let g := c.w 2
  let pol := if g < 64 then (s.func g).policy else none
  pad 384 (toBytes 4 1 ++ toBytes 4 g ++ toBytes 8 s.now ++ pad 16 Config.serial ++ pad 64 (sha512 Config.romImage) ++
    pad 64 (sha512 Config.firmwareImage) ++
    pad 64 (sha512 (s.mem.bytes s.dev.vtab.toNat 512 ++ s.dev.images.flatMap (·.2))) ++
    (match pol with
     | some p => pad 64 (sha512 (p.raw.take 640)) ++ toBytes 8 p.seq.toNat
     | none => toBytes 64 0 ++ toBytes 8 0) ++ s.mem.bytes (c.w 1) 64)
/-- POLICY QUOTE. -/
def execQuote (f : Nat) (s : State) : Res :=
  .next (policyOp s f 4
    (fun _ c => need (hasMem (c.w 1) 64 && hasMem (c.w 3) 896 && (decide (c.w 2 ≤ 64) || decide (c.w 2 = 0xFFFFFFFF))))
    (fun s c =>
      let b := quoteBody s c
      (s.setBytes (c.w 3) (b ++ pad 512 (Config.identitySign (sha512 b))), 0)))
/-- POLICY IDENTITY. -/
def execIdentity (f : Nat) (s : State) : Res :=
  .next (policyOp s f 5
    (fun _ c => need (hasMem (c.w 1) (max 1 (c.w 2)) && decide (Config.certChain.length ≤ c.w 2)))
    (fun s c => (s.setBytes (c.w 1) Config.certChain, 0)))

end Sys2Proof.Machine
end

