-- ==== Sys2Proof/Machine/Select.lean ====
section
/-! DEFINITION. PC-sets and the set that a group issues (R24, R25). -/

namespace Sys2Proof.Machine

/-! ### PC-sets (R24, R25) -/

/-- Lanes that take part in the choice: RUN, and the handler's lanes only while HND = 1 in user mode (R25, R126). -/
def takesPart (g : Group) (l : Nat) : Bool :=
  decide ((g.lane l).st = .run) && (!g.sp.hnd || g.sp.sv || g.sp.hndMask.getLsbD l)
/-- Lanes of a group, by position. -/
def Group.positions (g : Group) : List Nat := List.range g.lanes.length
/-- The PC-sets that take part, by PC. -/
def pcSets (g : Group) : List (Nat × Mask) :=
  (g.positions.filter (takesPart g)).foldl (fun t l =>
    let k := (g.lane l).pc.toNat
    Tb.put t k (Tb.get 0 t k ||| maskOf [l])) []
def waitOf (g : Group) (pc : Nat) : Nat := Tb.get 0 g.waits pc

/-- The PC-set that the group issues (R25): among sets that have waited long enough the one with the highest count, the lower
PC winning; otherwise the lowest PC. -/
def choosePc (g : Group) : Option (Nat × Mask) :=
  let ps := pcSets g
  let ceil := 16 - ps.length
  let late := ps.filter (fun p => decide (ceil ≤ waitOf g p.1))
  if late = [] then ps.head?
  else late.foldl (fun b p =>
    match b with
    | none => some p
    | some q => if waitOf g q.1 < waitOf g p.1 then some p else some q) none

/-- Wait counts after an issue of the lanes `m` that took effect, or (`inc` = 0) after a trap without effect (R25). -/
def recount (before after : Group) (m : Mask) (inc : Nat) : List (Nat × Nat) :=
  let ran := fun l => decide ((before.lane l).st = .run)
  let carried := fun l =>
    if !ran l then 0
    else if inc ≠ 0 ∧ m.getLsbD l = true then 0
    else waitOf before (before.lane l).pc.toNat + (if takesPart before l then inc else 0)
  let stayed := fun l => ran l && decide ((before.lane l).pc = (after.lane l).pc)
  let now := after.positions.filter (fun l => decide ((after.lane l).st = .run))
  now.foldl (fun t l =>
    let q := (after.lane l).pc.toNat
    let standing := now.any (fun k => decide ((after.lane k).pc.toNat = q) && stayed k)
    if standing ∧ Tb.get 0 t q < carried l then Tb.put t q (carried l) else t) []
/-- The lanes of a group in supervisor mode as its user left them (Table 13-3). -/
def userView (g : Group) : Group :=
  { g with lanes := g.lanes.map (fun x => { x with pc := x.epc, st := x.lst }), sp := { g.sp with sv := false } }

end Sys2Proof.Machine
end

