-- ==== Sys2Proof/Machine/Observe.lean ====
section
/-! DEFINITION. Observation: PC samples (R428), energy (R432), error reports (R431), and the host's own accesses (R421). -/

namespace Sys2Proof.Machine

/-! ### PC samples (R428) -/

/-- A scheduler that issues nothing yet in this cycle. -/
def idleSched (s : State) (core sched : Nat) : Bool := decide (Tb.get 0 (s.core core).busy sched ≤ s.clk core)
/-- A scheduler's pick is due: sampling is on, the core cycle is a multiple of the period, and it has picked none in it (log entry 34). -/
def pickDue (s : State) (core sched : Nat) : Bool :=
  decide (s.dev.sampleN ≠ 0) && decide (s.clk core % 2 ^ s.dev.sampleN = 0) &&
  decide (Tb.get 0 (s.core core).pickAt sched ≠ s.clk core + 1)
/-- The next resident group of a scheduler after the place picked last. -/
def nextPick (s : State) (core sched : Nat) : Option (Nat × Group) :=
  let gs := s.work.groups.filter (fun e => decide (e.2.core = core) && decide (e.2.sched = sched))
  let last := Tb.get 15 (s.core core).picks sched
  let rank := fun (g : Group) => (g.place + 31 - last) % 16
  gs.foldl (fun b e =>
    match b with | none => some e | some x => if rank e.2 < rank x.2 then some e else some x) none
/-- The PC of a sample: of the set that issued, of the set that would, or the lowest of the parked lanes. -/
def samplePc (s : State) (g : Group) : Nat :=
  if s.clk g.core < g.issued then g.issuedPc.toNat
  else
    match choosePc g with
    | some (pc, _) => pc
    | none => ((g.lanes.filter (fun x => decide (x.st ≠ .done))).map (fun x => x.pc.toNat)).foldl
        (fun (b : Option Nat) p => match b with | none => some p | some q => some (min q p)) none |>.getD 0
/-- Whether a test holds of every lane not in DONE, of which there is one. -/
def allLive (g : Group) (t : LaneSt → Bool) : Bool :=
  let ls := g.lanes.filter (fun x => decide (x.st ≠ .done))
  !ls.isEmpty && ls.all (fun x => t x.st)
def isKnot : LaneSt → Bool | .knot _ => true | _ => false
def isBar : LaneSt → Bool | .wait (.barrier _ _) _ => true | _ => false
def isTimerWait : LaneSt → Bool | .wait .cycTimer _ => true | .wait .wallAlarm _ => true | _ => false
def isWait : LaneSt → Bool | .wait _ _ => true | _ => false
/-- Stall reasons of Table 18-3 as the scheduler last found them: a release takes no time here, and no word is on its way from memory, so that 11
and 15 never hold (log entry 34). -/
def stallReasons (s : State) (g : Group) : List (Nat × Bool) :=
  let why := fun (k : Nat) => (k, (canIssue s g || decide (k ≤ 2)) && decide (g.why = k))
  [why 1, why 2,
   (3, g.ctl.marker && decide (g.outst ≠ [])),
   (4, g.rejected.isSome),
   (5, decide (24 ≤ g.outst.length)),
   why 6, why 7, why 8, why 9, why 10, why 12, why 13, why 14,
   (16, allLive g isKnot),
   (17, allLive g isBar),
   (18, g.lanes.any (fun x => isWait x.st) && g.lanes.all (fun x => !isWait x.st || isTimerWait x.st)),
   (19, s.pw.throttle),
   (20, g.sp.sv),
   (21, g.ctl.halted),
   (22, g.ctl.saving || g.ctl.saved),
   (23, g.ctl.stopPend)]
/-- The lowest code that holds; SAVING for a group that is being saved (R443); where this model knows none, a free value among the codes. -/
def stallOf (s : State) (g : Group) : Nat × State :=
  if s.clk g.core < g.issued then (0, s)
  else if g.ctl.saving || g.ctl.saved then (22, s)
  else
    match (stallReasons s g).find? (·.2) with
    | some r => (r.1, s)
    | none => ((Config.freeMask s.free).toNat % 23 + 1, { s with free := s.free + 1 })
/-- A sample record (Table 18-2). -/
def sampleRec (s : State) (g : Group) (func stall pc : Nat) (coarse : Bool) : List Byte :=
  toBytes 32 (g.gid * 2 ^ 232 + g.team * 2 ^ 200 + mkHandle g.core g.sched g.place * 2 ^ 176 + regionIds g * 2 ^ 128 +
    b2n coarse * 2 ^ 126 + b2n (decide (stall = 0)) * 2 ^ 125 + stall * 2 ^ 120 + func * 2 ^ 112 + pc % 2 ^ 48 * 2 ^ 64 +
    s.now % 2 ^ 64)
/-- PC_SAMPLE of one scheduler where its pick is due, under the function's level for samples (R435). -/
def pcSample (s : State) (core sched : Nat) : State :=
  if pickDue s core sched = false ∨ 256 ≤ core ∨ 4 ≤ sched then s
  else
    match nextPick s core sched with
    | none => s
    | some (_, g) =>
      let s := s.modCore core (fun c => { c with picks := Tb.put c.picks sched g.place, pickAt := Tb.put c.pickAt sched (s.clk core + 1) })
      let f := s.funcOf g.launch
      let (k, s) := stallOf s g
      let ring := (s.die (dieOf core)).ringS
      match levelOf s f 1 with
      | 3 => ringPut s ring s.dev.ringSize (sampleRec s g f k (samplePc s g) false)
      | 2 => ringPut s ring s.dev.ringSize (sampleRec s g f k (regionIds g / 2 ^ 36) true)
      | 1 => s.modCore core (fun c => { c with stalls := Tb.put c.stalls (128 * k + f) (countUp (Tb.get 0 c.stalls (128 * k + f)) 1) })
      | _ => s
/-- The pick of a cycle follows the issue of that cycle: until the scheduler has issued, it waits for the end of the cycle. -/
def execPcSample (core sched : Nat) (s : State) : Res := .next (if idleSched s core sched then s else pcSample s core sched)

/-! ### Energy (R432) -/

/-- ENERGY_SPLIT: each function's share of a microsecond's energy, rounded down; the rest is unattributed (log entry 35). -/
def energySplit (s : State) (d uj : Nat) : State :=
  let q := (s.die d).charge
  let total := (q.map (·.2)).sum
  let share := fun (x : Nat) => if total = 0 then 0 else uj * x / total
  let s := q.foldl (fun s x =>
    if share x.2 = 0 then s
    else s.modFunc x.1 (fun f => { f with energy := Tb.put f.energy d ((Tb.get 0 f.energy d + share x.2) % 2 ^ 48) })) s
  let given := (q.map (fun x => share x.2)).sum
  s.modDie d (fun x => { x with charge := [], unattr := (x.unattr + (uj - given)) % 2 ^ 48 })
def execEnergySplit (d uj : Nat) (s : State) : Res := .next (energySplit s d uj)

/-! ### Error reports (R431) -/

/-- The die of an error: where its memory or its group lies. -/
def errDie (pa h : Nat) : Nat :=
  match pmem pa with | .hbm d => d | .pond c => dieOf c | _ => dieOf (h / 256)
/-- An uncorrected error of a line, a link, a register or the matrix array is reported. An access to memory that the report names may be one
that writes: a free value, since the event does not say it (Table 14-6, log entry 48); no access writes where the error is in none (`pa` 0). -/
def reportAt (s : State) (source code pa va pc h : Nat) : State :=
  let (wr, s) := if (Tb.get? s.work.groups h).isSome && decide (pa ≠ 0) then s.choose else (false, s)
  rasReport s source 1 code wr pa va pc (whoOf s h)
/-- RAS_ERROR: an uncorrected error marks its line or register, or poisons rows of a task of the matrix array (source 8, R400); a link error or
a lost device marks its sector; a corrected one counts until the next merged record. -/
def rasError (s : State) (source : Nat) (k : ErrKind) (pa va pc h : Nat) (reg : Option (RegClass × Nat × Nat)) : State :=
  let line := pa / 128
  match k with
  | .corrected => s.modDie (errDie pa h) (fun d => { d with corrected := Tb.put d.corrected source (Tb.get 0 d.corrected source + 1) })
  | .retention =>
    s.modDie (errDie pa h) (fun d => { d with corrected := Tb.put d.corrected (source + 16) (Tb.get 0 d.corrected (source + 16) + 1) })
  | .uncorrected =>
    match reg with
    | some r =>
      reportAt (s.modG h (fun g => if g.soft.contains r then g else { g with soft := r :: g.soft })) source 1 0 0 pc h
    | none =>
      if source = 8 then reportAt (arrayError s (h / 256) (halfOf (s.core (h / 256)) (s.funcOf (s.grp h).launch))) 8 1 0 0 pc h
      else
        reportAt (s.upMem (fun m => if m.bad.contains line then m else { m with bad := line :: m.bad })) source 1 (128 * line) va pc h
  | .link =>
    reportAt (s.upMem (fun m => if m.linkErr.contains (pa / 32) then m else { m with linkErr := (pa / 32) :: m.linkErr })) source 7
      (128 * line) va pc h
  | .down => s.upMem (fun m => if m.peerDown.contains (pa / 32) then m else { m with peerDown := (pa / 32) :: m.peerDown })
def execRasError (source : Nat) (k : ErrKind) (pa va pc h : Nat) (reg : Option (RegClass × Nat × Nat)) (s : State) : Res :=
  .next (rasError s source k pa va pc h reg)
/-- CORRECTED_ERROR_MERGE: at most one record for each source and die in a millisecond. Its severity is that of errors that the retention
code corrected where only such errors are merged (log entry 48). -/
def mergeCorrected (s : State) (d source : Nat) : State :=
  let x := s.die d
  let plain := Tb.get 0 x.corrected source
  let kept := Tb.get 0 x.corrected (source + 16)
  let n := plain + kept
  let due := match Tb.get? x.lastMerge source with | some t => decide (t + 1000000 ≤ s.now) | none => true
  if 16 ≤ source ∨ n = 0 ∨ due = false then s
  else
    let s := s.modDie d (fun x =>
      { x with corrected := Tb.erase (Tb.erase x.corrected source) (source + 16), lastMerge := Tb.put x.lastMerge source s.now })
    postJournal s 6 64 0 (recBytes (rasRec source (if plain = 0 then 2 else 0) 1 false 0 0 0 0 0 (n % 2 ^ 32)))
def execCorrectedErrorMerge (d source : Nat) (s : State) : Res := .next (mergeCorrected s d source)

/-! ### Host access (R421) -/

/-- Memory that the host or a peer reaches: HBM4, LPDDR6 and the Tarn as they are mapped (R373, R421), but for the Tarn's structures that
only commands reach (R442), and the memory behind the ports, which is its own (log entry 36). In the degraded mode no device memory is
exposed (R421). -/
def hostReaches (degraded : Bool) (pa : Nat) : Bool :=
  match pmem pa with
  | .hbm _ => !degraded | .lpddr => !degraded | .cxl => true
  | .tarn => !degraded && decide (0x8000500000 ≤ pa)
  | _ => false
/-- The host or a peer reads or writes memory; the sector bounds stay as they are (log entry 36). -/
def hostAccess (s : State) (pa : Nat) (a : HostAccess) : State :=
  let exposed := fun (n : Nat) => (List.range n).all (fun i => hostReaches s.dev.degraded (pa + i))
  match a with
  | .read n => if exposed n then { s with dev := { s.dev with hostReads := s.dev.hostReads ++ [(pa, s.mem.bytes pa n)] } } else s
  | .write bs => if exposed bs.length then s.setBytes pa bs else s
def execHostManagedDeviceMemoryAccess (pa : Nat) (a : HostAccess) (s : State) : Res := .next (hostAccess s pa a)

end Sys2Proof.Machine
end

