-- ==== Sys2Proof/Machine/Power.lean ====
section
/-! DEFINITION. Power: clock points (R413), weirs and throttle (R414, R415), sprint (R416), grants (R417), the POWER command (R419),
temperature (R420), reset and bring-up (R422). -/

namespace Sys2Proof.Machine

/-! ### Clock points (R413) -/

/-- Compute dies. -/
def allDies : List Nat := List.range 8
/-- A die is in cool-down. -/
def cooling (s : State) (d : Nat) : Bool := match (s.die d).coolUntil with | some t => decide (s.now < t) | none => false
/-- The point at which a die runs: during a step the lower one. -/
def runPoint (x : Die) : Nat := match x.step with | some p => min p x.point | none => x.point
/-- The point that a die reaches once the step under way and the steps that follow it have ended. -/
def lastPoint (x : Die) : Nat := x.step.getD x.point - x.owed
/-- A sprint begins as the die reaches a sprint point, and ends, with a cool-down, as it leaves them (R416). -/
def noteSprint (now : Nat) (cool : Bool) (x : Die) : Die :=
  if 4 ≤ runPoint x then (if x.sprintAt.isNone ∧ cool = false then { x with sprintAt := some now } else x)
  else if x.sprintAt.isSome then { x with sprintAt := none, coolUntil := some (now + 500000000) } else x
/-- A step under way has ended, or none is: the next of the steps down begins. -/
def nextStep (x : Die) : Die :=
  if x.step = none ∧ 0 < x.owed ∧ 0 < x.point then { x with step := some (x.point - 1), owed := x.owed - 1 } else x
/-- Change the point or the steps of a die. -/
def stepDie (s : State) (d : Nat) (f : Die → Die) : State :=
  s.modDie d (fun x => noteSprint s.now (cooling s d) (nextStep (f x)))
/-- A die is to step down by n points, one after another, after the step under way. -/
def lowerBy (s : State) (d n : Nat) : State :=
  if (s.die d).off then s else stepDie s d (fun x => { x with owed := x.owed + min n (lastPoint x) })
/-- A die is to step down to a point. -/
def lowerTo (s : State) (d p : Nat) : State := lowerBy s d (lastPoint (s.die d) - p)
/-- Average power over the last second and over the last 10 µs, as energy in W·µs. -/
def energySince (s : State) (ns : Nat) : Nat := ((s.pw.samples.filter (fun x => decide (s.now < x.1 + ns))).map (·.2)).sum
def avgEnergy (s : State) : Nat := energySince s 1000000000
def peakEnergy (s : State) : Nat := energySince s 10000
/-- Some die sprints. -/
def sprinting (s : State) : Bool := allDies.any (fun d => (s.die d).sprintAt.isSome)
/-- A step up to a point may begin: sprint points ask for the conditions of R416, and the throttle refuses them (R423). -/
def mayRaise (s : State) (d p : Nat) : Bool :=
  decide (p ≤ 5) && (s.die d).step.isNone && !(s.die d).off && !(s.die d).hot &&
  (decide (p < 4) ||
    (s.pw.sprintEn && !cooling s d && decide (avgEnergy s < s.pw.cAvg * 1000000) && !s.pw.throttle))
/-- The arbiter may raise a die by one point, up to a limit: its choice is a free value (log entry 33). -/
def maybeRaise (limit : Nat → Nat) (s : State) (d : Nat) : State :=
  let (up, s) := s.choose
  let p := (s.die d).point + 1
  if up && decide (p ≤ limit d) && mayRaise s d p then stepDie s d (fun x => { x with step := some p }) else s
/-- VF_STEP_END. -/
def execVfStepEnd (d : Nat) (s : State) : Res :=
  .next (match (s.die d).step with
    | some p => if (s.die d).off then s else stepDie s d (fun x => { x with point := p, step := none })
    | none => s)

/-! ### Sprint (R416) -/

/-- SPRINT_LIMIT: 250 ms after it began, the sprint ends and cool-down begins; the die steps down to point 3. -/
def sprintLimit (s : State) (d : Nat) : State :=
  match (s.die d).sprintAt with
  | some t =>
    if t + 250000000 ≤ s.now then
      lowerTo (s.modDie d (fun x => { x with sprintAt := none, coolUntil := some (s.now + 500000000) })) d 3
    else s
  | none => s
def execSprintLimit (d : Nat) (s : State) : Res := .next (sprintLimit s d)
/-- COOL_DOWN_END. -/
def execCoolDownEnd (d : Nat) (s : State) : Res :=
  .next (match (s.die d).coolUntil with
    | some t => if t ≤ s.now then s.modDie d (fun x => { x with coolUntil := none }) else s
    | none => s)

/-! ### Weirs and throttle (R414, R415) -/

/-- Charge of a die over the last 64 cycles. -/
def dieCharge (s : State) (d : Nat) : Nat := ((List.range 4).map (fun c => s.charge64 (4 * d + c))).sum
/-- The die with the largest charge, the lower number in a tie, among those that have power and a point to go down to. -/
def hottest (s : State) : Option Nat :=
  (allDies.filter (fun d => decide (0 < lastPoint (s.die d)) && !(s.die d).off)).foldl (fun b d =>
    match b with | none => some d | some e => if dieCharge s e < dieCharge s d then some d else some e) none
/-- The die stepped down in this sample for its temperature already (R423). -/
def stepped (now : Nat) (t : Option Nat) : Bool := match t with | some x => decide (now < x + 1000) | none => false
/-- A weir lowers a die by one point, one point per sample. -/
def weirStep (s : State) (d : Nat) : State :=
  if stepped s.now (s.die d).hotAt then s else (lowerBy s d 1).modDie d (fun x => { x with weirAt := some s.now })
/-- The most recently dispatched team of a die. -/
def lastTeam (s : State) (d : Nat) : Option Team :=
  (s.work.teams.filter (fun t => decide (dieOf t.core = d) && !t.dead)).foldl (fun b t =>
    match b with | none => some t | some u => if u.age < t.age then some t else some u) none
def preemptEach (s : State) : State :=
  allDies.foldl (fun s d => match lastTeam s d with | some t => requestPreempt s t.launch t.id | none => s) s
def weirSample (s : State) (watts : Nat) : State :=
  let s := allDies.foldl sprintLimit s
  let cap := if sprinting s then s.pw.cSprint else s.pw.cAvg
  let s := { s with pw := { s.pw with samples := (s.now, watts) :: s.pw.samples.filter (fun x => decide (s.now < x.1 + 1000000000)) } }
  let overPeak := decide (s.pw.cPeak * 10 < peakEnergy s)
  let over' := overPeak || decide (cap * 1000000 < avgEnergy s)
  let floor := allDies.all (fun d => (s.die d).off || (decide ((s.die d).point = 0) && (s.die d).step.isNone))
  let run := if floor && overPeak then s.pw.overRun + 1 else 0
  let calm := if over' then 0 else s.pw.calm + 1
  let throttle := if 3 ≤ run then true else if 100 ≤ calm then false else s.pw.throttle
  let s := { s with pw := { s.pw with overRun := run, calm := calm, throttle := throttle } }
  let s := if run = 4 then preemptEach s else s
  if over' then (match hottest s with | some d => weirStep s d | none => s)
  else allDies.foldl (maybeRaise (fun _ => 5)) s
/-- The mode that POWER asked for takes effect (R419, R423). A change of mode leaves no grant from before. -/
def takeMode (s : State) : State :=
  match s.pw.modeNext with
  | none => s
  | some m =>
    let s := if m = s.pw.grantMode then s else allDies.foldl (fun s d => s.modDie d (fun x => { x with grant := none })) s
    { s with pw := { s.pw with grantMode := m, modeNext := none, sensorBad := s.pw.sensorBad && m } }
/-- WEIR_SAMPLE, in normal service. -/
def execWeirSample (watts : Nat) (s : State) : Res :=
  .next (if s.pw.grantMode then s
    else
      let s := takeMode s
      if s.pw.grantMode then s else weirSample s watts)

/-! ### Grant mode (R417) -/

/-- GRANT: the mode asked for takes effect first. The grant is valid until the next one is due. A die above its highest point steps down to it, one below it may step up. -/
def execGrant (d budget point : Nat) (s : State) : Res :=
  .next (let s := takeMode s
    if !s.pw.grantMode then s
    else
      let s := s.modDie d (fun x => { x with grant := some (budget, point, s.now + 100000) })
      if point < lastPoint (s.die d) then lowerTo s d point else maybeRaise (fun _ => point) s d)
/-- GRANT_EXPIRY: a grant that arrives in the cycle of the expiry is in time. At a missed grant a step in progress is abandoned, and the die
goes straight to point 0. A die in grant mode that has had no grant steps down to point 0 (Table 17-1). -/
def execGrantExpiry (d : Nat) (s : State) : Res :=
  .next (if !s.pw.grantMode || (s.die d).off then s
    else
      match (s.die d).grant with
      | some (_, _, t) =>
        if t < s.now then stepDie s d (fun x => { x with grant := none, point := 0, step := none, owed := 0 }) else s
      | none => lowerTo s d 0)
/-- SENSOR_FAULT: grant mode. -/
def execSensorFault (s : State) : Res :=
  .next { s with pw := { s.pw with grantMode := true, modeNext := none, sensorBad := true } }

/-! ### Temperature (R420) -/

/-- THERMAL_LIMIT: a junction reaches 100 °C. -/
def execThermalLimit (d : Nat) (s : State) : Res := .next (s.modDie d (fun x => { x with hot := true }))
/-- THERMAL_STEP at a junction temperature: below 95 °C the stepping ends; until then the die steps down once in 100 µs, and not in a sample
in which a weir has lowered it (R423). -/
def execThermalStep (d celsius : Nat) (s : State) : Res :=
  let x := s.die d
  let early := match x.hotAt with | some t => decide (s.now < t + 100000) | none => false
  .next (if !x.hot then s
    else if celsius < 95 then s.modDie d (fun x => { x with hot := false })
    else if early || stepped s.now x.weirAt then s
    else (lowerBy s d 1).modDie d (fun x => { x with hotAt := some s.now }))
/-- THERMAL_SHUTDOWN: power leaves every compute die, and a journal entry is posted. -/
def execThermalShutdown (_d : Nat) (s : State) : Res :=
  .next (postJournal (allDies.foldl (fun s d => s.modDie d (fun x => { x with off := true, step := none, owed := 0 })) s)
    Config.shutdownKind.toNat 64 0 Config.shutdownBody)

/-! ### The POWER command (R419) -/

def orDefault (x d : Nat) : Nat := if x = 0 then d else x
def inRange (x lo hi : Nat) : Bool := decide (lo ≤ x) && decide (x ≤ hi)
def powerOk (c : Cmd) : Bool :=
  let avg := orDefault (c.w 0) 2400
  inRange avg 600 2400 && inRange (orDefault (c.w 1) 3000) avg 3000 && inRange (orDefault (c.w 2) 2800) avg 2800 &&
  decide (c.w 3 < 4) && (decide (c.w 4 < 32) || decide (c.w 4 = 0xFFFF)) &&
  inRange (orDefault (c.w 5) 3145728) 65536 16777215
/-- The first cycle of a die's next window of 64 cycles. -/
def nextWindow (clk : Nat) : Nat := (clk / 64 + 1) * 64
/-- POWER: a slope limit holds from the cluster's next 64-cycle window, the mode from the next sample or grant. -/
def execPower (f : Nat) (s : State) : Res :=
  .next (quick s f 0x0108 (fun _ c => need (powerOk c)) (fun s c =>
    let cs := if c.w 4 = 0xFFFF then List.range 32 else [c.w 4]
    let s := cs.foldl (fun s k =>
      let old := slopeOf s k
      s.modCluster k (fun x => { x with slope := old, slopeNext := some (orDefault (c.w 5) 3145728, nextWindow (s.clk (8 * k))) })) s
    ({ s with pw := { s.pw with cAvg := orDefault (c.w 0) 2400, cPeak := orDefault (c.w 1) 3000, cSprint := orDefault (c.w 2) 2800,
                                sprintEn := (c.w 3).testBit 0, modeNext := some ((c.w 3).testBit 1) } }, 0)))

/-! ### Reset and bring-up (R422) -/

/-- The pool header at bring-up (R363). -/
def initPool (s : State) : State :=
  (List.range 10).foldl (fun s i => (s.setNum (poolRec i + 16) 8 (0x800008F800 + 0x800 * i)).setNum (poolRec i + 24) 4 256) s
/-- What lies outside the device keeps its contents: CXL memory, and the state of its links. -/
def keepOutside (m : MemSt) : MemSt :=
  { MemSt.reset with cells := m.cells.filter (fun c => decide (0x20000000000 ≤ c.1)), linkErr := m.linkErr, peerDown := m.peerDown }
/-- The ROM verifies the firmware image: RSA-4096 over SHA-512 with the key that it holds (R422, step 2; log entry 13). -/
def firmwareVerified : Bool := rsaVerify Config.romKey Config.firmwareImage Config.firmwareSignature
/-- One step of bring-up (Table 17-5). Step 2 fails where the firmware image does not verify; whether another step fails is a free value
(R422 says that it may). A failed step halts bring-up and leaves its number as the failure code (log entry 2). -/
def bringStep (s : State) (k : Nat) : State :=
  if s.dev.bootFail.isSome then s
  else
    let (bad, s) := if k = 2 then (!firmwareVerified, s) else if k = 6 then (false, s) else s.choose
    if bad then { s with dev := { s.dev with bootFail := some k } }
    else
      let s := { s with dev := { s.dev with bringUp := k } }
      if k = 4 then initPool s
      else if k = 5 then (let (deg, s) := s.choose; { s with dev := { s.dev with degraded := deg } })
      else s
/-- RESET: the steps of Table 17-5 in order. -/
def resetDevice (s : State) : State :=
  [1, 2, 3, 4, 5, 6].foldl bringStep { State.reset with free := s.free, turns := s.turns, mem := keepOutside s.mem }
def execReset (s : State) : Res := .next (resetDevice s)

end Sys2Proof.Machine
end

