-- ==== Sys2Proof/Machine/Dispatch.lean ====
section
/-! DEFINITION. The dispatch: one arm per instruction and device step. -/

namespace Sys2Proof.Machine

def exec (i : Instr) (s : State) : Host.Outcome State Fault Refusal :=
  match i with
  | .smov d a => Sys2Proof.Machine.execSmov d a s
  | .smovi d imm => Sys2Proof.Machine.execSmovi d imm s
  | .smovh d imm => Sys2Proof.Machine.execSmovh d imm s
  | .sadd d a b => Sys2Proof.Machine.execSadd d a b s
  | .saddi d a imm => Sys2Proof.Machine.execSaddi d a imm s
  | .ssub d a b => Sys2Proof.Machine.execSsub d a b s
  | .smul d a b => Sys2Proof.Machine.execSmul d a b s
  | .smulh d a b u => Sys2Proof.Machine.execSmulh d a b u s
  | .sand d a b => Sys2Proof.Machine.execSand d a b s
  | .sor d a b => Sys2Proof.Machine.execSor d a b s
  | .sxor d a b => Sys2Proof.Machine.execSxor d a b s
  | .sshl d a b => Sys2Proof.Machine.execSshl d a b s
  | .sshr d a b => Sys2Proof.Machine.execSshr d a b s
  | .ssra d a b => Sys2Proof.Machine.execSsra d a b s
  | .smin d a b u => Sys2Proof.Machine.execSmin d a b u s
  | .smax d a b u => Sys2Proof.Machine.execSmax d a b u s
  | .scmp p a b k => Sys2Proof.Machine.execScmp p a b k s
  | .ssel d a b n sense => Sys2Proof.Machine.execSsel d a b n sense s
  | .spopc d a => Sys2Proof.Machine.execSpopc d a s
  | .sclz d a => Sys2Proof.Machine.execSclz d a s
  | .slea d a b k => Sys2Proof.Machine.execSlea d a b k s
  | .slane d a b sx => Sys2Proof.Machine.execSlane d a b sx s
  | .srsr n r => Sys2Proof.Machine.execSrsr n r s
  | .swsr n r => Sys2Proof.Machine.execSwsr n r s
  | .vadd d a b => Sys2Proof.Machine.execVadd d a b s
  | .vaddi d a imm => Sys2Proof.Machine.execVaddi d a imm s
  | .vsub d a b => Sys2Proof.Machine.execVsub d a b s
  | .vmul d a b => Sys2Proof.Machine.execVmul d a b s
  | .vmulh d a b u => Sys2Proof.Machine.execVmulh d a b u s
  | .vmad d a b wide => Sys2Proof.Machine.execVmad d a b wide s
  | .vdp4 d a b g => Sys2Proof.Machine.execVdp4 d a b g s
  | .vmin d a b u => Sys2Proof.Machine.execVmin d a b u s
  | .vmax d a b u => Sys2Proof.Machine.execVmax d a b u s
  | .vabs d a f => Sys2Proof.Machine.execVabs d a f s
  | .vand d a b => Sys2Proof.Machine.execVand d a b s
  | .vor d a b => Sys2Proof.Machine.execVor d a b s
  | .vxor d a b => Sys2Proof.Machine.execVxor d a b s
  | .vlop3 d a b s' => Sys2Proof.Machine.execVlop3 d a b s' s
  | .vshl d a b => Sys2Proof.Machine.execVshl d a b s
  | .vshr d a b => Sys2Proof.Machine.execVshr d a b s
  | .vsra d a b => Sys2Proof.Machine.execVsra d a b s
  | .vfshl d a b s' => Sys2Proof.Machine.execVfshl d a b s' s
  | .vfshr d a b s' => Sys2Proof.Machine.execVfshr d a b s' s
  | .vpopc d a => Sys2Proof.Machine.execVpopc d a s
  | .vclz d a => Sys2Proof.Machine.execVclz d a s
  | .vbrev d a => Sys2Proof.Machine.execVbrev d a s
  | .vcmp p a b k => Sys2Proof.Machine.execVcmp p a b k s
  | .vsel d a b n sense => Sys2Proof.Machine.execVsel d a b n sense s
  | .vmov d a => Sys2Proof.Machine.execVmov d a s
  | .vmovi d imm => Sys2Proof.Machine.execVmovi d imm s
  | .vbcst d a hi => Sys2Proof.Machine.execVbcst d a hi s
  | .vshfl d a b m => Sys2Proof.Machine.execVshfl d a b m s
  | .vred d a o => Sys2Proof.Machine.execVred d a o s
  | .vlane d team => Sys2Proof.Machine.execVlane d team s
  | .fadd d a b k => Sys2Proof.Machine.execFadd d a b k s
  | .fsub d a b k => Sys2Proof.Machine.execFsub d a b k s
  | .fmul d a b k => Sys2Proof.Machine.execFmul d a b k s
  | .ffma d a b k => Sys2Proof.Machine.execFfma d a b k s
  | .ffms d a b k => Sys2Proof.Machine.execFfms d a b k s
  | .fmin d a b => Sys2Proof.Machine.execFmin d a b s
  | .fmax d a b => Sys2Proof.Machine.execFmax d a b s
  | .fcmp p a b k => Sys2Proof.Machine.execFcmp p a b k s
  | .fclass d a => Sys2Proof.Machine.execFclass d a s
  | .fscale d a b => Sys2Proof.Machine.execFscale d a b s
  | .fsacc d a b k => Sys2Proof.Machine.execFsacc d a b k s
  | .frnd d a r => Sys2Proof.Machine.execFrnd d a r s
  | .fhadd d a b k bf => Sys2Proof.Machine.execFhadd d a b k bf s
  | .fhmul d a b k bf => Sys2Proof.Machine.execFhmul d a b k bf s
  | .fhfma d a b k bf => Sys2Proof.Machine.execFhfma d a b k bf s
  | .fbnd d a => Sys2Proof.Machine.execFbnd d a s
  | .fsetb d a b => Sys2Proof.Machine.execFsetb d a b s
  | .fclrb d a => Sys2Proof.Machine.execFclrb d a s
  | .cvt d a src dst r sat => Sys2Proof.Machine.execCvt d a src dst r sat s
  | .pkn d a b f sat => Sys2Proof.Machine.execPkn d a b f sat s
  | .unpkn d a f imm => Sys2Proof.Machine.execUnpkn d a f imm s
  | .frcp d a k => Sys2Proof.Machine.execFrcp d a k s
  | .frsq d a k => Sys2Proof.Machine.execFrsq d a k s
  | .fex2 d a k => Sys2Proof.Machine.execFex2 d a k s
  | .flg2 d a k => Sys2Proof.Machine.execFlg2 d a k s
  | .fsin d a k => Sys2Proof.Machine.execFsin d a k s
  | .fcos d a k => Sys2Proof.Machine.execFcos d a k s
  | .bra o s' => Sys2Proof.Machine.execBra o s' s
  | .brc p o s' sense => Sys2Proof.Machine.execBrc p o s' sense s
  | .brx a => Sys2Proof.Machine.execBrx a s
  | .brxU a => Sys2Proof.Machine.execBrxU a s
  | .call o s' => Sys2Proof.Machine.execCall o s' s
  | .ret r => Sys2Proof.Machine.execRet r s
  | .enrol k => Sys2Proof.Machine.execEnrol k s
  | .rejoin k => Sys2Proof.Machine.execRejoin k s
  | .strike k => Sys2Proof.Machine.execStrike k s
  | .item k r o s' => Sys2Proof.Machine.execItem k r o s' s
  | .yield => Sys2Proof.Machine.execYield s
  | .exit => Sys2Proof.Machine.execExit s
  | .nop => Sys2Proof.Machine.execNop s
  | .trapu imm => Sys2Proof.Machine.execTrapu imm s
  | .ld d b o wd f => Sys2Proof.Machine.execLd d b o wd f s
  | .lds d b o wd f => Sys2Proof.Machine.execLds d b o wd f s
  | .st d b o wd f => Sys2Proof.Machine.execSt d b o wd f s
  | .ldu d b imm => Sys2Proof.Machine.execLdu d b imm s
  | .ldus d b imm => Sys2Proof.Machine.execLdus d b imm s
  | .stu d b imm => Sys2Proof.Machine.execStu d b imm s
  | .gath d b o wd f => Sys2Proof.Machine.execGath d b o wd f s
  | .gaths d b o wd f => Sys2Proof.Machine.execGaths d b o wd f s
  | .scat d b o wd f => Sys2Proof.Machine.execScat d b o wd f s
  | .ldt d a b wd => Sys2Proof.Machine.execLdt d a b wd s
  | .stt d a b wd => Sys2Proof.Machine.execStt d a b wd s
  | .bxlt d b => Sys2Proof.Machine.execBxlt d b s
  | .pref l b o => Sys2Proof.Machine.execPref l b o s
  | .aadd d b o wd f => Sys2Proof.Machine.execAadd d b o wd f s
  | .amin d b o wd f => Sys2Proof.Machine.execAmin d b o wd f s
  | .amax d b o wd f => Sys2Proof.Machine.execAmax d b o wd f s
  | .aand d b o wd f => Sys2Proof.Machine.execAand d b o wd f s
  | .aor d b o wd f => Sys2Proof.Machine.execAor d b o wd f s
  | .axor d b o wd f => Sys2Proof.Machine.execAxor d b o wd f s
  | .axch d b o wd f => Sys2Proof.Machine.execAxch d b o wd f s
  | .acas d b o wd f => Sys2Proof.Machine.execAcas d b o wd f s
  | .afadd d b o wd f => Sys2Proof.Machine.execAfadd d b o wd f s
  | .axadd d b o wd f => Sys2Proof.Machine.execAxadd d b o wd f s
  | .axrd d b o wd f => Sys2Proof.Machine.execAxrd d b o wd f s
  | .bari a imm => Sys2Proof.Machine.execBari a imm s
  | .barw a imm => Sys2Proof.Machine.execBarw a imm s
  | .baraw d imm => Sys2Proof.Machine.execBaraw d imm s
  | .bard d imm => Sys2Proof.Machine.execBard d imm s
  | .bardDrop imm => Sys2Proof.Machine.execBardDrop imm s
  | .dqpush p a => Sys2Proof.Machine.execDqpush p a s
  | .dqpop d p => Sys2Proof.Machine.execDqpop d p s
  | .dqsteal d a p => Sys2Proof.Machine.execDqsteal d a p s
  | .bndminCl a b => Sys2Proof.Machine.execBndminCl a b s
  | .bndminDev a b => Sys2Proof.Machine.execBndminDev a b s
  | .bndrd d a => Sys2Proof.Machine.execBndrd d a s
  | .batch => Sys2Proof.Machine.execBatch s
  | .waitb a => Sys2Proof.Machine.execWaitb a s
  | .fence sc => Sys2Proof.Machine.execFence sc s
  | .ifence => Sys2Proof.Machine.execIfence s
  | .mma a b e k z => Sys2Proof.Machine.execMma a b e k z s
  | .mmag a b e v k z => Sys2Proof.Machine.execMmag a b e v k z s
  | .tcopy a e m => Sys2Proof.Machine.execTcopy a e m s
  | .tfill e v => Sys2Proof.Machine.execTfill e v s
  | .tscaleExp a e v => Sys2Proof.Machine.execTscaleExp a e v s
  | .tscaleAcc a e v k => Sys2Proof.Machine.execTscaleAcc a e v k s
  | .tscaleAccr a b e k => Sys2Proof.Machine.execTscaleAccr a b e k s
  | .tscaleAccc a b e k => Sys2Proof.Machine.execTscaleAccc a b e k s
  | .tconv a e r sat => Sys2Proof.Machine.execTconv a e r sat s
  | .tgive e => Sys2Proof.Machine.execTgive e s
  | .ttake e => Sys2Proof.Machine.execTtake e s
  | .tdesc e v => Sys2Proof.Machine.execTdesc e v s
  | .tsetd e v f => Sys2Proof.Machine.execTsetd e v f s
  | .chk a => Sys2Proof.Machine.execChk a s
  | .chkTwoRegisters a b => Sys2Proof.Machine.execChkTwoRegisters a b s
  | .chkU a => Sys2Proof.Machine.execChkU a s
  | .chkp p amb => Sys2Proof.Machine.execChkp p amb s
  | .ptest p a m => Sys2Proof.Machine.execPtest p a m s
  | .pcode d a m => Sys2Proof.Machine.execPcode d a m s
  | .pset d n sense => Sys2Proof.Machine.execPset d n sense s
  | .enter imm => Sys2Proof.Machine.execEnter imm s
  | .leave imm => Sys2Proof.Machine.execLeave imm s
  | .ebset imm => Sys2Proof.Machine.execEbset imm s
  | .ebrd d => Sys2Proof.Machine.execEbrd d s
  | .clock d => Sys2Proof.Machine.execClock d s
  | .clockV d => Sys2Proof.Machine.execClockV d s
  | .wall d => Sys2Proof.Machine.execWall d s
  | .wallV d => Sys2Proof.Machine.execWallV d s
  | .timer a t => Sys2Proof.Machine.execTimer a t s
  | .timerWait t => Sys2Proof.Machine.execTimerWait t s
  | .timerPoll p t => Sys2Proof.Machine.execTimerPoll p t s
  | .sret => Sys2Proof.Machine.execSret s
  | .rqrd d a w => Sys2Proof.Machine.execRqrd d a w s
  | .rqrdV d a n => Sys2Proof.Machine.execRqrdV d a n s
  | .rqwr a b w => Sys2Proof.Machine.execRqwr a b w s
  | .rqwrV a b n => Sys2Proof.Machine.execRqwrV a b n s
  | .frqpop d => Sys2Proof.Machine.execFrqpop d s
  | .tlbinvRange a b => Sys2Proof.Machine.execTlbinvRange a b s
  | .tlbinvTag a b => Sys2Proof.Machine.execTlbinvTag a b s
  | .tlbinvAll a b => Sys2Proof.Machine.execTlbinvAll a b s
  | .tlbwait => Sys2Proof.Machine.execTlbwait s
  | .ctxsv a => Sys2Proof.Machine.execCtxsv a s
  | .ctxrs a => Sys2Proof.Machine.execCtxrs a s
  | .dbgset d a b n => Sys2Proof.Machine.execDbgset d a b n s
  | .ssr n r => Sys2Proof.Machine.execSsr n r s
  | .ssrV n r => Sys2Proof.Machine.execSsrV n r s
  | .ssrP n r => Sys2Proof.Machine.execSsrP n r s
  | .ssw n r => Sys2Proof.Machine.execSsw n r s
  | .sswV n r => Sys2Proof.Machine.execSswV n r s
  | .kill a => Sys2Proof.Machine.execKill a s
  | .killTeam => Sys2Proof.Machine.execKillTeam s
  | .killDump => Sys2Proof.Machine.execKillDump s
  | .halt => Sys2Proof.Machine.execHalt s
  | .illegalEncoding w => Sys2Proof.Machine.execIllegalEncoding w s
  | .fetchFault code va => Sys2Proof.Machine.execFetchFault code va s
  | .resultReturn h id => Sys2Proof.Machine.execResultReturn h id s
  | .atomicApply h id => Sys2Proof.Machine.execAtomicApply h id s
  | .storeReachesHome id => Sys2Proof.Machine.execStoreReachesHome id s
  | .requestRetry h => Sys2Proof.Machine.execRequestRetry h s
  | .taskStart id => Sys2Proof.Machine.execTaskStart id s
  | .taskFinish id => Sys2Proof.Machine.execTaskFinish id s
  | .preqRequest launch team => Sys2Proof.Machine.execPreqRequest launch team s
  | .preEmptionDeadline launch team => Sys2Proof.Machine.execPreEmptionDeadline launch team s
  | .stopDeadline h => Sys2Proof.Machine.execStopDeadline h s
  | .cycleTimerFire h => Sys2Proof.Machine.execCycleTimerFire h s
  | .wallAlarmFire h => Sys2Proof.Machine.execWallAlarmFire h s
  | .retentionEntry bank => Sys2Proof.Machine.execRetentionEntry bank s
  | .retentionExit bank => Sys2Proof.Machine.execRetentionExit bank s
  | .watchCopyUpdate core pa => Sys2Proof.Machine.execWatchCopyUpdate core pa s
  | .invalidationReceive core id => Sys2Proof.Machine.execInvalidationReceive core id s
  | .invalidationAck core id => Sys2Proof.Machine.execInvalidationAck core id s
  | .dispatch cluster => Sys2Proof.Machine.execDispatch cluster s
  | .retire launch team => Sys2Proof.Machine.execRetire launch team s
  | .teamSave launch team => Sys2Proof.Machine.execTeamSave launch team s
  | .slice cluster => Sys2Proof.Machine.execSlice cluster s
  | .virtualTimeAdd => Sys2Proof.Machine.execVirtualTimeAdd s
  | .clusterGate cluster => Sys2Proof.Machine.execClusterGate cluster s
  | .weirSample watts => Sys2Proof.Machine.execWeirSample watts s
  | .vfStepEnd die => Sys2Proof.Machine.execVfStepEnd die s
  | .sprintLimit die => Sys2Proof.Machine.execSprintLimit die s
  | .coolDownEnd die => Sys2Proof.Machine.execCoolDownEnd die s
  | .grant die budget point => Sys2Proof.Machine.execGrant die budget point s
  | .grantExpiry die => Sys2Proof.Machine.execGrantExpiry die s
  | .sensorFault => Sys2Proof.Machine.execSensorFault s
  | .thermalLimit die => Sys2Proof.Machine.execThermalLimit die s
  | .thermalStep die celsius => Sys2Proof.Machine.execThermalStep die celsius s
  | .thermalShutdown die => Sys2Proof.Machine.execThermalShutdown die s
  | .reset => Sys2Proof.Machine.execReset s
  | .pcSample core sched => Sys2Proof.Machine.execPcSample core sched s
  | .energySplit die uj => Sys2Proof.Machine.execEnergySplit die uj s
  | .rasError source k pa va pc h reg => Sys2Proof.Machine.execRasError source k pa va pc h reg s
  | .correctedErrorMerge die source => Sys2Proof.Machine.execCorrectedErrorMerge die source s
  | .hostManagedDeviceMemoryAccess pa acc => Sys2Proof.Machine.execHostManagedDeviceMemoryAccess pa acc s
  | .gatingSequenceEnd cluster => Sys2Proof.Machine.execGatingSequenceEnd cluster s
  | .clusterWakeEnd cluster => Sys2Proof.Machine.execClusterWakeEnd cluster s
  | .retentionEntryEnd bank => Sys2Proof.Machine.execRetentionEntryEnd bank s
  | .lineaddrWrite f addr => Sys2Proof.Machine.execLineaddrWrite f addr s
  | .lineNotify cb => Sys2Proof.Machine.execLineNotify cb s
  | .launchAdmit cb => Sys2Proof.Machine.execLaunchAdmit cb s
  | .launchFinish launch => Sys2Proof.Machine.execLaunchFinish launch s
  | .nopCommand f => Sys2Proof.Machine.execNopCommand f s
  | .lineCreate f => Sys2Proof.Machine.execLineCreate f s
  | .lineDestroy f => Sys2Proof.Machine.execLineDestroy f s
  | .procConfig f => Sys2Proof.Machine.execProcConfig f s
  | .invalidate f => Sys2Proof.Machine.execInvalidate f s
  | .stopRequest f => Sys2Proof.Machine.execStopRequest f s
  | .resume f => Sys2Proof.Machine.execResume f s
  | .killCommand f => Sys2Proof.Machine.execKillCommand f s
  | .saveLaunch f => Sys2Proof.Machine.execSaveLaunch f s
  | .restoreLaunch f => Sys2Proof.Machine.execRestoreLaunch f s
  | .journalCopy f => Sys2Proof.Machine.execJournalCopy f s
  | .event f => Sys2Proof.Machine.execEvent f s
  | .funcConfig f => Sys2Proof.Machine.execFuncConfig f s
  | .ctxArea f => Sys2Proof.Machine.execCtxArea f s
  | .carve f => Sys2Proof.Machine.execCarve f s
  | .poolAdd f => Sys2Proof.Machine.execPoolAdd f s
  | .migrate f => Sys2Proof.Machine.execMigrate f s
  | .split f => Sys2Proof.Machine.execSplit f s
  | .vector f => Sys2Proof.Machine.execVector f s
  | .power f => Sys2Proof.Machine.execPower f s
  | .load f => Sys2Proof.Machine.execLoad f s
  | .counters f => Sys2Proof.Machine.execCounters f s
  | .read f => Sys2Proof.Machine.execRead f s
  | .sample f => Sys2Proof.Machine.execSample f s
  | .quote f => Sys2Proof.Machine.execQuote f s
  | .identity f => Sys2Proof.Machine.execIdentity f s
  | .clear f => Sys2Proof.Machine.execClear f s
  | .unknownCommandOpcode f => Sys2Proof.Machine.execUnknownCommandOpcode f s

end Sys2Proof.Machine
end

