-- ==== Sys2Proof/Machine/Issue.lean ====
section
/-! DEFINITION. One issue of a group: fetch (R149, R354), decode of a chain (R168, R169, R177), interlocks (R296 to R299),
run hazards (R180), the chain as one issue (R45, R116), and what the issue counts (R25, R302, R425). -/

namespace Sys2Proof.Machine

/-! ### Fetch -/

/-- A word of a chain as fetched. -/
structure FWord where
  pc : PC
  word : Word
  d : Except DecErr IWord

/-- Where a group fetches: code base and space tag (R318). -/
def codeBase (s : State) (g : Group) : Nat :=
  if g.sp.sv then s.dev.scbase.toNat else match s.launch? g.launch with | some l => l.rc.codeBase.toNat | none => 0
def fetchTag (g : Group) : Nat := if g.sp.sv then 0 else g.sp.tag.toNat

/-- Words of an instruction cache (64 KiB, R3). -/
def fetchWords : Nat := 16384
/-- A word that the instruction cache does not hold is fetched from the banks of its memory (R140). -/
def fetchTouch (s : State) (core pa : Nat) : State := if (Tb.get? (s.core core).fetched pa).isSome then s else touch s (banksAt core false pa)
/-- Fetch one word: the word, or the code of Table 4-6 with the address and the access that met an error. A word that the core has fetched before and memory
has changed since may be either (R149). -/
def fetchWord (s : State) (h : Nat) (g : Group) (chain pc : PC) : State × (Word ⊕ (Nat × Nat × List LaneAcc)) :=
  let va := wordVa (codeBase s g) pc
  let x : Ctx := ⟨h, g.core, fetchTag g, g.sp.sv, chain⟩
  match translate s x va .fetch with
  | (s, .fault c) => (s, .inr (c, va, []))
  | (s, .recov _ _ _) => (s, .inr (2, va, []))
  | (s, .ok pa attr) =>
    let s := fetchTouch s g.core pa
    match s.mem.err pa with
    | some c => (s, .inr (c, va, [⟨pa, va, attr, none⟩]))
    | none =>
      let now : Word := BitVec.ofNat 32 (s.num pa 4)
      let old := (Tb.get? (s.core g.core).fetched pa).getD now
      let (keep, s) := if old = now then (false, s) else s.choose
      let w := if keep then old else now
      let (s, ws) := putLimited s fetchWords (s.core g.core).fetched pa w
      (s.modCore g.core (fun c => { c with fetched := ws }), .inl w)

/-- Fetch a chain from a PC: at most `n` more words (R168). -/
def fetchChain (h : Nat) (g : Group) (chain : PC) : Nat → State → PC → State × List FWord × Option (PC × Nat × Nat × List LaneAcc)
  | 0, s, _ => (s, [], none)
  | n + 1, s, pc =>
    match fetchWord s h g chain pc with
    | (s, .inr e) => (s, [], some (pc, e))
    | (s, .inl w) =>
      let f : FWord := ⟨pc, w, decodeWord w⟩
      if w.getLsbD 31 && decide (slotOf pc < 2) then
        let (s, fs, bad) := fetchChain h g chain n s (nextPc pc)
        (s, f :: fs, bad)
      else (s, [f], none)

/-! ### Starting an issue -/

/-- The state in which the words of a chain issue: the PC-set already holds the PC after the chain, and reads see the group
before it (R169). -/
def beginIssue (s : State) (h : Nat) (pc wpc next : PC) (word : Word) (m : Mask) (multi : Bool) (rd : Group) : State :=
  let s := s.modG h (fun g => (lanesOf m).foldl (fun g l => g.setLane l (fun x => { x with pc := next })) g)
  { s with cur := ⟨h, pc, wpc, word, next, m, multi, false, false, false, none, rd⟩ }

/-- The word of a chain that issues next. -/
def atWord (s : State) (w : FWord) : State := { s with cur := { s.cur with wpc := w.pc, word := w.word } }

/-- Every read of an outstanding register returns the old or the new value, lane by lane (R180). -/
def resolveReads (s : State) (is : List Instr) : State :=
  let h := s.cur.h
  (s.cur.rd.outst.map (·.id)).foldl (fun s id =>
    match findEntry s h id with
    | none => s
    | some e =>
      let ds := writes s.cur.rd.regs e.instr
      let rds := is.flatMap (readLanes s)
      let hit := (ds.zip (List.range ds.length)).flatMap (fun d =>
        (lanesOf e.mask).filterMap (fun l =>
          if rds.any (fun r => decide (r.1 = d.1) && (decide (d.1.1 ≠ .v) || r.2.getLsbD l)) then some (l, d) else none))
      hit.foldl (fun s j =>
        let (new, s) := s.choose
        if !new then s
        else
          let s := perform s h id
          match findEntry s h id with
          | none => s
          | some e =>
            if e.performed.getLsbD j.1 && !(emptyLane e j.1 && decide (j.2.1.1 = .v)) then
              { s with cur := { s.cur with rd := writeDest s.cur.rd e j.1 j.2.1 j.2.2 } }
            else s) s) s

/-! ### Decode of a chain (R177) -/

/-- The decoding trap of one word, in the order of R177: the state after the trap. -/
def decodeStop (s : State) (w : FWord) : Option Res :=
  let s := atWord s w
  let opc := opcOf w.word
  match w.d with
  | .error .unassigned => some (.next (illegal s))
  | d =>
    if w.word.getLsbD 31 && (decide (slotOf w.pc = 2) || endsChain opc) then some (.next (illegal s))
    else
      match d with
      | .error _ => some (exec (.illegalEncoding w.word) s)
      | .ok iw =>
        if privFails s iw.i then some (.next (trap s 0x24 w.word.toNat s.cur.mask false))
        else if fieldFails s iw.i then some (.next (illegal s))
        else none

/-- The checks on the chain as a whole (R169). -/
def chainBad (regs : Nat) (ws : List FWord) : Bool :=
  let pipes := ws.map (fun w => pipeOf (opcOf w.word))
  let ds : List Ref := ws.flatMap (fun w => match w.d with | .ok iw => chainWrites regs iw.i | _ => [])
  !(decide pipes.Nodup && decide ds.Nodup)

/-- PC comparators that match a chain (R336): HIT bits and matching lanes. -/
def pcMatch (s : State) (ws : List PC) : Nat × Mask :=
  let g := s.cur.rd
  ((s.core g.core).dbg).foldl (fun (r : Nat × Mask) e =>
    let k := e.2.k.toNat
    let on := k.testBit 0 && decide (bits k 3 1 = 0) && (k.testBit 10 || decide (bits k 47 32 = g.sp.tag.toNat)) &&
      ws.any (fun p => decide (p.toNat = e.2.v.toNat % 2 ^ 48)) && decide (e.2.m &&& s.cur.mask ≠ 0)
    if on then (r.1 + 2 ^ e.1, r.2 ||| (e.2.m &&& s.cur.mask)) else r) (0, 0)

/-! ### Interlocks (R296 to R299) -/

/-- Latency of a result of fixed latency (Table 12-1). -/
def latencyOf : Instr → Nat
  | .smul .. | .smulh .. => 4
  | .scmp .. => 3
  | .vmul .. | .vmulh .. | .vmad .. | .vdp4 .. => 5
  | .vshfl .. => 8
  | .vred _ _ o => if o = .fadd then 16 else 8
  | .fadd .. | .fsub .. | .fmul .. | .ffma .. | .ffms .. | .fsacc .. | .fhadd .. | .fhmul .. | .fhfma .. | .fscale .. => 5
  | .cvt .. | .pkn .. | .unpkn .. => 4
  | .frcp .. | .frsq .. | .fex2 .. | .flg2 .. | .fsin .. | .fcos .. => 16
  | i => if pipeOf (opcOf (encode i)) = 0 then 2 else 3
/-- The special functions hold their pipe for four cycles in each pass. -/
def isSpecialFn : Instr → Bool
  | .frcp .. | .frsq .. | .fex2 .. | .flg2 .. | .fsin .. | .fcos .. => true
  | _ => false
/-- The words after which the group's next issue is no earlier than 2 cycles later. -/
def isJump : Instr → Bool
  | .bra .. | .brc .. | .brx .. | .brxU .. | .call .. | .ret .. => true
  | _ => false
/-- Engine task instructions, which share the port of the task table (R296). -/
def isTaskWord : Instr → Bool
  | .mma .. | .mmag .. | .tcopy .. | .tfill .. | .tscaleExp .. | .tscaleAcc .. | .tscaleAccr .. | .tscaleAccc .. | .tconv ..
  | .tgive .. | .ttake .. => true
  | _ => false

/-- A special register in a group's record of results that are not yet readable: above every knot, the two views of one register as one
(Table 13-1). -/
def specialRef (n : BitVec 10) : Ref := (.k, 64 + if 0x200 ≤ n.toNat ∧ n.toNat ≤ 0x209 then n.toNat - 0x200 else n.toNat)
/-- What a word reads, and what it writes with fixed latency, special registers among them: SWSR and SRSR, SSW and SSR (R329). p0 is a
destination like another here, though its writes are discarded (R49; DESIGN CHOICE, log entry 29). -/
def specialReads : Instr → List Ref
  | .srsr n _ | .ssr n _ | .ssrV n _ | .ssrP n _ => [specialRef n]
  | .sret => [specialRef 0x218, specialRef 0x21A]
  | .kill _ => [specialRef 0x21A]
  | _ => []
/-- DBGSET writes the registers of its comparator and DBGHIT (R336), KILL KILLM (R338), CTXRS the frame and the user's special registers
(R335). -/
def specialWrites : Instr → List Ref
  | .swsr n _ | .ssw n _ | .sswV n _ => [specialRef n]
  | .dbgset _ _ _ n => [0x220, 0x228, 0x230].map (fun k => specialRef (BitVec.ofNat 10 (k + n.toNat))) ++ [specialRef 0x238]
  | .kill _ => [specialRef 0x21A]
  | .ctxrs _ => (List.range 9).map (fun k => specialRef (BitVec.ofNat 10 (0x212 + k))) ++ [3, 5, 7, 8].map specialRef
  | _ => []
def waitsOn (s : State) (i : Instr) : List (Ref × Mask) := readLanes s i ++ (specialReads i).map (fun r => (r, s.cur.mask))
/-- A result of fixed latency that CTXSV reads: any but one to a register of the bank, which is not the user's (R318, R334). -/
def savedRef (i : Instr) (r : Ref) : Bool := (match i with | .ctxsv _ => true | _ => false) && !inBank (r.1, r.2, 0)
def fixedDests (regs : Nat) (i : Instr) : List Ref :=
  if variableLatency i then []
  else chainWrites regs i ++ (writes regs i).filter (fun r => decide (r.1 = .k)) ++ specialWrites i
/-- A source of the words awaits a fixed latency (R297). -/
def scoreWait (s : State) (is : List Instr) : Bool :=
  let g := s.cur.rd
  let open' := g.ctl.score.filter (fun x => decide (s.clk g.core < x.2.2))
  open' ≠ [] && is.any (fun i => open'.any (fun x => savedRef i x.1) || (waitsOn s i).any (fun r => open'.any (fun x =>
    decide (x.1 = r.1) && ((decide (r.1.1 ≠ .v) && decide (r.1.1 ≠ .p)) || decide (x.2.1 &&& r.2 ≠ 0)))))
/-- A pipe of a scheduler. -/
def pipeKey (sched pipe : Nat) : Nat := 8 * sched + pipe
/-- A pipe that the words need is occupied (R297). -/
def pipeWait (s : State) (ws : List FWord) : Bool :=
  let g := s.cur.rd
  ws.any (fun w => decide (s.clk g.core < Tb.get 0 (s.core g.core).pipes (pipeKey g.sched (pipeOf (opcOf w.word)))))
/-- Why the words cannot issue yet, by Table 18-3, 0 when they can: a source, a pipe, or a result beyond the 24 that may be outstanding
(R299). -/
def interlock (s : State) (ws : List FWord) (is : List Instr) : Nat :=
  if scoreWait s is then 1
  else if pipeWait s ws then 2
  else if is.any variableLatency && decide (24 < s.cur.rd.outst.length + (is.filter variableLatency).length) then 5
  else 0

/-! ### After the issue -/

/-- Charge of an instruction for n lanes in units of 1/100 (Table 12-3); AUTO with the factor of the variant computed. TDESC, TSETD, BXLT and
the supervisor opcodes stand in no row of the table: TDESC and TSETD take 2 for an issue, as the synchronisation and task instructions do,
BXLT the 5 of an M-pipe lane, a supervisor opcode 1 for an issue (DESIGN CHOICE, log entry 52). -/
def chargeOf (i : Instr) (v : Vari) (n : Nat) : Nat :=
  let fac := match v with | .full => 100 | .short => 85 | .trunc => 75 | .lean => 60
  let facAdd := match v with | .full => 100 | .trunc => 100 | _ => 85
  match i with
  | .fadd .. | .fsub .. => 6 * facAdd * n
  | .fmul .. | .ffma .. | .ffms .. | .fsacc .. => 8 * fac * n
  | .fhadd .. | .fhmul .. | .fhfma .. => 600 * n
  | .vmul .. | .vmulh .. | .vmad .. | .vdp4 .. | .vshfl .. | .vred .. => 400 * n
  | .frcp .. | .frsq .. | .fex2 .. | .flg2 .. | .fsin .. | .fcos .. => 1600 * n
  | .bari .. | .barw .. | .baraw .. | .bard .. | .bardDrop .. | .dqpush .. | .dqpop .. | .dqsteal .. | .bndminCl ..
  | .bndminDev .. | .bndrd .. | .batch | .waitb .. | .fence .. | .ifence | .mma .. | .mmag .. | .tcopy .. | .tfill ..
  | .tscaleExp .. | .tscaleAcc .. | .tscaleAccr .. | .tscaleAccc .. | .tconv .. | .tgive .. | .ttake .. | .tdesc ..
  | .tsetd .. => 200
  | i =>
    let opc := opcOf (encode i)
    if isAtomic i then 800 * n
    else if pipeOf opc = 1 then 200 * n
    else if pipeOf opc = 2 ∨ pipeOf opc = 3 then 300 * n
    else if pipeOf opc = 4 then 500 * n
    else 100

/-- The class of an FP32 operation that has one. -/
def clsOf : Instr → Option Cls
  | .fadd _ _ _ k | .fsub _ _ _ k | .fmul _ _ _ k | .ffma _ _ _ k | .ffms _ _ _ k | .fsacc _ _ _ k => some k
  | _ => none
/-- The variant that an FP32 issue computes. -/
def variOfIssue (s : State) (i : Instr) : Vari :=
  match clsOf i with
  | some k => if k = .auto then autoVari s i else variOf k
  | none => .full

/-- Lanes in a PC-set. -/
def laneCount (m : Mask) : Nat := (lanesOf m).length
/-- Lanes of each pass of an issue (R17). -/
def passMasks (w : Nat) (m : Mask) : List Mask :=
  if w = 64 then [m &&& 0xFFFFFFFF, m &&& ~~~0xFFFFFFFF].filter (fun x => decide (x ≠ 0)) else [m]
/-- Passes of an issue. -/
def passesOf (w : Nat) (m : Mask) : Nat := (passMasks w m).length
/-- The access of an M-pipe word in a lane: b register, offset, virtual address, kind and alignment. -/
def laneAddr (s : State) (i : Instr) (l : Nat) : Option (BitVec 3 × Opd × Nat × AccKind × Nat) :=
  let lane := fun (b : BitVec 3) (o : Reg) (k : AccKind) (n : Nat) => some (b, s.ov o l, offVa s b (offScale i) (s.ov o l).v, k, n)
  let uni := fun (b : BitVec 3) (x : BitVec 13) (k : AccKind) => some (b, (⟨0, 0, none⟩ : Opd), (muAddr s b x).toNat, k, alignOf i)
  match i with
  | .ld _ b o _ _ | .lds _ b o _ _ | .gath _ b o _ _ | .gaths _ b o _ _ => lane b o .read (alignOf i)
  | .st _ b o _ _ | .scat _ b o _ _ => lane b o .write (alignOf i)
  | .aadd _ b o _ _ | .amin _ b o _ _ | .amax _ b o _ _ | .aand _ b o _ _ | .aor _ b o _ _ | .axor _ b o _ _ | .axch _ b o _ _
  | .acas _ b o _ _ | .afadd _ b o _ _ | .axadd _ b o _ _ | .axrd _ b o _ _ => lane b o .rw (alignOf i)
  | .pref _ b o => lane b o .read 1
  | .ldu _ b k | .ldus _ b k => uni b k .read
  | .stu _ b k => uni b k .write
  | _ => none
/-- The sector that an M-pipe word touches in a lane: none where the lane makes no access, since its offset is poisoned, or its address does
not translate or is misaligned (Table 8-3). -/
def laneSector (s : State) (i : Instr) (l : Nat) : Option Nat :=
  match i with
  | .ldt _ a b wd | .stt _ a b wd =>
    if (firstTok [s.ov a l, s.os b]).isSome then none else some (tileAddr (s.ov a l).v (s.os b).v (widthBytes wd) / 32)
  | _ =>
    match laneAddr s i l with
    | none => none
    | some (b, o, va, k, n) =>
      if o.tok.isSome then none
      else
        match (laneAccess s (issueCtx s) (some (b.toNat, s.cur.rd.b b.toNat)) k n va).2 with
        | .ok a => some (a.pa / 32)
        | _ => none
/-- Cycles for which a word occupies its pipe (Table 12-1): in the M pipe a quarter of the sectors that each pass touches. -/
def occupancy (s : State) (w : FWord × Instr) (m : Mask) : Nat :=
  ((passMasks s.cur.rd.width m).map (fun p =>
    if pipeOf (opcOf w.1.word) = 4 then
      max 1 (((((lanesOf p).filterMap (laneSector s w.2)).dedup).length + 3) / 4)
    else if isSpecialFn w.2 then 4 else 1)).sum

/-- Charge of an issue of n lanes in hundredths; `full` takes class AUTO at the FULL factor (R302, R303). -/
def issueCharge (s : State) (full : Bool) (is : List Instr) (n : Nat) : Nat :=
  (is.map (fun i => chargeOf i (if full then (match clsOf i with | some k => if k = .auto then .full else variOf k | none => .full)
                                else variOfIssue s i) n)).sum
/-- An issue whose charge is at least 128, class AUTO at the FULL factor (R303). -/
def isHeavy (s : State) (is : List Instr) (n : Nat) : Bool := decide (12800 ≤ issueCharge s true is n)
/-- Counter of a variant that a vector AUTO issue computed (Table 18-1). -/
def autoEvent : Vari → Nat
  | .lean => 5 | .trunc => 6 | .short => 7 | .full => 8
/-- Scheduler index in a cluster's record of heavy issues. -/
def schedKey (g : Group) : Nat := 4 * g.core + g.sched

/-- The scheduler of a group is taken for p cycles, under the throttle for two at least (R298, R415), and the group's next issue comes after
them. -/
def occupy (s : State) (g : Group) (h p : Nat) : State :=
  let t := s.clk g.core
  (s.modCore g.core (fun c => { c with busy := Tb.put c.busy g.sched (t + if s.pw.throttle then max 2 p else p) })).modG h (fun g =>
    { g with ctl := { g.ctl with nextAt := t + p } })
/-- The wait counts after an issue that took effect (R25): of a user issue that ended in the fault path or at a region edge they are kept for
the return, and SRET has put those of the user back. -/
def keepCounts (before : Group) (m : Mask) (g : Group) : Group :=
  if before.sp.sv = g.sp.sv then { g with waits := recount before g m 1 }
  else if before.sp.sv then g
  else { g with ctl := { g.ctl with userWaits := recount before (userView g) m 1 } }
/-- The switch marker of an issue that took effect (R181): the user's is kept where the issue, or SRET's return, enters supervisor mode. -/
def keepMarker (before : Group) (is : List Instr) (marker : Bool) (g : Group) : Group :=
  let sret := before.sp.sv && is.contains .sret
  if g.sp.sv && (sret || !before.sp.sv) then { g with ctl := { g.ctl with userMarker := marker || (sret && g.ctl.userMarker) } }
  else { g with ctl := { g.ctl with marker := marker || (sret && g.ctl.marker) } }
/-- The results of fixed latency that the words leave unreadable for a while, after a last pass in cycle `last` (R297). -/
def addScore (regs last : Nat) (m : Mask) (is : List Instr) (score : List (Ref × Mask × Nat)) : List (Ref × Mask × Nat) :=
  is.foldl (fun t i => (fixedDests regs i).foldl (fun t r =>
    t.filter (fun x => !(decide (x.1 = r) && decide (x.2.1 &&& ~~~m = 0))) ++ [(r, m, last + latencyOf i)]) t)
    (score.filter (fun x => decide (last < x.2.2)))

/-- Tokens that the words of an issue create as they read. -/
def countTokens (s : State) (h : Nat) (is : List Instr) : State :=
  let n := (is.map (madeTokens s)).sum
  if n = 0 then s else s.bump h 0x13 n
/-- What an issue that took effect counts: wait counts, the switch marker, interlocks, charge and counters. -/
def account (s : State) (before : Group) (h : Nat) (m : Mask) (ws : List (FWord × Instr)) (marker : Bool) : State :=
  let is := ws.map (·.2)
  let n := laneCount m
  let t := s.clk before.core
  let p := passesOf before.width m
  let q := issueCharge s false is n
  let autos := (is.filter (fun i => decide (clsOf i = some .auto))).map (fun i => autoEvent (variOfIssue s i))
  let use := ws.map (fun w => (pipeKey before.sched (pipeOf (opcOf w.1.word)), t + occupancy s w m))
  let s := occupy (s.modG h (keepCounts before m)) before h p
  let s := s.modG h (fun g =>
    let g := keepMarker before is marker g
    { g with issued := t + p, issuedPc := s.cur.pc, unready := 0, passed := 0, why := 0,
             ctl := { g.ctl with score := addScore before.regs (t + p - 1) m is g.ctl.score,
                                 nextAt := if is.any isJump then t + p + 1 else t + p } })
  let s := s.modCore before.core (fun c =>
    { c with pipes := use.foldl (fun k u => Tb.put k u.1 u.2) c.pipes,
             taskAt := if is.any isTaskWord then some (t, before.sched) else c.taskAt })
  let s := if is.any isTaskWord then s.modTeam before.launch before.team (fun x => if x.pair then { x with bridge := t + 1 } else x) else s
  let s := if isHeavy s is n then
      s.modCluster (clusterOf before.core) (fun c => { c with heavy := Tb.put c.heavy (schedKey before) (t + p - 1) })
    else s
  let f := s.funcOf before.launch
  let s := countCharge (addCharge s before.core f q) before.core f q before.launch before.team
  let s := (s.bump h 0x02 1).bump h 0x03 n
  let s := if 1 < is.length then s.bump h 0x04 1 else s
  let s := countTokens s h is
  autos.foldl (fun s ev => s.bump h ev 1) s

/-- A store or AXADD that an earlier try held, with lanes accepted, stays held while its issue waits for something else (R139). -/
def keepHeld (before : Group) (h : Nat) (s : State) : State :=
  s.modG h (fun g => match g.rejected with
    | none => { g with rejected := before.rejected.map (fun r => { r with mask := 0 }) }
    | some _ => g)
/-- The end of an issue: a stall leaves no trace but what it holds, a trap without effect changes no count, and an issue that took effect is
accounted. A commit point that fails has read its operands. PAGE on a demand load and STOP at a region edge follow the whole chain (R45, R340): the word took them itself where
it issued alone. A stop that PAGE puts off is taken after the return (R342). -/
def endIssue (before : Group) (h : Nat) (m : Mask) (ws : List (FWord × Instr)) (marker : Bool) (r : Res) : Res :=
  match r with
  | .next s =>
    if s.cur.stalled then .next (keepHeld before h s)
    else if s.cur.trapped && s.cur.page.isNone && !s.cur.edge then
      let s := if ws.any (fun w => !privFails s w.2 && !fieldFails s w.2 && decide (commitFails s w.2 ≠ [])) then countTokens s h (ws.map (·.2)) else s
      .next (occupy (s.modG h (fun g => if g.sp.sv = before.sp.sv then { g with waits := recount before g m 0 } else g)) before h 1)
    else
      let t := account s before h m ws marker
      if s.cur.trapped then .next t
      else
        match s.cur.page with
        | some (pm, n, id, wpc) =>
          .next ((pageLoad t pm n id wpc).modG h (fun g =>
            if s.cur.edge then { g with ctl := { g.ctl with stopDue := true } } else g))
        | none => if s.cur.edge then .next (stopAtEdge t h) else .next t
  | r => r

/-! ### The chain (R45, R116, R168, R169) -/

/-- The first word that traps or stalls when each issues alone on the state before the chain, in slot order; a word's own
checks come in the order of R116 (log entry 37, DEDUCED). -/
def firstStop (s : State) (ws : List (FWord × Instr)) : Option Res :=
  ws.findSome? (fun w =>
    match exec w.2 (atWord s w.1) with
    | .next t => if t.cur.trapped || t.cur.stalled then some (.next t) else none
    | r => some r)

/-- Apply the words of a chain one after another, each reading the state before the chain; a word of the uniform pipe goes
first, so that an SWSR clears flags before another word of its chain sets them (R57), and an engine task last, since a tile access of its
chain finds the tile as it was (R24, R133). -/
def applyWords (s : State) (ws : List (FWord × Instr)) : Res :=
  let uni := fun (w : FWord × Instr) => decide (pipeOf (opcOf w.1.word) = 0)
  let task := fun (w : FWord × Instr) => isTaskWord w.2
  ((ws.filter uni) ++ (ws.filter (fun w => !uni w && !task w)) ++ (ws.filter task)).foldl (fun r w =>
    match r with
    | .next t => exec w.2 (atWord t w.1)
    | r => r) (.next s)

/-- An LDT of a chain that also holds an engine task, of which some lanes find no request entries: the chain is held before it has any effect,
since the task follows the whole access (R134, R139; DESIGN CHOICE, log entry 7). -/
def cutTile (s : State) (ws : List (FWord × Instr)) : Option (FWord × Instr) :=
  if !ws.any (fun w => isTaskWord w.2) then none
  else
    ws.find? (fun w =>
      match w.2 with
      | .ldt .. => (match exec w.2 (atWord s w.1) with | .next t => t.curG.rejected.isSome | _ => false)
      | _ => false)

/-- The words of a chain that decoded, with their instructions. -/
def decoded (ws : List FWord) : List (FWord × Instr) :=
  ws.filterMap (fun w => match w.d with | .ok iw => some (w, iw.i) | .error _ => none)

/-- A word that could not be fetched traps; an error in memory that it met is reported (R431). -/
def badFetch (s : State) (code va : Nat) (as : List LaneAcc) : Res := exec (.fetchFault code va) (reportErrors s (whoOf s s.cur.h) false s.cur.pc [] as).1
/-- A chain of several words issues as one. -/
def runChain (s : State) (ws : List FWord) (bad : Option (PC × Nat × Nat × List LaneAcc)) : Res :=
  match ws.findSome? (decodeStop s) with
  | some r => r
  | none =>
    match bad with
    | some (pc, code, va, as) => badFetch { s with cur := { s.cur with wpc := pc, word := 0 } } code va as
    | none =>
      if chainBad s.cur.rd.regs ws then .next (illegal (match ws with | w :: _ => atWord s w | [] => s))
      else
        match firstStop s (decoded ws) with
        | some r => r
        | none =>
          match cutTile s (decoded ws) with
          | some w => .next (holdWhole (atWord s w.1) w.2 0)
          | none => applyWords s (decoded ws)

/-- The instruction that a decoded word issues as: itself, or an illegal encoding. -/
def asInstr (w : FWord) : Instr :=
  match w.d with
  | .ok iw => iw.i
  | .error _ => .illegalEncoding w.word

/-- One issue of a group for its chosen PC-set. A PC match on a later word of a chain traps as its first word does, with SLOT that of the first
(R336 names no slot; DESIGN CHOICE, log entry 14). -/
def issueSet (s : State) (h : Nat) (g : Group) (pc : PC) (m : Mask) : Res :=
  let (s, ws, bad) := fetchChain h g pc 3 s pc
  let multi := decide (1 < ws.length) || (bad.isSome && decide (ws ≠ []))
  let next := match ws.getLast? with | some w => nextPc w.pc | none => nextPc pc
  let is := ws.map asInstr
  let wis := ws.zip is
  let marker := ws.any (fun w => w.word.getLsbD 30)
  let s := beginIssue s h pc pc next (match ws with | w :: _ => w.word | [] => 0) m multi g
  let why := interlock s ws is
  let dm := pcMatch s (ws.map (·.pc))
  if why ≠ 0 then .next (keepHeld g h (stall s why))
  else if dm.1 ≠ 0 then endIssue g h m wis marker (.next (debugTrap s dm.1 dm.2))
  else
    let s := resolveReads s is
    match ws, bad with
    | [], some (_, code, va, as) => endIssue g h m [] false (badFetch s code va as)
    | [w], none =>
      if w.word.getLsbD 31 then endIssue g h m wis marker (runChain s ws bad)
      else endIssue g h m wis marker (exec (asInstr w) s)
    | _, _ => endIssue g h m wis marker (runChain s ws bad)

/-- What a group issues next: the chain of its chosen PC-set, or of the instruction that it holds. -/
def nextSet (g : Group) : Option (Nat × Mask) :=
  match g.rejected with
  | some r => some (r.entry.pc.toNat, r.entry.mask)
  | none => choosePc g
/-- A group issues, when it can. A kill that waited for the instruction that it held takes effect after it (R338). -/
def issueGroup (s : State) (h : Nat) : Res :=
  let g := s.grp h
  if !canIssue s g then .next s
  else
    match nextSet g with
    | none => .next s
    | some (pc, m) =>
      match issueSet (s.modG h (fun g => { g with rejected := none })) h g (BitVec.ofNat 48 pc) m with
      | .next t => .next (killDue t h)
      | r => r

end Sys2Proof.Machine
end

