-- ==== Sys2Proof/Machine/Rom.lean ====
section
/-! DEFINITION. The routines of the ROM, run as steps of the group that entered them (R324, R335, R360 to R364, R368 to R371; log
entry 12). A routine keeps its progress in `romWork`. -/

namespace Sys2Proof.Machine

/-! ### Progress of a routine -/

def romGet (g : Group) (k : Nat) : Nat := (Tb.get 0 g.ctl.romWork k).toNat
def romSet (s : State) (h k x : Nat) : State :=
  s.modG h (fun g => { g with ctl := { g.ctl with romWork := Tb.set 0 g.ctl.romWork k (BitVec.ofNat 64 x) } })
/-- The save area that supervisor code finds in s56 (R319). -/
def romArea (g : Group) : Nat := (Tb.get SCell.zero g.r.s 56).data.toNat
/-- A trap in the code of a routine is a double trap (R328); at which PC that code stands the spec does not say (a free value, log entry
12). -/
def romTrap (s : State) (h cause : Nat) : State := doubleAt { s with free := s.free + 1 } h cause (Config.freePc s.free)
/-- SRET of a routine: an uncorrectable error in a knot that it reads is ARRAY (R53), and an EPC of slot 3, which an image can bring, raises
MISPC there (R61, R398). -/
def romSret (s : State) (h : Nat) : State :=
  if (sretSoft (s.grp h)).isSome then romTrap s h 0x29
  else if misaligned (sretTargets (s.grp h)) = [] then returnFromTrap resumeAll s h else romTrap s h 0x25
/-- CTXSV of a routine (R324, R364): an uncorrectable error in a register that has no poison is ARRAY (R53), and the save waits for the
group's tasks (R253, R278), and for a place for its image. -/
def romSave (s : State) (h : Nat) : State :=
  let g := s.grp h
  let pa := if romArea g = 0 then saveArea s g else romArea g
  if (softOf g).isSome then romTrap s h 0x29
  else if groupTasks s g ≠ [] ∨ pa = 0 then s
  else saveGroup s h pa
/-- Whether the launch of a group asks for dumps (R324). -/
def wantsDump (s : State) (g : Group) : Bool := match s.launch? g.launch with | some l => l.rc.ctrl.getLsbD 1 | none => false

/-- KILL.team, or KILL.dump where the launch asks for it (R324). -/
def romKill (s : State) (h : Nat) : State := killOwn s h (wantsDump s (s.grp h))
/-- HALT, and SRET once the group is resumed (R324, R339). -/
def romHalt (s : State) (h : Nat) : State :=
  if romGet (s.grp h) 0 = 0 then (romSet s h 0 1).modG h (fun g => { g with ctl := { g.ctl with halted := true } })
  else romSret s h
/-- The restore routine: CTXRS, then SRET, or the end of the launch (R335, R398). -/
def romRestore (s : State) (h : Nat) : State :=
  let g := s.grp h
  let pa := romArea g
  if imageOk s pa g then romSret (loadImage s h pa) h else romKill (restFail s h) h

/-! ### The pager (R360 to R364): records -/

/-- The function of a space tag (R384); a tag of none is the PF's. -/
def tagFunc (tag : Nat) : Nat := if tag = 0 ∨ 4160 < tag then 64 else (tag - 1) / 64
/-- The function of a fault record: that of its tag (Table 14-7, R424). -/
def recFunc (r : FaultRec) : Nat := tagFunc (bits r.w3.toNat 63 48)

/-- Pop one record: a PAGE record is kept, any other goes to the journal (R360). Phase 1 begins when TPAYLOAD PAGE records
were popped or the queue is empty. -/
def pagerPop (s : State) (h : Nat) : State :=
  let g := s.grp h
  let n := romGet g 1
  match (s.core g.core).frq with
  | [] => romSet s h 0 1
  | r :: q =>
    if g.frame.tpayload.toNat ≤ n then romSet s h 0 1
    else
      let s := s.modCore g.core (fun c => { c with frq := q })
      if r.kind = 1 then
        romSet (romSet (romSet s h 1 (n + 1)) h (32 + 4 * n) r.w1.toNat) h (33 + 4 * n) r.w3.toNat
      else postJournal s 6 (recFunc r) 0 (recBytes r)

/-! ### Frames (R361 to R363) -/

/-- Whether an invalid entry is a leaf (R350). -/
def invalidIsLeaf (level e : Nat) : Bool := decide (level = 0) || (decide (level = 1) && decide (pteTier e = 0))
/-- The lists that may serve an entry, in the order in which they are tried (R361, R362). -/
def pagerLists (core level e : Nat) : List Nat :=
  if !invalidIsLeaf level e then [9]
  else if pteTier e = 0 then (List.range 8).map (fun i => (dieOf core + i) % 8)
  else [8]
/-- Take a frame from the first list that holds one. -/
def poolPop (s : State) (ls : List Nat) : Option (State × Nat × Nat) :=
  match ls.find? (fun i => decide (poolCount s i ≠ 0)) with
  | none => none
  | some i =>
    let hd := poolHead s i
    some (s.setNum (poolRec i) 8 (hd + 1), i, s.num (poolEntry s i hd) 8)

/-- Whether the memory that an address lies in has its carve-out reserved (R346): where it has not, no word there is a sector bound. -/
def carveOf (m : MemSt) (pa : Nat) : Bool :=
  match pmem pa with
  | .hbm d => m.carved.contains d | .lpddr => m.carved.contains 8 | _ => false
/-- A range of memory reads zero, with bounds 0 and no race records; the core drops its copies. -/
def zeroFrame (s : State) (core pa size : Nat) : State :=
  let inside := fun (a : Nat) => decide (pa ≤ a) && decide (a < pa + size)
  let m := s.mem
  let m := { m with cells := m.cells.filter (fun c => !inside c.1), race := m.race.filter (fun r => !inside (32 * r.1)) }
  let m :=
    match bndHome pa with
    | .word w => if !carveOf m pa then m else { m with cells := m.cells.filter (fun c => !(decide (w ≤ c.1) && decide (c.1 < w + size / 16))) }
    | .array k => { m with bounds := m.bounds.filter (fun b => !(decide (k ≤ b.1) && decide (b.1 < k + size / 32))) }
    | .none => m
  ({ s with mem := m }).modCore core (fun c => { c with l1 := c.l1.filter (fun e => !inside (32 * e.1)) })
/-- A node whose 512 entries hold e. -/
def fillNode (s : State) (pa e : Nat) : State := (List.range 512).foldl (fun s i => s.setNum (pa + 8 * i) 8 e) s
/-- The entry that the pager installs (R361). -/
def pagerEntry (level e frame : Nat) : Nat :=
  if !invalidIsLeaf level e then frame / 4096 * 2 ^ 24 + 1
  else frame / 4096 * 2 ^ 24 + (e &&& 0x1FFC) + 1 + (if level = 1 then 2 ^ 17 else 0) + (if pteTier e = 1 then 2 ^ 16 else 0)

/-- The first entry of a C16 group. -/
def c16First (epa : Nat) : Nat := epa / 128 * 128
/-- FENCE.sys of a routine (R146, R150). -/
def romFence (s : State) (h : Nat) : State := acquire (release s h .sys) h .sys
/-- Copy an entry into every invalid entry of its C16 group, then fence (R361). -/
def c16Fill (s : State) (h epa new : Nat) : State :=
  romFence ((List.range 16).foldl (fun s i =>
    let a := c16First epa + 8 * i
    if pteV (s.num a 8) then s else s.setNum a 8 new) s) h

/-! ### Serving a record (R361, R364) -/

/-- Wait: the post and the request once for each record, then the save of the group whenever PREQ reads 1; each reread is an acquire at
system scope (R364). -/
def pagerWait (s : State) (h reason list : Nat) : State :=
  let g := s.grp h
  let i := romGet g 2
  let w3 := romGet g (33 + 4 * i)
  if romGet g (34 + 4 * i) = 0 then
    romSet (attention s (tagFunc (bits w3 63 48)) (bits w3 63 48) reason list (romGet g (32 + 4 * i))) h (34 + 4 * i) 1
  else if preqOf s g then romSave s h
  else acquire s h .sys
/-- The next record. -/
def pagerNext (s : State) (h : Nat) : State := romSet s h 2 (romGet (s.grp h) 2 + 1)

/-- The frame in hand is installed where the entry still holds what the walk saw, else it goes back (R361, R363). Words 3 to 7:
a mark, the list, the frame, the entry's address, its value, its level. -/
def pagerInstall (s : State) (h : Nat) : State :=
  let g := s.grp h
  let list := romGet g 4
  let frame := romGet g 5
  let epa := romGet g 6
  let e := romGet g 7
  let level := romGet g 8
  let s := romSet s h 3 0
  let new := pagerEntry level e frame
  let c16 := decide (list = 8)
  let at' := if c16 then c16First epa else epa
  if s.num at' 8 = e then
    let s := s.setNum at' 8 new
    if c16 then c16Fill s h epa new else s
  else postJournal s 7 (s.funcOf g.launch) 0 (toBytes 8 list ++ toBytes 8 frame)
/-- A frame is taken and prepared: TAIL is read with an acquire at system scope (R363). -/
def pagerTake (s : State) (h level epa e : Nat) : State :=
  let s := acquire s h .sys
  let core := (s.grp h).core
  let ls := pagerLists core level e
  match poolPop s ls with
  | none => pagerWait s h 2 (ls.headD 9)
  | some (s, list, frame) =>
    let s := if invalidIsLeaf level e then zeroFrame s core frame (poolSize list) else fillNode s frame e
    romSet (romSet (romSet (romSet (romSet (romSet s h 3 1) h 4 list) h 5 frame) h 6 epa) h 7 e) h 8 level
/-- One act on the record that the pager serves. -/
def pagerServe (s : State) (h : Nat) : State :=
  let g := s.grp h
  let i := romGet g 2
  if romGet g 3 = 1 then pagerInstall s h
  else if romGet g 1 ≤ i then romSret s h
  else
    match walk s.mem (bits (romGet g (33 + 4 * i)) 63 48) (romGet g (32 + 4 * i)) with
    | .leaf _ _ _ => pagerNext s h
    | .malformed _ _ => pagerNext s h
    | .invalid level epa e =>
      let first := s.num (c16First epa) 8
      if level = 0 ∧ pteV first = true ∧ pteC16 first = true then c16Fill s h epa first
      else if pteMigr e then pagerWait s h 1 0
      else if pteFt e = 2 ∨ (pteFt e = 1 ∧ invalidIsLeaf level e = true ∧ pteTier e ≠ 0 ∧ pteTier e ≠ 1) then pagerWait s h 0 0
      else if pteFt e = 1 then pagerTake s h level epa e
      else pagerNext s h
def romPager (s : State) (h : Nat) : State := if romGet (s.grp h) 0 = 0 then pagerPop s h else pagerServe s h

/-! ### The emulation routine (R368 to R371) -/

/-- The lock of a physical address (R368). -/
def lockOf (pa : Nat) : Nat := 0x8000081000 + 8 * (((pa >>> 3) ^^^ (pa >>> 15) ^^^ (pa >>> 27)) % 4096)
/-- b register, offset register and data registers of an atomic. -/
def atomOperands : Instr → Option (BitVec 3 × Reg × List Nat)
  | .aadd d b o wd _ | .amin d b o wd _ | .amax d b o wd _ | .aand d b o wd _ | .aor d b o wd _ | .axor d b o wd _
  | .axch d b o wd _ => some (b, o, atomData d wd)
  | .acas d b o wd _ => some (b, o, (casRefs d wd).map (·.2))
  | .afadd d b o _ _ | .axadd d b o _ _ => some (b, o, [d.toNat])
  | .axrd _ b o _ _ => some (b, o, [])
  | _ => none

/-- The user's registers in place, for the routine to read and write. The atomic is the word that SLOT of TCAUSE names, counted from the first
word of its chain (Table 13-3). -/
def emulOpen (s : State) (h : Nat) : State :=
  let g := swapOut (s.grp h)
  let s := s.modG h (fun _ => g)
  let tpc := g.frame.tpc
  let wpc := mkPc (packetOf tpc) (slotOf tpc + bits g.frame.tcause.toNat 9 8)
  { s with cur := ⟨h, tpc, wpc, BitVec.ofNat 32 (g.frame.tpayload.toNat % 2 ^ 30), tpc, g.frame.tmask, false, false, false, false, none, g⟩ }
/-- The bank again, as at entry (R319). -/
def emulClose (s : State) (h : Nat) : State := s.modG h (fun g => swapIn (saveArea s g) g)
/-- The words of the chain other than the atomic, each out of line with C and W cleared (R370). -/
def emulOther (s : State) (f : FWord) : State :=
  match s.cur.trapped, f.d with
  | false, .ok iw =>
    (match exec iw.i { s with cur := { s.cur with pc := f.pc, wpc := f.pc, word := f.word &&& 0x3FFFFFFF } } with
     | .next t => countTokens t t.cur.h [iw.i]
     | _ => s)
  | _, _ => s

/-- The accesses of the lanes, when every lane translates. -/
def emulAccess (x : Ctx) (i : Instr) (n : BitVec 3) (s : State) : List MemJob → State × Option (List (Nat × LaneAcc))
  | [] => (s, some [])
  | j :: js =>
    match laneAccess s x (some (n.toNat, s.cur.rd.b n.toNat)) .rw (alignOf i) j.va with
    | (s, .ok a) =>
      (match emulAccess x i n s js with
       | (s, some as) => (s, some (Tb.put as j.lane a))
       | r => r)
    | (s, _) => (s, none)

/-- The beginning: a chain with another E-pipe word kills the team; a b register with an uncorrectable error is ARRAY as the routine reads it
(R53); an operand that is poison by now, as one with such an error reads (R53), or a lane that fails to translate leaves the atomic to its
chain, which issues again and fails; otherwise operands are read, the other words execute, and the atomic is outstanding. -/
def emulBegin (s : State) (h : Nat) : State :=
  let s0 := s
  let s := emulOpen s h
  let g := s.cur.rd
  let (s, ws, _) := fetchChain h { g with sp := { g.sp with sv := false } } g.frame.tpc 3 s g.frame.tpc
  let next := match ws.getLast? with | some w => nextPc w.pc | none => nextPc g.frame.tpc
  let rest := ws.filter (fun w => decide (w.pc ≠ s.cur.wpc))
  if rest.any (fun w => decide (pipeOf (opcOf w.word) = 5)) then
    killLaunch s0 g.launch 0x23 g.team g.frame.tpc g.frame.tpayload (wantsDump s0 g) (some h) false
  else
    match decodeWord s.cur.word with
    | .error _ => romSret s0 h
    | .ok iw =>
      match atomOperands iw.i with
      | none => romSret s0 h
      | some (n, o, data) =>
        let s := countTokens s h [iw.i]
        if (arrayOf s iw.i).isSome then romTrap s0 h 0x29
        else if commitFails s iw.i ≠ [] then romSret (emulClose s h) h
        else
        let js := (lanesOf g.frame.tmask).map (fun l => MemJob.mk l (maskOf [l]) (offVa s n 1 (s.ov o l).v) [])
        match emulAccess ⟨h, g.core, g.sp.tag.toNat, false, g.frame.tpc⟩ iw.i n s js with
        | (s, none) => romSret (emulClose s h) h
        | (s, some as) =>
          let f := atomForm iw.i
          let s := match relScope f with | some sc => release s h sc | none => s
          let e := newEntry s iw.i g.frame.tmask ((g.b n.toNat).vbase.setWidth 64) (atomSlots s o data) as
          let s := rest.foldl emulOther s
          if s.cur.trapped then s
          else
            let s := addEntry s h { e with id := s.ids }
            romSet (romSet (emulClose s h) h 0 1) h 1 next.toNat
/-- The end: EPC of the lanes of TMASK is the PC after the chain, then SRET (R369). -/
def emulEnd (s : State) (h : Nat) : State :=
  let s := s.modG h (fun g => (lanesOf g.frame.tmask).foldl (fun g l =>
    g.setLane l (fun x => { x with epc := BitVec.ofNat 48 (romGet g 1) })) g)
  let s := match (s.grp h).outst.head? with
    | some e => (match acqScope (atomForm e.instr) with | some sc => acquire s h sc | none => s)
    | none => s
  romSret s h
/-- The lock is freed with a store of 0, .rel at system scope (R369): the stores of the core reach their homes and the detector publishes.
The atomic itself, whose other locations are still to be served, is no access of the routine's. -/
def emulUnlock (s : State) (h lk : Nat) : State :=
  ((drainCore s (s.grp h).core).modG h (fun g => g.publish .sys)).setNum lk 8 0
/-- One act on a location: the lock is tried with acas.acq.sys and taken when it is free; then the lanes of the location are served and the
lock is released (R369). -/
def emulLocation (s : State) (h : Nat) : State :=
  let g := s.grp h
  match g.outst.head? with
  | none => emulEnd s h
  | some e =>
    match e.acc.head? with
    | none => emulEnd s h
    | some a =>
      let lk := lockOf a.2.pa
      let s := touch s (banksAt g.core false (if romGet g 2 = 0 then lk else a.2.pa))
      if romGet g 2 = 0 then
        let s := acquire s h .sys
        if s.num lk 8 = 0 then romSet (s.setNum lk 8 (2 ^ 63 + h)) h 2 1 else s
      else romSet (emulUnlock (performAt (forceBefore s h e.id [sectorOf a.2.pa]) h e a.2.pa) h lk) h 2 0
def romEmul (s : State) (h : Nat) : State := if romGet (s.grp h) 0 = 0 then emulBegin s h else emulLocation s h

/-! ### One step of a routine -/

/-- The routine of a cause (Table 13-4, R318). -/
def romAct (s : State) (h cause : Nat) : State :=
  if cause = 0x2B then romPager s h
  else if cause = 0x2C then romEmul s h
  else if cause = 0x2D ∨ cause = 0x2E then romHalt s h
  else if cause = 0x2F then romSave s h
  else if cause = 0x3F then romRestore s h
  else romKill s h
/-- The issues of a step of a routine: of the restore routine CTXRS, BRC and SRET or KILL.team (R398); of any other one, since the spec does not
give its words (DESIGN CHOICE, log entry 52). -/
def romIssues (cause : Nat) : Nat := if cause = 0x3F then 3 else 1
/-- A step of the ROM routine that a group runs, in its lanes. Each takes one issue slot of the group's scheduler, charges its cluster nothing,
and is no heavy issue (DESIGN CHOICE, log entries 6 and 52). -/
def romStep (s : State) (h cause : Nat) : Res :=
  let g := s.grp h
  if !canIssue s g then .next s
  else
    let t := s.clk g.core
    let set := (choosePc g).getD (g.issuedPc.toNat, 0)
    let s := s.modG h (fun g => { g with unready := 0, passed := 0, why := 0, issued := t + 1, issuedPc := BitVec.ofNat 48 set.1 })
    let n := romIssues cause
    .next (romAct (((occupy s g h 1).bump h 0x02 n).bump h 0x03 (n * laneCount set.2)) h cause)

end Sys2Proof.Machine
end

