-- ==== Sys2Proof/Machine/Turn.lean ====
section
/-! DEFINITION. Which agent acts next: the turns that the state lists, and the order that holds when it lists none (R27, R303, log
entry 1). -/

namespace Sys2Proof.Machine

/-! ### Core cycles (R36, R38, R340, R413, R425, log entry 6) -/

/-- Event 0x01 on a core: one count for each function with a resident team, and one in each team's view (R425). -/
def countCycle (s : State) (core : Nat) : State :=
  ((s.work.teams.filter (fun t => onCore t core)).foldl (fun (r : State × List Nat) t =>
    let f := s.funcOf t.launch
    if r.2.contains f then (r.1.view core 0x01 1 t.launch t.id, r.2)
    else (r.1.count core f 0x01 1 (some (t.launch, t.id)), f :: r.2)) (s, [])).1
/-- Frequency of a point in MHz (Table 17-1). -/
def pointMHz : Nat → Nat
  | 0 => 600 | 1 => 800 | 2 => 1000 | 3 => 1200 | 4 => 1350 | _ => 1500
/-- A cycle of a resident group: CTXCLK counts, a cycle timer whose deadline it reaches fires (R277), a stop request counts. -/
def tick (s : State) (g : Group) : Group :=
  let g := { g with sp := { g.sp with ctxclk := g.sp.ctxclk + 1 },
                    ctl := { g.ctl with stopCnt := if g.ctl.stopPend then g.ctl.stopCnt + 1 else g.ctl.stopCnt } }
  if timerDue s g .cyc then fireTimer g .cyc else g
/-- A core cycle passes on a die: for its resident groups, and for requested teams, whose deadline counts. -/
def passCycle (d : Nat) (s : State) : State :=
  let on := fun (core : Nat) => decide (dieOf core = d)
  let cs := ((s.work.teams.flatMap (fun t => if t.pair then [t.core, t.core + 1] else [t.core])).filter on).dedup
  let s := cs.foldl countCycle s
  let s := s.modDie d (fun x => { x with clk := x.clk + 1 })
  { s with work := { s.work with
      groups := s.work.groups.map (fun e =>
        if on e.2.core && !e.2.ctl.saved then (e.1, tick s e.2) else e),
      teams := s.work.teams.map (fun t => if t.preq && on t.core then { t with preqCnt := t.preqCnt + 1 } else t) } }

/-! ### The scheduler's choice (R27, R303) -/

/-- A group with something to issue: a PC-set, a held instruction to issue again, or a routine of the ROM. -/
def hasIssue (g : Group) : Bool := (choosePc g).isSome || g.rejected.isSome
/-- A group that its scheduler may issue in this cycle, its interlocks and its own stalls apart. -/
def candidate (s : State) (g : Group) : Bool := canIssue s g && hasIssue g && decide (g.ctl.nextAt ≤ s.clk g.core)
def schedGroups (s : State) (core sched : Nat) : List (Nat × Group) :=
  s.work.groups.filter (fun e => decide (e.2.core = core) && decide (e.2.sched = sched) && candidate s e.2)
/-- Why a candidate is not ready (R27): what its issue would wait for, by Table 18-3, 0 where the table has no reason. -/
def waitReason (s : State) (e : Nat × Group) : Option Nat :=
  if e.2.ctl.rom.isSome then none
  else
    match issueGroup s e.1 with
    | .next t => if t.cur.stalled then some (t.grp e.1).why else none
    | _ => none
def older (a b : Nat × Group) : Bool := decide (a.2.age < b.2.age) || (decide (a.2.age = b.2.age) && decide (a.1 < b.1))
def oldest (l : List (Nat × Group)) : Option (Nat × Group) :=
  l.foldl (fun b e => match b with | none => some e | some x => if older e x then some e else b) none
/-- A cluster in pairing: its charge over the last 64 cycles is at least 7/8 of its slope limit. -/
def pairing (s : State) (cluster : Nat) : Bool := decide (700 * slopeOf s cluster ≤ 8 * s.charge64 cluster)
/-- The words that a group issues next. -/
def nextWords (s : State) (h : Nat) : List Instr × Mask :=
  let g := s.grp h
  match nextSet g with
  | none => ([], 0)
  | some (pc, m) => ((fetchChain h g (BitVec.ofNat 48 pc) 3 s (BitVec.ofNat 48 pc)).2.1.map asInstr, m)
/-- Whether the next issue of a group is light. -/
def nextLight (s : State) (h : Nat) : Bool :=
  let w := nextWords s h
  !isHeavy { s with cur := { s.cur with mask := w.2, rd := s.grp h } } w.1 (laneCount w.2)
/-- The scheduler's choice among ready groups: first one that has been ready for 32 cycles without issuing; in a cluster that is pairing,
after a heavy issue in the previous cycle, the oldest whose next issue is light; otherwise the oldest. -/
def chooseReady (s : State) (core sched : Nat) (rs : List (Nat × Group)) : Option (Nat × Group) :=
  match oldest (rs.filter (fun e => decide (32 ≤ e.2.unready))) with
  | some e => some e
  | none =>
    let cl := clusterOf core
    let light := if pairing s cl && decide ((Tb.get? (s.cluster cl).heavy (4 * core + sched)).map (· + 1) = some (s.clk core)) then
        oldest (rs.filter (fun x => nextLight s x.1))
      else none
    if light.isSome then light else oldest rs
/-- Why a ready group was not chosen: pairing chose another (13), or an older group issues (14). -/
def passedOver (rs : List (Nat × Group)) (p e : Nat × Group) : Nat :=
  if e.2.unready < 32 ∧ p.2.unready < 32 ∧ (oldest rs).map (·.1) ≠ some p.1 then 13 else if older p e then 14 else 0
/-- The group that a scheduler issues in this cycle, and the state with the reasons of the groups that do not (R428). A lone candidate takes its
chance: when it is not ready, nothing issues. -/
def schedule (s : State) (core sched : Nat) : State × Option Nat :=
  match schedGroups s core sched with
  | [] => (s, none)
  | [e] => (s, some e.1)
  | es =>
    let js := es.map (fun e => (e, waitReason s e))
    let rs := (js.filter (·.2.isNone)).map (·.1)
    let p := chooseReady s core sched rs
    (js.foldl (fun s j =>
      if p.map (·.1) = some j.1.1 then s
      else s.modG j.1.1 (fun g => { g with
        why := match j.2, p with | some k, _ => k | none, some p => passedOver rs p j.1 | none, none => 0,
        passed := if j.2.isNone then s.clk core + 1 else g.passed })) s, p.map (·.1))
/-- The next issue of a group holds a task instruction. -/
def nextTask (s : State) (h : Nat) : Bool := (s.grp h).ctl.rom.isNone && (nextWords s h).1.any isTaskWord
/-- Groups of a core that are about to issue a task in this cycle, the lowest scheduler first. -/
def taskSeekers (s : State) (core : Nat) : List Nat :=
  ((List.range 4).filter (idleSched s core)).filterMap (fun k =>
    (schedule s core k).2.bind (fun x => if nextTask s x && (waitReason s (x, s.grp x)).isNone then some x else none))
/-- The task port of a core has been used in this cycle. -/
def portUsed (s : State) (core : Nat) : Bool := decide ((s.core core).taskAt.map (·.1) = some (s.clk core))
/-- The bridge of a group's core pair has passed a task of its team in this cycle. -/
def bridgeUsed (s : State) (h : Nat) : Bool :=
  let g := s.grp h
  match s.team? g.launch g.team with
  | some t => t.pair && decide (t.bridge = s.clk g.core + 1)
  | none => false
/-- The first of a core's seekers whose task a test does not hold back. -/
def portWinner (s : State) (core : Nat) (held : Nat → Bool) : Option Nat :=
  if portUsed s core then none else (taskSeekers s core).find? (fun x => !held x)
/-- The bridge passes one task of a team in a cycle, that of the lower core in a tie (R251). -/
def bridgeLost (s : State) (h : Nat) : Bool :=
  let g := s.grp h
  bridgeUsed s h ||
  ((match s.team? g.launch g.team with | some t => t.pair && decide (g.core = t.core + 1) | none => false) &&
   (match portWinner s (g.core - 1) (bridgeUsed s) with
    | some y => decide ((s.grp y).launch = g.launch) && decide ((s.grp y).team = g.team)
    | none => false))
/-- A task issue loses the bridge of its core pair, or the port of the task table to another scheduler: one that issued a task in this cycle,
or a lower one that is about to (R251, R296). -/
def portLost (s : State) (h : Nat) : Bool :=
  let g := s.grp h
  nextTask s h &&
  (bridgeLost s h || portUsed s g.core ||
   (match portWinner s g.core (bridgeLost s) with | some x => decide ((s.grp x).sched < g.sched) | none => false))

/-! ### One turn -/

/-- A step of the device itself: instruction words take no part here. -/
def deviceStep (i : Instr) : Bool :=
  !i.encoded && (match i with | .illegalEncoding _ => false | .fetchFault _ _ => false | _ => true)
/-- Until bring-up has ended, the device takes no step but its reset (R422). -/
def stepAllowed (s : State) (i : Instr) : Bool :=
  deviceStep i && (decide (s.dev.bringUp = 6) || (match i with | .reset => true | _ => false))

/-- A source or a pipe for which a group's next issue would wait (R297): 0 where it would not. -/
def nextLock (s : State) (h : Nat) : Nat :=
  let g := s.grp h
  match nextSet g with
  | none => 0
  | some (pc, m) =>
    let ws := (fetchChain h g (BitVec.ofNat 48 pc) 3 s (BitVec.ofNat 48 pc)).2.1
    let k := interlock { s with cur := { s.cur with mask := m, rd := g } } ws (ws.map asInstr)
    if k ≤ 2 then k else 0
/-- Why a group that its scheduler has not tried in this cycle would not have issued, by Table 18-3: 14 where it is ready and an older group's
issue has the scheduler, 0 where none of these holds. -/
def lockReason (s : State) (h : Nat) : Nat :=
  let g := s.grp h
  if g.ctl.rom.isSome then 0
  else if canIssue s g && hasIssue g then
    match waitReason s (h, g) with
    | some k => k
    | none =>
      if s.work.groups.any (fun e => decide (e.2.core = g.core) && decide (e.2.sched = g.sched) && decide (s.clk g.core < e.2.issued) &&
        older e (h, g)) then 14 else 0
  else nextLock s h
/-- Before a scheduler's pick: why the group that it is about to sample does not issue, where its choice in this cycle has not said so (R428). -/
def notePick (s : State) (core sched : Nat) : State :=
  if !pickDue s core sched then s
  else
    match nextPick s core sched with
    | none => s
    | some (h, g) =>
      if g.why ≠ 0 ∨ g.passed = s.clk core + 1 ∨ s.clk core < g.issued then s
      else s.modG h (fun g => { g with why := lockReason s h })

/-- A chosen group issues, or takes a step of the ROM routine that it runs. -/
def issueChosen (s : State) (h : Nat) : Res :=
  match (s.grp h).ctl.rom with
  | some cause => romStep s h cause
  | none =>
    if portLost s h then .next (s.modG h (fun g => { g with why := 10 })) else issueGroup s h
/-- The turn of a group: it issues when its scheduler is free in this cycle and chooses it. -/
def issueTurn (s : State) (h : Nat) : Res :=
  let g := s.grp h
  if !idleSched s g.core g.sched then .next s
  else
    match schedule s g.core g.sched with
    | (t, some k) => if k = h then issueChosen t h else .next t
    | (t, none) => .next t
/-- The schedulers that have groups, in order. -/
def schedulers (s : State) : List (Nat × Nat) := (s.work.groups.map (fun e => (e.2.core, e.2.sched))).dedup
/-- The request entries in use on a core: of accesses not yet performed, by entry and lane, and of stores on their way, by their number. -/
def requestIds (s : State) (core : Nat) : List (Nat × Nat) :=
  (s.work.groups.filter (fun e => decide (e.2.core = core))).flatMap (fun e => e.2.outst.flatMap (fun o => o.acc.map (fun a => (o.id, a.1)))) ++
  (s.mem.pend.filter (fun p => decide (p.core = core))).map (fun p => (p.id, 64))
/-- Releases of request entries that a held instruction has seen in a turn count for it; after 64 it is served (R139, log entry 7). -/
def noteReleases (s t : State) : State :=
  (t.work.groups.filter (fun e => e.2.rejected.isSome && (s.grp e.1).rejected.isSome)).foldl (fun u e =>
    let now := requestIds t e.2.core
    let n := ((requestIds s e.2.core).filter (fun x => !now.contains x)).length
    let u := u.modG e.1 (fun g => { g with rejected := g.rejected.map (fun r => { r with tries := r.tries + n }) })
    if (match (u.grp e.1).rejected with | some r => decide (64 ≤ r.tries) | none => false) then retryRequest u e.1 else u) t
/-- The state after an agent has acted, with the releases noted. -/
def noted (s : State) (r : Res) : Res := match r with | .next t => .next (noteReleases s t) | r => r

/-- Each scheduler of a die that is free issues the group that it chooses. -/
def issueDie (d : Nat) (s : State) : Res :=
  ((schedulers s).filter (fun k => decide (dieOf k.1 = d))).foldl (fun r k =>
    match r with
    | .next s =>
      if !idleSched s k.1 k.2 then .next s
      else match schedule s k.1 k.2 with
        | (t, some h) => noted s (issueChosen t h)
        | (t, none) => .next t
    | r => r) (.next s)
/-- The schedulers of a die take the samples that are due (R428). -/
def samplesDue (d : Nat) (s : State) : State :=
  ((schedulers s).filter (fun k => decide (dieOf k.1 = d))).foldl (fun s k => pcSample (notePick s k.1 k.2) k.1 k.2) s
/-- Groups of a die that are ready and did not issue have waited one more cycle (R27), those included that were ready when their scheduler chose
another in this cycle. The reasons of this cycle are gone with it. -/
def ageReady (d : Nat) (s : State) : State :=
  { s with work := { s.work with groups := s.work.groups.map (fun e =>
      if dieOf e.2.core ≠ d then e
      else if decide (e.2.passed = s.clk e.2.core + 1) || (candidate s e.2 && (waitReason s e).isNone) then
        (e.1, { e.2 with unready := e.2.unready + 1, why := 0 })
      else (e.1, { e.2 with why := 0 })) } }
/-- One core cycle of a die: the schedulers that are still free issue first, so that no ready group is passed over (R27, R33). -/
def dieCycle (d : Nat) (s : State) : Res :=
  match issueDie d s with
  | .next t => .next (passCycle d (ageReady d (samplesDue d t)))
  | r => r
def dieCycles (d : Nat) : Nat → State → Res
  | 0, s => .next s
  | n + 1, s => match dieCycle d s with | .next t => dieCycles d n t | r => r
/-- A nanosecond passes on a die: its core cycles come at the frequency of the point at which it runs, and none while it has no power
(R413, R420). -/
def dieNs (d : Nat) (s : State) : Res :=
  if (s.die d).off then .next s
  else
    let p := (s.die d).phase + pointMHz (runPoint (s.die d))
    dieCycles d (p / 1000) (s.modDie d (fun x => { x with phase := p % 1000 }))
/-- Time passes on every die. -/
def runNs : Nat → State → Res
  | 0, s => .next s
  | n + 1, s =>
    match allDies.foldl (fun (r : Res) d => match r with | .next s => dieNs d s | r => r) (.next s) with
    | .next t => runNs n { t with now := t.now + 1 }
    | r => r

/-- The state in which a step acts: a sample finds the reason of the group that it picks. -/
def readyStep (s : State) : Instr → State
  | .pcSample core sched => notePick s core sched
  | _ => s
/-- One agent's turn. -/
def runTurn (s : State) : Turn → Res
  | .issue h => issueTurn s h
  | .step i => if stepAllowed s i then exec i (readyStep s i) else .next s
  | .time ns => runNs ns s

/-! ### Steps that the device takes by itself -/

/-- A step does something: it changes the state or stops. -/
def acts (s : State) (r : Res) : Bool :=
  match r with
  | .next t => decide (t ≠ s)
  | _ => true

/-- Steps of groups: results, retries, timers, deadlines. -/
def groupSteps (s : State) : List Instr :=
  s.work.groups.flatMap (fun e =>
    e.2.outst.map (fun x => Instr.resultReturn e.1 x.id) ++
    (if e.2.rejected.isSome then [.requestRetry e.1] else []) ++
    (if e.2.ctl.cyc.armed then [.cycleTimerFire e.1] else []) ++ (if e.2.ctl.wal.armed then [.wallAlarmFire e.1] else []) ++
    (if e.2.ctl.stopPend then [.stopDeadline e.1] else []))
/-- Steps of the engines and the memory path. -/
def pathSteps (s : State) : List Instr :=
  s.work.tasks.flatMap (fun t => if t.out.isSome then [Instr.taskFinish t.id] else [.taskStart t.id]) ++
  s.mem.pend.map (fun p => .storeReachesHome p.id) ++ s.mem.watchUpd.map (fun w => .watchCopyUpdate w.1 w.2.1)
/-- Steps of retention: entries, and exits for accesses that wait (R140). -/
def bankSteps (s : State) : List Instr :=
  s.banks.flatMap (fun b => [Instr.retentionEntry b.1, .retentionEntryEnd b.1, .retentionExit b.1])
/-- Steps of invalidations. -/
def invalSteps (s : State) : List Instr :=
  s.work.invals.flatMap (fun v =>
    (v.waitFor.filter (fun c => !v.received.contains c)).map (fun c => Instr.invalidationReceive c v.id) ++
    (v.waitFor.filter (fun c => v.received.contains c)).map (fun c => .invalidationAck c v.id))
/-- Steps of teams: deadlines, saves, retirement. -/
def teamSteps (s : State) : List Instr :=
  s.work.teams.flatMap (fun t =>
    (if t.preq then [Instr.preEmptionDeadline t.launch t.id] else []) ++
    (if t.preq || (s.teamGroups t.launch t.id).any (fun h => (s.grp h).ctl.saved) then [.teamSave t.launch t.id] else []) ++
    [.retire t.launch t.id])
/-- Steps of launches and lines. -/
def lineSteps (s : State) : List Instr :=
  s.work.launches.map (fun l => Instr.launchFinish l.key) ++
  s.work.lines.flatMap (fun l => [Instr.lineNotify l.cb] ++ (if l.isCmd then [] else [.launchAdmit l.cb]))
/-- The command of an opcode of Table 15-6; P0 selects the operation of POLICY. -/
def cmdRun (f op sub : Nat) (s : State) : Res :=
  match op with
  | 0x0001 => execNopCommand f s | 0x0002 => execLineCreate f s | 0x0003 => execLineDestroy f s
  | 0x0004 => execProcConfig f s | 0x0005 => execInvalidate f s | 0x0006 => execStopRequest f s
  | 0x0007 => execResume f s | 0x0008 => execKillCommand f s | 0x0009 => execSaveLaunch f s
  | 0x000A => execRestoreLaunch f s | 0x000B => execJournalCopy f s | 0x000C => execEvent f s
  | 0x0100 => execFuncConfig f s | 0x0101 => execCtxArea f s | 0x0102 => execCarve f s | 0x0103 => execPoolAdd f s
  | 0x0104 => execMigrate f s | 0x0105 => execSplit f s | 0x0106 => execVector f s | 0x0108 => execPower f s
  | 0x0107 =>
    (match sub with
     | 0 => execLoad f s | 1 => execCounters f s | 2 => execRead f s | 3 => execSample f s | 4 => execQuote f s
     | 5 => execIdentity f s | 6 => execClear f s | _ => execUnknownCommandOpcode f s)
  | _ => execUnknownCommandOpcode f s
/-- Commands that may act: those that wait, and the next of each command line (function, opcode, P0). -/
def cmdsDue (s : State) : List (Nat × Nat × Nat) :=
  s.work.cmds.map (fun w => (w.f, w.opcode, 0)) ++
  (s.work.lines.filter (·.isCmd)).filterMap (fun l => (nextCmd s l.func).map (fun c => (l.func, c.2.op, c.2.w 0)))
/-- Steps of the distributor: a wake, a dispatch while some cluster has a candidate, a slice that is over or whose holder has no
candidate where another has, the gating of clusters. -/
def placeSteps (s : State) : List Instr :=
  let cs := List.range 32
  (cs.filter (fun c => (s.cluster c).waking)).map Instr.clusterWakeEnd ++
  (if s.work.launches = [] then []
   else
    (if cs.any (fun c => !(candidates s c).isEmpty) then [Instr.dispatch s.dev.nextCluster] else []) ++
    (cs.filter (fun c =>
      let x := s.cluster c
      let fs := (candidates s c).map (·.func)
      decide (x.sliceStart + (s.func x.holder).slice ≤ s.now) || (!fs.isEmpty && !fs.contains x.holder))).map .slice ++
    (if s.dev.lastVt + 100000 ≤ s.now then [.virtualTimeAdd] else [])) ++
  (if s.now < 100000 then [] else cs.map Instr.clusterGate ++ cs.map .gatingSequenceEnd)
/-- Steps of power: an end of a clock step, a sprint, a cool-down or a grant. -/
def powerSteps (s : State) : List Instr :=
  s.dies.flatMap (fun d =>
    (if d.2.step.isSome then [Instr.vfStepEnd d.1] else []) ++ (if d.2.sprintAt.isSome then [.sprintLimit d.1] else []) ++
    (if d.2.coolUntil.isSome then [.coolDownEnd d.1] else []) ++ (if d.2.grant.isSome then [.grantExpiry d.1] else []))

/-- The step that the device takes by itself next: the first that does something. -/
def dueStep (s : State) : Option Instr :=
  if s.dev.bringUp ≠ 6 then (if s.dev.bootFail = none then some .reset else none)
  else
    (groupSteps s ++ pathSteps s ++ bankSteps s ++ invalSteps s ++ teamSteps s ++ lineSteps s ++ placeSteps s ++ powerSteps s).find?
      (fun i => acts s (exec i s))
/-- The command that acts next, and its outcome. -/
def dueCmd (s : State) : Option Res :=
  if s.dev.bringUp ≠ 6 then none
  else ((cmdsDue s).find? (fun c => acts s (cmdRun c.1 c.2.1 c.2.2 s))).map (fun c => cmdRun c.1 c.2.1 c.2.2 s)

/-- A group that its scheduler, free in this cycle, issues. -/
def pickGroup (s : State) : Option Nat :=
  (schedulers s).findSome? (fun k =>
    if idleSched s k.1 k.2 then
      match (schedule s k.1 k.2).2 with
      | some h => if !portLost s h && (waitReason s (h, s.grp h)).isNone then some h else none
      | none => none
    else none)
/-- What happens where the state lists no turn: a step that is due, else a command, else an issue, else time passes. -/
def defaultTurn (s : State) : Res :=
  match dueStep s with
  | some i => noted s (exec i s)
  | none =>
    match dueCmd s with
    | some r => noted s r
    | none =>
      match pickGroup s with
      | some h => noted s (runTurn s (.issue h))
      | none => runTurn s (.time 1)

/-- The next turn: the first that the state lists, which is then gone from the list. The issues of a time turn note their releases one by
one. -/
def nextTurn (s : State) : Res :=
  match s.turns with
  | .time ns :: ts => runNs ns { s with turns := ts }
  | t :: ts => noted s (runTurn { s with turns := ts } t)
  | [] => defaultTurn s

end Sys2Proof.Machine
end

