-- ==== Sys2Proof/Machine/Place.lean ====
section
/-! DEFINITION. A program of one word, placed as the firmware and the driver place code: page tables, a launch, a team and its
group, whose turn is next (log entry 18). -/

namespace Sys2Proof.Machine

/-- An interior page table entry that names a node (Table 14-3). -/
def pteNode (node : Nat) : Nat := node / 4096 * 2 ^ 24 + 1
/-- A 2 MiB leaf in HBM4 with R, W, X, U, A and D (Table 14-4). -/
def pteCode (frame : Nat) : Nat := frame / 4096 * 2 ^ 24 + 0x27E01

/-- Page tables that map virtual addresses 0 to 2 MiB of a space tag to a frame. -/
def mapLow (m : MemSt) (tag frame : Nat) : MemSt :=
  let n := 0x8000800000
  ((((m.setNum (0x8000000000 + 8 * tag) 8 (pteNode n)).setNum n 8 (pteNode (n + 0x1000))).setNum (n + 0x1000) 8
    (pteNode (n + 0x2000))).setNum (n + 0x2000) 8 (pteNode (n + 0x3000))).setNum (n + 0x3000) 8 (pteCode frame)

/-- The record of a launch of one team of 16 lanes with 64 registers each, code base 0 and entry PC 0. -/
def placedRecord : LaunchRec :=
  { dqSize := 0, dqArea := 0, compVal := 0, compAddr := 0, args := 0, barriers := 0, nbar := 0, ctrl := 0, msix := 0, prio := 0,
    flags := 0, ebud := 0xFF00, pond := 32768, regs := 64, width := 16, team := (16, 1, 1), grid := (1, 1, 1), entry := 0,
    codeBase := 0, next := 0, raw := [] }
def placedLaunch : Launch :=
  { key := 1, cb := 1, number := 1, func := 0, proc := 0, queue := 0, tag := 1, seq := 1, rc := placedRecord, nextTeam := 1,
    savedTeams := [], stopDispatch := false, ending := .none, dqPages := [], dqFull := false, saveOff := none, saveCmd := none, stops := [] }
def placedTeam : Team :=
  { launch := 1, id := 0, core := 0, pair := false, lanes := 16, ngroups := 1, tiles := [0], barPa := [], preq := false,
    preqCnt := 0, preqLim := 0, image := 0, hdrBad := false, age := 0, waking := false, dead := false, resident := 0, views := [], bridge := 0 }
/-- Its group, in user or supervisor mode, with every lane in RUN at PC 0. -/
def placedGroup (sv : Bool) : Group :=
  { Group.empty with
    launch := 1, width := 16, regs := 64, lanes := List.replicate 16 ⟨0, .run, 0, .run⟩,
    sp := { Special.zero with ebud := 0xFF00, tag := 1, sv := sv } }

/-- Place one instruction word where the next step fetches. -/
def placeWord (s : State) (w : Word) : State :=
  let m := mapLow s.mem (if privWord w then 0 else 1) 0x200000
  { s with
    turns := [.issue 0],
    mem := m.setNum 0x200000 4 w.toNat,
    cores := Tb.erase s.cores 0,
    work := { s.work with groups := [(0, placedGroup (privWord w))], launches := [placedLaunch], teams := [placedTeam] },
    dev := { s.dev with bringUp := 6 } }

end Sys2Proof.Machine
end

