-- ==== Sys2Proof/Safety.lean ====
section
/-! DEFINITION. The terms that claims use: the canonical form of memory, an instruction that issues, what an issue writes in its group
and what it leaves alone. -/

namespace Sys2Proof.Machine

/-! ### Memory -/

/-- Memory is in canonical form: addresses rise strictly and no entry holds what an unlisted address reads as. -/
def MemSt.wf (m : MemSt) : Bool := Tb.wf memDefault m.cells

/-- The invariant of every step. -/
def State.Inv (s : State) : Prop := s.mem.wf = true

/-! ### An instruction that issues -/

/-- A word issues on `s`: its group is resident, no word of its chain has trapped or stalled, and the word passes the checks
made at issue: decoding, privilege and fields (R177, R178), arrays (R53), run hazards (R180), commit points (R115). -/
structure Issuing (s : State) (i : Instr) : Prop where
  resident : (Tb.get? s.work.groups s.cur.h).isSome = true
  passes : passes s i = true
  calm : s.cur.trapped = false ∧ s.cur.stalled = false

/-- Registers as a group holds them. -/
def Group.vAt (g : Group) (n l : Nat) : VCell := Tb.get VCell.zero g.r.v (64 * n + l)
def Group.sAt (g : Group) (n : Nat) : SCell := Tb.get SCell.zero g.r.s n
def Group.pAt (g : Group) (n l : Nat) : Byte := Tb.get 0 g.r.p (64 * n + l)

/-- What an issue writes: a value for each vector register and lane, uniform register, and predicate and lane that it writes,
and the flags that it raises. -/
structure Eff where
  v : Nat → Nat → Option VCell
  s : Nat → Option SCell
  p : Nat → Nat → Option Byte
  fl : BitVec 5

def Eff.none : Eff := ⟨fun _ _ => Option.none, fun _ => Option.none, fun _ _ => Option.none, 0⟩
/-- One vector register in the issuing lanes. -/
def Eff.vec (s : State) (d : Reg) (f : Nat → VCell) : Eff :=
  { Eff.none with v := fun n l => if n = d.toNat ∧ s.cur.mask.getLsbD l = true then some (f l) else Option.none }
/-- A pair in the issuing lanes. -/
def Eff.pair (s : State) (d : Nat) (lo hi : Nat → VCell) : Eff :=
  { Eff.none with v := fun n l =>
      if s.cur.mask.getLsbD l = false then Option.none
      else if n = d + 1 then some (hi l) else if n = d then some (lo l) else Option.none }
/-- One uniform register. -/
def Eff.uni (d : Reg) (c : SCell) : Eff := { Eff.none with s := fun n => if n = d.toNat then some c else Option.none }
/-- One predicate in the issuing lanes. -/
def Eff.pred (s : State) (p : BitVec 3) (f : Nat → Byte) : Eff :=
  { Eff.none with p := fun n l => if n = p.toNat ∧ s.cur.mask.getLsbD l = true then some (f l) else Option.none }
def Eff.flags (e : Eff) (f : BitVec 5) : Eff := { e with fl := f }

/-- A register whose soft error the writes end (R53). -/
def Eff.heals (e : Eff) : RegClass × Nat × Nat → Prop
  | (.v, n, l) => (e.v n l).isSome = true
  | (.s, n, l) => l = 0 ∧ (e.s n).isSome = true
  | (.p, n, l) => l = 0 ∧ n ≠ 0 ∧ ∃ k, (e.p n k).isSome = true
  | _ => False

/-- An outstanding result without its marks of R180. -/
def Entry.plain (e : Entry) : Entry := { e with contested := [] }

/-- `g'` is `g` after the writes of `e`: p0 keeps its value (R49), every register that `e` does not name keeps its value, flags
are only raised (R57), and nothing else of the group changes, but for the marks of outstanding results (R180). -/
structure Writes (g g' : Group) (e : Eff) : Prop where
  v : ∀ n l, l < 64 → g'.vAt n l = (e.v n l).getD (g.vAt n l)
  s : ∀ n, g'.sAt n = (e.s n).getD (g.sAt n)
  p : ∀ n l, l < 64 → g'.pAt n l = if n = 0 then g.pAt n l else (e.p n l).getD (g.pAt n l)
  fl : g'.sp.flags = g.sp.flags ||| e.fl
  soft : ∀ x, x ∈ g'.soft ↔ x ∈ g.soft ∧ ¬ e.heals x
  outst : g'.outst.map Entry.plain = g.outst.map Entry.plain
  rest : ∃ v s p soft fl outst, g' = { g with r := { g.r with v := v, s := s, p := p }, soft := soft,
                                              sp := { g.sp with flags := fl }, outst := outst }

/-- Wherever `i` issues it completes: the next state is the old one with the issuing group alone changed, and the change of
the group is `e`. Memory, other groups and everything else keep their values. -/
def Gives (i : Instr) (e : State → Eff) : Prop :=
  ∀ s, Issuing s i → ∃ g', exec i s = .next (s.upG (fun _ => g')) ∧ Writes s.curG g' (e s)

/-- A register result: the token of the first poisoned source (R112), otherwise the value. -/
def orTok (srcs : List Opd) (c : VCell) : VCell := match firstTok srcs with | some t => VCell.tok t | none => c
def orTokS (srcs : List Opd) (c : SCell) : SCell := match firstTok srcs with | some t => SCell.tok t | none => c

/-- A vector instruction without flags, lane by lane. -/
def GivesV (i : Instr) (d : Reg) (srcs : State → Nat → List Opd) (c : State → Nat → VCell) : Prop :=
  Gives i (fun s => Eff.vec s d (fun l => orTok (srcs s l) (c s l)))
/-- A vector instruction with flags, lane by lane: the flags of every issuing lane are raised. -/
def GivesF (i : Instr) (d : Reg) (f : State → Nat → LaneOut) : Prop :=
  Gives i (fun s => (Eff.vec s d (fun l => (f s l).cell)).flags ((lanesOf s.cur.mask).foldl (fun a l => a ||| (f s l).fl) 0))
/-- A comparison: one predicate in the issuing lanes. -/
def GivesP (i : Instr) (p : BitVec 3) (f : State → Nat → Byte) : Prop := Gives i (fun s => Eff.pred s p (f s))
/-- The relation of an integer condition (Table 7-2). -/
def holdsInt {w : Nat} (k : ICond) (x y : BitVec w) : Bool :=
  match k with
  | .eq => x == y | .ne => x != y | .lt => x.slt y | .le => x.sle y | .gt => y.slt x | .ge => y.sle x
  | .ltu => x.ult y | .leu => x.ule y | .gtu => y.ult x | .geu => y.ule x
/-- A relation on the difference of two real numbers. -/
def Rel.on (r : Rel) (d : ℝ) : Prop :=
  match r with
  | .eq => d = 0 | .ne => d ≠ 0 | .lt => d < 0 | .le => d ≤ 0 | .gt => 0 < d | .ge => 0 ≤ d
/-- A uniform instruction. -/
def GivesS (i : Instr) (d : Reg) (srcs : State → List Opd) (c : State → SCell) : Prop :=
  Gives i (fun s => Eff.uni d (orTokS (srcs s) (c s)))

/-! ### Lanes, knots, memory -/

/-- `g'` is `g` with the PCs of some lanes replaced: registers, lane states and everything else keep their values. -/
structure Moves (g g' : Group) (pc : Nat → Option PC) : Prop where
  count : g'.lanes.length = g.lanes.length
  lane : ∀ l, l < g.lanes.length → g'.lane l = { g.lane l with pc := (pc l).getD (g.lane l).pc }
  outst : g'.outst.map Entry.plain = g.outst.map Entry.plain
  rest : ∃ lanes outst, g' = { g with lanes := lanes, outst := outst }

/-- The issuing lanes that a list of lanes and targets names. -/
def targetAt (ts : List (Nat × PC)) (l : Nat) : Option PC := (ts.find? (fun t => decide (t.1 = l))).map (·.2)
/-- The target of a relative branch (R61, R172): the packet of the word plus the offset, modulo 2^46, and the encoded slot. -/
def branchTo {w : Nat} (s : State) (o : BitVec w) (slot : BitVec 2) : PC :=
  ((s.cur.wpc >>> 2).setWidth 46 + o.signExtend 46) ++ slot

/-- `g'` is `g` with knot k holding `n` and the lanes `base`, after the release of R30 where `n` is complete: the arrived lanes run
at the PC after the join PC and the knot is idle. Other knots, every other register and the rest of the group keep their
values. -/
structure KnotBecomes (g g' : Group) (k : Nat) (n : Knot) (base : Nat → Lane) : Prop where
  count : g'.lanes.length = g.lanes.length
  lane : ∀ l, l < g.lanes.length → g'.lane l =
    if n.complete = true ∧ n.arrived.getLsbD l = true then { base l with pc := nextPc n.joinPc, st := .run } else base l
  knot : g'.k k = if n.complete then Knot.idle else n
  other : ∀ j, j ≠ k → g'.k j = g.k j
  outst : g'.outst.map Entry.plain = g.outst.map Entry.plain
  rest : ∃ lanes kn soft outst, g' = { g with lanes := lanes, r := { g.r with k := kn }, soft := soft, outst := outst }

/-- Every byte of memory that lies in none of the ranges (address, length) reads the same in both states. -/
def SameBytes (s t : State) (except : List (Nat × Nat)) : Prop :=
  ∀ a, (∀ r ∈ except, a < r.1 ∨ r.1 + r.2 ≤ a) → t.mem.byte a = s.mem.byte a
/-- The registers of a group of every class but the knots. -/
def Group.sameRegs (g g' : Group) : Prop :=
  g'.r.v = g.r.v ∧ g'.r.s = g.r.s ∧ g'.r.p = g.r.p ∧ g'.r.b = g.r.b ∧ g'.r.d = g.r.d

/-! ### Traps -/

/-- No outstanding result of a group has been performed in part: each is performed whole, or not at all. -/
def Group.whole (g : Group) : Prop :=
  ∀ e ∈ g.outst, (∀ d, e.instr ≠ .frqpop d) ∧ (e.ready = true ∨ e.performed = 0)
/-- A captured entry (R326): a result obtained is HELD, any other waits to be performed again. -/
def capturedOf (g : Group) (e : Entry) : Entry :=
  if e.ready then { fillEmpty g e with held := true, acc := [] } else { e with held := false, acc := [] }

/-- Trap entry of the issuing group (R319, R325): `m` are the trapping lanes, `q` is their PC by Table 13-4. Only the group changes,
and of the group only what the rule names. -/
structure TrapTaken (s t : State) (cause payload : Nat) (m : Mask) (q : PC) : Prop where
  only : ∃ g', t = { s.upG (fun _ => g') with cur := { s.cur with trapped := true } }
  frame : t.curG.frame = ⟨BitVec.ofNat 11 (chainSlot s s.cur.wpc * 256 + cause), BitVec.ofNat 64 payload, m, 0, q, BitVec.ofNat 64 s.now, 0⟩
  count : t.curG.lanes.length = s.curG.lanes.length
  lanes : ∀ l, l < s.curG.lanes.length →
    let x := s.curG.lane l
    let pc := if s.cur.mask.getLsbD l then s.cur.pc else x.pc
    t.curG.lane l = if x.st = .done then ⟨pc, .done, x.epc, .done⟩ else ⟨vectorPc s cause, .run, if m.getLsbD l then q else pc, x.st⟩
  mode : t.curG.sp = { s.curG.sp with sv := true }
  bankS : ∀ n, n < 8 → Tb.get SCell.zero t.curG.bank.s n = s.curG.sAt (56 + n)
  bankP : ∀ l, l < s.curG.width → Tb.get 0 t.curG.bank.p l = Tb.get 0 s.curG.r.p (448 + l)
  bankB : t.curG.bank.b = s.curG.b 7
  uni : ∀ n, t.curG.sAt n = if n = 56 then SCell.exact (saveArea s s.curG) else if 56 < n ∧ n < 64 then SCell.zero else s.curG.sAt n
  preds : ∀ n, Tb.get 0 t.curG.r.p n = if 448 ≤ n ∧ n < 448 + s.curG.width then 0 else Tb.get 0 s.curG.r.p n
  bregs : ∀ n, t.curG.b n = if n = 7 then BReg.zero else s.curG.b n
  other : t.curG.r.v = s.curG.r.v ∧ t.curG.r.k = s.curG.r.k ∧ t.curG.r.d = s.curG.r.d ∧ t.curG.arr = s.curG.arr
  queue : t.curG.replay = s.curG.outst.map (capturedOf s.curG) ∧ t.curG.outst = []
  timers : t.curG.ctl.cyc = s.curG.ctl.cyc ∧ t.curG.ctl.wal = s.curG.ctl.wal

/-- Nothing stands in the way of a trap entry for a cause: its vector is no PC of slot 3 (R61), and the group holds no rejected instruction. -/
def State.canEnter (s : State) (cause : Nat) : Prop := slotOf (vectorPc s cause) ≠ 3 ∧ s.curG.rejected = none

/-- The group that issues is in user mode, before the chain and now. -/
def State.user (s : State) : Prop := s.cur.rd.sp.sv = false ∧ s.curG.sp.sv = false

/-! ### Results that are outstanding, stores on their way -/

/-- The order numbers in use on the memory path: those of outstanding results and of stores on their way. -/
def State.numbers (s : State) : List Nat := s.work.groups.flatMap (fun x => x.2.outst.map (·.id)) ++ s.mem.pend.map (·.id)
/-- Order numbers differ, and every one is below the next. -/
def State.Numbered (s : State) : Prop := s.numbers.Nodup ∧ ∀ n ∈ s.numbers, n < s.ids

/-- `g'` is `g` with one more outstanding result. -/
structure Awaits (g g' : Group) (e : Entry) : Prop where
  outst : g'.outst.map Entry.plain = g.outst.map Entry.plain ++ [e]
  rest : ∃ o, g' = { g with outst := o }

/-- `i` issues on `s` and leaves one result outstanding, of which `p` holds; it takes an order number, and memory, registers and
everything else keep their values. -/
def Defers (i : Instr) (s : State) (p : Entry → Prop) : Prop :=
  ∃ g' e, exec i s = .next { s.upG (fun _ => g') with ids := s.ids + 1 } ∧ Awaits s.curG g' e ∧
    e.id = s.ids ∧ e.instr = i ∧ e.mask = s.cur.mask ∧ e.pc = s.cur.wpc ∧ e.valid = true ∧ e.held = false ∧ p e

/-- Registers per element of a width (R47, R224). -/
def wordsOf (wd : Width) : Nat := if widthBytes wd ≤ 4 then 1 else widthBytes wd / 4

/-- An address in the window of b register n, with the permission that the access needs, aligned, and with D set where it
writes (R51, R225, R355). -/
structure InWindow (s : State) (n : BitVec 3) (k : AccKind) (align va : Nat) : Prop where
  canonical : va < 2 ^ 57
  aligned : va % align = 0
  low : (s.cur.rd.b n.toNat).vbase.toNat ≤ va
  high : va < (s.cur.rd.b n.toNat).vbase.toNat + (s.cur.rd.b n.toNat).limit.toNat
  perm : permOk k s.cur.rd.sp.sv (s.cur.rd.b n.toNat).attr.toNat = true
  dirty : k.writes = true → pteD (s.cur.rd.b n.toNat).attr.toNat = true
  physical : ((s.cur.rd.b n.toNat).pbase.toNat + (va - (s.cur.rd.b n.toNat).vbase.toNat)) % align = 0
/-- The physical address of an address in the window. -/
def windowPa (s : State) (n : BitVec 3) (va : Nat) : Nat := (s.cur.rd.b n.toNat).pbase.toNat + (va - (s.cur.rd.b n.toNat).vbase.toNat)
/-- The access of a lane through the window. -/
def windowAcc (s : State) (n : BitVec 3) (va : Nat) : LaneAcc := ⟨windowPa s n va, va, (s.cur.rd.b n.toNat).attr, none⟩
/-- No comparator of the issuing core is set, its request entries have room for the issuing lanes, and no earlier try of the issue has left
it held. -/
def State.free_ (s : State) : Prop :=
  (s.core s.cur.rd.core).dbg = [] ∧ s.cur.rd.rejected = none ∧ (lanesOf s.cur.mask).length ≤ requestsFree s s.cur.rd.core s.cur.h
/-- A page that the race detector does not check. -/
def unchecked (s : State) (n : BitVec 3) : Prop := pteRc (s.cur.rd.b n.toNat).attr.toNat = false

/-- The byte that a list of stores on their way holds for an address. -/
def pendByte (ps : List Pend) (a : Nat) : Option Byte :=
  ps.findSome? (fun p =>
    match p.kind with
    | .store ws => ws.findSome? (fun w => if w.pa ≤ a ∧ a < w.pa + 32 then Tb.get? w.bytes (a - w.pa) else none)
    | _ => none)
/-- The byte that lanes store at an address: that of the highest lane whose element of n bytes covers it (R142). -/
def storedByte (ls : List Nat) (pa v : Nat → Nat) (n a : Nat) : Option Byte :=
  (ls.reverse.find? (fun l => decide (pa l ≤ a) && decide (a < pa l + n))).map (fun l => BitVec.ofNat 8 (v l / 256 ^ (a - pa l)))
/-- A store issue that changes nothing but the stores on their way: `u` is the state after its release, where it is one. Each store on its way
holds one sector, with the largest bound of the lanes without poison that write there, and the token of the lowest poisoned one (R119, R121). -/
def Stores (i : Instr) (s u : State) (ls : List Nat) (pa : Nat → Nat) (o : Nat → Opd) (bnd : Nat → Bool) (n : Nat) : Prop :=
  ∃ ps, exec i s = .next { u with mem := { u.mem with pend := u.mem.pend ++ ps }, ids := u.ids + ps.length } ∧
    (∀ p ∈ ps, p.h = s.cur.h ∧ p.core = s.curG.core ∧ p.tag = s.curG.sp.tag ∧ p.pc = s.cur.wpc ∧
      ∃ w, p.kind = .store [w] ∧ w.pa % 32 = 0 ∧
        let here := ls.filter (fun l => decide (pa l / 32 = w.pa / 32))
        w.maxEb = ebMaxL ((here.filter (fun l => (o l).tok.isNone)).map (fun l => (o l).eb)) ∧
        w.token = here.findSome? (fun l => (o l).tok) ∧ here.head?.map bnd = some w.bnd) ∧
    ∀ a, pendByte ps a = storedByte ls pa (fun l => (o l).v) n a

/-- What the results of an entry write (R179). -/
def Entry.eff (regs : Nat) (e : Entry) : Eff :=
  let ds := writes regs e.instr
  { v := fun n l => if e.mask.getLsbD l = true ∧ (RegClass.v, n) ∈ ds ∧ emptyLane e l = false
      then some (Tb.get VCell.zero e.slots (8 * l + ds.idxOf (RegClass.v, n))) else none
    s := fun n => if e.mask ≠ 0 ∧ (RegClass.s, n) ∈ ds then some ⟨e.uop, e.ueb⟩ else none
    p := fun n l => if e.mask.getLsbD l = true ∧ (RegClass.p, n) ∈ ds
      then some (mkPred ((Tb.get VCell.zero e.slots (8 * l + ds.idxOf (RegClass.p, n))).data.getLsbD 0) false) else none
    fl := 0 }

/-- An engine instruction (R246, R249, R250, R135). Operands that do not meet the requirements `ok` are illegal; a full task table, a want of
rename slots, and a tile access of the team of which only some lanes have been accepted (log entry 7) stall the group; otherwise the task enters the table at its end, with the operands and sets of `x`, and
`also` holds of the next state. The group keeps its registers, lanes and flags. -/
def EntersTask (i : Instr) (s : State) (ok : Team → Prop) (x : TaskShape) (also : State → Prop) : Prop :=
  ∀ tm, Issuing s i → s.curTeam = some tm →
    let c := s.core s.cur.rd.core
    let half := halfOf c (s.funcOf s.cur.rd.launch)
    let used := entriesUsed s s.cur.rd.core half
    let slots := (s.work.tasks.filter (fun e => decide (e.core = s.cur.rd.core) && e.rename)).length
    let renames := ∃ e ∈ s.work.tasks, e.launch = s.cur.rd.launch ∧ e.team = s.cur.rd.team ∧ ∃ j ∈ x.wset, j ∈ e.rset
    (¬ ok tm → exec i s = .next (illegal s)) ∧
    (ok tm → halfEntries c ≤ used → exec i s = .next (stall s 7)) ∧
    (ok tm → used < halfEntries c → renames → 16 ≤ slots → exec i s = .next (stall s 8)) ∧
    (ok tm → used < halfEntries c → (renames → slots < 16) → tileMidway s (x.rset ++ x.wset) = true → exec i s = .next (stall s 0)) ∧
    (ok tm → used < halfEntries c → (renames → slots < 16) → tileMidway s (x.rset ++ x.wset) = false →
      ∃ t k, exec i s = .next t ∧ t.cur.trapped = false ∧ t.cur.stalled = false ∧
        t.work.tasks = s.work.tasks ++ [k] ∧ k.id = s.ids ∧ k.core = s.cur.rd.core ∧ k.half = half ∧
        k.launch = s.cur.rd.launch ∧ k.team = s.cur.rd.team ∧ k.h = s.cur.h ∧ k.gid = s.cur.rd.gid ∧ k.pc = s.cur.pc ∧
        k.op = x.op ∧ k.rset = x.rset ∧ k.wset = x.wset ∧ k.onBank = x.onBank ∧ k.batch = x.batch ∧
        k.ebud = s.cur.rd.sp.ebud ∧ k.tag = s.cur.rd.sp.tag ∧ k.out = none ∧ (k.rename = true ↔ renames) ∧
        (∃ o, t.curG = { s.curG with outst := o }) ∧ also t)

/-- The waiters of barrier i of a group after phase p (R160): they run at the next PC, every other lane is as it was. -/
def Released (g g' : Group) (i : BitVec 3) (p : Nat) : Prop :=
  g'.lanes = g.lanes.map (fun x =>
    match x.st with
    | .wait (.barrier j v) n =>
      if j = i ∧ (p + 0x10000 - v.toNat) % 0x10000 < 0x8000 then { x with st := .run, pc := pcAfter n x.pc } else x
    | _ => x)

/-- `i` issues on `s` and changes its group by `e` alone, but for counts of events. -/
def GivesCounted (i : Instr) (s : State) (e : Eff) : Prop :=
  ∃ t g', exec i s = .next t ∧ t.work.groups = (s.upG (fun _ => g')).work.groups ∧ Writes s.curG g' e ∧ t.mem = s.mem ∧
    t.work.tasks = s.work.tasks ∧ t.now = s.now

/-! ### Commands -/

/-- The next record of a function's command line is the command `c` at `pa`, which the function may issue and whose common fields are in
order (R383, R384). -/
structure Accepts (s : State) (f : Nat) (l : Line) (pa : Nat) (c : Cmd) : Prop where
  line : s.cmdLine? f = some l
  next : nextCmd s f = some (pa, c)
  allowed : pfOnly c.op = true → f = 64
  good : cmdBad f c = false
/-- The state in which an accepted command acts: its record has been read, and its COMMAND entry posted. -/
def accepted (s : State) (f : Nat) (l : Line) (pa : Nat) (c : Cmd) : State := postCommand (lineRead s l.cb pa) f c
/-- A command completes with a code, and the line's next record is looked for. -/
def cmdCompletes (u : State) (f : Nat) (l : Line) (c : Cmd) (number code : Nat) : State :=
  watchNext (complete u (cmdDone f l.cb number c) code 0) l.cb

end Sys2Proof.Machine
end

