-- ==== Sys2Proof/Certificates/Slice0/Obligations.lean ====
section
/-! DEFINITION. Statements for the provers. -/

open Sys2Proof Sys2Proof.Machine

/-- The state after reset (R8, R422): memory is canonical and order numbers are in order; nothing is resident, every byte of HBM4 and
LPDDR6 reads 0, every die stands at point 0, the arbiter is in grant mode with the default caps, every function has the defaults of
Table 15-6 and no policy, every vector names the ROM, and the journal's sequence starts at 1.

RESET (R422): nothing that was resident, in flight or in a register of the device is left, the arbiter is in grant mode at its default
caps, HBM4 and LPDDR6 are cleared (step 4 of Table 17-5), and memory outside the device keeps its bytes. Bring-up is complete, or a step of
Table 17-5 has failed and halted it with its number as the failure code: step 2 at the latest where the firmware image does not verify.

Which state reset leaves where no rule gives one is the model's choice (log entries 4 and 5), and so are that every vector names the ROM (log
entry 3) and what the failure code is (log entry 2); the state of the first part is that before bring-up. The lists that bring-up leaves
empty are those of R363. -/
def Obligations.ResetState : Prop :=
  (State.reset.Inv ∧ State.reset.Numbered) ∧
  (State.reset.work = WorkSt.reset ∧ State.reset.cores = [] ∧ State.reset.mem.pend = [] ∧ State.reset.dev.jseq = 1 ∧
   (∀ a, pmem a = .lpddr ∨ a < 0x8000000000 → State.reset.mem.byte a = 0) ∧
   (∀ d, (State.reset.die d).point = 0 ∧ (State.reset.die d).hot = false) ∧ State.reset.pw.grantMode = true ∧
   State.reset.pw.cAvg = 2400 ∧ State.reset.pw.cPeak = 3000 ∧ State.reset.pw.cSprint = 2800 ∧
   (∀ f, (State.reset.func f).slice = 1000000 ∧ (State.reset.func f).dqWeight = 16 ∧ (State.reset.func f).deadline = 60000 ∧
     (State.reset.func f).policy = none) ∧
   (∀ c, c < 64 → State.reset.dev.romVecs.getLsbD c = true) ∧
   (∀ c i, (State.reset.core c).dbg = [] ∧ Tb.get Comparator.zero (State.reset.core c).dbg i = ⟨0, 0, 0⟩)) ∧
  (∀ (s : State), ∃ t, exec .reset s = .next t ∧ t.work = WorkSt.reset ∧ t.pw = Power.reset ∧ t.cores = [] ∧ t.dies = [] ∧
     t.clusters = [] ∧ t.mem.pend = [] ∧ t.mem.bounds = [] ∧ t.mem.bad = [] ∧ t.dev.jseq = 1 ∧ t.now = 0 ∧
     (∀ a, 0x20000000000 ≤ a → t.mem.byte a = s.mem.byte a) ∧ (∀ a, pmem a = .lpddr ∨ a < 0x8000000000 → t.mem.byte a = 0) ∧
     (t.dev.bootFail = none → t.dev.bringUp = 6 ∧ firmwareVerified = true ∧
       ∀ i, i < 10 → t.num (0x8000080000 + 32 * i) 8 = 0 ∧ t.num (0x8000080000 + 32 * i + 8) 8 = 0 ∧
         t.num (0x8000080000 + 32 * i + 16) 8 = 0x800008F800 + 0x800 * i ∧ t.num (0x8000080000 + 32 * i + 24) 4 = 256) ∧
     (∀ k, t.dev.bootFail = some k → 1 ≤ k ∧ k ≤ 5 ∧ t.dev.bringUp + 1 = k ∧ (firmwareVerified = false → k ≤ 2)))

/-! ### Uniform instructions (R187 to R191) -/

/-- The arithmetic of the uniform unit (R187, Table 7-1): moves, sums, products, shifts by bits [7:0], extremes and counts on 64
bits, each with the bound of its class in Table 4-2, or the token of its first poisoned source.

Selection and lane reads of the uniform unit (R189, R190, R191): SSEL takes the predicate of the lowest issuing lane and reads
the selected source only; SLANE reads lane sb[5:0], extended, or 0 unbounded where that lane is DONE or beyond W; SRSR reads a
register of Table 2-4 exactly. -/
def Obligations.UniformResults : Prop :=
  (∀ (d a b : Reg) (i : BitVec 16) (j : BitVec 10) (k : BitVec 4) (u : Bool),
     let va := fun (s : State) => (s.cur.rd.s s.pk a.toNat).data
     let vb := fun (s : State) => (s.cur.rd.s s.pk b.toNat).data
     let ea := fun (s : State) => (s.os a).eb
     let eb := fun (s : State) => (s.os b).eb
     let one := fun (s : State) => [s.os a]
     let two := fun (s : State) => [s.os a, s.os b]
     let bitwise := fun (s : State) => if ea s = 0 ∧ eb s = 0 then (0 : EB) else ebInf
     GivesS (.smov d a) d one (fun s => ⟨va s, ea s⟩) ∧
     GivesS (.smovi d i) d (fun _ => []) (fun _ => ⟨i.signExtend 64, 0⟩) ∧
     GivesS (.smovh d i) d (fun s => [s.os d])
       (fun s => ⟨((s.cur.rd.s s.pk d.toNat).data <<< 16) ||| i.setWidth 64, if (s.os d).eb = 0 then 0 else ebInf⟩) ∧
     GivesS (.sadd d a b) d two
       (fun s => ⟨va s + vb s, intEb 64 ((va s).toInt + (vb s).toInt) (ebAdd (ea s) (eb s))⟩) ∧
     GivesS (.saddi d a j) d one
       (fun s => ⟨va s + j.signExtend 64, intEb 64 ((va s).toInt + j.toInt) (ea s)⟩) ∧
     GivesS (.ssub d a b) d two
       (fun s => ⟨va s - vb s, intEb 64 ((va s).toInt - (vb s).toInt) (ebAdd (ea s) (eb s))⟩) ∧
     GivesS (.smul d a b) d two
       (fun s => ⟨va s * vb s, intEb 64 ((va s).toInt * (vb s).toInt) (intMulEb (va s).toInt (vb s).toInt (ea s) (eb s))⟩) ∧
     GivesS (.smulh d a b u) d two
       (fun s => ⟨if u then BitVec.ofNat 64 ((va s).toNat * (vb s).toNat / 2 ^ 64)
         else BitVec.ofInt 64 ((va s).toInt * (vb s).toInt / 2 ^ 64), bitwise s⟩) ∧
     GivesS (.sand d a b) d two (fun s => ⟨va s &&& vb s, bitwise s⟩) ∧
     GivesS (.sor d a b) d two (fun s => ⟨va s ||| vb s, bitwise s⟩) ∧
     GivesS (.sxor d a b) d two (fun s => ⟨va s ^^^ vb s, bitwise s⟩) ∧
     GivesS (.sshl d a b) d two (fun s => ⟨va s <<< ((vb s).toNat % 256), bitwise s⟩) ∧
     GivesS (.sshr d a b) d two (fun s => ⟨va s >>> ((vb s).toNat % 256), bitwise s⟩) ∧
     GivesS (.ssra d a b) d two (fun s => ⟨(va s).sshiftRight ((vb s).toNat % 256), bitwise s⟩) ∧
     GivesS (.smin d a b u) d two (fun s =>
       ⟨if (if u then (vb s).ult (va s) else (vb s).slt (va s)) then vb s else va s, ebMax (ea s) (eb s)⟩) ∧
     GivesS (.smax d a b u) d two (fun s =>
       ⟨if (if u then (va s).ult (vb s) else (va s).slt (vb s)) then vb s else va s, ebMax (ea s) (eb s)⟩) ∧
     GivesS (.spopc d a) d one
       (fun s => ⟨BitVec.ofNat 64 ((List.range 64).countP (fun n => (va s).getLsbD n)), if ea s = 0 then 0 else ebInf⟩) ∧
     GivesS (.sclz d a) d one (fun s => ⟨BitVec.ofNat 64 (if va s = 0 then 64 else 63 - (va s).toNat.log2), if ea s = 0 then 0 else ebInf⟩) ∧
     GivesS (.slea d a b k) d two
       (fun s => ⟨va s + (vb s <<< k.toNat),
         intEb 64 ((va s).toInt + (vb s).toInt * 2 ^ k.toNat) (ebAdd (ea s) (ebMulMag 1 k.toNat (eb s)))⟩)) ∧
  (∀ (d a b : Reg) (n : BitVec 3) (sense sx : Bool) (m : BitVec 10),
     Gives (.ssel d a b n sense) (fun s =>
       let q := s.op n s.lowLane
       let r := if pVal q != sense then a else b
       Eff.uni d (if pPois q then SCell.tok (mkTok (pCode q) s.pk)
         else orTokS [s.os r] ⟨(s.cur.rd.s s.pk r.toNat).data, (s.os r).eb⟩)) ∧
     Gives (.slane d a b sx) (fun s =>
       let j := (s.os b).v % 64
       Eff.uni d (if j < s.cur.rd.width ∧ (s.cur.rd.lane j).st ≠ .done
         then orTokS [s.os b, s.ov a j]
           ⟨if sx then (s.rv a j).data.signExtend 64 else (s.rv a j).data.setWidth 64, (s.ov a j).eb⟩
         else orTokS [s.os b] ⟨0, ebInf⟩)) ∧
     (∀ s v, Issuing s (.srsr m d) → userReg s m.toNat = some v →
       ∃ g', exec (.srsr m d) s = .next (s.upG (fun _ => g')) ∧ Writes s.curG g' (Eff.uni d (SCell.exact v))))

/-- SCMP and VCMP (R188, Table 7-2): VAL is the relation, P and CODE are 0, A is that of R105; a poisoned operand gives P = 1 with
its code. SCMP writes one outcome into every issuing lane. A write to p0 is discarded (R49).

R105: VAL is computed from the values as held, and A is set exactly where an operand is unbounded, or where some pair of real
numbers within the bounds has the other outcome; values and bounds are in units of 2^-157 (R96). The integer comparisons read their operands
signed, or unsigned under an unsigned condition, and FCMP takes finite operands at their values (R204, Table 7-8): an infinite operand lies
beyond every finite one, and with a NaN .ne and .uno alone are true; the bound of either counts as unbounded. A poisoned operand gives P = 1,
VAL = 0, A = 0 and its code. -/
def Obligations.ComparisonsAndAmbiguity : Prop :=
  (∀ (p : BitVec 3) (a b : Reg) (k : ICond),
     GivesP (.scmp p a b k) p (fun s _ =>
       match firstTok [s.os a, s.os b] with
       | some t => predPois (tokCode t)
       | none => mkPred (holdsInt k (s.cur.rd.s s.pk a.toNat).data (s.cur.rd.s s.pk b.toNat).data)
           (pAmb (compareInt 64 k (s.os a) (s.os b)))) ∧
     GivesP (.vcmp p a b k) p (fun s l =>
       match firstTok [s.ov a l, s.ov b l] with
       | some t => predPois (tokCode t)
       | none => mkPred (holdsInt k (s.rv a l).data (s.rv b l).data) (pAmb (compareInt 32 k (s.ov a l) (s.ov b l))))) ∧
  ((∀ (r : Rel) (a b : Int) (ea eb : EB),
     (pVal (compareFx r a b ea eb) = true ↔ r.on ((a : ℝ) - b)) ∧
     (pAmb (compareFx r a b ea eb) = true ↔
       ebBig ea = true ∨ ebBig eb = true ∨
       ∃ x y : ℝ, |x - a| ≤ ebNat ea ∧ |y - b| ≤ ebNat eb ∧ ¬ (r.on (x - y) ↔ r.on ((a : ℝ) - b))) ∧
     pPois (compareFx r a b ea eb) = false) ∧
   (∀ (w : Nat) (x y : Opd), firstTok [x, y] = none →
     (∀ p ∈ [(ICond.eq, Rel.eq), (.ne, .ne), (.lt, .lt), (.le, .le), (.gt, .gt), (.ge, .ge)],
       compareInt w p.1 x y = compareFx p.2 (signed w x.v * 2 ^ 157) (signed w y.v * 2 ^ 157) x.eb y.eb) ∧
     (∀ p ∈ [(ICond.ltu, Rel.lt), (.leu, .le), (.gtu, .gt), (.geu, .ge)],
       compareInt w p.1 x y = compareFx p.2 (x.v * 2 ^ 157) (y.v * 2 ^ 157) x.eb y.eb) ∧
     (∀ p ∈ [(FCond.eq, Rel.eq), (.ne, .ne), (.lt, .lt), (.le, .le), (.gt, .gt), (.ge, .ge)], ∀ a b : Ex,
       fvOf .f32 x.v = .fin a → fvOf .f32 y.v = .fin b → compareFp p.1 x y = compareFx p.2 (fx157 a) (fx157 b) x.eb y.eb) ∧
     (∀ k, fvOf .f32 x.v = .nan ∨ fvOf .f32 y.v = .nan → compareFp k x y = mkPred (decide (k = .ne) || decide (k = .uno)) true) ∧
     (fvOf .f32 x.v ≠ .nan → fvOf .f32 y.v ≠ .nan →
       let wide := fun (o : Opd) => !(fvOf .f32 o.v).isFin || ebBig o.eb
       compareFp .ord x y = mkPred true (wide x || wide y) ∧ compareFp .uno x y = mkPred false (wide x || wide y) ∧
       ((fvOf .f32 x.v).isFin = false ∨ (fvOf .f32 y.v).isFin = false →
         let rank := fun (o : Opd) => match fvOf .f32 o.v with | .inf n => if n then (-1 : Int) else 1 | _ => 0
         ∀ p ∈ [(FCond.eq, Rel.eq), (.ne, .ne), (.lt, .lt), (.le, .le), (.gt, .gt), (.ge, .ge)],
           pAmb (compareFp p.1 x y) = true ∧ (pVal (compareFp p.1 x y) = true ↔ p.2.on ((rank x - rank y : Int) : ℝ))))) ∧
   (∀ (x y : Opd) (t : Word), firstTok [x, y] = some t →
     (∀ w k, compareInt w k x y = predPois (tokCode t)) ∧ (∀ k, compareFp k x y = predPois (tokCode t)) ∧
     pPois (predPois (tokCode t)) = true ∧ pVal (predPois (tokCode t)) = false ∧ pAmb (predPois (tokCode t)) = false ∧
     pCode (predPois (tokCode t)) = tokCode t))

/-! ### Vector integer instructions (R192 to R201) -/

/-- The vector arithmetic of R192 to R195 (Table 7-3), lane by lane on 32 bits, each with the bound of its class in Table 4-2 or the
token of its first poisoned source; VMAD.wide adds the product to a pair.

The bitwise instructions, shifts and counts of R192, R196 and R197 (Table 7-3). -/
def Obligations.VectorIntegerResults : Prop :=
  (∀ (d a b : Reg) (j : BitVec 10) (u : Bool),
     let va := fun (s : State) (l : Nat) => (s.rv a l).data
     let vb := fun (s : State) (l : Nat) => (s.rv b l).data
     let vd := fun (s : State) (l : Nat) => (s.rv d l).data
     let ea := fun (s : State) (l : Nat) => (s.ov a l).eb
     let eb := fun (s : State) (l : Nat) => (s.ov b l).eb
     let one := fun (s : State) (l : Nat) => [s.ov a l]
     let two := fun (s : State) (l : Nat) => [s.ov a l, s.ov b l]
     let bitwise := fun (s : State) (l : Nat) => if ea s l = 0 ∧ eb s l = 0 then (0 : EB) else ebInf
     let prod := fun (s : State) (l : Nat) => intMulEb (va s l).toInt (vb s l).toInt (ea s l) (eb s l)
     GivesV (.vadd d a b) d two
       (fun s l => ⟨va s l + vb s l, intEb 32 ((va s l).toInt + (vb s l).toInt) (ebAdd (ea s l) (eb s l))⟩) ∧
     GivesV (.vaddi d a j) d one
       (fun s l => ⟨va s l + j.signExtend 32, intEb 32 ((va s l).toInt + j.toInt) (ea s l)⟩) ∧
     GivesV (.vsub d a b) d two
       (fun s l => ⟨va s l - vb s l, intEb 32 ((va s l).toInt - (vb s l).toInt) (ebAdd (ea s l) (eb s l))⟩) ∧
     GivesV (.vmul d a b) d two
       (fun s l => ⟨va s l * vb s l, intEb 32 ((va s l).toInt * (vb s l).toInt) (prod s l)⟩) ∧
     GivesV (.vmulh d a b u) d two
       (fun s l => ⟨if u then BitVec.ofNat 32 ((va s l).toNat * (vb s l).toNat / 2 ^ 32)
         else BitVec.ofInt 32 ((va s l).toInt * (vb s l).toInt / 2 ^ 32), bitwise s l⟩) ∧
     GivesV (.vmad d a b false) d (fun s l => [s.ov a l, s.ov b l, s.ov d l])
       (fun s l => ⟨va s l * vb s l + vd s l,
         intEb 32 ((va s l).toInt * (vb s l).toInt + (vd s l).toInt) (ebAdd (prod s l) (s.ov d l).eb)⟩) ∧
     Gives (.vmad d a b true) (fun s =>
       let r := fun (l : Nat) => (va s l).toInt * (vb s l).toInt + (BitVec.ofNat 64 (s.opair d l).v).toInt
       let e := fun (l : Nat) => intEb 64 (r l) (ebAdd (prod s l) (s.opair d l).eb)
       let x := fun (l : Nat) => BitVec.ofInt 64 (r l)
       Eff.pair s d.toNat (fun l => orTok [s.ov a l, s.ov b l, s.opair d l] ⟨(x l).setWidth 32, e l⟩)
         (fun l => orTok [s.ov a l, s.ov b l, s.opair d l] ⟨(x l >>> 32).setWidth 32, e l⟩)) ∧
     GivesV (.vmin d a b u) d two (fun s l =>
       ⟨if (if u then (vb s l).ult (va s l) else (vb s l).slt (va s l)) then vb s l else va s l, ebMax (ea s l) (eb s l)⟩) ∧
     GivesV (.vmax d a b u) d two (fun s l =>
       ⟨if (if u then (va s l).ult (vb s l) else (va s l).slt (vb s l)) then vb s l else va s l, ebMax (ea s l) (eb s l)⟩) ∧
     GivesV (.vabs d a false) d one
       (fun s l => ⟨if (va s l).msb then -(va s l) else va s l, intEb 32 (va s l).toInt.natAbs (ea s l)⟩) ∧
     GivesV (.vabs d a true) d one (fun s l =>
       if isNaN .f32 (va s l).toNat then ⟨0x7FC00000, ebInf⟩
       else ⟨va s l &&& 0x7FFFFFFF, if isInf .f32 (va s l).toNat then ebInf else ea s l⟩)) ∧
  (∀ (d a b : Reg) (n : BitVec 4),
     let va := fun (s : State) (l : Nat) => (s.rv a l).data
     let vb := fun (s : State) (l : Nat) => (s.rv b l).data
     let vd := fun (s : State) (l : Nat) => (s.rv d l).data
     let sn := fun (s : State) => (s.cur.rd.s s.pk n.toNat).data
     let ea := fun (s : State) (l : Nat) => (s.ov a l).eb
     let eb := fun (s : State) (l : Nat) => (s.ov b l).eb
     let one := fun (s : State) (l : Nat) => [s.ov a l]
     let two := fun (s : State) (l : Nat) => [s.ov a l, s.ov b l]
     let e1 := fun (s : State) (l : Nat) => if ea s l = 0 then (0 : EB) else ebInf
     let e2 := fun (s : State) (l : Nat) => if ea s l = 0 ∧ eb s l = 0 then (0 : EB) else ebInf
     let shifted := fun (s : State) (l : Nat) => if ea s l = 0 ∧ eb s l = 0 ∧ (s.osN n.toNat).eb = 0 then (0 : EB) else ebInf
     GivesV (.vand d a b) d two (fun s l => ⟨va s l &&& vb s l, e2 s l⟩) ∧
     GivesV (.vor d a b) d two (fun s l => ⟨va s l ||| vb s l, e2 s l⟩) ∧
     GivesV (.vxor d a b) d two (fun s l => ⟨va s l ^^^ vb s l, e2 s l⟩) ∧
     GivesV (.vlop3 d a b n) d (fun s l => [s.ov a l, s.ov b l, s.ov d l, s.osN n.toNat])
       (fun s l => ⟨BitVec.ofNat 32 (lop3 ((sn s).toNat % 256) (va s l).toNat (vb s l).toNat (vd s l).toNat),
         if ea s l = 0 ∧ eb s l = 0 ∧ (s.ov d l).eb = 0 ∧ (s.osN n.toNat).eb = 0 then 0 else ebInf⟩) ∧
     GivesV (.vshl d a b) d two (fun s l => ⟨va s l <<< ((vb s l).toNat % 256), e2 s l⟩) ∧
     GivesV (.vshr d a b) d two (fun s l => ⟨va s l >>> ((vb s l).toNat % 256), e2 s l⟩) ∧
     GivesV (.vsra d a b) d two (fun s l => ⟨(va s l).sshiftRight ((vb s l).toNat % 256), e2 s l⟩) ∧
     GivesV (.vfshl d a b n) d (fun s l => [s.ov a l, s.ov b l, s.osN n.toNat])
       (fun s l => ⟨(((va s l ++ vb s l) <<< ((sn s).toNat % 32)) >>> 32).setWidth 32, shifted s l⟩) ∧
     GivesV (.vfshr d a b n) d (fun s l => [s.ov a l, s.ov b l, s.osN n.toNat])
       (fun s l => ⟨((va s l ++ vb s l) >>> ((sn s).toNat % 32)).setWidth 32, shifted s l⟩) ∧
     GivesV (.vpopc d a) d one
       (fun s l => ⟨BitVec.ofNat 32 ((List.range 32).countP (fun n => (va s l).getLsbD n)), e1 s l⟩) ∧
     GivesV (.vclz d a) d one
       (fun s l => ⟨BitVec.ofNat 32 (if va s l = 0 then 32 else 31 - (va s l).toNat.log2), e1 s l⟩) ∧
     GivesV (.vbrev d a) d one (fun s l => ⟨(va s l).reverse, e1 s l⟩))

/-- Moves, selection and exchange between lanes (R189, R194, R198 to R201). -/
def Obligations.VectorMovement : Prop :=
  ∀ (d a b : Reg) (i : BitVec 16) (n : BitVec 3) (sense hi team : Bool) (m : ShMode) (g : DpMode) (o : RedOp),
    let sa := fun (s : State) => (s.cur.rd.s s.pk a.toNat).data
    Gives (.vmov d a) (fun s => Eff.vec s d (fun l => s.rv a l)) ∧
    Gives (.vmovi d i) (fun s => Eff.vec s d (fun _ => ⟨i.signExtend 32, 0⟩)) ∧
    GivesV (.vbcst d a hi) d (fun s _ => [s.os a])
      (fun s _ => ⟨if hi then (sa s >>> 32).setWidth 32 else (sa s).setWidth 32, (s.os a).eb⟩) ∧
    Gives (.vsel d a b n sense) (fun s => Eff.vec s d (fun l =>
      let q := s.op n l
      if pPois q then VCell.tok (mkTok (pCode q) s.pk) else s.rv (if pVal q != sense then a else b) l)) ∧
    GivesV (.vshfl d a b m) d (fun s l => [s.ov b l])
      (fun s l => s.rv a (shflLane s.cur.rd m l (s.rv b l).data.toNat)) ∧
    GivesV (.vdp4 d a b g) d (fun s l => [s.ov a l, s.ov b l, s.ov d l]) (fun s l =>
      let el := fun (sg : Bool) (x : Word) (k : Nat) =>
        let e : BitVec 8 := x.extractLsb' (8 * k) 8
        if sg then e.toInt else (e.toNat : Int)
      let p := fun (k : Nat) => (el (g = .ss ∨ g = .su) (s.rv a l).data k, el (g = .ss ∨ g = .us) (s.rv b l).data k)
      let r := (p 0).1 * (p 0).2 + (p 1).1 * (p 1).2 + (p 2).1 * (p 2).2 + (p 3).1 * (p 3).2 + (s.rv d l).data.toInt
      let e := fun (k : Nat) => intMulEb (p k).1 (p k).2 (s.ov a l).eb (s.ov b l).eb
      ⟨BitVec.ofInt 32 r, intEb 32 r (ebAdd (ebAdd (ebAdd (ebAdd (ebAdd 0 (e 0)) (e 1)) (e 2)) (e 3)) (s.ov d l).eb)⟩) ∧
    GivesF (.vred d a o) d (fun s _ => reduce o ((lanesOf s.cur.mask).map (fun l => s.ov a l))) ∧
    Gives (.vlane d team) (fun s => Eff.vec s d (fun l =>
      ⟨BitVec.ofNat 32 (if team then s.cur.rd.gid * s.cur.rd.width + l else l), 0⟩))

/-! ### Floating point (R202 to R215) -/

/-- FADD, FSUB, FMUL, FFMA, FFMS and FSACC (R203, R207): every issuing lane computes its exact sum, product or fused result and
delivers it through the variant of its class, with the bound of Table 4-2 and the flags; AUTO takes one variant for the issue
(R108). FSUB and FFMS negate their subtrahend; FSACC scales by the product of two BF16 values. -/
def Obligations.FloatArithmeticResults : Prop :=
  ∀ (d a b : Reg) (k : Cls),
    let x := fun (s : State) (l : Nat) => s.ov a l
    let y := fun (s : State) (l : Nat) => s.ov b l
    let z := fun (s : State) (l : Nat) => s.ov d l
    let v := fun (s : State) (i : Instr) => match k with
      | .exact => Vari.full | .short => .short | .lean => .lean | .auto => autoVari s i
    let out := fun (j : FpJob) (v : Vari) (fl : BitVec 5) =>
      (⟨⟨BitVec.ofNat 32 (j.out .f32 v).1, (j.out .f32 v).2.1⟩, (j.out .f32 v).2.2 ||| fl⟩ : LaneOut)
    GivesF (.fadd d a b k) d (fun s l => laneOut [x s l, y s l]
      (out (jobAdd .f32 (x s l).v (y s l).v (x s l).eb (y s l).eb false) (v s (.fadd d a b k)) 0)) ∧
    GivesF (.fsub d a b k) d (fun s l => laneOut [x s l, y s l]
      (out (jobAdd .f32 (x s l).v (y s l).v (x s l).eb (y s l).eb true) (v s (.fsub d a b k)) 0)) ∧
    GivesF (.fmul d a b k) d (fun s l => laneOut [x s l, y s l]
      (out (jobMul .f32 (x s l).v (y s l).v (x s l).eb (y s l).eb) (v s (.fmul d a b k)) 0)) ∧
    GivesF (.ffma d a b k) d (fun s l => laneOut [x s l, y s l, z s l]
      (out (jobFma .f32 (x s l).v (y s l).v (z s l).v (x s l).eb (y s l).eb (z s l).eb false) (v s (.ffma d a b k)) 0)) ∧
    GivesF (.ffms d a b k) d (fun s l => laneOut [x s l, y s l, z s l]
      (out (jobFma .f32 (x s l).v (y s l).v (z s l).v (x s l).eb (y s l).eb (z s l).eb true) (v s (.ffms d a b k)) 0)) ∧
    GivesF (.fsacc d a b k) d (fun s l => laneOut [x s l, y s l, z s l]
      (out (jobScale (x s l).v (y s l).v (z s l).v (x s l).eb (y s l).eb (z s l).eb) (v s (.fsacc d a b k))
        (scaleOf (y s l).v).2))

/-- FMIN, FMAX, FCMP (by the relation that ComparisonsAndAmbiguity gives), FCLASS, FSCALE, FRND, FBND, FSETB and, under BNDTRUST, FCLRB (R203 to R206, R208, R210).

FHADD, FHMUL and FHFMA (R209) on both elements of a word: computed in FULL whatever the class, the larger element bound, the
flags of both. -/
def Obligations.FloatOtherResults : Prop :=
  (∀ (p : BitVec 3) (d a b : Reg) (k : FCond) (r : Rnd),
     let x := fun (s : State) (l : Nat) => s.ov a l
     let y := fun (s : State) (l : Nat) => s.ov b l
     GivesV (.fmin d a b) d (fun s l => [x s l, y s l]) (fun s l =>
       ⟨BitVec.ofNat 32 (fpOrder false (x s l).v (y s l).v (x s l).eb (y s l).eb).1,
         (fpOrder false (x s l).v (y s l).v (x s l).eb (y s l).eb).2⟩) ∧
     GivesV (.fmax d a b) d (fun s l => [x s l, y s l]) (fun s l =>
       ⟨BitVec.ofNat 32 (fpOrder true (x s l).v (y s l).v (x s l).eb (y s l).eb).1,
         (fpOrder true (x s l).v (y s l).v (x s l).eb (y s l).eb).2⟩) ∧
     GivesP (.fcmp p a b k) p (fun s l => compareFp k (x s l) (y s l)) ∧
     GivesV (.fclass d a) d (fun s l => [x s l]) (fun s l =>
       ⟨BitVec.ofNat 32 (fpClass (x s l).v), if ebSrc .f32 (x s l).v (x s l).eb = 0 then 0 else ebInf⟩) ∧
     GivesF (.fscale d a b) d (fun s l => laneOut [x s l, y s l]
       (let o := fpScale (x s l).v (s.rv b l).data.toInt
        ⟨⟨BitVec.ofNat 32 o.bits, scaleEb (x s l) (y s l) o⟩, o.flags⟩)) ∧
     GivesF (.frnd d a r) d (fun s l => laneOut [x s l]
       (let o := fpRndInt r (x s l).v
        ⟨⟨BitVec.ofNat 32 o.bits,
          ebRes .f32 o (ebAdd (ebSrc .f32 (x s l).v (x s l).eb) (rhoConv .i32 r o.bits o.nx))⟩, o.flags⟩)) ∧
     GivesV (.fbnd d a) d (fun s l => [x s l]) (fun s l => ⟨BitVec.ofNat 32 (boundToFp (x s l).eb), 0⟩) ∧
     GivesV (.fsetb d a b) d (fun s l => [x s l, y s l])
       (fun s l => ⟨(s.rv a l).data, ebMax (x s l).eb (fpToBound (y s l).v)⟩) ∧
     (∀ s, Issuing s (.fclrb d a) → s.cur.rd.sp.lflags.getLsbD 2 = true →
       ∃ g', exec (.fclrb d a) s = .next (s.upG (fun _ => g')) ∧
         Writes s.curG g' (Eff.vec s d (fun l => orTok [x s l] ⟨(s.rv a l).data, 0⟩)))) ∧
  (∀ (d a b : Reg) (k : Cls) (bf : Bool),
     let f := if bf then Fmt.bf16 else Fmt.f16
     let el := fun (w : Word) (i : Nat) => (w.extractLsb' (16 * i) 16).toNat
     let two := fun (j : Nat → FpJob) =>
       let lo := (j 0).out f .full
       let hi := (j 1).out f .full
       (⟨⟨BitVec.ofNat 32 (lo.1 + hi.1 * 65536), ebMax lo.2.1 hi.2.1⟩, lo.2.2 ||| hi.2.2⟩ : LaneOut)
     GivesF (.fhadd d a b k bf) d (fun s l => laneOut [s.ov a l, s.ov b l] (two (fun i =>
       jobAdd f (el (s.rv a l).data i) (el (s.rv b l).data i) (s.ov a l).eb (s.ov b l).eb false))) ∧
     GivesF (.fhmul d a b k bf) d (fun s l => laneOut [s.ov a l, s.ov b l] (two (fun i =>
       jobMul f (el (s.rv a l).data i) (el (s.rv b l).data i) (s.ov a l).eb (s.ov b l).eb))) ∧
     GivesF (.fhfma d a b k bf) d (fun s l => laneOut [s.ov a l, s.ov b l, s.ov d l] (two (fun i =>
       jobFma f (el (s.rv a l).data i) (el (s.rv b l).data i) (el (s.rv d l).data i) (s.ov a l).eb (s.ov b l).eb (s.ov d l).eb
         false))))

/-- CVT, PKN and UNPKN (R212 to R214): each element is converted with its flags and bound; PKN shifts the old word up where the
format is narrower than 16 bits, and reads it only there; UNPKN sets no flag.

The special functions (R215, R101): FRCP, FRSQ, FEX2, FLG2, FSIN and FCOS compute FULL whatever the class field holds. -/
def Obligations.ConversionsAndSpecialFunctions : Prop :=
  (∀ (d a b : Reg) (src dst : Fmt) (r : Rnd) (sat : Bool) (j : BitVec 3),
     let x := fun (s : State) (l : Nat) => s.ov a l
     let y := fun (s : State) (l : Nat) => s.ov b l
     let z := fun (s : State) (l : Nat) => s.ov d l
     let from_ := if dst.isFloat then Fmt.f32 else Fmt.i32
     let lo := fun (s : State) (l : Nat) => convertElem from_ dst .rn sat (x s l).v
     let hi := fun (s : State) (l : Nat) => convertElem from_ dst .rn sat (y s l).v
     let e := fun (s : State) (l : Nat) =>
       ebMax (convertEb from_ dst .rn (x s l).v (lo s l) (x s l).eb) (convertEb from_ dst .rn (y s l).v (hi s l) (y s l).eb)
     GivesF (.cvt d a src dst r sat) d (fun s l => laneOut [x s l]
       (let q := elemOf src (x s l).v 0
        let o := convertElem src dst r sat q
        ⟨⟨BitVec.ofNat 32 o.bits, convertEb src dst r q o (x s l).eb⟩, o.flags⟩)) ∧
     GivesF (.pkn d a b dst sat) d (fun s l =>
       if dst.width < 16 then laneOut [x s l, y s l, z s l]
         ⟨⟨(s.rv d l).data <<< (2 * dst.width) + BitVec.ofNat 32 ((hi s l).bits * 2 ^ dst.width + (lo s l).bits),
           ebMax (z s l).eb (e s l)⟩, (lo s l).flags ||| (hi s l).flags⟩
       else laneOut [x s l, y s l]
         ⟨⟨BitVec.ofNat 32 ((hi s l).bits * 2 ^ dst.width + (lo s l).bits), e s l⟩, (lo s l).flags ||| (hi s l).flags⟩) ∧
     GivesV (.unpkn d a src j) d (fun s l => [x s l]) (fun s l =>
       let to_ := if src.isFloat then Fmt.f32 else Fmt.i32
       let q := elemOf src (x s l).v j.toNat
       let o := convertElem src to_ .rn false q
       ⟨BitVec.ofNat 32 o.bits, convertEb src to_ .rn q o (x s l).eb⟩)) ∧
  (∀ (d a : Reg) (k : Cls),
     let out := fun (f : Nat → FpOut) (p : Nat → EB → EB) (s : State) (l : Nat) =>
       laneOut [s.ov a l]
         (let o := f (s.ov a l).v
          let e := if isNaN .f32 (s.ov a l).v || isInf .f32 (s.ov a l).v then ebInf
            else ebAdd (p (s.ov a l).v (s.ov a l).eb) (rhoFull .f32 o.bits o.nx)
          (⟨⟨BitVec.ofNat 32 o.bits, ebRes .f32 o e⟩, o.flags⟩ : LaneOut))
     let bounded := fun (p : Nat → EB → EB) (v : Nat) (e : EB) => if ebBig e then ebInf else p v e
     GivesF (.frcp d a k) d (out fnRcp (bounded propRcp)) ∧
     GivesF (.frsq d a k) d (out fnRsq (bounded propRsq)) ∧
     GivesF (.fex2 d a k) d (out fnEx2 (bounded propEx2)) ∧
     GivesF (.flg2 d a k) d (out fnLg2 (bounded propLg2)) ∧
     GivesF (.fsin d a k) d (out (fnTrig 0) (fun _ => propTrig)) ∧
     GivesF (.fcos d a k) d (out (fnTrig 1) (fun _ => propTrig)))

/-! ### Control (R216 to R222) -/

/-- Transfers of control (R216 to R219): BRA moves every issuing lane to its target; BRC moves the lanes whose VAL differs from the
sense; BRX takes each lane's pair or one uniform register; CALL writes the PC after it into the pair regs - 2, regs - 1; RET
returns to a pair, and while HND = 1 in user mode to s63, which ends the handler (R127). A target of slot 3 is excluded here: see
UserTraps.

That RET in supervisor mode returns to its pair though HND = 1 is the model's reading (log entry 42). -/
def Obligations.ControlTransfers : Prop :=
  ∀ (o : BitVec 20) (o' : BitVec 16) (q : BitVec 2) (p : BitVec 3) (sense : Bool) (a : Reg),
    let moves := fun (i : Instr) (s : State) (pc : Nat → Option PC) =>
      ∃ g', exec i s = .next (s.upG (fun _ => g')) ∧ Moves s.curG g' pc
    let all := fun (s : State) (c : PC) (l : Nat) => if s.cur.mask.getLsbD l then some c else none
    let pairPc := fun (s : State) (l : Nat) => ((s.rvN (a.toNat + 1) l).data ++ (s.rvN a.toNat l).data).setWidth 48
    let uni := fun (s : State) (n : Nat) => (s.cur.rd.s s.pk n).data.setWidth 48
    (∀ s, Issuing s (.bra o q) → q ≠ 3 → moves (.bra o q) s (all s (branchTo s o q))) ∧
    (∀ s, Issuing s (.brc p o' q sense) → q ≠ 3 → moves (.brc p o' q sense) s (fun l =>
      if s.cur.mask.getLsbD l ∧ pVal (s.op p l) ≠ sense then some (branchTo s o' q) else none)) ∧
    (∀ s, Issuing s (.brx a) → (∀ l, s.cur.mask.getLsbD l = true → slotOf (pairPc s l) ≠ 3) →
      moves (.brx a) s (fun l => if s.cur.mask.getLsbD l then some (pairPc s l) else none)) ∧
    (∀ s, Issuing s (.brxU a) → slotOf (uni s a.toNat) ≠ 3 → moves (.brxU a) s (all s (uni s a.toNat))) ∧
    (∀ s, Issuing s (.call o q) → q ≠ 3 → ∃ g1 g',
      exec (.call o q) s = .next (s.upG (fun _ => g')) ∧
      Writes s.curG g1 (Eff.pair s (s.cur.rd.regs - 2) (fun _ => ⟨(nextPc s.cur.wpc).setWidth 32, 0⟩)
        (fun _ => ⟨((nextPc s.cur.wpc) >>> 32).setWidth 32, 0⟩)) ∧
      Moves g1 g' (all s (branchTo s o q))) ∧
    (∀ s, Issuing s (.ret a) → (s.cur.rd.sp.hnd && !s.cur.rd.sp.sv) = false →
      (∀ l, s.cur.mask.getLsbD l = true → slotOf (pairPc s l) ≠ 3) →
      moves (.ret a) s (fun l => if s.cur.mask.getLsbD l then some (pairPc s l) else none)) ∧
    (∀ s, Issuing s (.ret a) → (s.cur.rd.sp.hnd && !s.cur.rd.sp.sv) = true → slotOf (uni s 63) ≠ 3 →
      ∃ g1 g', exec (.ret a) s = .next (s.upG (fun _ => g')) ∧ Moves s.curG g1 (all s (uni s 63)) ∧
        ∃ os, g' = { g1 with sp := { g1.sp with hnd := false, hndMask := 0 }, outst := os } ∧
          os.map Entry.plain = g1.outst.map Entry.plain)

/-- ENROL, REJOIN and STRIKE (R29, R30): the masks, the join PC, the state of the knot, and the release of a complete knot. A
REJOIN at another PC than the join PC is excluded here: see UserTraps. -/
def Obligations.KnotOperations : Prop :=
  ∀ (k : BitVec 3) (s : State),
    let n := s.curG.k k.toNat
    let same := fun l => s.curG.lane l
    (Issuing s (.enrol k) → ∃ g', exec (.enrol k) s = .next (s.upG (fun _ => g')) ∧
      g'.k k.toNat = { n with enrolled := n.enrolled ||| s.cur.mask, armed := true } ∧
      (∀ j, j ≠ k.toNat → g'.k j = s.curG.k j) ∧ g'.outst.map Entry.plain = s.curG.outst.map Entry.plain ∧
      ∃ kn soft outst, g' = { s.curG with r := { s.curG.r with k := kn }, soft := soft, outst := outst }) ∧
    (Issuing s (.rejoin k) → (n.arrived = 0 ∨ n.joinPc = s.cur.wpc) →
      ∃ g', exec (.rejoin k) s = .next (s.upG (fun _ => g')) ∧
        KnotBecomes s.curG g' k.toNat
          { n with joinPc := s.cur.wpc, arrived := n.arrived ||| (s.cur.mask &&& n.enrolled) }
          (fun l => if (s.cur.mask &&& n.enrolled).getLsbD l
            then { s.curG.lane l with pc := s.cur.wpc, st := .knot k } else s.curG.lane l)) ∧
    (Issuing s (.strike k) → ∃ g', exec (.strike k) s = .next (s.upG (fun _ => g')) ∧
      KnotBecomes s.curG g' k.toNat
        (if n.enrolled &&& ~~~s.cur.mask = 0 then Knot.idle
         else { n with enrolled := n.enrolled &&& ~~~s.cur.mask, arrived := n.arrived &&& ~~~s.cur.mask }) same)

/-- Words without an effect on registers or memory of their own: NOP, PREF (R229), CHK, CHK with two registers, CHK.u and CHKP once
their operands pass (R267, R268), and YIELD where PREQ reads 0 (R37).

YIELD with PREQ = 1 stops the group until it is saved (R37), and changes nothing else.

SWSR (R54, R57, R191): a write to STATUS clears the flags that it names with 1, a write to CHANDLER replaces the handler's PC;
any other number, and a handler PC of slot 3, is illegal.

That PREF moves no data is the model's choice (log entry 7). -/
def Obligations.WordsWithoutResults : Prop :=
  (∀ (l : PfLevel) (b : BitVec 3) (o a c : Reg) (amb : Bool) (i : Instr),
     i ∈ [Instr.nop, .pref l b o, .chk a, .chkTwoRegisters a c, .chkU a, .chkp b amb] →
       ∀ s, (Issuing s i → exec i s = .next s) ∧
         (Issuing s .yield → preqOf s s.cur.rd = false → exec .yield s = .next s)) ∧
  (∀ s, Issuing s .yield → preqOf s s.cur.rd = true →
     exec .yield s = .next (s.upG (fun g => { g with ctl := { g.ctl with saving := true } }))) ∧
  (∀ (n : BitVec 10) (r : Reg) (s : State), Issuing s (.swsr n r) →
     let v := (s.cur.rd.s s.pk r.toNat).data
     (n = 3 → exec (.swsr n r) s =
       .next (s.upG (fun g => { g with sp := { g.sp with flags := g.sp.flags &&& ~~~(v.setWidth 5) } }))) ∧
     (n = 7 → v.toNat % 4 ≠ 3 → exec (.swsr n r) s =
       .next (s.upG (fun g => { g with sp := { g.sp with chandler := v.setWidth 48 } }))) ∧
     (n ≠ 3 → (n ≠ 7 ∨ v.toNat % 4 = 3) → exec (.swsr n r) s = .next (illegal s)))

/-! ### Traps (R318, R319, R325, R328) -/

/-- Trap entry of the issuing group from user mode (R325) at a vector that is no PC of slot 3: frame registers, lanes, mode, the bank of
R319 and the replay queue are as the rule says, and nothing else of the device changes. `own` selects the PC of Table 13-4. A vector of
slot 3 is a handler entry that raises MISPC (R61): the frame is that of a MISPC whose payload is the vector.

That a word's SLOT counts from the first word of its chain is the model's reading (log entry 14), and so is that a lane in DONE has LSTATE DONE
(log entry 55). -/
def Obligations.TrapEntry : Prop :=
  ∀ (s : State) (cause payload : Nat) (m : Mask) (own : Bool),
    (Tb.get? s.work.groups s.cur.h).isSome = true → s.curG.sp.sv = false → s.curG.whole → s.curG.rejected = none →
      let q := if own then s.cur.wpc else s.cur.pc
      (slotOf (vectorPc s cause) ≠ 3 → TrapTaken s (trap s cause payload m own) cause payload m q) ∧
      (slotOf (vectorPc s cause) = 3 → slotOf (vectorPc s 0x25) ≠ 3 →
        TrapTaken s (trap s cause payload m own) 0x25 (vectorPc s cause).toNat m q)

/-- Words whose effect is a trap from user mode: TRAPU raises USER at its own PC with its number (R222), a word that does not decode
raises ILLEGAL with the word (R177), and a word that cannot be fetched raises FETCH with its code and address (Table 13-4). The vector of
each cause is no PC of slot 3.

Transfers that trap from user mode: a target of slot 3 raises MISPC for the lanes with such a target, and no lane moves (R61); a
REJOIN at another PC than the knot's join PC raises KNOT (R29). Both trap at the word itself (Table 13-4). An ITEM whose exit target has
slot 3 raises MISPC for its issuing lanes before it serves any (R220).

That the EPC of FETCH is the PC of the chain's first word is the model's reading (log entry 14), and so is that a lane in DONE has LSTATE DONE
(log entry 55). -/
def Obligations.UserTraps : Prop :=
  (∀ (n : BitVec 16) (w : Word) (code va : Nat) (s : State), s.user → s.curG.whole → (∀ c ∈ [0x2A, 0x23, 0x28], s.canEnter c) →
     (Issuing s (.trapu n) → ∃ t, exec (.trapu n) s = .next t ∧ TrapTaken s t 0x2A n.toNat s.cur.mask s.cur.wpc) ∧
     (Issuing s (.illegalEncoding w) →
       ∃ t, exec (.illegalEncoding w) s = .next t ∧ TrapTaken s t 0x23 s.cur.word.toNat s.cur.mask s.cur.pc) ∧
     ((Tb.get? s.work.groups s.cur.h).isSome = true → ∃ t, exec (.fetchFault code va) s = .next t ∧
       TrapTaken s t 0x28 (code % 32 * 2 ^ 27 + va / 32 % 2 ^ 27) s.cur.mask s.cur.pc)) ∧
  (∀ (o : BitVec 20) (o' : BitVec 16) (o2 : BitVec 10) (p k : BitVec 3) (sense : Bool) (a : Reg) (s : State), s.user → s.curG.whole →
     s.canEnter 0x25 → s.canEnter 0x26 →
     let pairPc := fun (l : Nat) => ((s.rvN (a.toNat + 1) l).data ++ (s.rvN a.toNat l).data).setWidth 48
     let uni := fun (n : Nat) => (s.cur.rd.s s.pk n).data.setWidth 48
     let traps := fun (i : Instr) (bad : Mask) (target : PC) =>
       ∃ t, exec i s = .next t ∧ TrapTaken s t 0x25 target.toNat bad s.cur.wpc
     (Issuing s (.bra o 3) → s.cur.mask ≠ 0 → traps (.bra o 3) s.cur.mask (branchTo s o 3)) ∧
     (Issuing s (.call o 3) → s.cur.mask ≠ 0 → traps (.call o 3) s.cur.mask (branchTo s o 3)) ∧
     (Issuing s (.item k a o2 3) → s.cur.mask ≠ 0 → traps (.item k a o2 3) s.cur.mask (branchTo s o2 3)) ∧
     (∀ m, Issuing s (.brc p o' 3 sense) → m ≠ 0 →
       (∀ l, m.getLsbD l = (s.cur.mask.getLsbD l && decide (pVal (s.op p l) ≠ sense))) →
       traps (.brc p o' 3 sense) m (branchTo s o' 3)) ∧
     (∀ m l, Issuing s (.brx a) → (∀ j, m.getLsbD j = (s.cur.mask.getLsbD j && decide (slotOf (pairPc j) = 3))) →
       m.getLsbD l = true → (∀ j, j < l → m.getLsbD j = false) → traps (.brx a) m (pairPc l)) ∧
     (Issuing s (.brxU a) → s.cur.mask ≠ 0 → slotOf (uni a.toNat) = 3 → traps (.brxU a) s.cur.mask (uni a.toNat)) ∧
     (∀ m l, Issuing s (.ret a) → s.cur.rd.sp.hnd = false →
       (∀ j, m.getLsbD j = (s.cur.mask.getLsbD j && decide (slotOf (pairPc j) = 3))) →
       m.getLsbD l = true → (∀ j, j < l → m.getLsbD j = false) → traps (.ret a) m (pairPc l)) ∧
     (Issuing s (.ret a) → s.cur.rd.sp.hnd = true → s.cur.mask ≠ 0 → slotOf (uni 63) = 3 →
       traps (.ret a) s.cur.mask (uni 63)) ∧
     (Issuing s (.rejoin k) → (s.curG.k k.toNat).arrived ≠ 0 → (s.curG.k k.toNat).joinPc ≠ s.cur.wpc →
       ∃ t, exec (.rejoin k) s = .next t ∧ TrapTaken s t 0x26 k.toNat s.cur.mask s.cur.wpc))

/-- Privilege (R178): in user mode a word with an opcode from 0xE0 to 0xEC, or an SRSR or SWSR of a number at or above 0x200, has no effect
but the trap PRIV to the supervisor, whether it decodes or not and whatever its operands hold; in supervisor mode such an SRSR or SWSR
is illegal. -/
def Obligations.PrivilegedInUserMode : Prop :=
  (∀ (w : Word) (c b : Bool) (i : Instr) (s : State), decodeWord w = .ok ⟨c, b, i⟩ ∨ i = .illegalEncoding w →
    let opc := (w.extractLsb' 22 8).toNat
    (0xE0 ≤ opc ∧ opc ≤ 0xEC) ∨ ((opc = 0x16 ∨ opc = 0x17) ∧ 0x200 ≤ (w.extractLsb' 12 10).toNat) →
    s.user → (Tb.get? s.work.groups s.cur.h).isSome = true → s.curG.whole → s.canEnter 0x24 →
    ∃ t, exec i s = .next t ∧ TrapTaken s t 0x24 s.cur.word.toNat s.cur.mask s.cur.pc) ∧
  (∀ (n : BitVec 10) (r : Reg) (s : State), 0x200 ≤ n.toNat → s.cur.rd.sp.sv = true →
    (Issuing s (.srsr n r) → exec (.srsr n r) s = .next (illegal s)) ∧
    (Issuing s (.swsr n r) → exec (.swsr n r) s = .next (illegal s)))

/-- A word whose operands fail at a commit point (R115, R116) has no effect of its own: it takes the deferred fault, before a bad register
or a run hazard that it also meets; memory and every store on its way are as they were, and no engine task begins.

The containment handler (R125, R126): a deferred fault of a containable cause in user mode, with a handler set and HND = 0, sends
the issuing lanes to the handler with HND = 1 and the cause, the payload and the PC in s60 to s63. -/
def Obligations.CommitFailures : Prop :=
  (∀ (i : Instr) (s : State), commitFails s i ≠ [] → s.user → privFails s i = false → fieldFails s i = false →
     s.curG.rejected = none → slotOf (vectorPc s 0x25) ≠ 3 →
     exec i s = .next (deferred s (commitFails s i)) ∧
     (deferred s (commitFails s i)).mem = s.mem ∧ (deferred s (commitFails s i)).work.tasks = s.work.tasks ∧
     (deferred s (commitFails s i)).cur.trapped = true) ∧
  (∀ (s : State) (cause payload : Nat) (m : Mask) (s62 : Nat), (Tb.get? s.work.groups s.cur.h).isSome = true →
     s.curG.sp.sv = false → s.curG.sp.hnd = false → s.curG.sp.chandler ≠ 0 → slotOf s.curG.sp.chandler ≠ 3 → cause ∈ [1, 6, 7, 0x20] →
     let g := s.curG
     let g' := (deferredTrap s cause payload m s62).curG
     (deferredTrap s cause payload m s62).mem = s.mem ∧
     g'.sp = { g.sp with hnd := true, hndMask := s.cur.mask } ∧ g'.outst = g.outst ∧ g'.r.v = g.r.v ∧ g'.r.p = g.r.p ∧
     (∀ n, g'.sAt n = if n = 60 then SCell.exact cause else if n = 61 then SCell.exact payload else if n = 62 then SCell.exact s62
       else if n = 63 then SCell.exact s.cur.pc.toNat else g.sAt n) ∧
     (∀ l, l < g.lanes.length → g'.lane l = if s.cur.mask.getLsbD l then { g.lane l with pc := g.sp.chandler } else g.lane l))

/-- ITEM (R34, R220): once the takes from deques that the group has outstanding are performed, the issuing lanes take items in ascending order; a lane with an item has it in the pair that is outstanding, a
lane without leaves at the exit target and, where it is enrolled, is struck from knot k, which completes where no other lane is missing
(R29, R30). Memory and everything else of the group keep their values.

EXIT (R40, R41, R221): the issuing lanes pass to DONE at their PCs, struck from every knot; no lane changes that is neither issuing nor
arrived at a knot, and registers, flags and outstanding results keep their values. A knot that the strike leaves complete releases its
arrived lanes at the PC after its join PC and is idle (R29, R30, R32). Each lane is then dropped from every barrier
of the team's list, and a handler all of whose lanes are DONE ends (HND := 0).

That ITEM takes its items at issue is the model's choice (log entry 43). -/
def Obligations.ItemsAndExit : Prop :=
  (∀ (k : BitVec 3) (r : Reg) (o : BitVec 10) (q : BitVec 2) (s : State), Issuing s (.item k r o q) → q ≠ 3 →
     let u := takesBefore s s.cur.h s.ids (fun _ => true)
     let got := serveItems u s.cur.rd.launch s.cur.rd.core (lanesOf s.cur.mask)
     ((∀ e ∈ s.curG.outst, dqCore s.curG e = none) → u = s) ∧
     ∃ t, exec (.item k r o q) s = .next t ∧ t.mem = s.mem ∧ t.work.deques = got.1.work.deques ∧
       (∀ l, s.cur.mask.getLsbD l = true → l < s.curG.lanes.length → l ∉ got.2.map (·.1) →
         (s.curG.k k.toNat).arrived.getLsbD l = false → (t.curG.lane l).pc = branchTo s o q) ∧
       (let n := s.curG.k k.toNat
        let miss := s.cur.mask &&& ~~~(maskOf (got.2.map (·.1)))
        let en := miss &&& n.enrolled
        ∃ g0 g1 outst, Moves u.curG g0 (fun l => if miss.getLsbD l then some (branchTo s o q) else none) ∧
          (en = 0 → g1 = g0) ∧
          (en ≠ 0 → KnotBecomes g0 g1 k.toNat (if n.enrolled &&& ~~~en = 0 then Knot.idle
            else { n with enrolled := n.enrolled &&& ~~~en, arrived := n.arrived &&& ~~~en }) g0.lane) ∧
          t.curG = { g1 with outst := outst }) ∧
       (got.2 = [] → t.curG.outst.map Entry.plain = u.curG.outst.map Entry.plain) ∧
       (got.2 ≠ [] → ∃ e, t.curG.outst.map Entry.plain = u.curG.outst.map Entry.plain ++ [e] ∧ e.instr = .item k r o q ∧
         e.ready = true ∧ (∀ l, e.mask.getLsbD l = true ↔ l ∈ got.2.map (·.1)) ∧
         ∀ x ∈ got.2, e.cells x.1 0 2 = [⟨x.2.setWidth 32, 0⟩, ⟨(x.2 >>> 32).setWidth 32, 0⟩])) ∧
  (∀ s, Issuing s .exit → (∀ l, s.cur.mask.getLsbD l = true → l < s.curG.lanes.length ∧ (s.curG.lane l).st = .run) →
     let bars := match s.team? s.curG.launch s.curG.team with | some tm => tm.barPa.length | none => 0
     let drop := fun (u : State) (l : Nat) => (List.range bars).foldl (fun u i => dropLane u u.cur.h (BitVec.ofNat 3 i) l) u
     ∃ t g', exec .exit s = .next t ∧ t = ((lanesOf s.cur.mask).foldl drop (s.upG (fun _ => g'))).upG endHandler ∧
     (∀ l, s.cur.mask.getLsbD l = true → (t.curG.lane l).st = .done) ∧
     (∀ k l, k < 8 → s.cur.mask.getLsbD l = true → (t.curG.k k).enrolled.getLsbD l = false) ∧
     (∀ l, s.cur.mask.getLsbD l = true → g'.lane l = { s.curG.lane l with st := .done }) ∧
     (∀ l, l < s.curG.lanes.length → s.cur.mask.getLsbD l = false → (∀ k, k < 8 → (s.curG.k k).arrived.getLsbD l = false) →
       g'.lane l = s.curG.lane l) ∧
     (∀ k, k < 8 →
       let n := s.curG.k k
       let n' := if n.enrolled &&& ~~~s.cur.mask = 0 then Knot.idle
         else { n with enrolled := n.enrolled &&& ~~~s.cur.mask, arrived := n.arrived &&& ~~~s.cur.mask }
       g'.k k = (if n'.complete then Knot.idle else n') ∧
       ∀ l, l < s.curG.lanes.length → n'.arrived.getLsbD l = true → (∀ j, j < 8 → j ≠ k → (s.curG.k j).arrived.getLsbD l = false) →
         g'.lane l = if n'.complete then { s.curG.lane l with pc := nextPc n'.joinPc, st := .run } else s.curG.lane l) ∧
     (∃ lanes kn soft, g' = { s.curG with lanes := lanes, r := { s.curG.r with k := kn }, soft := soft }) ∧
     (t.curG.sp.hnd = true → ∃ l, s.curG.sp.hndMask.getLsbD l = true ∧ (t.curG.lane l).st ≠ .done))

/-! ### Memory (R8, R118 to R122, R353 to R356) -/

/-- Bytes and numbers in memory: a read after a write returns what was written, a write leaves every other byte alone, and the
canonical form is kept.

The canonical form of memory is the model's own. -/
def Obligations.ReadAfterWrite : Prop :=
  ∀ (m : MemSt) (a n x : Nat),
    (m.setNum a n x).num a n = x % 256 ^ n ∧
    (∀ b, b < a ∨ a + n ≤ b → (m.setNum a n x).byte b = m.byte b) ∧
    (m.wf = true → (m.setNum a n x).wf = true) ∧
    (m.wf = true → m.setNum a n (m.num a n) = m)

/-- The walk of a canonical address (R348, R353): from the root entry through four interior levels to a leaf at level 0, by nine
bits of the address at each level.

A translation that the core does not hold (R352, R353, R355), where its walk cache holds what the table holds: a leaf with permission gives
frame plus offset, and its entry has A set, and D for a write; without permission the outcome is NOPERM and memory keeps its value;
an address at or above 2^57 is malformed. A 64 KiB leaf is one of 16 entries that agree but for A and D.

That the TLB then holds the leaf is the model's choice (log entry 9), and so is that 16 entries that differ in A and D alone are one leaf
(log entry 39). -/
def Obligations.PageTranslation : Prop :=
  (∀ (m : MemSt) (tag va : Nat),
     let e5 := m.num (0x8000000000 + 8 * tag) 8
     let at4 := pteFrame e5 + 8 * bits va 56 48
     let e4 := m.num at4 8
     let at3 := pteFrame e4 + 8 * bits va 47 39
     let e3 := m.num at3 8
     let at2 := pteFrame e3 + 8 * bits va 38 30
     let e2 := m.num at2 8
     let at1 := pteFrame e2 + 8 * bits va 29 21
     let e1 := m.num at1 8
     let at0 := pteFrame e1 + 8 * bits va 20 12
     let e0 := m.num at0 8
     let good := fun (e : Nat) => pteV e = true ∧ interiorBad e = false
     (pteV e5 = false → walk m tag va = .invalid 5 (0x8000000000 + 8 * tag) e5) ∧
     (pteV e5 = true → interiorBad e5 = true → walk m tag va = .malformed 5 e5) ∧
     (good e5 → good e4 → good e3 → good e2 → pteV e1 = true → pteLeaf e1 = true →
       walk m tag va = if leafBad m.carved tag 1 e1 then .malformed 1 e1 else .leaf 1 at1 e1) ∧
     (good e5 → good e4 → good e3 → good e2 → good e1 → pteLeaf e1 = false → pteV e0 = true →
       walk m tag va = if leafBad m.carved tag 0 e0 then .malformed 0 e0 else .leaf 0 at0 e0) ∧
     (good e5 → good e4 → good e3 → good e2 → good e1 → pteLeaf e1 = false → pteV e0 = false →
       walk m tag va = .invalid 0 at0 e0)) ∧
  (∀ (s : State) (x : Ctx) (va : Nat) (k : AccKind) (level epa e : Nat), x.tag < 2 ^ 16 →
     (2 ^ 57 ≤ va → translate s x va k = (s, .fault 5)) ∧
     (va < 2 ^ 57 → (s.core x.core).tlb.find? (fun t => t.hit x.tag va) = none → walk s.mem x.tag va = .leaf level epa e →
       (∀ n ∈ (s.core x.core).nodes, n.hit x.tag va = true → s.num n.pa 8 = n.pte.toNat) →
       (let at_ := fun (i : Nat) => s.num (epa / 128 * 128 + 8 * i) 8
        level = 0 → (∀ i, i < 16 → pteV (at_ i) = false ∨ pteC16 (at_ i) = false) ∨ (∀ i, i < 16 → pteFixed (at_ i) = pteFixed e)) →
       s.num epa 8 = e → pteV e = true → leafBad s.mem.carved x.tag level e = false →
       let r := translate s x va k
       (permOk k x.sv (e % 2 ^ 16) = false → r = (touch s (walkBanks s.mem x.core x.tag va), .fault 3)) ∧
       (permOk k x.sv (e % 2 ^ 16) = true →
         let e' := e ||| 0x2000 ||| (if k.writes then 0x4000 else 0)
         r.2 = .ok (pteFrame e + va % leafSize level e) (BitVec.ofNat 16 e') ∧
         r.1.num epa 8 = e' ∧ SameBytes s r.1 [(epa, 8)] ∧
         ((r.1.core x.core).tlb.find? (fun t => t.hit x.tag va)).isSome = true)))

/-! ### Loads and stores (R223 to R233) -/

/-- Vector loads through the window of a b register (R226, R227): a lane with a poisoned offset has its token as the result, every
other lane has its translated access outstanding, and nothing else changes. With an acquire the data are obtained at issue.

Uniform loads through the window (R231): one access for the issuing lanes, at VBASE + 8 imm.

That a load waits with its translated access is the model's choice (log entry 7). -/
def Obligations.MemoryLoadsIssue : Prop :=
  (∀ (d : Reg) (b : BitVec 3) (o : Reg) (wd : Width) (f : LoadForm) (i : Instr) (s : State),
     i ∈ [Instr.ld d b o wd f, .lds d b o wd f, .gath d b o wd f, .gaths d b o wd f] →
     Issuing s i → s.Numbered → s.free_ → unchecked s b →
     let off := fun (l : Nat) => s.rv o l
     let va := fun (l : Nat) => offVa s b (offScale i) (off l).data.toNat
     (∀ l, s.cur.mask.getLsbD l = true → (off l).eb ≠ ebPoison → InWindow s b .read (widthBytes wd) (va l)) →
     (acqOf i = none → Defers i s (fun e => ∀ l, s.cur.mask.getLsbD l = true →
       if (off l).eb = ebPoison
       then e.performed.getLsbD l = true ∧ ∀ k, k < wordsOf wd → Tb.get VCell.zero e.slots (8 * l + k) = VCell.tok (off l).data
       else e.performed.getLsbD l = false ∧ Tb.get? e.acc l = some (windowAcc s b (va l)))) ∧
     (acqOf i ≠ none → ∃ t e, exec i s = .next t ∧ findEntry t s.cur.h s.ids = some e ∧ e.instr = i ∧ e.mask = s.cur.mask ∧
       e.ready = true)) ∧
  (∀ (d : Reg) (b : BitVec 3) (j : BitVec 13) (i : Instr) (s : State), i ∈ [Instr.ldu d b j, .ldus d b j] →
     Issuing s i → s.Numbered → s.free_ → unchecked s b → s.cur.mask ≠ 0 →
     let va := ((s.cur.rd.b b.toNat).vbase.setWidth 64 + BitVec.ofInt 64 (8 * j.toInt)).toNat
     InWindow s b .read 8 va →
     Defers i s (fun e => e.performed = 0 ∧ e.acc = [(s.lowLane, windowAcc s b va)]))

/-- A lane whose address is at or above 2^57, or is not aligned, has the token NOMAP or MISALGN of its address as its result
(Table 8-3); memory keeps its value.

BNDLOSS (R121): a plain store from user mode of a nonzero bound into a page without bounds traps with cause 0x21, and no byte is
stored or put on its way. -/
def Obligations.AccessFaults : Prop :=
  (∀ (d : Reg) (b : BitVec 3) (o : Reg) (wd : Width) (f : LoadForm) (i : Instr) (s : State),
     i ∈ [Instr.ld d b o wd f, .lds d b o wd f, .gath d b o wd f, .gaths d b o wd f] → acqOf i = none →
     Issuing s i → s.Numbered → s.free_ →
     let va := fun (l : Nat) => offVa s b (offScale i) (s.rv o l).data.toNat
     (∀ l, s.cur.mask.getLsbD l = true → (s.rv o l).eb ≠ ebPoison ∧ (2 ^ 57 ≤ va l ∨ va l % widthBytes wd ≠ 0)) →
     ∃ t e, exec i s = .next t ∧ t.mem = s.mem ∧ t.curG.outst.map Entry.plain = s.curG.outst.map Entry.plain ++ [e] ∧
       e.ready = true ∧ ∀ l k, s.cur.mask.getLsbD l = true → k < wordsOf wd →
         Tb.get VCell.zero e.slots (8 * l + k) = VCell.tok (vaTok (if 2 ^ 57 ≤ va l then 5 else 4) (va l))) ∧
  (∀ (d : Reg) (b : BitVec 3) (o : Reg) (wd : Width) (s : State) (l : Nat), Issuing s (.st d b o wd .plain) → s.user →
     s.cur.mask.getLsbD l = true → s.canEnter 0x21 → s.cur.rd.rejected = none →
     let va := fun (l : Nat) => offVa s b 1 (s.ov o l).v
     (∀ j, s.cur.mask.getLsbD j = true → InWindow s b .write (widthBytes wd) (va j)) →
     (∀ j, s.cur.mask.getLsbD j = true → j < l → (s.odata d wd j).eb = 0) → (s.odata d wd l).eb ≠ 0 →
     (∀ j, s.cur.mask.getLsbD j = true → keepsBnd (windowPa s b (va j)) (s.cur.rd.b b.toNat).attr = false) →
     ∃ t, exec (.st d b o wd .plain) s = .next t ∧ t.cur.trapped = true ∧ t.mem = s.mem ∧ t.curG.sp.sv = true ∧
       t.curG.frame.tcause = BitVec.ofNat 11 (chainSlot s s.cur.wpc * 256 + 0x21) ∧
       t.curG.frame.tpayload = BitVec.ofNat 64 (s.odata d wd l).eb.toNat)

/-- Vector and uniform stores through the window (R228, R231, R142): memory keeps its bytes, and the stores on their way hold for each
address the byte of the highest lane that stores there, and for each sector the largest bound and the lowest lane's token that the lanes bring
to it (R119, R121); a release has drained the group first.

Tile access (R132, R233): LDT and STT reach the pond byte of the team's tile at (va + sb) modulo 2^32, aligned down to the width;
LDT leaves its accesses outstanding, STT puts its bytes on their way.

That a store waits, with its bytes, until STORE_REACHES_HOME is the model's choice (log entry 8). -/
def Obligations.StoresAndTiles : Prop :=
  ((∀ (d : Reg) (b : BitVec 3) (o : Reg) (wd : Width) (f : StoreForm) (i : Instr) (s : State),
     i ∈ [Instr.st d b o wd f, .scat d b o wd f] → Issuing s i → s.free_ → unchecked s b →
     let va := fun (l : Nat) => offVa s b (offScale i) (s.ov o l).v
     (∀ l, s.cur.mask.getLsbD l = true → InWindow s b .write (widthBytes wd) (va l)) →
     (s.cur.rd.sp.sv = true ∨ f = .db ∨ ∀ l, s.cur.mask.getLsbD l = true →
       (s.odata d wd l).eb = 0 ∨ (s.odata d wd l).tok.isSome = true ∨
         keepsBnd (windowPa s b (va l)) (s.cur.rd.b b.toNat).attr = true) →
     Stores i s (match f with | .rel sc => release s s.cur.h sc | _ => s) (lanesOf s.cur.mask) (fun l => windowPa s b (va l))
       (s.odata d wd) (fun l => keepsBnd (windowPa s b (va l)) (s.cur.rd.b b.toNat).attr) (widthBytes wd)) ∧
   (∀ (d : Reg) (b : BitVec 3) (j : BitVec 13) (s : State), Issuing s (.stu d b j) → s.free_ → unchecked s b → s.cur.mask ≠ 0 →
     let va := ((s.cur.rd.b b.toNat).vbase.setWidth 64 + BitVec.ofInt 64 (8 * j.toInt)).toNat
     InWindow s b .write 8 va →
     (s.cur.rd.sp.sv = true ∨ (s.os d).eb = 0 ∨ keepsBnd (windowPa s b va) (s.cur.rd.b b.toNat).attr = true) →
     Stores (.stu d b j) s s [s.lowLane] (fun _ => windowPa s b va) (fun _ => s.os d)
       (fun _ => keepsBnd (windowPa s b va) (s.cur.rd.b b.toNat).attr) 8)) ∧
  (∀ (d a b : Reg) (wd : Width) (s : State) (t : Team), s.curTeam = some t →
     let n := widthBytes wd
     let at_ := fun (l : Nat) => tileAddr (s.ov a l).v (s.os b).v n
     let poison := fun (l : Nat) => (firstTok [s.ov a l, s.os b]).isSome = true
     let usable := fun (l : Nat) => at_ l / 0x8000 < t.tiles.length ∧ engineTile s t.launch t.id (at_ l / 0x8000) = false
     (Issuing s (.ldt d a b wd) → s.free_ → (∀ l, s.cur.mask.getLsbD l = true → ¬ poison l → usable l) →
       Defers (.ldt d a b wd) s (fun e => ∀ l, s.cur.mask.getLsbD l = true →
         (poison l → e.performed.getLsbD l = true ∧ ∀ k, k < wordsOf wd →
           some (Tb.get VCell.zero e.slots (8 * l + k)) = (firstTok [s.ov a l, s.os b]).map VCell.tok) ∧
         (¬ poison l → e.performed.getLsbD l = false ∧ Tb.get? e.acc l = some ⟨teamPond t (at_ l), at_ l, 0, none⟩))) ∧
     (Issuing s (.stt d a b wd) → s.free_ → (∀ l, s.cur.mask.getLsbD l = true → usable l) →
       Stores (.stt d a b wd) s s (lanesOf s.cur.mask) (fun l => teamPond t (at_ l)) (s.odata d wd)
         (fun l => keepsBnd (teamPond t (at_ l)) 0x80) n))

/-- The data of a load (R118 to R120, R226): a lane whose page is neither cached nor checked for races reads memory when it is performed: the token of a line in
error or of a poisoned sector, or the little-endian bytes with the bound of the sector. Memory keeps its value.

That a plain load reads when its result returns is the model's choice (log entry 7). -/
def Obligations.LoadReadsMemory : Prop :=
  ∀ (s : State) (h : Nat) (e : Entry) (l : Nat) (a : LaneAcc), (Tb.get? s.work.groups h).isSome = true →
    findEntry s h e.id = some e → Tb.get? e.acc l = some a → a.early = none → isUniformLoad e.instr = false →
    raceOn (s.grp h) a.attr = false →
    ((∃ d x y w, e.instr = .ldt d x y w) ∨ pteHome a.attr.toNat ≠ 0) →
    let n := loadBytes e.instr
    let bnd := match e.instr with | .ldt .. => true | _ => keepsBnd a.pa a.attr
    let t := performLoad s h e l
    ∃ e', findEntry t h e.id = some e' ∧ t.mem = s.mem ∧ e'.performed = e.performed ||| maskOf [l] ∧
      ∀ k, k < (if n ≤ 4 then 1 else n / 4) → Tb.get VCell.zero e'.slots (8 * l + k) =
        match s.mem.err a.pa with
        | some c => VCell.tok (vaTok c a.va)
        | none =>
          if bnd = true ∧ s.mem.bound a.pa = ebPoison then VCell.tok (BitVec.ofNat 32 (s.mem.num (a.pa / 32 * 32) 4))
          else ⟨BitVec.ofNat 32 (s.mem.num a.pa n / 2 ^ (32 * k)), if bnd then s.mem.bound a.pa else 0⟩

/-- A result that has been obtained, on a die that has power, arrives (R179): every register of the entry takes its result word in the lanes of its mask, a deque
take that found no item leaves its pair alone, and the entry is gone. Nothing else changes.

FRQPOP and BXLT return their words: four uniform registers, and a b register (R232, R332). -/
def Obligations.OutstandingResultsReturn : Prop :=
  (∀ (s : State) (h : Nat) (e : Entry), (Tb.get? s.work.groups h).isSome = true → emulated s h = false →
     (s.die (dieOf (s.grp h).core)).off = false →
     findEntry s h e.id = some e → e.ready = true → e.acc = [] → e.contested = [] →
     (∀ d, e.instr ≠ .frqpop d) → (∀ d b, e.instr ≠ .bxlt d b) →
     ∃ g', exec (.resultReturn h e.id) s = .next (s.modG h (fun _ =>
         { g' with outst := g'.outst.filter (fun x => decide (x.id ≠ e.id)) })) ∧
       Writes (s.grp h) g' (e.eff (s.grp h).regs)) ∧
  (∀ (s : State) (h : Nat) (e : Entry), (Tb.get? s.work.groups h).isSome = true → emulated s h = false →
     (s.die (dieOf (s.grp h).core)).off = false →
     findEntry s h e.id = some e → e.ready = true → e.acc = [] → e.contested = [] → e.mask ≠ 0 →
     (∃ d, e.instr = .frqpop d) ∨ (∃ d b, e.instr = .bxlt d b) →
     let w := fun (k : Nat) => (Tb.get VCell.zero e.slots k).data
     ∃ g', exec (.resultReturn h e.id) s = .next (s.modG h (fun _ => g')) ∧ g'.r.v = (s.grp h).r.v ∧ g'.r.p = (s.grp h).r.p ∧
       g'.outst = (s.grp h).outst.filter (fun x => decide (x.id ≠ e.id)) ∧
       (∀ d, e.instr = .frqpop d → g'.r.b = (s.grp h).r.b ∧ ∀ n, g'.sAt n =
         if d.toNat ≤ n ∧ n < d.toNat + 4 then ⟨w (2 * (n - d.toNat) + 1) ++ w (2 * (n - d.toNat)), 0⟩ else (s.grp h).sAt n) ∧
       (∀ d b, e.instr = .bxlt d b → g'.r.s = (s.grp h).r.s ∧ ∀ n, g'.b n =
         if n = b.toNat then ⟨e.uop.setWidth 57, (w 1 ++ w 0).setWidth 52, w 2, (w 3).setWidth 16⟩ else (s.grp h).b n))

/-- BXLT (R232): the b register receives VBASE, the translated base, the bytes to the end of the page and the attributes, or LIMIT 0
where the address does not translate. The result is outstanding.

That the translation is made at issue, with the result outstanding after it, is the model's choice (log entry 43). -/
def Obligations.BaseTranslation : Prop :=
  ∀ (d : Reg) (b : BitVec 3) (s : State), Issuing s (.bxlt d b) →
    let va := (s.os d).v
    let r := translate s (issueCtx s) va .any
    ∃ t e, exec (.bxlt d b) s = .next t ∧ t.mem = r.1.mem ∧
      t.curG.outst.map Entry.plain = s.curG.outst.map Entry.plain ++ [e] ∧ e.instr = .bxlt d b ∧ e.ready = true ∧
      e.uop = BitVec.ofNat 64 (va % 2 ^ 57) ∧
      (∀ pa attr, r.2 = .ok pa attr → e.cells 0 0 4 =
        [VCell.exact pa, VCell.exact (pa / 2 ^ 32), VCell.exact (tierSize attr.toNat - va % tierSize attr.toNat), ⟨attr.setWidth 32, 0⟩]) ∧
      ((∀ pa attr, r.2 ≠ .ok pa attr) → e.cells 0 0 4 = [VCell.zero, VCell.zero, VCell.zero, VCell.zero])

/-- A store reaches its home (R118 to R121, R142): where no earlier operation of its group waits on its sector, no bank is in retention, the
line is sound, the core's die has power and the store is no 128-bit one to CXL memory, its bytes enter memory, and a page with bounds takes the store's bound where all 32 bytes are stored, otherwise the larger of it and the old one. A
poisoned sector that is not overwritten whole keeps its value.

When a store reaches its home is the model's choice (log entry 8). -/
def Obligations.StoreReachesHome : Prop :=
  ∀ (s : State) (p : Pend) (w : SectorW), s.mem.pend.find? (fun q => decide (q.id = p.id)) = some p → p.kind = .store [w] →
    (∀ o ∈ groupOps s p.h, o.1 < p.id → sectorOf w.pa ∉ o.2.2) → (∀ x ∈ w.bytes, x.1 < 32) → Tb.sorted w.bytes = true →
    s.mem.err w.pa = none → (s.die (dieOf p.core)).off = false → p.tears = false → (∀ b, (bankSt s b).1 = .active) →
    let full := decide (32 ≤ w.bytes.length)
    let old := s.mem.bound w.pa
    let byte := fun (a : Nat) => if w.pa ≤ a then (Tb.get? w.bytes (a - w.pa)).getD (s.mem.byte a) else s.mem.byte a
    ∃ t, exec (.storeReachesHome p.id) s = .next t ∧ t.mem.pend = s.mem.pend.filter (fun q => decide (q.id ≠ p.id)) ∧
      t.work = s.work ∧
      (w.bnd = false → ∀ a, t.mem.byte a = byte a) ∧
      (w.bnd = true → old = ebPoison → full = false → t.mem.cells = s.mem.cells ∧ t.mem.bounds = s.mem.bounds) ∧
      (w.bnd = true → (old ≠ ebPoison ∨ full = true) → w.token = none →
        (bndHome w.pa ≠ .none → t.mem.bound w.pa = ebRead (if full then w.maxEb else ebMax old w.maxEb)) ∧
        ∀ a, (∀ k, bndHome w.pa = .word k → a < k ∨ k + 2 ≤ a) → t.mem.byte a = byte a) ∧
      (∀ k, w.bnd = true → (old ≠ ebPoison ∨ full = true) → w.token = some k → bndHome w.pa ≠ .none →
        t.mem.bound w.pa = ebRead ebPoison ∧
        ((∀ x, bndHome w.pa = .word x → x + 2 ≤ w.pa ∨ w.pa + 32 ≤ x) → ∀ j, j < 8 → t.mem.num (w.pa + 4 * j) 4 = k.toNat))

/-! ### Atomics (R154 to R157, R234 to R236) -/

/-- Atomics through the window (R234, R235): after its release, where it is one, the atomic leaves its accesses outstanding with the
offset and the data it read; an acquire obtains its results at issue.

AXADD through the window (R92, R235): it leaves no result outstanding; every lane's addend is on its way to the cell of its
address, one request for each cell, and memory keeps its bytes.

That an atomic acts when its result returns, or at issue where it is an acquire, is the model's choice (log entry 7), and so is that a release
drains at once and that addends wait on their way to the engine (log entry 8). -/
def Obligations.AtomicInstructionsIssue : Prop :=
  (∀ (d : Reg) (b : BitVec 3) (o : Reg) (wd : Width) (f : AtomForm) (i : Instr) (s : State),
     i ∈ [Instr.aadd d b o wd f, .amin d b o wd f, .amax d b o wd f, .aand d b o wd f, .aor d b o wd f, .axor d b o wd f,
          .axch d b o wd f, .acas d b o wd f, .afadd d b o wd f, .axrd d b o wd f] →
     Issuing s i → s.Numbered → s.free_ → unchecked s b →
     let va := fun (l : Nat) => offVa s b 1 (s.ov o l).v
     (∀ l, s.cur.mask.getLsbD l = true → InWindow s b .rw (alignOf i) (va l) ∧ native i (windowAcc s b (va l)) = true ∧
       (s.cur.rd.sp.sv = true ∨ keepsBnd (windowPa s b (va l)) (s.cur.rd.b b.toNat).attr = true ∨
         ∀ x ∈ (commitOf s i l).bud, x.eb = 0)) →
     let u := match relScope f with | some sc => release s s.cur.h sc | none => s
     (acqScope f = none → ∃ g' e,
       exec i s = .next { u.modG s.cur.h (fun _ => g') with ids := u.ids + 1 } ∧ Awaits (u.grp s.cur.h) g' e ∧ e.instr = i ∧
       e.mask = s.cur.mask ∧ e.performed = 0 ∧ ∀ l, s.cur.mask.getLsbD l = true →
         Tb.get? e.acc l = some (windowAcc s b (va l)) ∧ Tb.get VCell.zero e.slots (8 * l) = s.rv o l) ∧
     (acqScope f ≠ none → ∃ t e, exec i s = .next t ∧ findEntry t s.cur.h u.ids = some e ∧ e.instr = i ∧ e.mask = s.cur.mask ∧
       e.ready = true)) ∧
  (∀ (d : Reg) (b : BitVec 3) (o : Reg) (wd : Width) (f : AtomForm) (s : State),
     Issuing s (.axadd d b o wd f) → s.free_ → unchecked s b → acqScope f = none →
     let va := fun (l : Nat) => offVa s b 1 (s.ov o l).v
     (∀ l, s.cur.mask.getLsbD l = true → InWindow s b .rw 32 (va l) ∧
       native (.axadd d b o wd f) (windowAcc s b (va l)) = true) →
     let u := match relScope f with | some sc => release s s.cur.h sc | none => s
     ∃ ps, exec (.axadd d b o wd f) s =
         .next { u with mem := { u.mem with pend := u.mem.pend ++ ps }, ids := u.ids + ps.length } ∧
       (ps.map (fun p => match p.kind with | .axadd _ xs _ _ => xs.length | _ => 0)).sum = (lanesOf s.cur.mask).length ∧
       ∀ l, s.cur.mask.getLsbD l = true → ∃ p ∈ ps, ∃ xs,
         p.kind = .axadd (windowPa s b (va l)) xs (decide (wd = .d)) (keepsBnd (windowPa s b (va l)) (s.cur.rd.b b.toNat).attr) ∧
         (l, s.rv d l) ∈ xs)

/-- What an atomic does at its engine (Table 8-5): the new element, the old element as the result, and for ACAS the success flag, with
the element's bytes alone changed. AFADD adds as FADD does in FULL (R94). On a page with bounds the sector takes the larger of its bound and that
of the new element (R122); an ACAS that fails changes nothing.

AXADD and AXRD (R91, R92): an addend is truncated to units of 2^-64 and added modulo 2^128, with TR, OV and NV in STAT and its bound in BND; VAL, TR and NV
are the same in either order of two addends (R93). AXRD rounds VAL to FP32, with the cell's bound and half an ulp where that is inexact.

Errors (R236): a lane that meets a line in error or a poisoned sector is not applied, and has the token in each of its result words. AXADDs on
their way are applied lane by lane when they reach the cell, and discarded where it is poisoned. That they reach it by the step of a store is the
model's choice (log entry 8). STAT is read without its reserved bits, and they are written as 0 (R9, log entry 51). -/
def Obligations.AtomicResults : Prop :=
  (∀ (d : Reg) (b : BitVec 3) (o : Reg) (wd : Width) (f : AtomForm) (m : MemSt) (a : LaneAcc) (c : List VCell),
    wd = .w ∨ wd = .d → m.err a.pa = none → (keepsBnd a.pa a.attr = true → m.bound a.pa ≠ ebPoison) →
    (∀ k, bndHome a.pa = .word k → k + 2 ≤ a.pa ∨ a.pa + widthBytes wd ≤ k) →
    let n := widthBytes wd
    let w := 8 * n
    let k := if n = 8 then 2 else 1
    let old := m.num a.pa n
    let x := (Opd.ofVs (c.take k)).v
    let y := (Opd.ofVs ((c.drop k).take k)).v
    let xe := (Opd.ofVs (c.take k)).eb
    let ye := (Opd.ofVs ((c.drop k).take k)).eb
    let oe := if keepsBnd a.pa a.attr then m.bound a.pa else 0
    let bitw := if oe = 0 ∧ xe = 0 then (0 : EB) else ebInf
    let gives := fun (i : Instr) (v : Nat) (e : Option EB) (ok : Option Bool) =>
      let r := atomLane m i a c
      r.1.num a.pa n = v % 2 ^ w ∧
      (∀ b, e = some b → keepsBnd a.pa a.attr = true → r.1.bound a.pa = ebRead (ebMax oe b)) ∧ (e = none → r.1 = m) ∧
      (∀ q, (q < a.pa ∨ a.pa + n ≤ q) → (∀ j, bndHome a.pa = .word j → q < j ∨ j + 2 ≤ q) → r.1.byte q = m.byte q) ∧
      r.2 = elemCells n ⟨old, oe, none⟩ ++
        (match ok with | none => [] | some z => VCell.exact (b2n z) :: (if n = 8 then [VCell.zero] else []))
    gives (.aadd d b o wd f) (old + x) (some (intEb w (signed w old + signed w x) (ebAdd oe xe))) none ∧
    gives (.amin d b o wd f) (if signed w x < signed w old then x else old) (some (ebMax oe xe)) none ∧
    gives (.amax d b o wd f) (if signed w old < signed w x then x else old) (some (ebMax oe xe)) none ∧
    gives (.aand d b o wd f) (old &&& x) (some bitw) none ∧ gives (.aor d b o wd f) (old ||| x) (some bitw) none ∧
    gives (.axor d b o wd f) (old ^^^ x) (some bitw) none ∧ gives (.axch d b o wd f) x (some xe) none ∧
    gives (.acas d b o wd f) (if old = x then y else old) (if old = x then some ye else none) (some (decide (old = x))) ∧
    (wd = .w → gives (.afadd d b o wd f) (fp32Sum old x).bits (some (fp32SumEb old x oe xe)) none)) ∧
  (∀ (m : MemSt) (pa : Nat) (isInt : Bool) (x y : VCell),
    let r := xa128Add m pa isInt x
    let val := signed 128 (m.num pa 16)
    let stat := m.num (pa + 16) 4 % 8
    let bnd := ebRead (BitVec.ofNat 16 (m.num (pa + 20) 2))
    let nv := isInt = false ∧ (isNaN .f32 x.data.toNat = true ∨ isInf .f32 x.data.toNat = true)
    let unit : Int := 2 ^ 93
    let fx := fx157 (fpDecode .f32 x.data.toNat)
    let n : Int := if isInt then x.data.toInt * 2 ^ 64 else fx.tdiv unit
    let tr := isInt = false ∧ fx % unit ≠ 0
    let ov := val + n < -(2 : Int) ^ 127 ∨ (2 : Int) ^ 127 - 1 < val + n
    (∀ q, (q < pa ∨ pa + 32 ≤ q) → r.byte q = m.byte q) ∧
    (nv → r.num pa 16 = m.num pa 16 ∧ r.num (pa + 16) 4 = stat ||| 4 ∧ r.num (pa + 20) 2 = ebInf.toNat) ∧
    (¬ nv → signed 128 (r.num pa 16) = (BitVec.ofInt 128 (val + n)).toInt ∧
      (∀ k, (r.num (pa + 16) 4).testBit k = (stat.testBit k || (decide (k = 0) && decide ov) || (decide (k = 1) && decide tr))) ∧
      r.num (pa + 20) 2 = (ebAdd bnd (ebAdd x.eb (if tr then ebUp2 (-64) else 0))).toNat) ∧
    (let xy := xa128Add r pa isInt y
     let yx := xa128Add (xa128Add m pa isInt y) pa isInt x
     xy.num pa 16 = yx.num pa 16 ∧ ∀ k, k = 1 ∨ k = 2 → (xy.num (pa + 16) 4).testBit k = (yx.num (pa + 16) 4).testBit k)) ∧
  (∀ (d : Reg) (b : BitVec 3) (o : Reg) (wd : Width) (f : AtomForm) (i : Instr) (m : MemSt) (a : LaneAcc) (c : List VCell),
    i ∈ [Instr.aadd d b o wd f, .amin d b o wd f, .amax d b o wd f, .aand d b o wd f, .aor d b o wd f, .axor d b o wd f,
         .axch d b o wd f, .acas d b o wd f, .afadd d b o wd f, .axrd d b o wd f] →
    let token := fun (t : Word) => atomLane m i a c = (m, List.replicate (atomWords i) (VCell.tok t))
    let val := signed 128 (m.num a.pa 16)
    let stat := m.num (a.pa + 16) 4
    let q := fpRound .f32 .rn false (decide (val < 0)) val.natAbs 1 (-64)
    (∀ e, m.err a.pa = some e → token (vaTok e a.va)) ∧
    (m.err a.pa = none → keepsBnd a.pa a.attr = true → m.bound a.pa = ebPoison → token (BitVec.ofNat 32 (m.num (a.pa / 32 * 32) 4))) ∧
    (m.err a.pa = none → (keepsBnd a.pa a.attr = true → m.bound a.pa ≠ ebPoison) → i = .axrd d b o wd f → atomLane m i a c = (m, [
      if stat.testBit 2 then ⟨0x7FC00000, ebInf⟩
      else ⟨BitVec.ofNat 32 q.bits, if stat.testBit 0 then ebInf
        else ebAdd (ebRead (BitVec.ofNat 16 (m.num (a.pa + 20) 2))) (rhoFull .f32 q.bits q.nx)⟩]))) ∧
  (∀ (s : State) (p : Pend) (pa : Nat) (xs : List (Nat × VCell)) (isInt bnd : Bool),
    s.mem.pend.find? (fun q => decide (q.id = p.id)) = some p → p.kind = .axadd pa xs isInt bnd →
    (∀ o ∈ groupOps s p.h, o.1 < p.id → sectorOf pa ∉ o.2.2) → s.mem.err pa = none → (s.die (dieOf p.core)).off = false →
    (∀ b, (bankSt s b).1 = .active) →
    ∃ t, exec (.storeReachesHome p.id) s = .next t ∧ t.work = s.work ∧
      t.mem.pend = s.mem.pend.filter (fun q => decide (q.id ≠ p.id)) ∧
      (bnd = true → s.mem.bound pa = ebPoison → t.mem.cells = s.mem.cells ∧ t.mem.bounds = s.mem.bounds) ∧
      ((bnd = true → s.mem.bound pa ≠ ebPoison) → ∀ q, t.mem.byte q = (xs.foldl (fun m x => xa128Add m pa isInt x.2) s.mem).byte q))

/-- ATOMIC_APPLY (R156): the lanes of one location are applied in ascending order as one step, each on what the one before left, and
every lane has its result: where the line has an error, its token.

REQUEST_RETRY (R139, R327): without held lanes nothing happens, and on a die without power neither (R420); a store or atomic that is held whole
may issue again; a held load of which no lane is still to be made is held no longer, and the entries after it go on. A held load that has
lanes to be made stays held for them, as it is, while no request entry is free; with one free its last lane takes it, and what the load has
already had accepted is not made again.

Which step applies which location is the model's choice (log entry 50), and so is how a load waits with its accesses, that a store held whole
issues again, and which entries go on after it (log entry 7). -/
def Obligations.AtomicAndRetrySteps : Prop :=
  (∀ (s : State) (h : Nat) (e : Entry) (pa : Nat), emulated s h = false → findEntry s h e.id = some e → isAtomic e.instr = true →
     e.acc ≠ [] → Tb.sorted e.acc = true → (∀ x ∈ e.acc, x.1 < 64 ∧ x.2.pa = pa ∧ raceOn (s.grp h) x.2.attr = false) →
     (∀ o ∈ groupOps s h, o.1 < e.id → sectorOf pa ∉ o.2.2) → (s.die (dieOf (s.grp h).core)).off = false → (∀ b, (bankSt s b).1 = .active) →
     ∃ t e', exec (.atomicApply h e.id) s = .next t ∧ findEntry t h e.id = some e' ∧ e'.acc = [] ∧
       (∀ x ∈ e.acc, e'.performed.getLsbD x.1 = true) ∧
       (s.mem.err pa = none →
         t.mem = e.acc.foldl (fun m x => (atomLane m e.instr x.2 (e.cells x.1 1 4)).1) s.mem) ∧
       (∀ c, s.mem.err pa = some c → ∀ x ∈ e.acc, ∀ k, k < atomWords e.instr →
         Tb.get VCell.zero e'.slots (8 * x.1 + k) = VCell.tok (vaTok c x.2.va))) ∧
  (∀ (s : State) (h : Nat),
     ((s.grp h).rejected = none → exec (.requestRetry h) s = .next s) ∧
     (∀ r, (s.grp h).rejected = some r → (s.die (dieOf (s.grp h).core)).off = true → exec (.requestRetry h) s = .next s) ∧
     (∀ r, (s.grp h).rejected = some r → (s.die (dieOf (s.grp h).core)).off = false → findEntry s h r.entry.id = none →
       exec (.requestRetry h) s = .next (s.modG h (fun g => { g with rejected := some { r with mask := 0 } }))) ∧
     (∀ r e, (s.grp h).rejected = some r → (s.die (dieOf (s.grp h).core)).off = false → findEntry s h r.entry.id = some e →
       e.ready = true → exec (.requestRetry h) s = .next (killDue (resumeAll (s.modG h (fun g => { g with rejected := none })) h) h))) ∧
  (∀ (d : Reg) (b : BitVec 3) (o : Reg) (wd : Width) (f : LoadForm) (i : Instr) (s : State) (h : Nat) (r : Held) (e : Entry),
     i ∈ [Instr.ld d b o wd f, .lds d b o wd f, .gath d b o wd f, .gaths d b o wd f] → acqOf i = none →
     (s.grp h).rejected = some r → findEntry s h r.entry.id = some e → e.instr = i → (s.die (dieOf (s.grp h).core)).off = false →
     (s.grp h).ctl.halted = false → (s.grp h).ctl.dying = false → e.ready = false → idleLanes e ≠ [] →
     let w := s.modG h (fun g => { g with rejected := none })
     let free := requestsFree w (s.grp h).core h
     (free = 0 → ∃ t, exec (.requestRetry h) s = .next t ∧ t.mem = s.mem ∧ (t.grp h).outst = (s.grp h).outst ∧
       (t.grp h).rejected = some ⟨{ e with pc := r.entry.pc }, maskOf (idleLanes e), 0, r.tries⟩) ∧
     (∀ l a u, 0 < free → idleLanes e = [l] → (Tb.get VCell.zero e.slots (8 * l)).eb ≠ ebPoison →
       laneAccess w (entryCtx w h e) none .read (alignOf i) (entryVa e l) = (u, .ok a) →
       exec (.requestRetry h) s =
         .next (killDue (resumeAll (modEntry u h e.id (fun e => { e with acc := Tb.put e.acc l a })) h) h)))

/-! ### Barriers (R41, R158 to R160, R238, R239) -/

/-- One arrival (R160): an arrival recorded for the current phase counts once; the last expected one completes the phase, which
releases the waiters of every group of the team; any other counts.

One drop (R41): a lane is dropped once in an epoch; the expected count falls, an arrival of the lane for this phase is taken back,
and a phase that is now complete ends.

The barrier instructions (R239). BARI sets the expected count, clears the arrivals, advances phase and epoch and releases the
waiters; BARW parks each lane whose phase is not reached; BARD and BARAW release, then each lane in ascending order arrives and
receives the phase it may wait for, and with BARAW parks until it is reached; BARD.drop drops each lane. A lane parks at the PC of its
BARW or BARAW (R42). An index beyond the
team's list, and a count outside 1 to 1024, is illegal (R238).

That a waiter runs on after the whole chain of its word is the model's reading (log entry 15). -/
def Obligations.Barriers : Prop :=
  ((∀ (s : State) (h : Nat) (i : BitVec 3) (l pa : Nat), (Tb.get? s.work.groups h).isSome = true → l < 64 →
      barPa s (s.grp h).launch (s.grp h).team i.toNat = some pa →
      let b := readBar s pa
      let a := arrOf (s.grp h) i.toNat l
      let t := arriveLane s h i l
      let again := a.valid = true ∧ a.phase.toNat = b.phase
      (again → t = touch s (barBanks (s.grp h).core pa)) ∧
      (¬ again → arrOf (t.grp h) i.toNat l = { a with valid := true, phase := BitVec.ofNat 16 b.phase } ∧ SameBytes s t [(pa, 8)] ∧
        (b.expect ≤ b.arrived + 1 → readBar t pa = { b with phase := (b.phase + 1) % 0x10000, arrived := 0 } ∧
          ∀ j, j = h ∨ j ∈ s.teamGroups (s.grp h).launch (s.grp h).team → Released (s.grp j) (t.grp j) i ((b.phase + 1) % 0x10000)) ∧
        (b.arrived + 1 < b.expect → readBar t pa = { b with arrived := b.arrived + 1 } ∧ (t.grp h).lanes = (s.grp h).lanes))) ∧
   (∀ (s : State) (h : Nat) (i : BitVec 3) (l pa : Nat), (Tb.get? s.work.groups h).isSome = true → l < 64 →
      barPa s (s.grp h).launch (s.grp h).team i.toNat = some pa →
      let b := readBar s pa
      let a := arrOf (s.grp h) i.toNat l
      let t := dropLane s h i l
      let again := a.dropped = true ∧ a.epoch.toNat = b.epoch
      let left := if a.valid = true ∧ a.phase.toNat = b.phase then b.arrived - 1 else b.arrived
      (again → t = touch s (barBanks (s.grp h).core pa)) ∧
      (¬ again → arrOf (t.grp h) i.toNat l = { a with dropped := true, epoch := BitVec.ofNat 12 b.epoch } ∧ SameBytes s t [(pa, 8)] ∧
        (b.expect = 0 → t.mem = s.mem) ∧
        (b.expect ≠ 0 → left = b.expect - 1 →
          readBar t pa = { b with phase := (b.phase + 1) % 0x10000, expect := b.expect - 1, arrived := 0 } ∧
          ∀ j, j = h ∨ j ∈ s.teamGroups (s.grp h).launch (s.grp h).team → Released (s.grp j) (t.grp j) i ((b.phase + 1) % 0x10000)) ∧
        (b.expect ≠ 0 → left ≠ b.expect - 1 → readBar t pa = { b with expect := b.expect - 1, arrived := left } ∧
          (t.grp h).lanes = (s.grp h).lanes)))) ∧
  (∀ (a d : Reg) (i : BitVec 3) (s : State),
     let bar := barPa s s.cur.rd.launch s.cur.rd.team i.toNat
     let v := (s.os a).v
     let ls := lanesOf s.cur.mask
     let u := release s s.cur.h .team
     let all := [Instr.bari a i, .barw a i, .baraw d i, .bard d i, .bardDrop i]
     (bar = none → ∀ x ∈ all, Issuing s x → s.user → exec x s = .next (illegal s)) ∧
     (∀ pa, bar = some pa →
       (Issuing s (.bari a i) → s.user → (v < 1 ∨ 1024 < v) → exec (.bari a i) s = .next (illegal s)) ∧
       (Issuing s (.bari a i) → 1 ≤ v → v ≤ 1024 → ∃ t, exec (.bari a i) s = .next t ∧ SameBytes s t [(pa, 8)] ∧
         readBar t pa = { readBar s pa with expect := v, arrived := 0, phase := ((readBar s pa).phase + 1) % 2 ^ 16,
                                            epoch := ((readBar s pa).epoch + 1) % 2 ^ 12 } ∧
         ∀ h ∈ s.teamGroups s.cur.rd.launch s.cur.rd.team, Released (s.grp h) (t.grp h) i (((readBar s pa).phase + 1) % 2 ^ 16)) ∧
       (Issuing s (.barw a i) → ∃ t, exec (.barw a i) s = .next t ∧ t.mem = s.mem ∧
         (∀ l, l < s.curG.lanes.length → t.curG.lane l =
           if s.cur.mask.getLsbD l = true ∧ phaseMet (readBar s pa).phase ((s.ov a l).v % 2 ^ 16) = false
           then { s.curG.lane l with pc := s.cur.wpc, st := .wait (.barrier i (BitVec.ofNat 16 (s.ov a l).v)) (wordsAfter s) }
           else s.curG.lane l) ∧ t.curG.sameRegs s.curG) ∧
       (Issuing s (.bard d i) → ∃ t, exec (.bard d i) s = .next t ∧ t.mem = (ls.foldl (arriveWith d i pa false) u).mem ∧
         t.curG.r = (ls.foldl (arriveWith d i pa false) u).curG.r ∧ t.curG.lanes = (ls.foldl (arriveWith d i pa false) u).curG.lanes) ∧
       (Issuing s (.baraw d i) → ∃ t, exec (.baraw d i) s = .next t ∧ t.mem = (ls.foldl (arriveWith d i pa true) u).mem ∧
         t.curG.r = (ls.foldl (arriveWith d i pa true) u).curG.r ∧ t.curG.lanes = (ls.foldl (arriveWith d i pa true) u).curG.lanes) ∧
       (Issuing s (.bardDrop i) → exec (.bardDrop i) s = .next (ls.foldl (fun s l => dropLane s s.cur.h i l) s))))

/-! ### Item deques and bound cells (R161 to R166, R240, R241) -/

/-- DQPUSH with room appends the pairs of the issuing lanes in ascending order at the owner's end and sets VAL; with the deque full, or the
SRAM full and no overflow area to move an entry to (R161, R164), it places nothing and VAL is 0; DQPOP and DQSTEAL leave their pair and predicate outstanding (R240). Takes that the group has outstanding from the same deque are performed first (R143).

A deque take (R162, R240): DQPOP takes from the owner's end of the core's own deque, DQSTEAL from the far end of the deque of the
core it names; the result is the item with VAL = 1, or an empty take with VAL = 0 that leaves the pair alone.

That a take is performed when its result returns is the model's choice (log entry 43). -/
def Obligations.ItemDeques : Prop :=
  (∀ (a d : Reg) (p : BitVec 3) (s : State),
     (let u := takesBefore s s.cur.h s.ids (fun c => decide (c = s.cur.rd.core))
      ((∀ e ∈ s.curG.outst, dqCore s.curG e ≠ some s.cur.rd.core) → u = s) ∧
      (Issuing s (.dqpush p a) → pairLoss s a = [] →
       (dequeOf u s.cur.rd.launch s.cur.rd.core).length + (lanesOf s.cur.mask).length ≤ 2 ^ 20 →
       sramUsed u s.cur.rd.core + (lanesOf s.cur.mask).length ≤ 4096 →
       ∃ t, exec (.dqpush p a) s = .next t ∧ t.mem = s.mem ∧
         dequeOf t s.cur.rd.launch s.cur.rd.core = dequeOf u s.cur.rd.launch s.cur.rd.core ++
           (lanesOf s.cur.mask).map (fun l => ((s.rvN (a.toNat + 1) l).data ++ (s.rvN a.toNat l).data, .sram s.cur.rd.core)) ∧
         (∀ k c, (k ≠ s.cur.rd.launch ∨ c ≠ s.cur.rd.core) → dequeOf t k c = dequeOf u k c) ∧
         Writes u.curG t.curG (Eff.pred s p (fun _ => 1))) ∧
      (Issuing s (.dqpush p a) → pairLoss s a = [] →
       (2 ^ 20 ≤ (dequeOf u s.cur.rd.launch s.cur.rd.core).length ∨
         (4096 ≤ sramUsed u s.cur.rd.core ∧ ∀ l ∈ s.work.launches, l.rc.dqSize = 0)) →
       ∃ t, exec (.dqpush p a) s = .next t ∧ t.mem = s.mem ∧ t.work.deques = u.work.deques ∧
         Writes u.curG t.curG (Eff.pred s p (fun _ => mkPred false false)))) ∧
     (Issuing s (.dqpop d p) → Defers (.dqpop d p) s (fun e => e.performed = 0 ∧ e.acc = [])) ∧
     (Issuing s (.dqsteal d a p) → Defers (.dqsteal d a p) s
       (fun e => e.performed = 0 ∧ e.acc = [] ∧ e.uop = (s.cur.rd.s s.pk a.toNat).data))) ∧
  (∀ (s : State) (h l : Nat) (e : Entry) (d a : Reg) (p : BitVec 3), findEntry s h e.id = some e →
     (Tb.get? s.work.groups h).isSome = true →
     let g := s.grp h
     let t := performLateLane h e s l
     let u := takesBefore s h e.id (fun c => decide (dqCore g e = some c))
     ((∀ x ∈ g.outst, x.id < e.id → dqCore g x ≠ dqCore g e) → u = s) ∧
     let res := fun (x : Option DWord) => ∃ e', findEntry t h e.id = some e' ∧ e'.performed = e.performed ||| maskOf [l] ∧
       e'.cells l 0 3 = (match x with
         | some x => [⟨x.setWidth 32, 0⟩, ⟨(x >>> 32).setWidth 32, 0⟩, ⟨1, 0⟩]
         | none => [VCell.zero, VCell.zero, ⟨2, 0⟩])
     (e.instr = .dqpop d p → t.mem = s.mem ∧
       (∀ xs x, dequeOf u g.launch g.core = xs ++ [x] → dequeOf t g.launch g.core = xs ∧ res (some x.1)) ∧
       (dequeOf u g.launch g.core = [] → dequeOf t g.launch g.core = [] ∧ res none)) ∧
     (e.instr = .dqsteal d a p → t.mem = s.mem ∧
       (∀ xs x, dequeOf u g.launch (e.uop.toNat % 256) = x :: xs → dequeOf t g.launch (e.uop.toNat % 256) = xs ∧ res (some x.1)) ∧
       (dequeOf u g.launch (e.uop.toNat % 256) = [] → dequeOf t g.launch (e.uop.toNat % 256) = [] ∧ res none)))

/-- BNDMIN (R165, R241): the cell takes the signed minimum of its value and the values of the issuing lanes, and no other byte
changes; the copies of a core outside the scope receive nothing.

BNDRD (R165, R241): the translated cell is outstanding; its read returns the core's copy, or the cell itself, of which a copy is
installed, and a core holds at most 16 copies.

When a read is performed, and that BNDMIN acts at issue, are the model's choice (log entry 43). -/
def Obligations.BoundCells : Prop :=
  (∀ (a b : Reg) (dev : Bool) (s t : State) (pa : Nat) (attr : BitVec 16),
     let i := if dev then Instr.bndminDev a b else .bndminCl a b
     let va := (s.os a).v
     Issuing s i → (s.core s.cur.rd.core).dbg = [] → pairLoss s b = [] → va < 2 ^ 57 → va % 8 = 0 → pa % 8 = 0 →
     translate s (issueCtx s) va .rw = (t, .ok pa attr) → (∃ d, pmem pa = .hbm d) ∨ pmem pa = .tarn ∨ pmem pa = .lpddr →
     pteHome attr.toNat ≠ 3 → t.mem.err pa = none → (∀ o ∈ groupOps t s.cur.h, o.1 < t.ids → sectorOf pa ∉ o.2.2) →
     let value := fun (l : Nat) => ((s.rvN (b.toNat + 1) l).data ++ (s.rvN b.toNat l).data).toInt
     let cell := fun (x : State) => (BitVec.ofNat 64 (x.num pa 8)).toInt
     ∃ r, exec i s = .next r ∧ SameBytes t r [(pa, 8)] ∧
       (∀ l, s.cur.mask.getLsbD l = true → cell r ≤ value l) ∧ cell r ≤ cell t ∧
       (cell r = cell t ∨ ∃ l, s.cur.mask.getLsbD l = true ∧ cell r = value l) ∧
       ∀ x ∈ r.mem.watchUpd, x ∈ t.mem.watchUpd ∨ x.2.1 = pa ∧ (dev = true ∨ x.1 / 8 = s.cur.rd.core / 8)) ∧
  ((∀ (d a : Reg) (s t : State) (pa : Nat) (attr : BitVec 16), Issuing s (.bndrd d a) → (s.core s.cur.rd.core).dbg = [] →
     (s.os a).v < 2 ^ 57 → (s.os a).v % 8 = 0 → translate s (issueCtx s) (s.os a).v .read = (t, .ok pa attr) →
     (∃ d, pmem pa = .hbm d) ∨ pmem pa = .tarn ∨ pmem pa = .lpddr → pteHome attr.toNat ≠ 3 →
     ∃ r e, exec (.bndrd d a) s = .next r ∧ r.mem = t.mem ∧
       r.curG.outst.map Entry.plain = s.curG.outst.map Entry.plain ++ [e] ∧
       e.instr = .bndrd d a ∧ e.mask = s.cur.mask ∧ e.performed = 0 ∧ e.cellPa = pa) ∧
   (∀ (s : State) (core pa : Nat),
     let r := readWatch s core pa
     r.1.mem = s.mem ∧
     (∀ v, (s.core core).watch.find? (fun e => decide (e.1 = pa)) = some (pa, v) → r.2 = v) ∧
     ((s.core core).watch.find? (fun e => decide (e.1 = pa)) = none → r.2 = BitVec.ofNat 64 (s.num pa 8)) ∧
     (pa, r.2) ∈ (r.1.core core).watch ∧
     ((s.core core).watch.length ≤ 16 → (r.1.core core).watch.length ≤ 16)))

/-! ### Batches and fences (R136, R137, R242, R243) -/

/-- BATCH closes the open batch; WAITB with no unfinished copy task to wait for and no failure record that it covers completes, as WAITB 0
does whatever is unfinished; it waits while a copy task of its batches, in a batch that is closed, is not finished; a covered failure
record fails it, with the cause and payload of the one with the lowest LO, and is freed or narrowed; without one, a batch that is not closed is
illegal; IFENCE discards the core's fetched words.

FENCE (R131, R146, R150, R243): no store of the group or of its core is on its way afterwards, the group's interval has advanced and
is published at the scope, and at a scope wider than the team the core's cached sectors are gone. -/
def Obligations.BatchesAndFences : Prop :=
  (∀ (a : Reg) (s : State),
     let n : Word := BitVec.ofNat 32 (s.os a).v
     let closed := s.cur.rd.ctl.closed
     (Issuing s .batch → exec .batch s = .next (s.upG (fun g => { g with ctl := { g.ctl with closed := g.ctl.closed + 1 } }))) ∧
     let fails := s.curG.ctl.fails
     let nothingOpen := n = 0 ∨ ∀ x ∈ s.work.tasks, ∀ m, x.h = s.cur.h → x.launch = s.cur.rd.launch → x.team = s.cur.rd.team →
       x.batch = some m → (n - m).msb = true ∨ ((m - closed).msb = false ∧ m ≠ closed)
     (Issuing s (.waitb a) → (∀ r ∈ fails, (n - r.lo).msb = true) → (closed - n).msb = false → nothingOpen →
       exec (.waitb a) s = .next (acquire s s.cur.h .dev)) ∧
     (∀ r ∈ fails, Issuing s (.waitb a) → (n - r.lo).msb = false → ((closed - n).msb = false → nothingOpen) →
       (∀ q ∈ fails, (n - q.lo).msb = false → q ≠ r → (r.lo - q.lo).msb = true ∧ (q.lo - r.lo).msb = false) →
       exec (.waitb a) s = .next (deferredTrap (s.upG (fun g => { g with ctl := { g.ctl with fails := g.ctl.fails.filterMap (fun q =>
           if (n - q.lo).msb then some q else if (n - q.hi).msb then some { q with lo := n + 1 } else none) } }))
         r.cause.toNat r.payload.toNat s.cur.mask r.va.toNat)) ∧
     (Issuing s (.waitb a) → (∀ r ∈ fails, (n - r.lo).msb = true) → (closed - n).msb = true → exec (.waitb a) s = .next (illegal s)) ∧
     (∀ x ∈ s.work.tasks, ∀ m, Issuing s (.waitb a) → n ≠ 0 → (closed - n).msb = false → x.h = s.cur.h →
       x.launch = s.cur.rd.launch → x.team = s.cur.rd.team → x.batch = some m → (n - m).msb = false →
       ((m - closed).msb = true ∨ m = closed) →
       exec (.waitb a) s = .next (stall s 0)) ∧
     (Issuing s .ifence → exec .ifence s = .next (s.modCore s.cur.rd.core (fun c => { c with fetched := [] })))) ∧
  (∀ (sc : Scope) (s : State), Issuing s (.fence sc) → s.Numbered → ∃ t, exec (.fence sc) s = .next t ∧
     (∀ p ∈ t.mem.pend, p.h ≠ s.cur.h ∧ p.core ≠ s.curG.core) ∧ t.curG.ctl.interval = s.curG.ctl.interval + 1 ∧
     (∀ u, u ≤ scopeRank sc → u < 4 → t.curG.ctl.pubs[u]? = some (s.curG.ctl.interval + 1)) ∧
     (sc ≠ .team → (t.core s.curG.core).l1 = []))

/-! ### Engine tasks (R245 to R265) -/

/-- The engine instructions enter a task when their operands meet Table 9-3 and the table has room, stall while it has none, and are illegal
on any other operands (R246, R249, R250): what the task reads and writes is Table 9-2, a TCOPY joins the open batch (R136), and AUTO is
FULL in supervisor mode (R318). An MMA on the resident descriptor works on the bank (R257).

Residency (R257, R258): TGIVE takes a free bank for its team, waits while another team holds it, and is illegal for a team that holds it;
TTAKE ends the residency of its own descriptor and is illegal for any other; both enter their tasks.

That TGIVE takes its bank at issue, and that it waits while the team's own TTAKE is not finished, are the model's choice (log entries 11
and 28), and so is that a task waits for the rest of another group's tile access (log entry 7). -/
def Obligations.EngineIssue : Prop :=
  (∀ (a b e : BitVec 4) (v : Reg) (k : Cls) (z sat : Bool) (md : CopyMode) (r : Rnd) (s : State),
     let da := s.cur.rd.d a.toNat
     let db := s.cur.rd.d b.toNat
     let dc := s.cur.rd.d e.toNat
     let cls := if s.cur.rd.sp.sv = true ∧ k = .auto then Cls.exact else k
     let res := residentFor s dc
     let x := s.cur.rd.s s.pk v.toNat
     let shape := fun (op : TaskOp) (rs ws : List Nat) => TaskShape.mk op rs ws false none
     let mma := fun (idx : Option (List (Nat × VCell))) =>
       TaskShape.mk (.mma da db dc cls z idx s.cur.mask) (tileSet da ++ tileSet db ++ (if z = true ∨ res = true then [] else tileSet dc))
         (if res then [] else tileSet dc) res none
     let quiet := fun (_ : State) => True
     EntersTask (.mma a b e k z) s (fun t => mmaOk s t da db dc false = true) (mma none) quiet ∧
     EntersTask (.mmag a b e v k z) s (fun t => mmaOk s t da db dc true = true)
       (mma (some ((lanesOf s.cur.mask).map (fun l => (l, s.rv v l))))) quiet ∧
     EntersTask (.tcopy a e md) s (fun t => copyOk t.tiles.length da dc = true)
       { shape (.tcopy da dc md) (tileSet da) (tileSet dc) with batch := some (s.curG.ctl.closed + 1) } quiet ∧
     EntersTask (.tfill e v) s (fun t => pondDesc t.tiles.length dc = true) (shape (.tfill dc x) [] (tileSet dc)) quiet ∧
     EntersTask (.tscaleExp a e v) s (fun t => scaleOk t.tiles.length 0 da (s.cur.rd.d 0) dc = true)
       (shape (.tscale 0 da (s.cur.rd.d 0) dc .exact x) (tileSet da) (tileSet dc)) quiet ∧
     EntersTask (.tscaleAcc a e v k) s (fun t => scaleOk t.tiles.length 1 da (s.cur.rd.d 0) dc = true)
       (shape (.tscale 1 da (s.cur.rd.d 0) dc cls x) (tileSet da ++ tileSet dc) (tileSet dc)) quiet ∧
     EntersTask (.tscaleAccr a b e k) s (fun t => scaleOk t.tiles.length 2 da db dc = true)
       (shape (.tscale 2 da db dc cls SCell.zero) (tileSet da ++ tileSet db ++ tileSet dc) (tileSet dc)) quiet ∧
     EntersTask (.tscaleAccc a b e k) s (fun t => scaleOk t.tiles.length 3 da db dc = true)
       (shape (.tscale 3 da db dc cls SCell.zero) (tileSet da ++ tileSet db ++ tileSet dc) (tileSet dc)) quiet ∧
     EntersTask (.tconv a e r sat) s (fun t => convOk t.tiles.length da dc sat = true)
       (shape (.tconv da dc r sat) (tileSet da) (tileSet dc)) quiet) ∧
  (∀ (e : BitVec 4) (s : State),
     let dc := s.cur.rd.d e.toNat
     let half := halfOf (s.core s.cur.rd.core) (s.funcOf s.cur.rd.launch)
     let bank := fun (t : State) => Tb.get? (t.core s.cur.rd.core).banks half
     let own := fun (b : ResBank) => b.launch = s.cur.rd.launch ∧ b.team = s.cur.rd.team ∧ b.ended = false
     (curBank s = none → EntersTask (.tgive e) s (fun t => accDesc s t dc = true) ⟨.tgive dc, tileSet dc, tileSet dc, true, none⟩
       (fun t => bank t = some ⟨s.cur.rd.launch, s.cur.rd.team, s.ids, dc, [], false⟩)) ∧
     (∀ b, curBank s = some b → own b → Issuing s (.tgive e) → exec (.tgive e) s = .next (illegal s)) ∧
     (∀ b tm, curBank s = some b → ¬ own b → s.curTeam = some tm → accDesc s tm dc = true → Issuing s (.tgive e) →
       exec (.tgive e) s = .next (stall s 9)) ∧
     (∀ b, curBank s = some b → EntersTask (.ttake e) s (fun t => accDesc s t dc = true ∧ own b ∧ b.desc = dc)
       ⟨.ttake dc, [], tileSet dc, true, none⟩ (fun t => bank t = some { b with ended := true })) ∧
     (curBank s = none → s.curTeam.isSome = true → Issuing s (.ttake e) → exec (.ttake e) s = .next (illegal s)))

/-- A task starts when no earlier task stands before it (R251): its results are computed from its inputs as they now are, and a TGIVE loads
its bank; one that must wait, or whose die has no power, does not start. A task that has started, and whose write no earlier reader
stands before, finishes: its sectors enter memory, its flags its group unless that has retired, and it leaves the table (R80, R253); a TTAKE
frees the bank and the entry of its TGIVE (R257).

Integer matrix blocks (R85): a block adds the exact products to the accumulator modulo 2^32, and a sum outside the format is
unbounded.

A copy reads every sector of a source in the pond when it starts. Each sector of memory it requests, and then reads or writes, at any time
between its start and its finish, one in a step (R252, R409); a copy to memory of which a sector fails writes nothing (R260).

That a task reads the pond at its start and writes when it finishes, that a copy to memory writes its sectors together, and what a step of a
copy does, is the model's choice (log entry 11). The wait for a bank is R140's, with the banks of log entry 24. -/
def Obligations.TaskExecution : Prop :=
  (∀ (s : State) (t : Task) (tm : Team), s.work.tasks.find? (fun x => decide (x.id = t.id)) = some t →
     (t.out = none → (s.die (dieOf t.core)).off = false → (∀ x ∈ s.work.tasks, taskWaits t x = false) →
       s.team? t.launch t.team = some tm → isTgive t.op = false →
       (∀ u, reachBanks s (tileBanks tm t.rset) = (false, u) → exec (.taskStart t.id) s = .next u) ∧
       ∀ v, reachBanks s (tileBanks tm t.rset) = (true, v) →
         let m := meetErrors v t false [] (pondReads t tm)
         let r := runTask m.1 t tm m.2
         exec (.taskStart t.id) s = .next (setTasks r.1 (fun l => l.map (fun x => if x.id = t.id then { x with out := some r.2 } else x)))) ∧
     (∀ d b, t.out = none → (s.die (dieOf t.core)).off = false → (∀ x ∈ s.work.tasks, taskWaits t x = false) →
       s.team? t.launch t.team = some tm → t.op = .tgive d → Tb.get? (s.core t.core).banks t.half = some b → b.task = t.id →
       (∀ k ∈ tileBanks tm t.rset, (bankSt s k).1 = .active) → (∀ x ∈ pondReads t tm, s.mem.err x.pa = none) →
       ∃ u, exec (.taskStart t.id) s = .next u ∧ u.mem = s.mem ∧
         Tb.get? (u.core t.core).banks t.half = some { b with cells := loadBank s.mem tm d } ∧
         u.work.tasks.map (fun x => (x.id, x.out.isSome)) =
           s.work.tasks.map (fun x => (x.id, x.out.isSome || decide (x.id = t.id)))) ∧
     ((s.die (dieOf t.core)).off = true ∨ bankTaken s t = true ∨ (∃ x ∈ s.work.tasks, taskWaits t x = true) →
       exec (.taskStart t.id) s = .next s) ∧
     (∀ o v, t.out = some o → s.team? t.launch t.team = some tm → (s.die (dieOf t.core)).off = false → isTgive t.op = false →
       (∀ x ∈ s.work.tasks, finishWaits t x = false) → o.late = [] → o.reqs = [] → reachBanks s (finishBanks t tm o) = (true, v) →
       let r := finishOut v t tm o
       let g := r.1.grp t.h
       let bank := Tb.get? (r.1.core t.core).banks t.half
       r.2.races = [] →
       ∃ u, exec (.taskFinish t.id) s = .next u ∧ u.mem = r.2.ws.foldl applySector r.1.mem ∧
         (isTtake t.op = false → u.work.tasks = r.1.work.tasks.filter (fun x => decide (x.id ≠ t.id))) ∧
         (∀ b, isTtake t.op = true → bank = some b → Tb.get? (u.core t.core).banks t.half = none ∧
           u.work.tasks = r.1.work.tasks.filter (fun x => decide (x.id ≠ t.id) && decide (x.id ≠ b.task))) ∧
         ((Tb.get? r.1.work.groups t.h).isSome = true → g.launch = t.launch → g.team = t.team → g.gid = t.gid →
           (u.grp t.h).sp = (if g.retired then g.sp else { g.sp with flags := g.sp.flags ||| r.2.flags }) ∧ (u.grp t.h).r = g.r ∧
           (r.2.fail = none → (u.grp t.h).ctl.fails = g.ctl.fails) ∧
           (∀ f b, r.2.fail = some f → t.batch = some b →
             (u.grp t.h).ctl.fails = addFail ⟨b, b, f.1, f.2.1, f.2.2, b, t.id⟩ g.ctl.fails)))) ∧
  (∀ (s : State) (t : Task) (tm : Team) (met : List Nat),
     ((∀ a c md, t.op ≠ .tcopy a c md) → ∀ o, (finishOut s t tm o).2 = o) ∧
     (∀ a c md, t.op = .tcopy a c md →
       let all := copySecs a c
       let o := (runTask s t tm met).2
       let q := fun (k : Nat × Nat) => pondSector s.mem tm (srcAt a k)
       (dKind a = true → o.ws = [] ∧ o.reqs = [] ∧ o.copy = [] ∧ o.late.map (·.1) = all) ∧
       (dKind a = false → (∀ k ∈ all, s.mem.err (pondAcc tm (srcAt a k)).pa = none) →
         o.reqs = [] ∧ o.copy = [] ∧
         (dKind c = true → o.ws = [] ∧ o.late = all.map (fun k => (k, ((q k).v, (q k).eb, (q k).tok)))) ∧
         (dKind c = false → o.late = [] ∧ o.ws = all.flatMap (fun k => copyWrite s.mem tm a c k (q k)))) ∧
       (∀ o, dKind c = true → o.fail = none →
         ((∃ ca p va, CopyRes.fail ca p va ∈ o.copy) → (finishOut s t tm o).2.fail ≠ none ∧ (finishOut s t tm o).2.ws = o.ws) ∧
         ((∀ r ∈ o.copy, ∃ va pa bnd w, r = CopyRes.ok va pa bnd w false) → (finishOut s t tm o).2.fail = none ∧
           (finishOut s t tm o).2.ws = o.copy.flatMap (fun r => r.writes s.mem (dWidth a))))) ∧
     (∀ a c md o, s.work.tasks.find? (fun x => decide (x.id = t.id)) = some t → t.op = .tcopy a c md → t.out = some o →
       s.team? t.launch t.team = some tm → (s.die (dieOf t.core)).off = false → (∀ x ∈ s.work.tasks, finishWaits t x = false) →
       (o.late ≠ [] ∨ o.reqs ≠ []) →
       ∃ u o', exec (.taskFinish t.id) s = .next u ∧
         u.work.tasks = s.work.tasks.map (fun x => if x.id = t.id then { x with out := some o' } else x) ∧
         (dKind c = true → o.reqs = [] → o'.ws = o.ws ∧ o'.reqs = [] ∧ ∃ i r, i < o.late.length ∧ o'.late = o.late.eraseIdx i ∧
           o'.copy = o.copy ++ [r]) ∧
         (dKind c = false → o'.copy = o.copy ∧
           ((∃ i x p, o.late[i]? = some x ∧ o'.late = o.late.eraseIdx i ∧ o'.ws = o.ws ∧ o'.reqs = o.reqs ++ [p] ∧ p.sec = x.1) ∨
            (∃ (i : Nat) (x : (Nat × Nat) × (Nat × EB × Option Word)) (m : MemSt) (v : Opd), o.late[i]? = some x ∧ o'.late = o.late.eraseIdx i ∧
              o'.reqs = o.reqs ∧ v.tok ≠ none ∧
              o'.ws = o.ws ++ copyWrite m tm a c x.1 v) ∨
            (∃ (i : Nat) (p : CopyReq) (m : MemSt) (v : Opd), o.reqs[i]? = some p ∧ o'.late = o.late ∧ o'.reqs = o.reqs.eraseIdx i ∧
              o'.ws = o.ws ++ copyWrite m tm a c p.sec v) ∨
            o' = o ∧ (∃ p ∈ o.reqs, ∃ k ∈ banksAt t.core false p.acc.pa, (bankSt s k).1 ≠ .active))))) ∧
  (∀ (f g : Fmt) (xs : List (Nat × Nat)) (acc : Nat), acc < 2 ^ 32 →
     let t := signed 32 acc + (xs.map (fun x => intElem f x.1 * intElem g x.2)).sum
     let o := intBlock f g xs acc
     (o.bits : Int) % 2 ^ 32 = t % 2 ^ 32 ∧ o.bits < 2 ^ 32 ∧ o.flags = 0 ∧
     (o.big = false ↔ signed 32 o.bits = t) ∧ (o.big = false → o.inc = 0) ∧ (o.big = true → o.inc = ebInf))

/-- TDESC and TSETD (R264, R265): the descriptor register takes the pair of uniform registers, or one field of Table 9-5; `.adv` adds
to ADDR modulo 2^57. A value that its field cannot hold is illegal.

PTEST, PCODE and PSET (R269 to R271): the tests give an exact predicate, the codes are clean data, and PSET writes a SOFT token, or
the token of a poisoned predicate, in the lanes that the predicate selects. -/
def Obligations.DescriptorsAndPoisonTools : Prop :=
  (∀ (e : BitVec 4) (v : Reg) (s : State),
     let lo := (s.cur.rd.s s.pk v.toNat).data
     let hi := (s.cur.rd.s s.pk (v.toNat + 1)).data
     let d := s.cur.rd.d e.toNat
     let becomes := fun (i : Instr) (x : BitVec 128) => ∃ g', exec i s = .next (s.upG (fun _ => g')) ∧
       (∀ n, g'.d n = if n = e.toNat then x else s.curG.d n) ∧ g'.r.v = s.curG.r.v ∧ g'.r.s = s.curG.r.s ∧ g'.r.p = s.curG.r.p ∧
       g'.r.b = s.curG.r.b ∧ g'.r.k = s.curG.r.k ∧ g'.lanes = s.curG.lanes ∧ g'.sp = s.curG.sp
     let put := fun (at_ w x : Nat) => d.toNat % 2 ^ at_ + 2 ^ at_ * x + 2 ^ (at_ + w) * (d.toNat / 2 ^ (at_ + w))
     (Issuing s (.tdesc e v) → lo.getLsbD 57 = false → becomes (.tdesc e v) (hi ++ lo)) ∧
     (Issuing s (.tdesc e v) → lo.getLsbD 57 = true → exec (.tdesc e v) s = .next (illegal s)) ∧
     (Issuing s (.tsetd e v .adv) →
       becomes (.tsetd e v .adv) (BitVec.ofNat 128 (put 0 57 (((d.extractLsb' 0 57).toNat + lo.toNat) % 2 ^ 57)))) ∧
     (∀ p ∈ [(TField.addr, 0, 57), (.rows, 113, 11), (.cols, 102, 11), (.vrows, 91, 11), (.vcols, 80, 11), (.stride, 58, 22),
             (.fmt, 124, 3), (.kind, 127, 1)], Issuing s (.tsetd e v p.1) →
       (lo.toNat < 2 ^ p.2.2 → becomes (.tsetd e v p.1) (BitVec.ofNat 128 (put p.2.1 p.2.2 lo.toNat))) ∧
       (2 ^ p.2.2 ≤ lo.toNat → exec (.tsetd e v p.1) s = .next (illegal s)))) ∧
  (∀ (p q : BitVec 3) (d a : Reg) (sense : Bool),
     let bad := fun (s : State) (o : Opd) => o.tok.isSome || !ebFits o.eb s.cur.rd.sp.ebud
     let word := fun (o : Opd) => match o.tok with | some t => t | none => (0 : Word)
     GivesP (.ptest p a .plain) p (fun s l => mkPred (s.ov a l).tok.isSome false) ∧
     GivesP (.ptest p a .bud) p (fun s l => mkPred (bad s (s.ov a l)) false) ∧
     GivesP (.ptest p a .p) p (fun s l => mkPred (pPois (s.cur.rd.p (a.toNat % 8) l)) false) ∧
     GivesP (.ptest p a .u) p (fun s _ => mkPred (s.os a).tok.isSome false) ∧
     GivesP (.ptest p a .ubud) p (fun s _ => mkPred (bad s (s.os a)) false) ∧
     Gives (.pcode d a .plain) (fun s => Eff.vec s d (fun l => ⟨word (s.ov a l), 0⟩)) ∧
     Gives (.pcode d a .p) (fun s => Eff.vec s d (fun l =>
       let b := s.cur.rd.p (a.toNat % 8) l
       ⟨if pPois b then BitVec.ofNat 32 (pCode b * 2 ^ 27) else 0, 0⟩)) ∧
     Gives (.pcode d a .u) (fun s => Eff.uni d ⟨(word (s.os a)).setWidth 64, 0⟩) ∧
     (∀ s, Issuing s (.pset d q sense) → GivesCounted (.pset d q sense) s
       { Eff.none with v := fun n l =>
           let b := s.op q l
           if n = d.toNat ∧ s.cur.mask.getLsbD l = true then
             (if pPois b then some (VCell.tok (mkTok (pCode b) s.pk))
              else if pVal b ≠ sense then some (VCell.tok (mkTok 31 s.pk)) else none)
           else none }))

/-! ### Checks, regions, time (R266 to R277) -/

/-- ENTER and LEAVE (R273) without a trace and without a stop request: ENTER pushes the region with the budget in force, LEAVE pops it
and restores that budget; a seventeenth ENTER counts in OVF, and LEAVE counts that down first.

EBSET only lowers the budget, EBRD and CLOCK read exactly, WALL leaves its read outstanding (R107, R274 to R276).

Timers (R277) whose deadline is not reached: TIMER arms at CTXCLK plus sa, or at sa on the wall, and 0 disarms; a wait takes a set
flag, parks while the timer is armed, and goes on otherwise; a poll reads the flag into a predicate and clears it. A lane parks at the PC
of its TIMER, and runs on after its chain. A deadline that is reached fires: the flag is set, or the waiting lanes run on. A cycle of a resident
group adds 1 to CTXCLK, and fires the cycle timer whose deadline it reaches then.

That a parked lane runs on after its whole chain is the model's reading (log entry 15), and that WALL reads the counter as its result returns is
another (log entry 43). -/
def Obligations.RegionsAndTime : Prop :=
  (∀ (i : BitVec 12) (j : BitVec 16) (s : State), (s.func (s.funcOf s.curG.launch)).traced = false → s.curG.ctl.stopPend = false →
     let sp := s.curG.sp
     let becomes := fun (x : Instr) (sp' : Special) => exec x s = .next (s.upG (fun g => { g with sp := sp' }))
     (Issuing s (.enter i) → sp.regions.length < 16 →
       becomes (.enter i) { sp with regions := (i, sp.ebud) :: sp.regions }) ∧
     (Issuing s (.enter i) → 16 ≤ sp.regions.length →
       becomes (.enter i) { sp with ovf := if sp.ovf.toNat < 2047 then sp.ovf + 1 else sp.ovf }) ∧
     (Issuing s (.leave j) → sp.ovf ≠ 0 → becomes (.leave j) { sp with ovf := sp.ovf - 1 }) ∧
     (∀ id e t, Issuing s (.leave j) → sp.ovf = 0 → sp.regions = (id, e) :: t →
       ((j = 0 ∨ j.toNat = id.toNat) → becomes (.leave j) { sp with regions := t, ebud := e }) ∧
       (j ≠ 0 → j.toNat ≠ id.toNat → exec (.leave j) s = .next (illegal s))) ∧
     (Issuing s (.leave j) → sp.ovf = 0 → sp.regions = [] → exec (.leave j) s = .next (illegal s))) ∧
  (∀ (i : BitVec 16) (d : Reg),
     (∀ s, Issuing s (.ebset i) → exec (.ebset i) s =
       .next (s.upG (fun g => { g with sp := { g.sp with ebud := if i.toNat < g.sp.ebud.toNat then i else g.sp.ebud } }))) ∧
     GivesS (.ebrd d) d (fun _ => []) (fun s => ⟨s.cur.rd.sp.ebud.setWidth 64, 0⟩) ∧
     GivesS (.clock d) d (fun _ => []) (fun s => ⟨s.cur.rd.sp.ctxclk, 0⟩) ∧
     Gives (.clockV d) (fun s => Eff.vec s d (fun _ => ⟨s.cur.rd.sp.ctxclk.setWidth 32, 0⟩)) ∧
     (∀ s, Issuing s (.wall d) → Defers (.wall d) s (fun e => e.performed = 0 ∧ e.acc = [])) ∧
     (∀ s, Issuing s (.wallV d) → Defers (.wallV d) s (fun e => e.performed = 0 ∧ e.acc = []))) ∧
  (∀ (a : Reg) (p : BitVec 3) (k : TimerSel) (s : State),
     let tm := timerOf s.curG k
     let v := (s.cur.rd.s s.pk a.toNat).data
     let sets := fun (i : Instr) (x : Timer) => exec i s = .next (s.upG (fun g => setTimer g k x))
     (timerDue s s.curG k = false →
       (Issuing s (.timer a k) → sets (.timer a k)
         ⟨decide (v ≠ 0), false, if k = .cyc then s.curG.sp.ctxclk + v else v⟩) ∧
       (Issuing s (.timerWait k) → tm.fired = true → sets (.timerWait k) { tm with fired := false }) ∧
       (Issuing s (.timerWait k) → tm.fired = false → tm.armed = false → exec (.timerWait k) s = .next s) ∧
       (Issuing s (.timerWait k) → tm.fired = false → tm.armed = true →
         ∃ g', exec (.timerWait k) s = .next (s.upG (fun _ => g')) ∧ (∃ ls, g' = { s.curG with lanes := ls }) ∧
         ∀ l, l < s.curG.lanes.length → g'.lane l = if s.cur.mask.getLsbD l
           then { s.curG.lane l with pc := s.cur.wpc, st := .wait (if k = .cyc then .cycTimer else .wallAlarm) (wordsAfter s) }
           else s.curG.lane l) ∧
       (Issuing s (.timerPoll p k) → ∃ g1 g', exec (.timerPoll p k) s = .next (s.upG (fun _ => g')) ∧
         Writes s.curG g1 (Eff.pred s p (fun _ => mkPred tm.fired false)) ∧ g' = setTimer g1 k { tm with fired := false })) ∧
     (∀ h, timerDue s (s.grp h) k = true → (s.grp h).ctl.saved = false → (s.die (dieOf (s.grp h).core)).off = false →
       let i := if k = .cyc then Instr.cycleTimerFire h else .wallAlarmFire h
       exec i s = .next (s.modG h (fun g => fireTimer g k))) ∧
     (∀ g : Group, let g' := fireTimer g k
       (timerOf g' k).armed = false ∧ (timerOf g' k).deadline = (timerOf g k).deadline ∧
       ((timerOf g' k).fired = true ↔ ∀ x ∈ g.lanes, onTimer k x.st = none) ∧
       g'.lanes = g.lanes.map (fun x =>
         match onTimer k x.st with | some n => { x with st := .run, pc := pcAfter n x.pc } | none => x)) ∧
     (let g := s.curG
      let g' := tick s g
      g'.sp = { g.sp with ctxclk := g.sp.ctxclk + 1 } ∧ g'.r = g.r ∧
      (g.ctl.cyc.armed = true → g.ctl.cyc.deadline = g.sp.ctxclk + 1 → g'.ctl.cyc.armed = false) ∧
      (g.ctl.cyc.armed = false ∨ g.ctl.cyc.deadline ≠ g.sp.ctxclk + 1 → g'.ctl.cyc = g.ctl.cyc ∧ g'.lanes = g.lanes)))

/-! ### The supervisor (R318 to R339) -/

/-- SRET (R327, R330) with nothing outstanding, no lane to kill, nothing that waits and no EPC of slot 3: every lane takes back its PC and state, the user
values of s56 to s63, p7 and b7 return, every other register keeps its value, and the mode is user; cancelled replay entries are
gone, held ones are outstanding with their results. Memory keeps its value.

The lanes of KILLM that were not DONE pass to DONE at their EPCs (R330, R338): they leave every knot and are dropped from every barrier of the team's list
(R40). A lane that returns to a wait for a barrier phase that was reached meanwhile runs on, and one whose phase was not stays in its wait (R42).

An EPC of slot 3 of a lane that would run raises MISPC in place of the return (R61).

That a released lane runs on after its whole chain is the model's reading (log entry 15).

That an image can bring such an EPC is the model's reading (log entry 20). -/
def Obligations.SupervisorReturn : Prop :=
  (∀ s, Issuing s .sret → misaligned (sretTargets s.curG) ≠ [] → exec .sret s = .next (mispc s (sretTargets s.curG))) ∧
  (∀ s, Issuing s .sret → misaligned (sretTargets s.curG) = [] →
    let g := s.curG
    g.outst = [] → (∀ e ∈ g.replay, e.valid = false) → g.lanes.length ≤ 64 →
    g.ctl.preemptPend = false → g.ctl.stopForced = false → g.ctl.stopDue = false →
    ∃ t, exec .sret s = .next t ∧ t.curG.sp.sv = false ∧
      (∀ l, l < g.lanes.length → g.frame.killm.getLsbD l = true → (g.lane l).lst ≠ .done →
        (t.curG.lane l).st = .done ∧ (t.curG.lane l).pc = (g.lane l).epc ∧ (∀ k, k < 8 → (t.curG.k k).enrolled.getLsbD l = false) ∧
        ∀ tm i, s.team? g.launch g.team = some tm → i < tm.barPa.length → i < 8 → (arrOf t.curG i l).dropped = true) ∧
      (g.frame.killm = 0 → (∀ k, k < 8 → (g.k k).complete = false) → ∀ l i v n, l < g.lanes.length →
        (g.lane l).lst = .wait (.barrier i v) n →
        t.curG.lane l = match barPa s g.launch g.team i.toNat with
          | some pa => if phaseMet (readBar s pa).phase v.toNat then { g.lane l with pc := pcAfter n (g.lane l).epc, st := .run }
            else { g.lane l with pc := (g.lane l).epc, st := (g.lane l).lst }
          | none => { g.lane l with pc := (g.lane l).epc, st := (g.lane l).lst })) ∧
  ∀ (s : State) (c : Nat → SCell) (p : Nat → Byte) (b7 : BReg) (soft : List (RegClass × Nat × Nat)), Issuing s .sret →
    let g := s.curG
    (∀ x ∈ g.lanes, x.lst = .run → slotOf x.epc ≠ 3) →
    g.outst = [] → (∀ e ∈ g.replay, e.valid = false ∨ e.held = true) → g.frame.killm = 0 → g.sp.hnd = false →
    (∀ k, k < 8 → (g.k k).complete = false) → (∀ x ∈ g.lanes, ∀ w n, x.lst ≠ .wait w n ∧ x.st ≠ .wait w n) →
    g.ctl.preemptPend = false → g.ctl.stopForced = false → g.ctl.stopDue = false →
    g.bank = ⟨(List.range 8).map (fun i => (i, c i)), (List.range g.width).map (fun l => (l, p l)), b7, soft⟩ → g.width ≤ 64 →
    let kept := g.replay.filter (·.valid)
    ∃ t, exec .sret s = .next t ∧ t.mem = s.mem ∧ t.ids = s.ids + kept.length ∧
      let g' := t.curG
      g'.sp = { g.sp with sv := false, rst := false } ∧ g'.lanes.length = g.lanes.length ∧
      (∀ l, l < g.lanes.length → g'.lane l =
        if (g.lane l).lst = .done ∧ (g.lane l).st = .done then g.lane l
        else { g.lane l with pc := (g.lane l).epc, st := (g.lane l).lst }) ∧
      (∀ n, g'.sAt n = if 56 ≤ n ∧ n < 64 then c (n - 56) else g.sAt n) ∧
      (∀ n l, l < 64 → g'.pAt n l = if n = 7 ∧ l < g.width then p l else g.pAt n l) ∧
      (∀ n, g'.b n = if n = 7 then b7 else g.b n) ∧ g'.r.v = g.r.v ∧ g'.r.d = g.r.d ∧ g'.replay = [] ∧
      g'.outst.map (fun e => (e.instr, e.mask, e.performed, e.uop, e.slots)) =
        kept.map (fun e => (e.instr, e.mask, e.mask, e.uop, e.slots)) ∧
      (∀ e ∈ g'.outst, s.ids ≤ e.id ∧ e.id < s.ids + kept.length)

/-- The supervisor register view (R320 to R322, R337, Tables 13-1 to 13-3): a read gives the register of its number, in every form; a
write sets the fields that are writable and clears those that a 1 clears; a register that does not exist, a read form that a per-lane
register lacks, a write to a register without writable fields, and a PC of slot 3 for EPC or CHANDLER, are illegal. SSR.v and SSW.v
reach the per-lane registers lane by lane; a uniform read of LANEID gives lane 0's.

The replay queue, the fault record queue and the comparators (R331, R332, R336, Tables 13-3, 13-5, 14-6): RQRD reads a word or
a slot of an entry, and leaves it outstanding; RQWR changes it; an index of 24 or more is illegal, and one beyond the captured entries reads 0
and changes nothing; FRQPOP takes the oldest record, or zeros; DBGSET writes one comparator of the core and clears its HIT bit, and
refuses the controls that R336 names.

The lanes of a handler whose HND software sets are a free value (log entry 2), and that RQRD.v and RQWR beyond the captured entries
read 0 and change nothing is the model's choice (log entry 22). So is which forms read LANEID, EPC and LSTATE and that CHANDLER takes no PC of
slot 3 (log entry 54), and that RQRD and FRQPOP act at issue with their results outstanding (log entry 43). -/
def Obligations.SupervisorRegisters : Prop :=
  (∀ (n : BitVec 10) (r : Reg) (s : State),
     let g := s.cur.rd
     let core := s.core g.core
     let cmp := fun (i : Nat) => Tb.get Comparator.zero core.dbg i
     let table : List (Nat × Nat) :=
       [(0x201, g.gid), (0x202, g.team), (0x203, statusSv g), (0x204, g.sp.lflags.toNat), (0x205, g.sp.ebud.toNat),
        (0x206, b2n (preqOf s g)), (0x207, g.sp.chandler.toNat), (0x208, g.sp.ctxclk.toNat), (0x209, regionValue g),
        (0x210, s.dev.scbase.toNat), (0x211, s.dev.vtab.toNat), (0x212, g.frame.tcause.toNat), (0x213, g.frame.tpayload.toNat),
        (0x214, g.frame.tmask.toNat), (0x215, g.frame.pcm.toNat), (0x216, g.frame.tpc.toNat), (0x217, g.frame.tstamp.toNat),
        (0x21A, g.frame.killm.toNat), (0x21B, g.sp.tag.toNat), (0x21C, g.core),
        (0x21D, core.frq.length + b2n core.frqOvf * 65536), (0x238, core.dbgHit.toNat)] ++
       (List.range 8).map (fun i => (0x220 + i, (cmp i).v.toNat)) ++ (List.range 8).map (fun i => (0x228 + i, (cmp i).m.toNat)) ++
       (List.range 8).map (fun i => (0x230 + i, (cmp i).k.toNat))
     let x : DWord := (s.cur.rd.s s.pk r.toNat).data
     let sets := fun (f : Group → Group) => exec (.ssw n r) s = .next (s.upG f)
     (∀ e ∈ table, n.toNat = e.1 →
       (Issuing s (.ssr n r) → ∃ g', exec (.ssr n r) s = .next (s.upG (fun _ => g')) ∧
         Writes s.curG g' (Eff.uni r (SCell.exact e.2))) ∧
       (Issuing s (.ssrV n r) → ∃ g', exec (.ssrV n r) s = .next (s.upG (fun _ => g')) ∧
         Writes s.curG g' (Eff.pair s r.toNat (fun _ => VCell.exact e.2) (fun _ => VCell.exact (e.2 / 2 ^ 32)))) ∧
       (Issuing s (.ssrP n r) → ∃ g', exec (.ssrP n r) s = .next (s.upG (fun _ => g')) ∧
         Writes s.curG g' (Eff.pred s (r.setWidth 3) (fun l => mkPred (e.2.testBit l) false)))) ∧
     (∀ e ∈ [((0x200 : BitVec 10), fun (l : Nat) => l), (0x218, fun l => (g.lane l).epc.toNat), (0x219, fun l => lstateOf (g.lane l).lst)],
       n = e.1 → Issuing s (.ssrV n r) → ∃ g', exec (.ssrV n r) s = .next (s.upG (fun _ => g')) ∧
         Writes s.curG g' (Eff.pair s r.toNat (fun l => VCell.exact (e.2 l)) (fun l => VCell.exact (e.2 l / 2 ^ 32)))) ∧
     (n = 0x200 →
       (Issuing s (.ssr n r) → ∃ g', exec (.ssr n r) s = .next (s.upG (fun _ => g')) ∧ Writes s.curG g' (Eff.uni r (SCell.exact 0))) ∧
       (Issuing s (.ssrP n r) → ∃ g', exec (.ssrP n r) s = .next (s.upG (fun _ => g')) ∧
         Writes s.curG g' (Eff.pred s (r.setWidth 3) (fun _ => mkPred false false)))) ∧
     (n.toNat ∉ 0x200 :: table.map (·.1) →
       (Issuing s (.ssr n r) → exec (.ssr n r) s = .next (illegal s)) ∧
       (Issuing s (.ssrP n r) → exec (.ssrP n r) s = .next (illegal s)) ∧
       (Issuing s (.ssrV n r) → n ≠ 0x218 → n ≠ 0x219 → exec (.ssrV n r) s = .next (illegal s))) ∧
     (Issuing s (.ssw n r) →
       (n = 0x203 → ∃ m, exec (.ssw n r) s = .next { s.upG (fun h => { h with sp := { h.sp with
           flags := h.sp.flags &&& ~~~(x.setWidth 5), hnd := x.getLsbD 15, hndMask := m } }) with free := s.free + 1 } ∧
         (x.getLsbD 15 = false → m = 0) ∧ (x.getLsbD 15 = true → s.curG.sp.hnd = true → m = s.curG.sp.hndMask)) ∧
       (n = 0x205 → sets (fun h => { h with sp := { h.sp with ebud := if 0xFF00 < x.toNat % 65536 then 0xFF00 else x.setWidth 16 } })) ∧
       (n = 0x207 → x.toNat % 4 ≠ 3 → sets (fun h => { h with sp := { h.sp with chandler := x.setWidth 48 } })) ∧
       (n = 0x207 → x.toNat % 4 = 3 → exec (.ssw n r) s = .next (illegal s)) ∧
       (n = 0x21A → sets (fun h => { h with frame := { h.frame with killm := x } })) ∧
       (n = 0x21D → x.getLsbD 16 = true →
         exec (.ssw n r) s = .next (s.modCore s.cur.rd.core (fun c => { c with frqOvf := false }))) ∧
       (n = 0x21D → x.getLsbD 16 = false → exec (.ssw n r) s = .next s) ∧
       (n = 0x238 → exec (.ssw n r) s =
         .next (s.modCore s.cur.rd.core (fun c => { c with dbgHit := c.dbgHit &&& ~~~(x.setWidth 8) }))) ∧
       (n ∉ [(0x203 : BitVec 10), 0x205, 0x207, 0x21A, 0x21D, 0x238] → exec (.ssw n r) s = .next (illegal s))) ∧
     (Issuing s (.sswV n r) → (n ≠ 0x218 ∨ ∃ l, s.cur.mask.getLsbD l = true ∧ (s.rv r l).data.toNat % 4 = 3) →
       exec (.sswV n r) s = .next (illegal s)) ∧
     (Issuing s (.sswV n r) → n = 0x218 → (∀ l, s.cur.mask.getLsbD l = true → (s.rv r l).data.toNat % 4 ≠ 3) →
       ∃ g', exec (.sswV n r) s = .next (s.upG (fun _ => g')) ∧ (∃ ls, g' = { s.curG with lanes := ls }) ∧
         g'.lanes.length = s.curG.lanes.length ∧
         ∀ l, l < s.curG.lanes.length → g'.lane l =
           if s.cur.mask.getLsbD l then { s.curG.lane l with epc := (s.rv r l).data.setWidth 48 } else s.curG.lane l)) ∧
  (∀ (d a b : Reg) (n : BitVec 2) (c : BitVec 3) (s : State),
    let i := (s.cur.rd.s s.pk a.toNat).data.toNat % 32
    let x := (s.cur.rd.s s.pk b.toNat).data
    let header := fun (e : Entry) => match n.toNat with
      | 0 => b2n e.valid * 2 ^ 63 + b2n e.held * 2 ^ 62 + e.word.toNat
      | 1 => e.pc.toNat
      | 2 => e.mask.toNat
      | _ => e.uop.toNat
    let put := fun (j : Instr) (f : Entry → Entry) =>
      exec j s = .next (s.upG (fun g => { g with replay := g.replay.modify i f }))
    (∀ e, Issuing s (.rqrd d a n) → i < 24 → s.cur.rd.replay[i]? = some e →
      Defers (.rqrd d a n) s (fun o => o.ready = true ∧ o.ueb = 0 ∧ o.uop = BitVec.ofNat 64 (header e))) ∧
    (∀ e, Issuing s (.rqrdV d a n) → i < 24 → s.cur.rd.replay[i]? = some e →
      Defers (.rqrdV d a n) s (fun o => o.ready = true ∧ ∀ l, s.cur.mask.getLsbD l = true →
        Tb.get VCell.zero o.slots (8 * l) = if e.mask.getLsbD l then Tb.get VCell.zero e.slots (8 * l + n.toNat) else VCell.zero)) ∧
    (24 ≤ i → ∀ j ∈ [Instr.rqrd d a n, .rqrdV d a n, .rqwr a b n, .rqwrV a b n], Issuing s j → exec j s = .next (illegal s)) ∧
    (i < 24 → s.cur.rd.replay[i]? = none → s.curG.replay[i]? = none →
      (Issuing s (.rqrd d a n) → Defers (.rqrd d a n) s (fun o => o.ready = true ∧ o.ueb = 0 ∧ o.uop = 0)) ∧
      (Issuing s (.rqrdV d a n) → Defers (.rqrdV d a n) s (fun o => o.ready = true ∧
        ∀ l, s.cur.mask.getLsbD l = true → Tb.get VCell.zero o.slots (8 * l) = VCell.zero)) ∧
      (Issuing s (.rqwrV a b n) → exec (.rqwrV a b n) s = .next s)) ∧
    (Issuing s (.rqwr a b n) → i < 24 →
      (n = 0 → put (.rqwr a b n) (fun e => { e with valid := x.getLsbD 63, held := x.getLsbD 62 })) ∧
      (n = 2 → put (.rqwr a b n) (fun e => { e with mask := e.mask &&& x })) ∧
      (n = 3 → put (.rqwr a b n) (fun e => { e with uop := x, ueb := 0 })) ∧
      (n = 1 → exec (.rqwr a b n) s = .next (illegal s))) ∧
    (∀ e, Issuing s (.rqwrV a b n) → i < 24 → s.curG.replay[i]? = some e →
      ∃ e', exec (.rqwrV a b n) s = .next (s.upG (fun g => { g with replay := g.replay.set i e' })) ∧ (∃ sl, e' = { e with slots := sl }) ∧
        ∀ l k, l < 64 → k < 8 → Tb.get VCell.zero e'.slots (8 * l + k) =
          if s.cur.mask.getLsbD l = true ∧ k = n.toNat then s.rv b l else Tb.get VCell.zero e.slots (8 * l + k)) ∧
    (Issuing s (.frqpop d) →
      let q := (s.core s.cur.rd.core).frq
      let r := q.headD ⟨0, 0, 0, 0⟩
      let u := s.modCore s.cur.rd.core (fun k => { k with frq := q.drop 1 })
      ∃ g' e, exec (.frqpop d) s = .next { u.upG (fun _ => g') with ids := s.ids + 1 } ∧ Awaits s.curG g' e ∧
        e.instr = .frqpop d ∧ e.ready = true ∧ e.id = s.ids ∧
        ∀ j, j < 8 → (Tb.get VCell.zero e.slots j).data = (([r.w0, r.w1, r.w2, r.w3].getD (j / 2) 0) >>> (32 * (j % 2))).setWidth 32) ∧
    (Issuing s (.dbgset d a b c) →
      let k := (s.cur.rd.s s.pk d.toNat).data.toNat
      let good := bits k 3 1 < 4 ∧ bits k 9 4 < 58 ∧ (bits k 3 1 ≠ 0 ∨ bits k 9 4 = 0)
      (¬ good → exec (.dbgset d a b c) s = .next (illegal s)) ∧
      (good → exec (.dbgset d a b c) s = .next (s.modCore s.cur.rd.core (fun o => { o with
        dbg := Tb.set Comparator.zero o.dbg c.toNat
          ⟨((s.cur.rd.s s.pk a.toNat).data).setWidth 57, x, BitVec.ofNat 48 (bits k 47 32 * 2 ^ 32 + k % 2 ^ 11)⟩,
        dbgHit := o.dbgHit &&& ~~~(BitVec.ofNat 8 (2 ^ c.toNat)) })))))

/-- TLBINV and TLBWAIT (R333): with fewer than eight outstanding, TLBINV releases at device scope and sends one invalidation to every
core and the firmware processor, or none where its range is empty; the ninth waits, as does TLBWAIT until every one is
acknowledged. On receipt a recipient drops the translations that are covered, in its TLB, its walk cache and its groups' b registers
(R365, steps 1 and 2); a recipient that has drained acknowledges, and with the last acknowledgement the invalidation is gone (steps 4 and 5).

That the drain covers every operation of the tag is the model's choice (log entry 49). -/
def Obligations.Invalidation : Prop :=
  (∀ (a b : Reg) (s : State),
    let y := (s.cur.rd.s s.pk b.toNat).data.toNat
    let u := release s s.cur.h .dev
    let all := List.range 257
    let sends := fun (i : Instr) (tag base pages : Nat) (mode : BitVec 2) =>
      exec i s = .next ({ u with
          ids := u.ids + 1,
          work := { u.work with invals := u.work.invals ++
            [Inval.mk u.ids (some s.cur.h) (BitVec.ofNat 16 tag) base pages mode [] all [] []] } }.upG
        (fun g => { g with ctl := { g.ctl with invs := g.ctl.invs ++ [u.ids] } }))
    (s.curG.ctl.invs.length < 8 →
      (Issuing s (.tlbinvRange a b) → y / 65536 % 2 ^ 32 ≠ 0 →
        sends (.tlbinvRange a b) (y % 65536) ((s.cur.rd.s s.pk a.toNat).data.toNat / 4096 % 2 ^ 45 * 4096) (y / 65536 % 2 ^ 32) 0) ∧
      (Issuing s (.tlbinvRange a b) → y / 65536 % 2 ^ 32 = 0 → exec (.tlbinvRange a b) s = .next u) ∧
      (Issuing s (.tlbinvTag a b) → sends (.tlbinvTag a b) (y % 65536) 0 0 1) ∧
      (Issuing s (.tlbinvAll a b) → sends (.tlbinvAll a b) 0 0 0 2)) ∧
    (8 ≤ s.curG.ctl.invs.length → ∀ i ∈ [Instr.tlbinvRange a b, .tlbinvTag a b, .tlbinvAll a b], Issuing s i →
      exec i s = .next (stall s 12)) ∧
    (Issuing s .tlbwait → s.curG.ctl.invs = [] → exec .tlbwait s = .next (acquire s s.cur.h .dev)) ∧
    (Issuing s .tlbwait → s.curG.ctl.invs ≠ [] → exec .tlbwait s = .next (stall s 12))) ∧
  (∀ (core : Nat) (v : Inval) (s : State), findInval s v.id = some v → core ∈ v.waitFor →
    (core ∉ v.received → ∃ t, exec (.invalidationReceive core v.id) s = .next t ∧ t.mem = s.mem ∧
      (t.core core).tlb = (s.core core).tlb.filter (fun e => !v.covers e.tag e.vpage (e.vpage + e.size)) ∧
      (t.core core).nodes = (s.core core).nodes.filter (fun n => !v.covers n.tag n.base (n.base + n.size)) ∧
      t.work.groups = s.work.groups.map (fun e => if e.2.core = core then (e.1, v.clearGroup e.2) else e) ∧
      ∃ v', findInval t v.id = some v' ∧ v'.received = core :: v.received ∧ v'.waitFor = v.waitFor) ∧
    (drained s v core = true → v.waitFor ≠ [core] → v.waitFor.Nodup → ∃ t, exec (.invalidationAck core v.id) s = .next t ∧
      t.mem = s.mem ∧ t.work.groups = s.work.groups ∧
      findInval t v.id = some { v with waitFor := v.waitFor.filter (fun c => decide (c ≠ core)) } ∧
      (t.core core).fetched = (s.core core).fetched.filter (fun e => !v.inFrames core e.1)) ∧
    (∀ h, drained s v core = true → v.waitFor = [core] → v.byGroup = some h → ∃ t, exec (.invalidationAck core v.id) s = .next t ∧
      findInval t v.id = none ∧ (t.grp h).ctl.invs = (s.grp h).ctl.invs.filter (fun i => decide (i ≠ v.id)))) ∧
  (∀ (v : Inval) (tag : BitVec 16) (b : BReg), v.coversB tag b = true →
    v.clearB tag b = ⟨b.vbase, 0, 0, 0⟩)

/-- CTXSV and CTXRS (R334, R335, R396, R397): CTXSV of a group with nothing outstanding, no unfinished task and no lane to kill writes the image of Table 15-10, complete
with its check word, and the group issues nothing more: scalars, frame, knots, b and d registers, uniform registers and predicates with the user's bank in
place of the supervisor's, lanes, replay entries, vector data and shadows. CTXRS loads each of these from a matching image, b registers with VBASE alone (R357),
the bank's names into the bank; an image that does not match loads nothing. p7 says which. A reserved bound of an image is read as unbounded (R96), and no budget exceeds its largest
value (R107). CTXSV waits for the group's tasks (R253).

That the image lies at a physical address is the model's choice (log entry 40), and so is that what a waiting lane passes over (log entry 15)
is kept beside the image (log entry 20). -/
def Obligations.ContextImages : Prop :=
  ∀ (a : Reg) (s : State),
    let pa := (s.cur.rd.s s.pk a.toNat).data.toNat
    let g := s.curG
    (Issuing s (.ctxsv a) → g.sp.sv = true → pa % 4096 = 0 → (g.frame.tcause.toNat % 256 ∈ [0x2E, 0x2F] ∨ preqOf s g = true) → g.outst = [] →
      groupTasks s g = [] → g.soft = [] → g.bank.soft = [] → g.frame.killm = 0 → (∀ p ∈ s.mem.pend, p.h ≠ s.cur.h ∧ p.core ≠ g.core) → (g.width = 16 ∨ g.width = 32 ∨ g.width = 64) → g.regs < 256 → g.gid < 2 ^ 32 →
      (∀ t, s.team? g.launch g.team = some t → t.hdrBad = false) →
      ∃ t, exec (.ctxsv a) s = .next t ∧ t.curG.ctl.saved = true ∧ t.curG.ctl.saving = false ∧ t.curG.r = g.r ∧
        imageOk t pa g = true ∧ SameBytes s t [(pa, groupImageSize g.width g.regs)] ∧
        (∀ n l, n < g.regs → l < g.width →
          t.num (pa + 0xE000 + 4 * (n * g.width + l)) 4 = (g.vAt n l).data.toNat) ∧
        (∀ n, n < 56 → t.num (pa + 0x800 + 8 * n) 8 = (g.sAt n).data.toNat) ∧
        (∀ n l, n < g.regs → l < g.width →
          t.num (pa + 0xE000 + 4 * (g.width * g.regs) + 2 * (n * g.width + l)) 2 = (g.vAt n l).eb.toNat) ∧
        (∀ n, n < 56 → t.num (pa + 0xA00 + 2 * n) 2 = (g.sAt n).eb.toNat) ∧
        (∀ n l, n < 7 → l < g.width → t.mem.byte (pa + 0xC00 + 64 * n + l) = g.p n l) ∧
        (∀ k, k < 8 → t.num (pa + 0x300 + 32 * k) 8 = (g.k k).enrolled.toNat ∧ t.num (pa + 0x308 + 32 * k) 8 = (g.k k).arrived.toNat ∧
          t.num (pa + 0x310 + 32 * k) 8 = (g.k k).joinPc.toNat ∧ t.num (pa + 0x318 + 32 * k) 8 = b2n (g.k k).armed) ∧
        (∀ n, n < 7 → t.num (pa + 0x500 + 24 * n) 8 = (g.b n).vbase.toNat ∧ t.num (pa + 0x508 + 24 * n) 8 = (g.b n).pbase.toNat ∧
          t.num (pa + 0x510 + 24 * n) 4 = (g.b n).limit.toNat ∧ t.num (pa + 0x514 + 24 * n) 4 = (g.b n).attr.toNat) ∧
        (∀ n, n < 16 → t.num (pa + 0x600 + 16 * n) 16 = (g.d n).toNat) ∧
        ([g.frame.tcause.toNat, g.frame.tpayload.toNat, g.frame.tmask.toNat, g.frame.pcm.toNat, g.frame.tpc.toNat, g.frame.tstamp.toNat, 0,
          g.replay.length].zipIdx.all (fun x => decide (t.num (pa + 0x400 + 8 * x.2) 8 = x.1 % 2 ^ 64)) = true) ∧
        (t.num (pa + 0x108) 8 = g.sp.ebud.toNat ∧ t.num (pa + 0x110) 8 = g.sp.chandler.toNat ∧ t.num (pa + 0x118) 8 = g.sp.ctxclk.toNat) ∧
        (g.lanes.length = g.width → ∀ l, l < g.width → t.num (pa + 0xE00 + 64 * l) 8 = (g.lane l).epc.toNat ∧
          t.num (pa + 0xE08 + 64 * l) 8 = lstateOf (g.lane l).lst ∧ t.num (pa + 0xE30 + 64 * l) 8 = 0) ∧
        (g.replay.length ≤ 24 → ∀ i e, g.replay[i]? = some e → ∀ w, w < 4 →
          t.num (pa + 0x2000 + 2048 * i + 8 * w) 8 = entryHeader e w ∧
          ∀ l, l < 64 → t.num (pa + 0x2020 + 2048 * i + 24 * l + 4 * w) 4 = (Tb.get VCell.zero e.slots (8 * l + w)).data.toNat ∧
            t.num (pa + 0x2030 + 2048 * i + 24 * l + 2 * w) 2 = (Tb.get VCell.zero e.slots (8 * l + w)).eb.toNat) ∧
        ∀ (c : Nat → SCell) (p : Nat → Byte) (b7 : BReg),
          g.bank = ⟨(List.range 8).map (fun i => (i, c i)), (List.range g.width).map (fun l => (l, p l)), b7, []⟩ →
          (∀ i, i < 8 → t.num (pa + 0x9C0 + 8 * i) 8 = (c i).data.toNat ∧ t.num (pa + 0xA70 + 2 * i) 2 = (c i).eb.toNat) ∧
          (∀ l, l < g.width → t.mem.byte (pa + 0xDC0 + l) = p l) ∧ t.num (pa + 0x5A8) 8 = b7.vbase.toNat) ∧
    (Issuing s (.ctxsv a) → pa % 4096 ≠ 0 → exec (.ctxsv a) s = .next (illegal s)) ∧
    (Issuing s (.ctxsv a) → pa % 4096 = 0 → (g.frame.tcause.toNat % 256 ∈ [0x2E, 0x2F] ∨ preqOf s g = true) → groupTasks s g ≠ [] →
      exec (.ctxsv a) s = .next (stall s 0)) ∧
    (Issuing s (.ctxrs a) → g.sp.rst = true → g.ctl.ctxrsUsed = false → g.width ≤ 64 →
      ∃ t, exec (.ctxrs a) s = .next t ∧ t.curG.ctl.ctxrsUsed = true ∧
        (∀ l, l < g.width → t.curG.pAt 7 l = mkPred (imageOk s pa g) false) ∧
        (imageOk s pa g = false → t.curG.ctl.restFailed = true ∧ t.curG.lanes = g.lanes ∧ t.curG.r = { g.r with p := t.curG.r.p } ∧
          (∀ n l, n ≠ 7 → l < 64 → t.curG.pAt n l = g.pAt n l) ∧ t.curG.bank = g.bank ∧ t.curG.sp = g.sp ∧ t.curG.frame = g.frame ∧
          t.curG.arr = g.arr ∧ t.curG.replay = g.replay ∧ t.curG.outst.map Entry.plain = g.outst.map Entry.plain) ∧
        (imageOk s pa g = true → t.mem = s.mem ∧ t.curG.lanes.length = g.lanes.length ∧
          (∀ l, l < g.lanes.length → (t.curG.lane l).epc = BitVec.ofNat 48 (s.num (pa + 0xE00 + 64 * l) 8) ∧
            (t.curG.lane l).lst = ofLstate (s.num (pa + 0xE08 + 64 * l) 8) (noteNum (noteOf s pa) (0xE30 + 64 * l) 1)) ∧
          (∀ n l, n < g.regs → l < g.width → t.curG.vAt n l =
            ⟨BitVec.ofNat 32 (s.num (pa + 0xE000 + 4 * (n * g.width + l)) 4),
             ebRead (BitVec.ofNat 16 (s.num (pa + 0xE000 + 4 * (g.width * g.regs) + 2 * (n * g.width + l)) 2))⟩) ∧
          (∀ n, n < 56 → t.curG.sAt n =
            ⟨BitVec.ofNat 64 (s.num (pa + 0x800 + 8 * n) 8), ebRead (BitVec.ofNat 16 (s.num (pa + 0xA00 + 2 * n) 2))⟩) ∧
          t.curG.sp.ebud.toNat ≤ 0xFF00 ∧
          (∀ n, 56 ≤ n → t.curG.sAt n = g.sAt n) ∧ t.curG.frame.tcause = BitVec.ofNat 11 (s.num (pa + 0x400) 8) ∧
          (∀ n l, 0 < n → n < 7 → l < g.width → t.curG.pAt n l = s.mem.byte (pa + 0xC00 + 64 * n + l)) ∧
          (∀ k, k < 8 → t.curG.k k = ⟨BitVec.ofNat 64 (s.num (pa + 0x300 + 32 * k) 8), BitVec.ofNat 64 (s.num (pa + 0x308 + 32 * k) 8),
            BitVec.ofNat 48 (s.num (pa + 0x310 + 32 * k) 8), decide (s.num (pa + 0x318 + 32 * k) 8 % 2 = 1)⟩) ∧
          (∀ n, n < 7 → t.curG.b n = ⟨BitVec.ofNat 57 (s.num (pa + 0x500 + 24 * n) 8), 0, 0, 0⟩) ∧ t.curG.b 7 = g.b 7 ∧
          (∀ n j, n < 16 → j < 128 → (t.curG.d n).getLsbD j = (decide (j ≠ 57) && (s.num (pa + 0x600 + 16 * n) 16).testBit j)) ∧
          (∀ n, n < 8 → Tb.get SCell.zero t.curG.bank.s n =
            ⟨BitVec.ofNat 64 (s.num (pa + 0x9C0 + 8 * n) 8), ebRead (BitVec.ofNat 16 (s.num (pa + 0xA70 + 2 * n) 2))⟩) ∧
          (∀ l, l < g.width → Tb.get 0 t.curG.bank.p l = s.mem.byte (pa + 0xDC0 + l)) ∧
          t.curG.bank.b = ⟨BitVec.ofNat 57 (s.num (pa + 0x5A8) 8), 0, 0, 0⟩ ∧
          t.curG.frame = ⟨BitVec.ofNat 11 (s.num (pa + 0x400) 8), BitVec.ofNat 64 (s.num (pa + 0x408) 8), BitVec.ofNat 64 (s.num (pa + 0x410) 8),
            BitVec.ofNat 64 (s.num (pa + 0x418) 8), BitVec.ofNat 48 (s.num (pa + 0x420) 8), BitVec.ofNat 64 (s.num (pa + 0x428) 8),
            BitVec.ofNat 64 (s.num (pa + 0x430) 8)⟩ ∧
          t.curG.sp.flags = BitVec.ofNat 5 (s.num (pa + 0x100) 8) ∧ t.curG.sp.chandler = BitVec.ofNat 48 (s.num (pa + 0x110) 8) ∧
          t.curG.sp.ctxclk = BitVec.ofNat 64 (s.num (pa + 0x118) 8) ∧
          t.curG.replay.length = min 24 (s.num (pa + 0x438) 8) ∧
          ∀ i e, t.curG.replay[i]? = some e →
            let q := pa + 0x2000 + 2048 * i
            e.word = BitVec.ofNat 32 (s.num q 8) ∧ e.held = (s.num q 8).testBit 62 ∧ e.pc = BitVec.ofNat 48 (s.num (q + 8) 8) ∧
            e.mask = BitVec.ofNat 64 (s.num (q + 16) 8) ∧ e.uop = BitVec.ofNat 64 (s.num (q + 24) 8) ∧
            ∀ iw, decodeWord e.word = .ok iw → e.instr = iw.i ∧ e.valid = (s.num q 8).testBit 63 ∧
              ((∀ d b, iw.i ≠ .bxlt d b) → ∀ l k, l < 64 → k < 4 → Tb.get VCell.zero e.slots (8 * l + k) =
                ⟨BitVec.ofNat 32 (s.num (q + 32 + 24 * l + 4 * k) 4), ebRead (BitVec.ofNat 16 (s.num (q + 48 + 24 * l + 2 * k) 2))⟩))) ∧
    (Issuing s (.ctxrs a) → (g.sp.rst = false ∨ g.ctl.ctxrsUsed = true) → exec (.ctxrs a) s = .next (illegal s))

/-- KILL, KILL.team, KILL.dump and HALT (R338, R339, R381): KILL adds lanes to KILLM; KILL.team and KILL.dump end the launch with the
cause of the trap served, every resident team of it dead, its groups' lanes DONE and their results discarded, but for a group within an
instruction, which dies at its end (R338); HALT halts the group.

The dump (R343, R344, R435): for a function that discloses dumps at FULL and has an area, KILL.dump makes one core dump of a team, with the
launch, the team, the function, the time, the cause and payload of the trap, every group of the team as it stands, its stores on their way and its
tasks, and the driver's ranges; below COARSE or without an area there is none, and KILL.team makes none.

One KILL entry for each launch kill, and which ranges the driver names, are the model's choice (log entry 41); that a killed group first
completes a store or an atomic that is accepted in part is log entry 7. -/
def Obligations.KillsAndHalt : Prop :=
  ∀ (a : Reg) (s : State),
    let g := s.curG
    (Issuing s (.kill a) → exec (.kill a) s = .next (s.upG (fun g => { g with frame :=
      { g.frame with killm := g.frame.killm ||| (s.cur.rd.s s.pk a.toNat).data } }))) ∧
    (Issuing s .halt → exec .halt s = .next (s.upG (fun g => { g with ctl := { g.ctl with halted := true } }))) ∧
    (∀ i ∈ [Instr.killTeam, .killDump], ∀ l, Issuing s i → s.launch? g.launch = some l → l.ending = .none → s.mem.bad = [] →
      s.mem.linkErr = [] →
      (∀ x ∈ s.work.groups, x.2.lanes.length ≤ 64 ∧ ∀ k, k < 8 → ∀ n, (x.2.k k).enrolled.getLsbD n = true →
        n < x.2.lanes.length ∧ (x.2.lane n).st ≠ .done) →
      ∃ t, exec i s = .next t ∧ t.dev.jseq = s.dev.jseq + 1 ∧ t.cur = s.cur ∧
        (∃ l', t.launch? g.launch = some l' ∧ l'.stopDispatch = true ∧ l'.savedTeams = [] ∧
          l'.ending = if g.ctl.restFailed then .restFail else .killed (BitVec.ofNat 8 (g.frame.tcause.toNat % 256))) ∧
        (∀ tm ∈ t.work.teams, tm.launch = g.launch → tm.dead = true) ∧
        (∀ h x, Tb.get? t.work.groups h = some x → x.launch = g.launch → (∃ tm ∈ s.work.teams, tm.launch = x.launch ∧ tm.id = x.team) →
          if killWaits s (s.grp h) = true then x.ctl.dying = true
          else x.outst = [] ∧ x.replay = [] ∧ x.ctl.dead = true ∧ ∀ y ∈ x.lanes, y.st = .done) ∧
        (i = .killTeam ∨ levelOf s l.func 4 < 2 ∨ (s.func l.func).dumpSize = 0 → t.dev.dumps = s.dev.dumps) ∧
        (∀ tm, i = .killDump → levelOf s l.func 4 = 3 → (s.func l.func).dumpSize ≠ 0 → tm.launch = g.launch →
          s.work.teams.filter (fun x => decide (x.launch = g.launch)) = [tm] →
          ∃ d, t.dev.dumps = s.dev.dumps ++ [d] ∧ d.launch = l.number ∧ d.team = tm.id ∧ d.func = l.func ∧ d.tstamp = s.now ∧
            d.cause = g.frame.tcause.toNat % 256 ∧ d.payload = g.frame.tpayload ∧ d.whole = true ∧ d.identity = Config.serial ∧
            d.groups.map (fun x => (x.frame, x.r, x.lanes, x.replay, x.sp)) =
              (s.teamGroups g.launch tm.id).map (fun h => ((s.grp h).frame, (s.grp h).r, (s.grp h).lanes, (s.grp h).replay, (s.grp h).sp)) ∧
            d.stores = s.mem.pend.filter (fun p => decide (p.launch = g.launch) && decide (p.team = tm.id)) ∧
            d.tasks = s.work.tasks.filter (fun x => decide (x.launch = g.launch) && decide (x.team = tm.id)) ∧
            d.memory.map (·.1) = (Config.dumpRanges l.func).map (·.1)))

/-! ### Teams: pre-emption, dispatch, retirement, saves, slices (R36 to R43, R389 to R398) -/

/-- Pre-emption and stops (R36 to R38, R340, R389). PREQ_REQUEST sets PREQ, starts the deadline, and marks parked and halted groups for
saving. A deadline that is over stops each group of the team, or one that met no region edge: in user mode it enters the
supervisor with PREEMPT, or with STOP and FORCED; in supervisor mode the stop waits, and a STOP waits while PREQ is set (R401). SLICE
gives the cluster to the next function when the time is over, or the holder has no candidate; with none of its launches starved nothing else changes.

Where the image of a requested team lies, and that a deadline saves a group in user mode that is halted, are the model's choice (log
entry 23). -/
def Obligations.PreemptionAndStops : Prop :=
  (∀ (k n : Nat) (l : Launch) (tm : Team) (s : State), s.launch? k = some l → s.team? k n = some tm →
    tm.preq = false → tm.dead = false → (s.die (dieOf tm.core)).off = false → (s.work.groups.map (·.1)).Nodup →
    ∃ t, exec (.preqRequest k n) s = .next t ∧ t.mem = s.mem ∧
      t.team? k n = some { tm with preq := true, preqCnt := 0, preqLim := (s.func l.func).deadline,
                                        image := (placeImage s l tm).getD 0 } ∧
      ∀ h ∈ s.teamGroups k n, (t.grp h).ctl.saving = ((s.grp h).ctl.saving || parked (s.grp h) || (s.grp h).ctl.halted) ∧
        (t.grp h).lanes = (s.grp h).lanes ∧ (t.grp h).r = (s.grp h).r) ∧
  (∀ (k n h : Nat) (tm : Team) (s : State), s.team? k n = some tm → s.teamGroups k n = [h] → tm.preq = true →
    tm.preqLim ≤ tm.preqCnt → tm.image ≠ 0 → (s.work.groups.map (·.1)).Nodup → slotOf (vectorPc s 0x2F) ≠ 3 →
    let g := s.grp h
    g.ctl.saved = false → g.ctl.saving = false → g.ctl.dead = false → g.rejected = none → (s.die (dieOf g.core)).off = false →
    ∃ t, exec (.preEmptionDeadline k n) s = .next t ∧ t.mem = s.mem ∧
      let g' := t.grp h
      (g.sp.sv = true → g' = { g with ctl := { g.ctl with preemptPend := true } }) ∧
      (g.sp.sv = false → (g.ctl.halted = true ∨ ∀ x ∈ g.lanes, x.st = .done) → g' = { g with ctl := { g.ctl with saving := true } }) ∧
      (g.sp.sv = false → g.ctl.halted = false → (∃ x ∈ g.lanes, x.st ≠ .done) →
        g'.sp = { g.sp with sv := true } ∧ g'.frame.tcause = 0x2F ∧ g'.lanes.length = g.lanes.length ∧ g'.outst = [] ∧
        g'.replay.length = g.outst.length ∧
        ∀ l, l < g.lanes.length → (g.lane l).st ≠ .done →
          g'.lane l = ⟨vectorPc s 0x2F, .run, (g.lane l).pc, (g.lane l).st⟩)) ∧
  (∀ (h : Nat) (s : State), (Tb.get? s.work.groups h).isSome = true →
    let g := s.grp h
    (preqOf s g = true → exec (.stopDeadline h) s = .next s) ∧
    (g.ctl.stopPend = true → g.ctl.stopLim ≤ g.ctl.stopCnt → g.ctl.saved = false → g.ctl.saving = false → g.ctl.dead = false →
    g.retired = false → preqOf s g = false → slotOf (vectorPc s 0x2E) ≠ 3 → g.rejected = none → (s.die (dieOf g.core)).off = false →
    ∃ t, exec (.stopDeadline h) s = .next t ∧ t.mem = s.mem ∧
      let g' := t.grp h
      (g.sp.sv = true → g' = { g with ctl := { g.ctl with stopForced := true } }) ∧
      (g.sp.sv = false → g'.sp = { g.sp with sv := true } ∧ g'.frame.tcause = 0x42E ∧ g'.ctl.stopPend = false ∧ g'.outst = [] ∧
        ∀ l, l < g.lanes.length → (g.lane l).st ≠ .done → g'.lane l = ⟨vectorPc s 0x2E, .run, (g.lane l).pc, (g.lane l).st⟩))) ∧
  (∀ (c : Nat) (s : State), let x := s.cluster c
    (x.sliceStart + (s.func x.holder).slice ≤ s.now ∨ ∀ l ∈ candidates s c, l.func ≠ x.holder) → starved s (nextHolder s c) c = none →
    exec (.slice c) s = .next (s.modCluster c (fun x => { x with holder := nextHolder s c, sliceStart := s.now })))

/-- DISPATCH (R14, R129, R391, R392): the next cluster is served; its best candidate's lowest undispatched team takes its place, with its
tiles, none of them a tile of a POND page (R129), its groups' lanes in RUN at the entry PC, and s0 = ARGS; a launch that lists no
barriers writes no memory, and the tiles hold no bounds. Without a
candidate no team is placed.

Barriers (R159, R444): each barrier object of the team's list is translated and initialised: phase 0, the team's lanes expected, none arrived, INIT set,
epoch 0, its other bytes 0; where one does not translate no team is placed, and the launch is killed with the code.

Restore (R398): the lowest saved team of a launch comes before a fresh one; its tiles and their bounds come from its image, and its groups start
in supervisor mode with RST at the vector 0x3F.

Which free tiles and places a team takes, and that tiles lose the bounds of an earlier team, is the model's choice (log entry 56). -/
def Obligations.Dispatches : Prop :=
  (∀ (c : Nat) (s : State), c = s.dev.nextCluster →
    let u := noteCands s c
    ∃ t, exec (.dispatch c) s = .next t ∧ t.dev.nextCluster = (c + 1) % 32 ∧
      (bestCand u c = none → t.work.teams = s.work.teams ∧ t.work.groups = s.work.groups ∧ t.mem = s.mem) ∧
      (∀ l n core, bestCand u c = some l → nextTeam l = some (n, none) → candPlace u l c [] = some core → l.rc.nbar = 0 →
        (∀ x ∈ s.work.groups, ∃ q p, q < 4 ∧ p < 16 ∧ x.2.sched = q ∧ x.2.place = p ∧ x.1 = mkHandle x.2.core q p) →
        t.mem = { s.mem with bounds := t.mem.bounds } ∧
        (∃ tm, t.work.teams = s.work.teams ++ [tm] ∧ tm.launch = l.key ∧ tm.id = n ∧ tm.core = core ∧ tm.pair = l.rc.pair ∧
          tm.lanes = l.rc.lanes ∧ tm.preq = false ∧ tm.dead = false ∧ tm.barPa = [] ∧ tm.tiles = pickTiles s l.rc core l.rc.pair ∧
          ∀ x ∈ tm.tiles, x % 64 ∉ pageTiles s.mem (x / 64) ∧
            ∀ k, k < 1024 → t.mem.bound (pondPa (x / 64) (x % 64) (32 * k)) = 0) ∧
        ∀ gid, gid < l.rc.groups → ∃ h g, Tb.get? t.work.groups h = some g ∧ Tb.get? s.work.groups h = none ∧
          g.launch = l.key ∧ g.team = n ∧ g.gid = gid ∧ g.width = l.rc.width ∧ g.regs = l.rc.regs ∧
          g.core = coreOfGroup core l.rc.pair gid ∧ g.sched = schedOfGroup l.rc.pair gid ∧ g.sAt 0 = ⟨l.rc.args, 0⟩ ∧
          (∀ j, j ≠ 0 → g.sAt j = SCell.zero) ∧ g.r.v = [] ∧ g.r.p = [] ∧ g.sp.sv = false ∧ g.sp.ebud = l.rc.ebud ∧
          g.sp.tag = l.tag ∧ g.sp.flags = 0 ∧ g.lanes.length = l.rc.width ∧
          ∀ i, i < l.rc.width → (g.lane i).pc = l.rc.entry.setWidth 48 ∧
            (g.lane i).st = if gid * l.rc.width + i < l.rc.lanes then .run else .done)) ∧
  (∀ (c n core : Nat) (l : Launch) (s : State), c = s.dev.nextCluster →
    let u := noteCands s c
    bestCand u c = some l → candPlace u l c [] = some core →
    (nextTeam l = some (n, none) → ∀ v,
      (∀ ps, barrierPas l.tag.toNat u (barrierVas l.rc n) = (v, .inl ps) → (∀ p ∈ ps, p % 32 = 0) → ps.Nodup → l.rc.lanes < 2 ^ 16 →
        ∃ t, exec (.dispatch c) s = .next t ∧ (∃ tm ∈ t.work.teams, tm.launch = l.key ∧ tm.id = n ∧ tm.barPa = ps) ∧
          ∀ p ∈ ps, readBar t p = ⟨0, l.rc.lanes, 0, 1, 0⟩ ∧ ∀ k, 8 ≤ k → k < 32 → t.mem.byte (p + k) = 0) ∧
      (∀ e, barrierPas l.tag.toNat u (barrierVas l.rc n) = (v, .inr e) →
        let t := killLaunch v l.key e n 0 0 false none false
        exec (.dispatch c) s = .next { t with dev := { t.dev with nextCluster := (c + 1) % 32 } })) ∧
    (∀ a, nextTeam l = some (n, some a) → imageResident u a = [] → l.rc.nbar = 0 → slotOf (vectorPc u 0x3F) ≠ 3 →
      (∀ k, k < l.rc.imageSize → ∀ x, pmem (a + k) ≠ .pond x) →
      (∀ k, k < 8 → ∀ x, pmem (s.dev.vtab.toNat + 0x1F8 + k) ≠ .pond x) →
      (∀ x ∈ s.work.groups, ∃ q p, q < 4 ∧ p < 16 ∧ x.2.sched = q ∧ x.2.place = p ∧ x.1 = mkHandle x.2.core q p) →
      let pair := (u.num (a + 48) 1).testBit 1
      let tiles := pickTiles u l.rc core pair
      ∃ t, exec (.dispatch c) s = .next t ∧
        (∃ tm, t.work.teams = s.work.teams ++ [tm] ∧ tm.launch = l.key ∧ tm.id = n ∧ tm.core = core ∧ tm.image = a ∧ tm.tiles = tiles ∧
          tm.hdrBad = !headerOk u l n a) ∧
        (∀ i x, tiles[i]? = some x →
          (∀ k, k < 0x8000 → t.mem.byte (pondPa (x / 64) (x % 64) k) = s.mem.byte (a + 0x1000 + 0x8800 * i + k)) ∧
          ∀ k, k < 1024 → t.mem.bound (pondPa (x / 64) (x % 64) (32 * k)) =
            ebRead (BitVec.ofNat 16 (s.num (a + 0x9000 + 0x8800 * i + 2 * k) 2))) ∧
        SameBytes s t (tiles.map (fun x => (pondPa (x / 64) (x % 64) 0, 0x8000))) ∧
        ∀ gid, gid < l.rc.groups → ∃ h g, Tb.get? t.work.groups h = some g ∧ g.launch = l.key ∧ g.team = n ∧ g.gid = gid ∧
          g.sp.sv = true ∧ g.sp.rst = true ∧ g.lanes.length = l.rc.width ∧
          ∀ i, i < l.rc.width → gid * l.rc.width + i < l.rc.lanes → (g.lane i).pc = vectorPc u 0x3F ∧ (g.lane i).st = .run))

/-- RETIRE, TEAM_SAVE and VIRTUAL_TIME_ADD (R43, R390, R394, R420): a team whose groups have retired and whose tasks are finished leaves with
its groups, and so does one that was killed, once the kill has reached its groups; any other stays. On a die without power only a killed team
leaves. A team whose groups are saved leaves with its image complete: the header of Table 15-9 that
matches its launch, with its check word (R396), and after it the bytes and bounds of each tile; no byte outside the image changes but the
journal's entry, and its launch lists the image. At a retirement, at a save and every 100 µs a process's virtual time grows by the lane time of
its resident teams over its weight.

Which turn adds the virtual time is the model's choice (log entry 1). -/
def Obligations.TeamsLeave : Prop :=
  let aged := fun (s t : State) (f p : Nat) =>
    let old := Tb.get Proc.reset (s.func f).procs p
    let mine := fun (x : Team) => match s.launch? x.launch with | some l => decide (l.func = f) && decide (l.proc = p) | none => false
    let sum := ((s.work.teams.filter mine).map (fun x => x.lanes * (s.now - x.resident))).sum
    (Tb.get Proc.reset (t.func f).procs p).vtime = old.vtime + BitVec.ofNat 64 ((sum + old.weight - 1) / old.weight)
  (∀ (k n : Nat) (tm : Team) (s : State), s.team? k n = some tm →
    let off := (s.die (dieOf tm.core)).off
    let ok := ∀ h ∈ s.teamGroups k n,
      if tm.dead = true then off = true ∨ (s.grp h).ctl.dying = false else off = false ∧ groupRetired (s.grp h) = true
    (ok → openTasks s tm = [] → (∀ p ∈ s.mem.pend, p.h ∉ s.teamGroups k n) → (∀ h ∈ s.teamGroups k n, (s.grp h).outst = []) →
      ∃ t, exec (.retire k n) s = .next t ∧ t.mem = s.mem ∧
        (∀ x ∈ t.work.teams, ¬ (x.launch = k ∧ x.id = n)) ∧ (∀ l, s.launch? k = some l → tm.launch = k → aged s t l.func l.proc) ∧
        t.work.groups = s.work.groups.filter (fun e => !(decide (e.2.launch = k) && decide (e.2.team = n))) ∧
        t.work.tasks = s.work.tasks.filter (fun e => !(decide (e.launch = k) && decide (e.team = n)))) ∧
    ((¬ ok ∨ (openTasks s tm ≠ [] ∧ ¬ (off = true ∧ tm.dead = true))) → exec (.retire k n) s = .next s)) ∧
  (∀ (k n : Nat) (tm : Team) (l : Launch) (s : State), s.team? k n = some tm → s.launch? k = some l →
    tm.image ≠ 0 → tm.dead = false → tm.launch = k → (s.die (dieOf tm.core)).off = false →
    (∀ h ∈ s.teamGroups k n, (s.grp h).ctl.saved = true) →
    (∃ h, h ∈ s.teamGroups k n) → openTasks s tm = [] →
    (∀ c, c = tm.core ∨ c = tm.core + 1 → ∀ b ∈ (s.core c).banks, ¬ (b.2.launch = k ∧ b.2.team = n)) →
    tm.tiles.length = l.rc.tiles → n < 2 ^ 32 → l.rc.tiles < 2 ^ 16 → l.rc.regs < 256 → l.rc.groups < 2 ^ 16 →
    (l.rc.width = 16 ∨ l.rc.width = 32 ∨ l.rc.width = 64) →
    (l.rc.team.1 ≤ 2 ^ 16 ∧ l.rc.team.2.1 ≤ 2 ^ 16 ∧ l.rc.team.2.2 ≤ 2 ^ 16) →
    (∀ k, k < l.rc.imageSize → ∀ x, pmem (tm.image + k) ≠ .pond x) →
    (let e := 0x8000100000 + 64 * (s.dev.jseq % 65536)
     e + 64 ≤ tm.image ∨ tm.image + l.rc.imageSize ≤ e) →
    ∃ t, exec (.teamSave k n) s = .next t ∧ t.dev.jseq = s.dev.jseq + 1 ∧
      t.num tm.image 4 = 1 ∧
      t.num (tm.image + 4) 4 = crc32c (toBytes 4 1 ++ toBytes 4 0 ++ t.mem.bytes (tm.image + 8) 4088) ∧ headerOk t l n tm.image = true ∧
      (t.num (tm.image + 48) 1).testBit 1 = tm.pair ∧ imageResident t tm.image = [] ∧
      (∀ i x, tm.tiles[i]? = some x →
        (∀ j, j < 0x8000 → t.mem.byte (tm.image + 0x1000 + 0x8800 * i + j) = s.mem.byte (pondPa (x / 64) (x % 64) j)) ∧
        ∀ j, j < 1024 → t.num (tm.image + 0x9000 + 0x8800 * i + 2 * j) 2 = (s.mem.bound (pondPa (x / 64) (x % 64) (32 * j))).toNat) ∧
      SameBytes s t [(tm.image, l.rc.imageSize), (0x8000100000 + 64 * (s.dev.jseq % 65536), 64)] ∧
      (∀ x ∈ t.work.teams, ¬ (x.launch = k ∧ x.id = n)) ∧ (∀ e ∈ t.work.groups, ¬ (e.2.launch = k ∧ e.2.team = n)) ∧
      aged s t l.func l.proc ∧ ∃ l', t.launch? k = some l' ∧ l'.savedTeams = l.savedTeams ++ [(n, tm.image)]) ∧
  (∀ (s : State),
    (s.now < s.dev.lastVt + 100000 → exec .virtualTimeAdd s = .next s) ∧
    (s.dev.lastVt + 100000 ≤ s.now → ∃ t, exec .virtualTimeAdd s = .next t ∧ t.mem = s.mem ∧ t.work.groups = s.work.groups ∧
      t.dev.lastVt = s.now ∧
      ∀ f p, (f, p) ∈ residentProcs s → aged s t f p))

/-! ### Power and observation (R140, R393, R413 to R432) -/

/-- Clusters, retention and watch copies: an idle cluster begins its gating sequence after 100 µs, is gated 2 µs later, and wakes with
its teams (R393); a bank that was not accessed for 2^20 cycles enters retention, an access that meets it there waits while it leaves, and
no byte changes (R140); a lowered cell reaches a core's watch copy, which
never rises (R165, R166).

Which clock counts for a bank of the Tarn is the model's choice (log entry 24). -/
def Obligations.GatingAndRetention : Prop :=
  ∀ (c b core pa : Nat) (s : State),
    let x := s.cluster c
    (x.gated = false → x.gating = false → x.waking = false → clusterIdle s c = true → x.idleSince + 100000 ≤ s.now →
      (s.dev.nextCluster ≠ c ∨ bestCand s c = none) →
      exec (.clusterGate c) s = .next (s.modCluster c (fun x => { x with gating := true, idleSince := s.now }))) ∧
    ((x.gated = true ∨ clusterIdle s c = false ∨ s.now < x.idleSince + 100000) → exec (.clusterGate c) s = .next s) ∧
    (x.gating = true → x.idleSince + 2000 ≤ s.now →
      exec (.gatingSequenceEnd c) s = .next (s.modCluster c (fun x => { x with gating := false, gated := true }))) ∧
    (∃ t, exec (.clusterWakeEnd c) s = .next t ∧ (t.cluster c).waking = false ∧ t.mem = s.mem ∧ t.work.groups = s.work.groups ∧
      t.work.teams = s.work.teams.map (fun u => if u.core / 8 = c then { u with waking := false } else u)) ∧
    (∃ t, exec (.retentionEntry b) s = .next t ∧ t.mem.cells = s.mem.cells ∧ t.mem.bounds = s.mem.bounds ∧
      ((bankSt s b).1 = .active → (bankSt s b).2 + 2 ^ 20 ≤ bankClk s b → bankSt t b = (.entering, bankClk s b))) ∧
    (∃ t, exec (.retentionEntryEnd b) s = .next t ∧ t.mem.cells = s.mem.cells ∧ t.mem.bounds = s.mem.bounds ∧
      ((bankSt s b).1 = .entering → (bankSt s b).2 + 512 ≤ bankClk s b → bankSt t b = (.retained, bankClk s b))) ∧
    ((bankSt s b).1 = .retained → (reachBanks s [b]).1 = false ∧ bankSt (reachBanks s [b]).2 b = (.exiting, bankClk s b)) ∧
    (∃ t, exec (.retentionExit b) s = .next t ∧ t.mem.cells = s.mem.cells ∧ t.mem.bounds = s.mem.bounds ∧
      ((bankSt s b).1 = .exiting → (bankSt s b).2 + 256 ≤ bankClk s b → bankSt t b = (.active, bankClk s b))) ∧
    (∀ v : DWord, s.mem.watchUpd.find? (fun e => decide (e.1 = core) && decide (e.2.1 = pa)) = some (core, pa, v) →
      ∃ t, exec (.watchCopyUpdate core pa) s = .next t ∧ t.mem.cells = s.mem.cells ∧
        (t.core core).watch = (s.core core).watch.map (fun e => if e.1 = pa ∧ v.toInt < e.2.toInt then (pa, v) else e))

/-- Clock points, sprints, grants and temperature (R413, R416, R417, R420). A step that ends gives the die its point, and the next step down
that it owes begins; a sprint begins as a die reaches point 4 or 5 and ends, with a cool-down, as a step below them begins or after
250 ms, when the die steps down to point 3. In grant mode a grant holds for 100 µs, a die above its point steps down to it, one
below may step up, and an expired grant takes the die to point 0. A sensor fault leads to grant mode; a hot die steps down once in
100 µs until it is below 95 °C; shutdown takes power from every die and posts an entry. The mode that POWER asked for is taken with
the next grant or sample (R419).

WEIR_SAMPLE in normal service, with no sprint or step under way (R414, R415, R423): the sample enters the averages of the last second
and the last 10 µs; three samples in a row over the peak cap with every die at point 0 throttle, a fourth sets PREQ for the team that each die
with power dispatched last, and no other, and one hundred within both caps end that; over a cap exactly the die with the largest charge above point 0 begins a step down, unless it stepped down for its temperature
in this sample, and no die begins a step up. In grant mode nothing changes.

While a die sprints the cap of the average weir is C_sprint. A step to a sprint point begins only with sprints enabled, out of cool-down, without a throttle
and with the average weir below C_avg (R416).

Which die steps up is a free value (log entry 33). The same entry's choices are that the die with the largest charge is taken among those that have
power and a point above 0, that a sensor fault drops the mode asked for, that a die in grant mode without a grant steps down at the expiry, and that the mode asked
for keeps the grants where it is the mode in force. -/
def Obligations.PowerArbiter : Prop :=
  (∀ (d n p w : Nat) (s : State),
     let x := s.die d
     let dies := fun (i : Instr) (f : Die → Die) => exec i s = .next (s.modDie d f)
     let tEnd := s.now + 500000000
     let sprint := fun (q : Nat) (x : Die) =>
       if 4 ≤ q then (if x.sprintAt = none ∧ cooling s d = false then { x with sprintAt := some s.now } else x)
       else if x.sprintAt ≠ none then { x with sprintAt := none, coolUntil := some tEnd } else x
     let still := x.off = false ∧ x.step = none ∧ x.owed = 0
     (x.step = some p → x.off = false → (x.owed = 0 ∨ p = 0) →
       dies (.vfStepEnd d) (fun x => sprint p { x with point := p, step := none })) ∧
     (x.step = some p → x.off = false → 0 < x.owed → 0 < p →
       dies (.vfStepEnd d) (fun x => sprint (p - 1) { x with point := p, step := some (p - 1), owed := x.owed - 1 })) ∧
     ((x.step = none ∨ x.off = true) → exec (.vfStepEnd d) s = .next s) ∧
     (∀ t0, x.sprintAt = some t0 →
       (t0 + 250000000 ≤ s.now → still → (x.point = 4 ∨ x.point = 5) → dies (.sprintLimit d)
         (fun x => { x with sprintAt := none, coolUntil := some tEnd, step := some (x.point - 1), owed := x.point - 4 })) ∧
       (s.now < t0 + 250000000 → exec (.sprintLimit d) s = .next s)) ∧
     (∀ t0, x.coolUntil = some t0 → t0 ≤ s.now → dies (.coolDownEnd d) (fun x => { x with coolUntil := none })) ∧
     (s.pw.grantMode = true → s.pw.modeNext = none →
       let g := fun (x : Die) => { x with grant := some (n, p, s.now + 100000) }
       (still → p < x.point → dies (.grant d n p)
         (fun x => sprint (x.point - 1) { g x with step := some (x.point - 1), owed := x.point - p - 1 })) ∧
       (still → p = x.point → exec (.grant d n p) s = .next { s.modDie d g with free := s.free + 1 }) ∧
       (still → x.point < p → x.point < 3 → x.sprintAt = none →
         exec (.grant d n p) s = .next { s.modDie d g with free := s.free + 1 } ∨
         (x.hot = false ∧ exec (.grant d n p) s =
           .next { s.modDie d (fun x => { g x with step := some (x.point + 1) }) with free := s.free + 1 }))) ∧
     (s.pw.grantMode = false → s.pw.modeNext = none → exec (.grant d n p) s = .next s) ∧
     (s.pw.modeNext = some true → ∃ t, exec (.grant d n p) s = .next t ∧ t.pw = { s.pw with grantMode := true, modeNext := none } ∧
       (t.die d).grant = some (n, p, s.now + 100000) ∧
       ∀ k, k < 8 → k ≠ d → (t.die k).grant = if s.pw.grantMode then (s.die k).grant else none) ∧
     (s.pw.grantMode = true → s.pw.modeNext = some false →
       ∃ t, exec (.grant d n p) s = .next t ∧ t.pw = { s.pw with grantMode := false, modeNext := none, sensorBad := false } ∧
         ∀ k, k < 8 → (t.die k).grant = none) ∧
     (s.pw.grantMode = true → x.off = false →
       (∀ t0, x.grant = some (n, p, t0) → t0 < s.now →
         dies (.grantExpiry d) (fun x => sprint 0 { x with grant := none, point := 0, step := none, owed := 0 })) ∧
       (∀ t0, x.grant = some (n, p, t0) → s.now ≤ t0 → exec (.grantExpiry d) s = .next s) ∧
       (x.grant = none → still → 0 < x.point →
         dies (.grantExpiry d) (fun x => sprint (x.point - 1) { x with step := some (x.point - 1), owed := x.point - 1 }))) ∧
     (exec .sensorFault s = .next { s with pw := { s.pw with grantMode := true, modeNext := none, sensorBad := true } }) ∧
     dies (.thermalLimit d) (fun x => { x with hot := true }) ∧
     (x.hot = true → w < 95 → dies (.thermalStep d w) (fun x => { x with hot := false })) ∧
     (x.hot = true → 95 ≤ w → still → 0 < x.point → (∀ t0, x.hotAt = some t0 → t0 + 100000 ≤ s.now) →
       (∀ t0, x.weirAt = some t0 → t0 + 1000 ≤ s.now) →
       dies (.thermalStep d w) (fun x => { sprint (x.point - 1) { x with step := some (x.point - 1) } with hotAt := some s.now })) ∧
     (x.hot = true → 95 ≤ w → (∃ t0, x.hotAt = some t0 ∧ s.now < t0 + 100000) → exec (.thermalStep d w) s = .next s) ∧
     (x.hot = false → exec (.thermalStep d w) s = .next s) ∧
     (∃ t, exec (.thermalShutdown d) s = .next t ∧ t.dev.jseq = s.dev.jseq + 1 ∧ t.work = s.work ∧
       ∀ k, k < 8 → (t.die k).off = true ∧ (t.die k).step = none)) ∧
  (∀ (w : Nat) (s : State),
     (s.pw.grantMode = true → exec (.weirSample w) s = .next s) ∧
     (s.pw.grantMode = false → s.pw.modeNext = some true →
       ∃ t, exec (.weirSample w) s = .next t ∧ t.pw = { s.pw with grantMode := true, modeNext := none } ∧
         ∀ k, k < 8 → (t.die k).grant = none) ∧
     (s.pw.grantMode = false → s.pw.modeNext = none →
       (∀ d, d < 8 → (s.die d).sprintAt = none ∧ (s.die d).point < 4 ∧ (s.die d).step = none ∧ (s.die d).owed = 0) →
       let xs := (s.now, w) :: s.pw.samples.filter (fun x => decide (s.now < x.1 + 1000000000))
       let since := fun (ns : Nat) => ((xs.filter (fun x => decide (s.now < x.1 + ns))).map (·.2)).sum
       let overPeak := decide (s.pw.cPeak * 10 < since 10000)
       let above := overPeak || decide (s.pw.cAvg * 1000000 < since 1000000000)
       let floor := (List.range 8).all (fun d => (s.die d).off || decide ((s.die d).point = 0))
       let run := if floor && overPeak then s.pw.overRun + 1 else 0
       let calm := if above then 0 else s.pw.calm + 1
       ∃ t, exec (.weirSample w) s = .next t ∧ t.mem = s.mem ∧
         t.pw = { s.pw with samples := xs, overRun := run, calm := calm,
                            throttle := if 3 ≤ run then true else if 100 ≤ calm then false else s.pw.throttle } ∧
         (run ≠ 4 → t.work = s.work) ∧
         (run = 4 → t.work.groups.map (·.1) = s.work.groups.map (·.1) ∧
           (∀ d tm, d < 8 → lastTeam s d = some tm → (s.die d).off = false → (s.launch? tm.launch).isSome = true →
             s.team? tm.launch tm.id = some tm → ∃ x, t.team? tm.launch tm.id = some x ∧ x.preq = true) ∧
           ∀ k n x y, s.team? k n = some x → t.team? k n = some y → y.preq = true → x.preq = true ∨
             ∃ d tm, d < 8 ∧ lastTeam s d = some tm ∧ tm.launch = k ∧ tm.id = n) ∧
         (above = true → ∀ d, d < 8 → t.die d =
           if hottest s = some d ∧ ∀ t0, (s.die d).hotAt = some t0 → t0 + 1000 ≤ s.now
           then { s.die d with step := some ((s.die d).point - 1), weirAt := some s.now } else s.die d) ∧
         (above = false → ∀ d, d < 8 → t.die d = s.die d ∨
           (t.die d = { s.die d with step := some ((s.die d).point + 1) } ∧ (s.die d).hot = false ∧ (s.die d).off = false))) ∧
     (s.pw.grantMode = false → s.pw.modeNext = none → (∃ d, d < 8 ∧ (s.die d).sprintAt ≠ none) →
       (∀ d, d < 8 → (∀ t0, (s.die d).sprintAt = some t0 → s.now < t0 + 250000000) ∧ (s.die d).step = none ∧ (s.die d).owed = 0) →
       let xs := (s.now, w) :: s.pw.samples.filter (fun x => decide (s.now < x.1 + 1000000000))
       let since := fun (ns : Nat) => ((xs.filter (fun x => decide (s.now < x.1 + ns))).map (·.2)).sum
       let above := s.pw.cPeak * 10 < since 10000 ∨ s.pw.cSprint * 1000000 < since 1000000000
       ∃ t, exec (.weirSample w) s = .next t ∧ t.mem = s.mem ∧ t.pw.samples = xs ∧
         (above → ∀ d, d < 8 → (t.die d).step =
           if hottest s = some d ∧ ∀ t0, (s.die d).hotAt = some t0 → t0 + 1000 ≤ s.now then some ((s.die d).point - 1) else none) ∧
         (¬ above → ∀ d, d < 8 → (t.die d).step = none ∨ (t.die d).step = some ((s.die d).point + 1)))) ∧
  (∀ (d n p w e q : Nat) (i : Instr) (s t : State), i ∈ [Instr.weirSample w, .grant d n p] → exec i s = .next t → 4 ≤ q →
     (s.die e).point < q → (t.die e).step = some q → (s.die e).step ≠ some q →
     s.pw.sprintEn = true ∧ t.pw.throttle = false ∧ (∀ t0, (s.die e).coolUntil = some t0 → t0 ≤ s.now) ∧
     ((t.pw.samples.filter (fun x => decide (s.now < x.1 + 1000000000))).map (·.2)).sum < s.pw.cAvg * 1000000)

/-- Observation (R421, R428, R431, R432, R435): a scheduler whose pick is due picks once; the sample of a function at FULL is a record in the
die's ring, at COARSE one with a region id for its PC, at AGGREGATE a count of its stall reason and no record, and at WITHHELD it leaves no
trace; energy is split by charge, rounded down, the rest unattributed; errors mark their line, sector or register or count, one of a
matrix array marks no line, each uncorrected one of a line, an array or a register is reported, and a merged record takes the count; a host read returns bytes, and a host write changes those bytes alone, but in the degraded mode (R421) neither
reaches device memory.

That the pick of a cycle follows its issue, the rounding of energy, and that a host's write leaves bounds alone, are the model's choice
(log entries 34, 35 and 36). -/
def Obligations.Observation : Prop :=
  (∀ (core sched : Nat) (s : State), idleSched s core sched = true ∨ pickDue s core sched = false ∨ nextPick s core sched = none →
    exec (.pcSample core sched) s = .next s) ∧
  (∀ (core sched h : Nat) (g : Group) (s : State), core < 256 → sched < 4 → idleSched s core sched = false →
    s.dev.sampleN ≠ 0 → s.clk core % 2 ^ s.dev.sampleN = 0 → Tb.get 0 (s.core core).pickAt sched ≠ s.clk core + 1 →
    nextPick s core sched = some (h, g) → s.funcOf g.launch ≤ 64 →
    let f := s.funcOf g.launch
    let stall := (stallOf s g).1
    let level := levelOf s f 1
    ∃ t, exec (.pcSample core sched) s = .next t ∧ t.work = s.work ∧ Tb.get? (t.core core).picks sched = some g.place ∧
      pickDue t core sched = false ∧
      (level = 0 → t.mem = s.mem ∧ (t.core core).stalls = (s.core core).stalls) ∧
      (level = 1 → t.mem = s.mem ∧
        Tb.get 0 (t.core core).stalls (128 * stall + f) = countUp (Tb.get 0 (s.core core).stalls (128 * stall + f)) 1) ∧
      (∀ ring, (s.die (dieOf core)).ringS = some ring → 2 ≤ level → 4096 ≤ s.dev.ringSize → s.dev.ringSize ≤ 65536 →
        s.num (ring + 8) 8 = 0 → s.num ring 8 < ringCap s.dev.ringSize →
        let slot := ring + 64 + 32 * s.num ring 8
        t.num ring 8 = s.num ring 8 + 1 ∧ SameBytes s t [(ring, 8), (slot, 32)] ∧ t.num slot 8 = s.now % 2 ^ 64 ∧
        t.num (slot + 8) 6 = (if level = 3 then samplePc s g % 2 ^ 48 else regionIds g / 2 ^ 36) ∧ t.num (slot + 14) 1 = f ∧
        t.num (slot + 15) 1 = stall + (if stall = 0 then 32 else 0) + (if level = 3 then 0 else 64))) ∧
  (∀ (d uj f : Nat) (s : State), ((s.die d).charge.map (·.1)).Nodup → ((s.die d).charge.map (·.2)).sum ≠ 0 →
    let q := (s.die d).charge
    let total := (q.map (·.2)).sum
    ∃ t, exec (.energySplit d uj) s = .next t ∧ t.mem = s.mem ∧ (t.die d).charge = [] ∧
      (∀ x, (f, x) ∈ q → uj * x / total ≠ 0 → Tb.get 0 (t.func f).energy d = (Tb.get 0 (s.func f).energy d + uj * x / total) % 2 ^ 48) ∧
      (t.die d).unattr = ((s.die d).unattr + (uj - (q.map (fun x => uj * x.2 / total)).sum)) % 2 ^ 48) ∧
  (∀ (source pa va pc h d : Nat) (r : RegClass × Nat × Nat) (s : State),
    (∃ t, exec (.rasError source .corrected pa va pc h none) s = .next t ∧ t.mem = s.mem ∧
      Tb.get 0 (t.die (errDie pa h)).corrected source = Tb.get 0 (s.die (errDie pa h)).corrected source + 1) ∧
    (∃ t, exec (.rasError source .retention pa va pc h none) s = .next t ∧ t.mem = s.mem ∧
      Tb.get 0 (t.die (errDie pa h)).corrected (source + 16) = Tb.get 0 (s.die (errDie pa h)).corrected (source + 16) + 1) ∧
    (∃ t, exec (.rasError source .uncorrected pa va pc h none) s = .next t ∧ t.dev.jseq = s.dev.jseq + 1 ∧
      (source ≠ 8 → pa / 128 ∈ t.mem.bad) ∧ (source = 8 → t.mem.bad = s.mem.bad ∧ t.work.groups = s.work.groups)) ∧
    ((Tb.get? s.work.groups h).isSome = true →
      ∃ t, exec (.rasError source .uncorrected pa va pc h (some r)) s = .next t ∧ r ∈ (t.grp h).soft ∧ t.dev.jseq = s.dev.jseq + 1) ∧
    (∃ t, exec (.rasError source .link pa va pc h none) s = .next t ∧ pa / 32 ∈ t.mem.linkErr) ∧
    (∃ t, exec (.rasError source .down pa va pc h none) s = .next t ∧ pa / 32 ∈ t.mem.peerDown) ∧
    (source < 16 → Tb.get 0 (s.die d).corrected source + Tb.get 0 (s.die d).corrected (source + 16) ≠ 0 →
      Tb.get? (s.die d).lastMerge source = none →
      ∃ t, exec (.correctedErrorMerge d source) s = .next t ∧ t.dev.jseq = s.dev.jseq + 1 ∧
        Tb.get 0 (t.die d).corrected source = 0 ∧ Tb.get 0 (t.die d).corrected (source + 16) = 0 ∧ Tb.get? (t.die d).lastMerge source = some s.now) ∧
    (∀ t0, Tb.get? (s.die d).lastMerge source = some t0 → s.now < t0 + 1000000 → exec (.correctedErrorMerge d source) s = .next s)) ∧
  (∀ (pa n : Nat) (bs : List Byte) (s : State), pmem pa = .lpddr → pmem (pa + n - 1) = .lpddr → pmem (pa + bs.length - 1) = .lpddr →
    0 < n → 0 < bs.length →
    (s.dev.degraded = true → exec (.hostManagedDeviceMemoryAccess pa (.read n)) s = .next s ∧
      exec (.hostManagedDeviceMemoryAccess pa (.write bs)) s = .next s) ∧
    (s.dev.degraded = false →
    exec (.hostManagedDeviceMemoryAccess pa (.read n)) s =
      .next { s with dev := { s.dev with hostReads := s.dev.hostReads ++ [(pa, s.mem.bytes pa n)] } } ∧
    ∃ t, exec (.hostManagedDeviceMemoryAccess pa (.write bs)) s = .next t ∧ SameBytes s t [(pa, bs.length)] ∧
      t.mem.bounds = s.mem.bounds ∧ ∀ k, k < bs.length → some (t.mem.byte (pa + k)) = bs[k]?))

/-! ### Lines, launches and commands (R373 to R388, R399, R400) -/

/-- Lines (R373 to R376): LINEADDR_WRITE arms the function's command line in place of the one it had; LINE_NOTIFY takes a good NEXT, and a
bad one breaks the line with a LINEBROKEN entry.

Completion (R380, Table 15-4): a COMPLETE entry with the status word is posted; where the completion address translates, the value and the
status word are written there as a user-mode store writes them (R119, R120) and nowhere else; where it does not, neither is, and the entry says so (CWF); where the address is none, no
other byte of memory changes; with the interrupt asked for and its vector in the table, one message is sent, written or not.

Control blocks are read at physical addresses (log entry 25); in the degraded mode the monitor sees no device memory, and a misaligned
completion address does not translate (log entry 26). -/
def Obligations.LinesAndCompletion : Prop :=
  ((∀ (f : Nat) (a : DWord) (s : State), f ≤ 64 → (∀ l ∈ s.work.lines, l.isCmd = false → l.cb ≠ a.toNat) →
     (∀ l ∈ s.work.lines, l.isCmd = true → l.func ≠ f → l.cb ≠ a.toNat) →
     let n := physNum s (lineLast s a.toNat) 8
     (s.dev.degraded = false ∨ pmem a.toNat = .cxl →
       ∃ t l, exec (.lineaddrWrite f a) s = .next t ∧ (t.func f).lineAddr = a ∧ t.cmdLine? f = some l ∧ l.cb = a.toNat ∧
         l.active = none ∧ l.destroyed = false ∧ t.work.groups = s.work.groups ∧
         (s.dev.degraded = false → nextBad n = false → t.mem = s.mem ∧ l.broken = false ∧
           l.sawNext = if n = 0 then none else some (BitVec.ofNat 64 n))) ∧
     (s.dev.degraded = true → pmem a.toNat ≠ .cxl →
       ∃ t, exec (.lineaddrWrite f a) s = .next t ∧ (t.func f).lineAddr = a ∧ t.cmdLine? f = none ∧ t.mem = s.mem)) ∧
   (∀ (cb : Nat) (l : Line) (s : State), s.line? cb = some l → l.broken = false →
     let n := physNum s (lineLast s cb) 8
     let none' := s.modLine cb (fun l => { l with sawNext := none })
     (n = 0 ∨ (s.dev.degraded = true ∧ pmem (lineLast s cb) ≠ .cxl) → exec (.lineNotify cb) s = .next none') ∧
     (n ≠ 0 → n % 128 = 0 → n < 2 ^ 57 → s.dev.degraded = false →
       exec (.lineNotify cb) s = .next (s.modLine cb (fun l => { l with sawNext := some (BitVec.ofNat 64 n) }))) ∧
     (n ≠ 0 → n % 128 = 0 → s.dev.degraded = true → pmem n ≠ .cxl → nextBad n = false →
       exec (.lineNotify cb) s = .next none') ∧
     (n ≠ 0 → (n % 128 ≠ 0 ∨ 2 ^ 57 ≤ n) → s.dev.degraded = false →
       ∃ t l', exec (.lineNotify cb) s = .next t ∧ t.line? cb = some l' ∧ l'.broken = true ∧ t.dev.jseq = s.dev.jseq + 1)) ∧
   (∀ (cb : Nat) (l : Line) (s : State), s.line? cb = some l → l.broken = true → exec (.lineNotify cb) s = .next s)) ∧
  (∀ (s : State) (d : Done) (code cause : Nat),
     let t := complete s d code cause
     let e := 0x8000100000 + 64 * (s.dev.jseq % 65536)
     let word := (s.dev.jseq % 2 ^ 32 * 2 ^ 32 + cause % 256 * 2 ^ 24 + code) % 2 ^ 64
     let entry := fun (cwf : Nat) => t.num e 8 = s.dev.jseq % 2 ^ 64 ∧ t.num (e + 16) 2 = 3 ∧ t.num (e + 24) 8 = d.cb % 2 ^ 64 ∧
       t.num (e + 32) 8 = d.number % 2 ^ 64 ∧ t.num (e + 40) 8 = word ∧ t.num (e + 48) 1 = cwf
     t.dev.jseq = s.dev.jseq + 1 ∧ t.work = s.work ∧ t.now = s.now ∧
     (d.addr = 0 → SameBytes s t [(e, 64)] ∧ entry 0) ∧
     (d.addr % 16 ≠ 0 → SameBytes s t [(e, 64)] ∧ entry 1) ∧
     (∀ u k, d.addr ≠ 0 → d.addr % 16 = 0 → engineAccess s d.tag d.addr .write = (u, .inr k) →
       SameBytes u t [(e, 64)] ∧ entry 1) ∧
     (∀ u pa attr, d.addr ≠ 0 → d.addr % 16 = 0 → engineAccess s d.tag d.addr .write = (u, .inl (pa, attr)) → pa % 16 = 0 →
       pa / 32 ∉ u.mem.peerDown → pa + 16 ≤ e ∨ e + 64 ≤ pa →
       let cell := match bndHome (pa / 32 * 32) with | .word k => [(k, 2)] | _ => []
       (∀ k ∈ cell, (k.1 + 2 ≤ e ∨ e + 64 ≤ k.1) ∧ (k.1 + 2 ≤ pa / 32 * 32 ∨ pa / 32 * 32 + 32 ≤ k.1)) →
       entry 0 ∧ SameBytes u t ([(e, 64), (pa, 16)] ++ if keepsBnd pa attr = true then cell else []) ∧
       (keepsBnd pa attr = false ∨ u.mem.bound (pa / 32 * 32) ≠ ebPoison →
         t.num pa 8 = d.val % 2 ^ 64 ∧ t.num (pa + 8) 8 = word)) ∧
     (∀ v, d.msix = some v → v < msixSize d.func → t.dev.msix = s.dev.msix ++ [(d.func, v)]) ∧
     (d.msix = none → t.dev.msix = s.dev.msix))

/-- LAUNCH_ADMIT and LAUNCH_FINISH (R376, R378 to R380): the next record of a line is read, LAST and COUNT follow; a good record takes an ADMIT
entry and becomes the line's active launch under the new number; a bad one takes none and completes with its code, MALFORMED or LIMIT,
under that number. A launch whose teams are gone completes with the code of its end once its stores have reached their homes, those on a die
without power apart (R420), and its line is free.

Records are read at physical addresses, as free bytes where no memory lies (log entry 25). -/
def Obligations.LaunchesAdmitted : Prop :=
  (∀ (cb : Nat) (l : Line) (a : DWord) (s : State), s.line? cb = some l → l.cb = cb → l.sawNext = some a → l.isCmd = false → l.active = none →
    l.destroyed = false → l.broken = false → l.restores = [] →
    let u := lineRead s cb a.toNat
    let r := readRecord u a.toNat
    let code := recordCode u r l.func
    let e := 0x8000100000 + 64 * (s.dev.jseq % 65536)
    let apart := cb + 24 ≤ 0x8000100000 ∨ 0x8000500000 ≤ cb
    (code = 0 → ∃ t n, exec (.launchAdmit cb) s = .next t ∧
      t.work.launches = s.work.launches ++ [n] ∧ n.key = s.ids ∧ n.cb = cb ∧ n.number = lineCount u cb ∧ n.func = l.func ∧
      n.proc = l.proc ∧ n.tag = BitVec.ofNat 16 (64 * l.func + l.proc + 1) ∧ n.rc = r ∧ n.nextTeam = 0 ∧ n.savedTeams = [] ∧
      n.ending = .none ∧ t.ids = s.ids + 1 ∧ t.work.teams = s.work.teams ∧
      (∃ l', t.line? cb = some l' ∧ l'.active = some s.ids) ∧ t.num (e + 16) 2 = 2 ∧
      (apart → hasMem (cb + 8) 8 = true → t.num (cb + 8) 8 = a.toNat) ∧
      (apart → hasMem (cb + 16) 8 = true → t.num (cb + 16) 8 = (lineCount s cb + 1) % 2 ^ 64)) ∧
    (code ≠ 0 → (code = 2 ∨ code = 3) ∧
      let v := complete u ⟨l.func, 64 * l.func + l.proc + 1, cb, lineCount u cb, r.compAddr.toNat, r.compVal.toNat,
        if r.ctrl.getLsbD 0 then some r.msix.toNat else none⟩ code 0
      exec (.launchAdmit cb) s = .next (watchNext v cb) ∧
      ∃ t, t = watchNext v cb ∧ t.work.launches = s.work.launches ∧ (∃ l', t.line? cb = some l' ∧ l'.active = none) ∧
        (r.compAddr = 0 → apart → hasMem (cb + 8) 8 = true → t.num (cb + 8) 8 = a.toNat) ∧
        (r.compAddr = 0 → apart → hasMem (cb + 16) 8 = true → t.num (cb + 16) 8 = (lineCount s cb + 1) % 2 ^ 64))) ∧
  (∀ (k : Nat) (l : Launch) (s : State), s.launch? k = some l →
    let c := endCode l.ending
    let d : Done := ⟨l.func, l.tag.toNat, l.cb, l.number, l.rc.compAddr.toNat, l.rc.compVal.toNat,
      if l.rc.ctrl.getLsbD 0 then some l.rc.msix.toNat else none⟩
    let v := ((s.mem.pend.filter (fun p => decide (p.launch = k) && !(s.die (dieOf p.core)).off)).map (·.id)).foldl storeHome s
    let u := complete v d c.1 c.2
    (launchOver s l = true → exec (.launchFinish k) s = .next { u with work := { u.work with
      launches := u.work.launches.filter (fun x => decide (x.key ≠ k)), deques := u.work.deques.filter (fun x => decide (x.launch ≠ k)),
      lines := u.work.lines.map (fun x => if x.active = some k then { x with active := none } else x) } }) ∧
    ((∀ p ∈ s.mem.pend, p.launch ≠ k) → v = s) ∧
    (launchOver s l = false → exec (.launchFinish k) s = .next s))

/-- Commands of every function that complete where they are accepted (R383 to R388, Table 15-6): NOP, LINE_CREATE, RESUME, KILL,
RESTORE_LAUNCH, JOURNAL_COPY of one slot that does not hold the entry asked for, EVENT; and an opcode that Table 15-6 does not give is
BADARG. In the degraded mode a line lies in host memory alone (R421).

Refusals (R383, R384): a command that only the PF may issue is DENIED to a virtual function, and one whose common fields are out of order
is BADARG: either completes at once with its code, without a COMMAND entry and without an effect of its own.

Which arguments are BADARG where Table 15-6 gives no range is the model's choice (log entry 30). -/
def Obligations.PlainCommandsAndRefusals : Prop :=
  (∀ (f pa : Nat) (l : Line) (c : Cmd) (s : State), Accepts s f l pa c →
     let b := lineRead s l.cb pa
     let a := accepted s f l pa c
     let runs := fun (i : Instr) (u : State) (code : Nat) => exec i s = .next (cmdCompletes u f l c (lineCount b l.cb) code)
     let named := fun (cb : Nat) => ∃ x, a.line? cb = some x ∧ (f = 64 ∨ x.func = f) ∧ x.isCmd = false
     let launch := fun (x : Launch) => launchOf a c = some x ∧ 1 ≤ c.w 1 ∧ c.w 1 ≤ lineCount b (c.w 0)
     (c.op = 1 → runs (.nopCommand f) a 0) ∧
     (c.op = 2 → a.line? (c.w 0) = none → c.w 0 % 64 = 0 → hasMem (c.w 0) 64 = true → c.w 1 = c.w 1 % 64 + c.w 1 / 256 % 16 * 256 →
       (∀ x ∈ s.work.lines, x.isCmd = true ∨ x.func ≠ f ∨ x.proc ≠ c.w 1 % 64 ∨ x.queue ≠ c.w 1 / 256 % 16) →
       (s.work.lines.filter (fun x => !x.isCmd)).length < 256 → (s.dev.degraded = false ∨ pmem (c.w 0) = .cxl) →
       runs (.lineCreate f) (watchNext { a with work := { a.work with lines :=
         a.work.lines ++ [newLine (c.w 0) f (c.w 1 % 64) (c.w 1 / 256 % 16) false] } } (c.w 0)) 0) ∧
     (c.op = 2 → a.line? (c.w 0) = none → s.dev.degraded = true → pmem (c.w 0) ≠ .cxl →
       exec (.lineCreate f) s = .next (cmdCompletes b f l c (lineCount b l.cb) 7)) ∧
     (∀ x, c.op = 7 → named (c.w 0) → launch x → c.w 2 < x.rc.teams → runs (.resume f)
       ((a.teamGroups x.key (c.w 2)).foldl resumeGroup a) 0) ∧
     (∀ x, c.op = 8 → named (c.w 0) → launch x → c.w 2 < 2 → runs (.killCommand f)
       (killLaunch a x.key 0 0 0 0 (decide (c.w 2 = 1)) none false) 0) ∧
     (∀ x, c.op = 10 → a.line? (c.w 0) = some x → (f = 64 ∨ x.func = f) → x.isCmd = false → c.w 1 % 4096 = 0 →
       c.w 1 < (a.func x.func).ctxSize → launchImageOk b ((a.func x.func).ctxPa + c.w 1) = true →
       runs (.restoreLaunch f) (a.modLine (c.w 0) (fun y => { y with restores := y.restores ++ [(a.func x.func).ctxPa + c.w 1] })) 0) ∧
     (c.op = 11 → c.w 1 = 1 → c.w 3 < 64 → a.num (0x8000100000 + 64 * (c.w 0 % 65536)) 8 ≠ c.w 0 →
       runs (.journalCopy f) (userWrite (tagOf f (c.w 3)) 3 a (c.w 2) (toBytes 64 0)) 0) ∧
     (c.op = 12 → c.w 0 < msixSize f → runs (.event f) (a.modFunc f (fun x => { x with eventVec := some (c.w 0) })) 0) ∧
     (knownOp c = false → exec (.unknownCommandOpcode f) s =
       .next (cmdCompletes b f l c (lineCount b l.cb) 7))) ∧
  (∀ (h : Nat) (s : State),
     let t := s.modG h (fun g => { g with ctl := { g.ctl with halted := false } })
     ((s.grp h).ctl.halted = false → resumeGroup s h = s) ∧
     ((s.grp h).ctl.halted = true → resumeGroup s h = ((s.grp h).outst.map (·.id)).foldl (fun u id => resumeEntry u h id 0) t) ∧
     ((s.grp h).ctl.halted = true → (s.grp h).outst = [] → resumeGroup s h = t)) ∧
  (∀ (f pa : Nat) (l : Line) (c : Cmd) (s : State), s.cmdLine? f = some l → nextCmd s f = some (pa, c) →
     (∀ w ∈ s.work.cmds, w.f ≠ f) →
     let b := lineRead s l.cb pa
     let refuses := fun (i : Instr) (code : Nat) => exec i s = .next (cmdCompletes b f l c (lineCount b l.cb) code)
     ∀ x ∈ [(1, Instr.nopCommand f), (2, .lineCreate f), (3, .lineDestroy f), (4, .procConfig f), (5, .invalidate f), (6, .stopRequest f),
            (7, .resume f), (8, .killCommand f), (9, .saveLaunch f), (10, .restoreLaunch f), (11, .journalCopy f), (12, .event f),
            (0x100, .funcConfig f), (0x101, .ctxArea f), (0x102, .carve f), (0x103, .poolAdd f), (0x104, .migrate f), (0x105, .split f),
            (0x106, .vector f), (0x108, .power f)], c.op = x.1 →
       (f ≠ 64 → 0x100 ≤ c.op → refuses x.2 6) ∧
       ((f = 64 ∨ c.op < 0x100) → cmdBad f c = true → (∀ y ∈ s.work.lines, y.func = f) → refuses x.2 7))

/-- Commands that wait (R340, R365, R367, R381, R383, R399): LINE_DESTROY of an idle line, PROC_CONFIG, INVALIDATE, STOP_REQUEST,
SAVE_LAUNCH and MIGRATE are accepted, take their first effect, and wait; the step that finds their condition met completes them. Of
SAVE_LAUNCH, that writes the launch image and ends the launch; of MIGRATE, that copies the frame's data and sector bounds, discards its
race records, writes the new leaf and returns the old frame.

What MIGRATE writes in the entry, and that a full list takes no frame back, are the model's choice (log entry 46); so is the place of the
fields in a launch image's header (log entry 27). -/
def Obligations.WaitingCommands : Prop :=
  let entries := fun (level epa e : Nat) =>
    if level = 0 ∧ pteC16 e = true then (List.range 16).map (fun i => epa / 128 * 128 + 8 * i) else [epa]
  (∀ (f pa : Nat) (l : Line) (c : Cmd) (s : State), Accepts s f l pa c → (∀ w ∈ s.work.cmds, w.f ≠ f) →
    let b := lineRead s l.cb pa
    let a := accepted s f l pa c
    let waits := fun (i : Instr) (u : State) (g : CmdWait → CmdWait) =>
      exec i s = .next (watchNext { u with work := { u.work with cmds := u.work.cmds ++ [g (waitOf' f l.cb (lineCount b l.cb) c)] } } l.cb)
    let inval := fun (u : State) (tag base pages : Nat) (mode : BitVec 2) =>
      { u with ids := u.ids + 1, work := { u.work with invals := u.work.invals ++
        [Inval.mk u.ids none (BitVec.ofNat 16 tag) base pages mode [] (List.range 257) [] []] } }
    let named := fun (cb : Nat) => ∃ x, a.line? cb = some x ∧ (f = 64 ∨ x.func = f) ∧ x.isCmd = false
    (∀ x, c.op = 3 → a.line? (c.w 0) = some x → (f = 64 ∨ x.func = f) → x.isCmd = false → x.active = none →
      physNum a (lineLast a (c.w 0)) 8 = 0 →
      waits (.lineDestroy f) (a.modLine (c.w 0) (fun y => { y with destroyed := true, restores := [] }))
        (fun w => { w with work := [c.w 0] })) ∧
    (c.op = 4 → c.w 0 < 64 → 1 ≤ c.w 1 → c.w 1 ≤ 255 →
      waits (.procConfig f)
        (inval ((modProc a f (c.w 0) (fun x => { x with weight := c.w 1 })).setNum (0x8000000000 + 8 * (64 * f + c.w 0 + 1)) 8 (c.w 2))
          (64 * f + c.w 0 + 1) 0 0 1)
        (fun w => { w with inval := some s.ids })) ∧
    (c.op = 5 → c.w 0 < 2 ^ 57 → 0 < c.w 1 → c.w 1 < 2 ^ 32 → c.w 2 < 64 →
      waits (.invalidate f) (inval a (64 * f + c.w 2 + 1) (c.w 0 / 4096 * 4096) (c.w 1) 0) (fun w => { w with inval := some s.ids })) ∧
    (∀ x, c.op = 6 → named (c.w 0) → launchOf a c = some x → 1 ≤ c.w 1 → c.w 1 ≤ lineCount b (c.w 0) → c.w 2 < x.rc.teams →
      waits (.stopRequest f) (requestStop a x (c.w 2)) (fun w => { w with launch := some x.key, team := c.w 2 })) ∧
    (∀ x, c.op = 9 → named (c.w 0) → launchOf a c = some x → 1 ≤ c.w 1 → c.w 1 ≤ lineCount b (c.w 0) → c.w 2 % 4096 = 0 →
      c.w 2 < (a.func x.func).ctxSize → x.saveCmd = none → (∀ t ∈ s.work.teams, t.launch ≠ x.key) →
      waits (.saveLaunch f) (a.modLaunch x.key (fun y => { y with stopDispatch := true, saveOff := some (c.w 2), saveCmd := some (c.w 1) }))
        (fun w => { w with launch := some x.key })) ∧
    (∀ level epa e, c.op = 0x104 → f = 64 → c.w 0 < 2 ^ 16 → c.w 1 < 2 ^ 57 → walk a.mem (c.w 0) (c.w 1) = .leaf level epa e →
      walk b.mem (c.w 0) (c.w 1) = .leaf level epa e → c.w 2 % leafSize level e = 0 →
      leafBad a.mem.carved (c.w 0) level (migrated e (c.w 2)) = false →
      waits (.migrate f) (inval ((entries level epa e).foldl (fun s q => s.setNum q 8 (s.num q 8 &&& 0x1FFC ||| 0xA000)) a) (c.w 0)
          (c.w 1 / leafSize level e * leafSize level e) (leafSize level e / 4096) 0)
        (fun w => { w with inval := some s.ids, work := [level, epa, e, c.w 2] }))) ∧
  (∀ (f : Nat) (w : CmdWait) (s : State), w ∈ s.work.cmds → (∀ x ∈ s.work.cmds, x.f = f ∧ x.opcode = w.opcode → x = w) → w.f = f →
    let u := { s with work := { s.work with cmds := s.work.cmds.erase w } }
    let d : Done := ⟨f, tagOf f 0, w.cb, w.number, w.compAddr.toNat, w.compVal.toNat, if w.cflags.getLsbD 1 then some w.msix.toNat else none⟩
    (∀ id, w.inval = some id → findInval s id = none → ∀ i ∈ [(4, Instr.procConfig f), (5, .invalidate f)], w.opcode = i.1 →
      exec i.2 s = .next (complete u d 0 0)) ∧
    (∀ k x, w.opcode = 6 → w.launch = some k → s.launch? k = some x → (∀ y ∈ x.stops, y.1 ≠ w.team) →
      (∀ h ∈ s.teamGroups k w.team, (s.grp h).ctl.stopPend = false) → exec (.stopRequest f) s = .next (complete u d 0 0)) ∧
    (∀ cb x, w.opcode = 3 → w.work = [cb] → s.line? cb = some x → x.active = none → exec (.lineDestroy f) s =
      .next (complete { u with work := { u.work with lines := s.work.lines.filter (fun y => decide (y.cb ≠ cb)) } } d 0 0)) ∧
    (∀ k x off, w.opcode = 9 → w.launch = some k → s.launch? k = some x → x.key = k → (∀ t ∈ s.work.teams, t.launch ≠ k) →
      x.ending = .none → x.saveOff = some off → x.rc.raw.length = 128 →
      let pa := (s.func x.func).ctxPa + off
      let m := x.savedTeams.length
      let items := imageItems s k
      ∃ v, exec (.saveLaunch f) s = .next (complete v d 0 0) ∧ v.work.cmds = s.work.cmds.erase w ∧
        v.launch? k = some { x with ending := .saved off, savedTeams := [] } ∧
        launchImageOk v pa = true ∧ v.num pa 4 = 1 ∧ v.num (pa + 8) 8 = 0 ∧ v.mem.bytes (pa + 16) 120 = x.rc.raw.drop 8 ∧
        v.num (pa + 136) 8 = x.nextTeam % 2 ^ 64 ∧ v.num (pa + 144) 8 = m % 2 ^ 64 ∧ v.num (pa + 152) 8 = items.length % 2 ^ 64 ∧
        (∀ i id src, x.savedTeams[i]? = some (id, src) → v.num (pa + 0x1000 + 8 * i) 8 = teamOffset x.rc m i % 2 ^ 64 ∧
          v.mem.bytes (pa + teamOffset x.rc m i) x.rc.imageSize = s.mem.bytes src x.rc.imageSize) ∧
        (∀ j y, items[j]? = some y → v.num (pa + teamOffset x.rc m m + 8 * j) 8 = y.toNat) ∧
        SameBytes s v [(pa, teamOffset x.rc m m + 8 * items.length)]) ∧
    (∀ id level epa e new, w.opcode = 0x104 → w.inval = some id → findInval s id = none → w.work = [level, epa, e, new] →
      let old := pteFrame e
      let size := leafSize level e
      let words := fun (frame : Nat) => if pteBnd e = true then
        (List.range (size / 32)).filterMap (fun k => match bndHome (frame + 32 * k) with | .word b => some (b, 2) | _ => none) else []
      let apart := fun (x y : Nat × Nat) => x.1 + x.2 ≤ y.1 ∨ y.1 + y.2 ≤ x.1
      let es := (entries level epa e).map (fun q => (q, 8))
      apart (old, size) (new, size) → new % 4096 = 0 → (words new).Nodup → (∀ q ∈ es, apart q (new, size)) →
      (∀ b ∈ words new, apart b (old, size) ∧ apart b (new, size) ∧ (∀ q ∈ es, apart b q) ∧ ∀ b' ∈ words old, apart b b') →
      (∀ b ∈ words old, apart b (new, size)) →
      ∃ v, v.work.cmds = s.work.cmds.erase w ∧ SameBytes s v ((new, size) :: es ++ words new) ∧
        v.mem.bytes new size = s.mem.bytes old size ∧
        (pteBnd e = true → ∀ k, k < size / 32 → bndHome (new + 32 * k) ≠ .none →
          v.mem.bound (new + 32 * k) = s.mem.bound (old + 32 * k)) ∧
        (∀ q ∈ es, v.num q.1 8 = (new / 4096 * 2 ^ 24 + (e &&& 0x31FFC) + 1) % 2 ^ 64) ∧
        (∀ r ∈ v.mem.race, r ∈ s.mem.race ∧ (32 * r.1 < old ∨ old + size ≤ 32 * r.1)) ∧
        (∀ i, listOfFrame (pteTier e) old = some i → poolCount v i < poolCap v i →
          exec (.migrate f) s = .next (complete ((v.setNum (poolBase v i + 8 * (poolTail v i % max 1 (poolCap v i))) 8 old).setNum
            (0x8000080000 + 32 * i + 8) 8 (poolTail v i + 1)) d 0 0)) ∧
        (listOfFrame (pteTier e) old = none → exec (.migrate f) s = .next (complete v d 0 0))))

/-- Commands of the PF (R346, R363, R384, R389, R394, R400, R419): FUNC_CONFIG, CTX_AREA, CARVE, POOL_ADD of one frame, SPLIT of an empty
core, VECTOR with a signature that verifies and with one that does not, POWER, whose slope limit holds from the next window of 64 cycles
and whose mode waits for the next sample or grant.

That SPLIT completes at acceptance, the scheme of a VECTOR signature, and the PC of a verified image, are the model's choice (log entries
47 and 13). -/
def Obligations.PhysicalFunctionCommands : Prop :=
  ∀ (pa : Nat) (l : Line) (c : Cmd) (s : State), Accepts s 64 l pa c →
    let b := lineRead s l.cb pa
    let a := accepted s 64 l pa c
    let runs := fun (i : Instr) (u : State) => exec i s = .next (cmdCompletes u 64 l c (lineCount b l.cb) 0)
    (c.op = 0x100 → c.w 0 ≤ 64 → c.w 1 < 2 ^ 32 → (c.w 2 = 0 ∨ (100000 ≤ c.w 2 ∧ c.w 2 ≤ 100000000)) → c.w 3 ≤ 255 →
      (c.w 4 = 0 ∨ (4096 ≤ c.w 4 ∧ c.w 4 ≤ 16777215)) →
      runs (.funcConfig 64) (a.modFunc (c.w 0) (fun x => { x with
        clusters := BitVec.ofNat 32 (c.w 1), slice := if c.w 2 = 0 then 1000000 else c.w 2,
        dqWeight := if c.w 3 = 0 then 16 else c.w 3, deadline := if c.w 4 = 0 then 60000 else c.w 4 }))) ∧
    (c.op = 0x101 → c.w 0 ≤ 64 → areaOk (c.w 1) (c.w 2) = true → areaOk (c.w 3) (c.w 4) = true →
      runs (.ctxArea 64) (a.modFunc (c.w 0) (fun x =>
        { x with ctxPa := c.w 1, ctxSize := c.w 2, dumpPa := c.w 3, dumpSize := c.w 4 }))) ∧
    (c.op = 0x102 → c.w 0 ≤ 8 → c.w 0 ∉ s.mem.carved →
      runs (.carve 64) { a with mem := { a.mem with carved := s.mem.carved ++ [c.w 0] } }) ∧
    (c.op = 0x103 → c.w 0 ≤ 9 → c.w 2 = 1 → hasMem (c.w 1) 8 = true → frameOk b (c.w 0) (b.num (c.w 1) 8) = true →
      poolCount a (c.w 0) < poolCap a (c.w 0) →
      runs (.poolAdd 64) ((a.setNum (poolBase a (c.w 0) + 8 * (poolTail a (c.w 0) % max 1 (poolCap a (c.w 0)))) 8 (a.num (c.w 1) 8)).setNum
        (0x8000080000 + 32 * c.w 0 + 8) 8 (poolTail a (c.w 0) + 1))) ∧
    (c.op = 0x105 → c.w 0 < 256 → c.w 1 ≤ 64 → c.w 2 ≤ 64 → c.w 1 ≠ c.w 2 → teamsOn s (c.w 0) = [] →
      runs (.split 64) ((a.modCore (c.w 0) (fun x => { x with splitPend := some (some (c.w 1, c.w 2)) })).modCore (c.w 0)
        (fun x => { x with split := some (c.w 1, c.w 2), splitPend := none }))) ∧
    (c.op = 0x106 → c.w 0 < 64 → hasMem (c.w 1) (max 1 (c.w 2)) = true → hasMem (c.w 3) 512 = true →
      rsaVerify Config.firmwareKey (b.mem.bytes (c.w 1) (c.w 2)) (b.mem.bytes (c.w 3) 512) = true →
      ∃ u, runs (.vector 64) u ∧ vectorPc u (c.w 0) = Config.imagePc (c.w 0) (c.w 1) ∧ u.dev.romVecs.getLsbD (c.w 0) = false ∧
        u.work = s.work ∧ SameBytes a u [(s.dev.vtab.toNat + 8 * c.w 0, 8)]) ∧
    (c.op = 0x106 →
      rsaVerify Config.firmwareKey (b.mem.bytes (c.w 1) (c.w 2)) (b.mem.bytes (c.w 3) 512) = false →
      exec (.vector 64) s = .next (cmdCompletes b 64 l c (lineCount b l.cb) 7)) ∧
    (c.op = 0x108 → c.w 0 = 0 → c.w 1 = 0 → c.w 2 = 0 → c.w 3 < 4 → c.w 4 < 32 → c.w 5 = 0 →
      runs (.power 64) { a.modCluster (c.w 4) (fun x => { x with
          slope := slopeOf a (c.w 4), slopeNext := some (3145728, (a.clk (8 * c.w 4) / 64 + 1) * 64) }) with
        pw := { a.pw with cAvg := 2400, cPeak := 3000, cSprint := 2800, sprintEn := (c.w 3).testBit 0,
                          modeNext := some ((c.w 3).testBit 1) } })

/-- POLICY (R426, R430, R433 to R441): LOAD of a signed policy in order and of any other, COUNTERS, READ, SAMPLE, QUOTE, IDENTITY and CLEAR. READ, QUOTE and
IDENTITY write their buffers and no other byte; COUNTERS gives every counter of a core its code, and clears a count whose code is
new.

The rows of READ (R435, R436, R439, Tables 18-9, 18-11): a function's count or energy is a row at FULL, a row rounded down to a multiple of
65,536 at COARSE, no row of its own below; the sum over the functions at AGGREGATE is a row of function 0x7F where those that contribute
reach the largest AGGMIN among them, and otherwise there is no such row.

The order of the rows of READ, and that a sum above 0xFFFFFFFFFFFF has that value in its row, are the model's choice (log entry 32); the identity key's signature is a free value (log entry 13). -/
def Obligations.PolicyCommands : Prop :=
  ∀ (pa : Nat) (l : Line) (c : Cmd) (s : State), Accepts s 64 l pa c → c.op = 0x107 →
    let b := lineRead s l.cb pa
    let a := accepted s 64 l pa c
    let runs := fun (i : Instr) (u : State) => exec i s = .next (cmdCompletes u 64 l c (lineCount b l.cb) 0)
    (c.w 0 = 0 → c.w 1 % 64 = 0 → hasMem (c.w 1) 1152 = true → policyOk b (c.w 1) = true →
      let pol : Policy := ⟨BitVec.ofNat 64 (a.num (c.w 1 + 8) 8), BitVec.ofNat 16 (a.num (c.w 1 + 16) 2), a.num (c.w 1 + 18) 1,
        a.mem.bytes (c.w 1) 1152⟩
      runs (.load 64) (a.modFunc (a.num (c.w 1 + 4) 4) (fun x => { x with policy := some pol }))) ∧
    (c.w 0 = 0 → policyOk b (c.w 1) = false → exec (.load 64) s = .next (cmdCompletes b 64 l c (lineCount b l.cb) 7)) ∧
    (c.w 0 = 1 → c.w 1 < 256 → (∀ i, i < 16 → c.w (2 + i / 8) / 2 ^ (8 * (i % 8)) % 256 ≤ 0x19) →
      ∃ u, runs (.counters 64) u ∧ u.mem = a.mem ∧ ∀ i, i < 16 →
        let code := c.w (2 + i / 8) / 2 ^ (8 * (i % 8)) % 256
        Tb.get (0 : Byte) (u.core (c.w 1)).events i = BitVec.ofNat 8 code ∧
        ∀ g, g < 128 → Tb.get 0 (u.core (c.w 1)).counts (128 * i + g) =
          if (Tb.get (0 : Byte) (s.core (c.w 1)).events i).toNat = code then Tb.get 0 (s.core (c.w 1)).counts (128 * i + g) else 0) ∧
    (c.w 0 = 2 → c.w 1 < 256 → hasMem (c.w 2) 32 = true → c.w 3 < 4 →
      runs (.read 64) (a.setBytes (c.w 2) (readRows a c).flatten) ∧
      SameBytes a (a.setBytes (c.w 2) (readRows a c).flatten) [(c.w 2, (readRows a c).flatten.length)] ∧
      (∃ k, (readRows a c).flatten.length = 32 * (k + 1)) ∧
      let row := fun (unit index func flags event count team : Nat) =>
        toBytes 2 unit ++ toBytes 1 index ++ toBytes 1 func ++ toBytes 1 flags ++ toBytes 1 event ++ toBytes 2 0 ++ toBytes 6 count ++
        toBytes 2 0 ++ toBytes 8 a.now ++ toBytes 4 0 ++ toBytes 4 team
      let released := fun (unit index event cls : Nat) (v : Nat → Nat) =>
        let few := fun (ys : List Nat) =>
          ys = [] ∨ ∃ f ∈ ys, ∃ p, (a.func f).policy = some p ∧ ys.length < p.aggMin
        let ys := (List.range 64).filter (fun f => decide (levelOf a f cls = 1) && decide (v f ≠ 0))
        (∀ f, f ≤ 64 → levelOf a f cls = 3 → row unit index f 0 event (v f) 0 ∈ readRows a c) ∧
        (∀ f, f ≤ 64 → levelOf a f cls = 2 → v f ≠ 0xFFFFFFFFFFFE → row unit index f 1 event (v f / 65536 * 65536) 0 ∈ readRows a c) ∧
        (∀ f, f ≤ 64 → levelOf a f cls = 2 → v f = 0xFFFFFFFFFFFE → row unit index f 1 event (v f) 0 ∈ readRows a c) ∧
        (∀ f, f ≤ 64 → levelOf a f cls ≤ 1 → ∀ r ∈ readRows a c, r.take 4 ≠ toBytes 2 unit ++ toBytes 1 index ++ toBytes 1 f) ∧
        (few ys → ∀ r ∈ readRows a c, r.take 4 ≠ toBytes 2 unit ++ toBytes 1 index ++ toBytes 1 0x7F) ∧
        (¬ few ys → row unit index 0x7F 0 event (min ((ys.map v).sum) 0xFFFFFFFFFFFF) 0 ∈ readRows a c)
      (∀ i, i < 16 → Tb.get (0 : Byte) (a.core (c.w 1)).events i ≠ 0 →
        released (c.w 1) i (Tb.get (0 : Byte) (a.core (c.w 1)).events i).toNat 0
          (fun f => Tb.get 0 (a.core (c.w 1)).counts (128 * i + f))) ∧
      (∀ d, d < 8 → (c.w 3).testBit 1 = true → released d 0x40 0 5 (fun f => Tb.get 0 (a.func f).energy d))) ∧
    (c.w 0 = 3 → (c.w 1 = 0 ∨ (8 ≤ c.w 1 ∧ c.w 1 ≤ 16)) → ringSizeOk (c.w 4) = true → inRingMem (c.w 2) (c.w 4) = true →
      inRingMem (c.w 3) (c.w 4) = true → c.w 6 < 2 →
      ∃ u, runs (.sample 64) u ∧ u.dev = { a.dev with sampleN := c.w 1, ringSize := c.w 4 } ∧ u.work.groups = s.work.groups ∧
        (∀ d, d < 8 → (u.die d).ringS = some (c.w 2 + 0x10000 * d) ∧ (u.die d).ringT = some (c.w 3 + 0x10000 * d)) ∧
        (∀ g, g < 64 → (u.func g).traced = (c.w 5).testBit g) ∧ (u.func 64).traced = (c.w 6).testBit 0) ∧
    (c.w 0 = 4 → hasMem (c.w 1) 64 = true → hasMem (c.w 3) 896 = true → c.w 2 ≤ 64 →
      runs (.quote 64) (a.setBytes (c.w 3) (quoteBody a c ++ pad 512 (Config.identitySign (sha512 (quoteBody a c))))) ∧
      (quoteBody a c).length = 384) ∧
    (c.w 0 = 5 → hasMem (c.w 1) (max 1 (c.w 2)) = true → Config.certChain.length ≤ c.w 2 →
      runs (.identity 64) (a.setBytes (c.w 1) Config.certChain)) ∧
    (c.w 0 = 6 → c.w 1 ≤ 64 → (∀ x ∈ s.work.lines, x.func ≠ c.w 1) →
      (∀ x ∈ s.work.launches, x.func = c.w 1 → x.savedTeams = [] ∧ ∀ t ∈ s.work.teams, t.launch ≠ x.key) →
      runs (.clear 64) (a.modFunc (c.w 1) (fun x => { x with policy := none })))

/-! ### Decoding, stepping, reset, invariants -/

/-- Words written out from Tables 6-1 to 6-4, field by field from bit 31 down, decode to their instructions; C and W are read from bits
31 and 30. -/
def Obligations.DecodeWords : Prop :=
  decodeWord (0#2 ++ 0x03#8 ++ 3#6 ++ 1#6 ++ 2#6 ++ 0#4) = .ok ⟨false, false, .sadd 3 1 2⟩ ∧
  decodeWord (1#1 ++ 1#1 ++ 0x03#8 ++ 3#6 ++ 1#6 ++ 2#6 ++ 0#4) = .ok ⟨true, true, .sadd 3 1 2⟩ ∧
  decodeWord (0#2 ++ 0x01#8 ++ 5#6 ++ 0xFFFF#16) = .ok ⟨false, false, .smovi 5 0xFFFF⟩ ∧
  decodeWord (0#2 ++ 0x80#8 ++ 4#6 ++ 2#3 ++ 9#6 ++ 2#3 ++ 0#2 ++ 0#2) = .ok ⟨false, false, .ld 4 2 9 .w .plain⟩ ∧
  decodeWord (0#2 ++ 0x0A#8 ++ 63#6 ++ 62#6 ++ 61#6 ++ 0#4) = .ok ⟨false, false, .sxor 63 62 61⟩ ∧
  decodeWord (0#2 ++ 0x1F#8 ++ 0#22) = .error .unassigned ∧
  decodeWord (0#2 ++ 0x03#8 ++ 3#6 ++ 1#6 ++ 2#6 ++ 1#4) = .error .reserved

/-- Decoding and encoding agree (R167, R170, R171, R173): the word of a well-formed instruction, with any C and W, decodes to those bits
and that instruction. -/
def Obligations.DecodeOfEncode : Prop :=
  ∀ (i : Instr) (c w : Bool), i.encoded = true → i.wellFormed = true →
    decodeWord (BitVec.ofBool c ++ BitVec.ofBool w ++ (encode i).extractLsb' 0 30) = .ok ⟨c, w, i⟩

/-- A step runs the decoded instruction (R60, R149, R168, R354): where the turn is a group's, its scheduler is free and chooses it (R27), and
the word at its chosen PC is fetched from memory at the translation of code base + PC, decodes, stands alone and waits for nothing,
the step is exec of that instruction by the lanes at that PC, which already hold the PC after it; an issue that takes effect is then
accounted. A word that must wait (R297, R299: a 25th outstanding result among them) leaves the group as it was.

The turn, the accounting of time and the fetched words are the model's own (log entries 1, 6 and 10), and so are the releases of request
entries that a turn notes for the instructions that wait for one, and the kill that waits for the end of an instruction (log entry 7). -/
def Obligations.StepRunsDecoded : Prop :=
  ∀ (s u t : State) (h pc pa : Nat) (ts : List Turn) (m : Mask) (attr : BitVec 16) (i : Instr) (mk : Bool),
    s.turns = .issue h :: ts →
    let v : State := { s with turns := ts }
    let g0 := v.grp h
    let g := u.grp h
    let q : PC := BitVec.ofNat 48 pc
    let u' := u.modG h (fun g => { g with rejected := none })
    idleSched v g0.core g0.sched = true → schedule v g0.core g0.sched = (u, some h) → portLost u h = false →
    g.ctl.rom = none → canIssue u g = true → g.rejected = none → choosePc g = some (pc, m) →
    translate u' ⟨h, g.core, fetchTag g, g.sp.sv, q⟩ (wordVa (codeBase u' g) q) .fetch = (t, .ok pa attr) →
    t.mem.err pa = none → Tb.get? (t.core g.core).fetched pa = none → (t.core g.core).dbg = [] →
    let w : Word := BitVec.ofNat 32 (t.num pa 4)
    decodeWord w = .ok ⟨false, mk, i⟩ →
    let x := putLimited (touch t (banksAt g.core false pa)) fetchWords (t.core g.core).fetched pa w
    let f : FWord := ⟨q, w, .ok ⟨false, mk, i⟩⟩
    let b0 := beginIssue (x.1.modCore g.core (fun c => { c with fetched := x.2 })) h q q (nextPc q) w m false g
    let b := resolveReads b0 [i]
    (interlock b0 [f] [i] = 0 →
      (step s = match endIssue g h m [(f, i)] mk (exec i b) with
        | .next r => .next (noteReleases s (killDue r h)) | r => r) ∧
      (∀ r, exec i b = .next r → r.cur.stalled = false → r.cur.trapped = false → r.cur.page = none → r.cur.edge = false →
        step s = .next (noteReleases s (killDue (account r g h m [(f, i)] mk) h))) ∧
      (∀ r, exec i b = .next r → r.cur.stalled = true → step s = .next (noteReleases s (killDue r h)))) ∧
    (interlock b0 [f] [i] ≠ 0 → step s = .next (noteReleases s (killDue (stall b0 (interlock b0 [f] [i])) h))) ∧
    (∀ r : State, (r.grp h).ctl.dying = false → killDue r h = r) ∧
    (∀ r : State, (∀ e ∈ r.work.groups, e.2.rejected = none) → noteReleases s r = r)

/-- Every step keeps memory in canonical form.

The form is the model's own. -/
def Obligations.StepKeepsMemoryCanonical : Prop :=
  ∀ s t : State, s.Inv → step s = .next t → t.Inv

/-- Every step keeps the order numbers of outstanding results and stores distinct and below the next.

The numbers are the model's own. -/
def Obligations.StepKeepsOrderNumbers : Prop :=
  ∀ s t : State, s.Numbered → step s = .next t → t.Numbered

/-- Double traps (R328): a trap raised in supervisor mode is not delivered: the group halts, a DOUBLE record holds the cause that would have
been raised and the PC, and the firmware kills the team as KILL.team does (R338, R381), so that the launch ends and every team of it is dead. The
frame registers and the mode keep their values. An illegal word in supervisor mode is one case.

That the kill has the cause 0x30, and that a group within an instruction dies at its end, are the model's choice (log entries 41 and 7). -/
def Obligations.DoubleTraps : Prop :=
  (∀ (s : State) (cause payload : Nat) (m : Mask) (own : Bool) (l : Launch), (Tb.get? s.work.groups s.cur.h).isSome = true →
     s.curG.sp.sv = true → s.launch? s.curG.launch = some l →
     let g := s.curG
     let r := mkRec 3 (if cause < 0x20 then cause else 0) false s.cur.pc 0 cause (g.sp.tag.toNat * 2 ^ 48 + s.cur.h * 2 ^ 32)
     let v := (unissue s).upG (fun g => { g with ctl := { g.ctl with halted := true } })
     let u := postRec v g.core r
     let t := trap s cause payload m own
     ((s.core g.core).frq.length < 256 → (u.core g.core).frq = (s.core g.core).frq ++ [r]) ∧
     (256 ≤ (s.core g.core).frq.length → (u.core g.core).frq = (s.core g.core).frq ∧ (u.core g.core).frqOvf = true) ∧
     t = { killLaunch u g.launch 0x30 g.team s.cur.pc (BitVec.ofNat 64 cause) (l.rc.ctrl.getLsbD 1) (some s.cur.h) false with
       cur := { s.cur with trapped := true } } ∧
     t.curG.frame = g.frame ∧ t.curG.sp.sv = true ∧
     (l.ending = .none → (s.mem.bad = [] → s.mem.linkErr = [] → t.dev.jseq = s.dev.jseq + 1) ∧
       (∃ l', t.launch? g.launch = some l' ∧ l'.stopDispatch = true ∧ l'.ending = .killed 0x30) ∧
       (∀ tm ∈ t.work.teams, tm.launch = g.launch → tm.dead = true) ∧
       ((s.team? g.launch g.team).isSome = true → t.curG.ctl.dead = true))) ∧
  (∀ (w : Word) (s : State), Issuing s (.illegalEncoding w) → s.curG.sp.sv = true →
    exec (.illegalEncoding w) s = .next (trap s 0x23 s.cur.word.toNat s.cur.mask false))

/-- The fault path of a demand load (R227, R326, R359): a load that stands alone, of which one lane meets an entry that is not valid but
recoverable while the others pass the window, completes those others, posts one PAGE record, and enters the supervisor by the vector of PAGE with
the faulting lane in PCM and TMASK, the number of records as payload and the lanes past the load. The load is the last replay entry,
pending for that lane alone, with the operands that it read.

That a word's SLOT counts from its chain is the model's reading (log entry 14), and a load that waits with its accesses is log entry 7. -/
def Obligations.DemandLoadFaults : Prop :=
  ∀ (d : Reg) (b : BitVec 3) (o : Reg) (wd : Width) (f : LoadForm) (i : Instr) (s : State) (l level epa e : Nat),
    i ∈ [Instr.ld d b o wd f, .gath d b o wd f] → Issuing s i → s.user → s.free_ → s.Numbered → unchecked s b → s.cur.multi = false →
    s.canEnter 0x2B → s.cur.mask.getLsbD l = true →
    let core := s.core s.cur.rd.core
    let tag := s.cur.rd.sp.tag.toNat
    let win := s.cur.rd.b b.toNat
    let va := fun (j : Nat) => offVa s b (offScale i) (s.rv o j).data.toNat
    s.curG.core = s.cur.rd.core → (∀ j, s.cur.mask.getLsbD j = true → (s.rv o j).eb ≠ ebPoison) →
    (∀ j, s.cur.mask.getLsbD j = true → j ≠ l → InWindow s b .read (widthBytes wd) (va j) ∧ s.mem.err (windowPa s b (va j)) = none ∧
      ∀ q ∈ groupOps s s.cur.h, sectorOf (windowPa s b (va j)) ∉ q.2.2) →
    va l < 2 ^ 57 → va l % widthBytes wd = 0 → (va l < win.vbase.toNat ∨ win.vbase.toNat + win.limit.toNat ≤ va l) →
    core.tlb.find? (fun t => t.hit tag (va l)) = none → walk s.mem tag (va l) = .invalid level epa e →
    (∀ n ∈ core.nodes, n.hit tag (va l) = true → s.num n.pa 8 = n.pte.toNat) →
    (level = 0 → ∀ k, k < 16 → pteV (s.num (epa / 128 * 128 + 8 * k) 8) = false ∨ pteC16 (s.num (epa / 128 * 128 + 8 * k) 8) = false) →
    (pteMigr e = true ∨ pteFt e = 1 ∨ pteFt e = 2) → core.frq.length < 256 →
    ∃ t x, exec i s = .next t ∧ t.mem = s.mem ∧ t.cur.trapped = true ∧ t.curG.sp = { s.curG.sp with sv := true } ∧
      t.curG.frame = ⟨BitVec.ofNat 11 (chainSlot s s.cur.wpc * 256 + 0x2B), 1, maskOf [l], maskOf [l], s.cur.pc, BitVec.ofNat 64 s.now, 0⟩ ∧
      (t.core s.cur.rd.core).frq = core.frq ++ [mkRec 1 2 false s.cur.pc (va l) (maskOf [l]).toNat
        (tag * 2 ^ 48 + s.cur.h * 2 ^ 32 + level * 2 ^ 29 + b2n (pteMigr e) * 2 ^ 28 + pteFt e * 2 ^ 26)] ∧
      t.curG.outst = [] ∧ t.curG.replay.getLast? = some x ∧ x.instr = i ∧ x.valid = true ∧ x.held = false ∧ x.mask = maskOf [l] ∧
      x.performed = 0 ∧ x.pc = s.cur.wpc ∧ x.uop = win.vbase.setWidth 64 ∧ Tb.get VCell.zero x.slots (8 * l) = s.rv o l ∧
      t.curG.lanes.length = s.curG.lanes.length ∧
      ∀ j, j < s.curG.lanes.length → (s.curG.lane j).st ≠ .done →
        t.curG.lane j = ⟨vectorPc s 0x2B, .run, (s.curG.lane j).pc, (s.curG.lane j).st⟩
end

