-- ==== Sys2Proof/Laws/Arith.lean ====
section
/-! SUPPORT. The model's integer arithmetic on natural numbers, in terms of bit vectors. -/

namespace Sys2Proof.Machine

theorem signed_toNat {w : Nat} (x : BitVec w) (hw : 0 < w) : signed w x.toNat = x.toInt := by
  have h2 : 2 * 2 ^ (w - 1) = 2 ^ w := by rw [← pow_succ']; congr 1; omega
  simp only [signed, BitVec.toInt]
  by_cases h : x.toNat < 2 ^ (w - 1)
  · rw [if_pos h, if_pos (by omega)]
  · rw [if_neg h, if_neg (by omega)]; push_cast; ring

theorem ofNat_wrap (w : Nat) (z : Int) : BitVec.ofNat w (wrap w z) = BitVec.ofInt w z := by
  apply BitVec.eq_of_toNat_eq
  have hp : (0 : Int) < 2 ^ w := by positivity
  have h1 : (z % 2 ^ w).toNat < 2 ^ w := by
    have := Int.emod_lt_of_pos z hp
    have := Int.emod_nonneg z (ne_of_gt hp)
    zify
    rw [Int.toNat_of_nonneg this]
    assumption
  simp only [wrap, BitVec.toNat_ofNat, BitVec.toNat_ofInt]
  rw [Nat.mod_eq_of_lt h1]
  norm_cast

theorem ofInt_toInt_add {w : Nat} (x y : BitVec w) : BitVec.ofInt w (x.toInt + y.toInt) = x + y := by
  rw [BitVec.ofInt_add]; simp
theorem ofInt_toInt_sub {w : Nat} (x y : BitVec w) : BitVec.ofInt w (x.toInt - y.toInt) = x - y := by
  rw [sub_eq_add_neg, BitVec.ofInt_add, BitVec.ofInt_neg, BitVec.sub_eq_add_neg]; simp
theorem ofInt_toInt_mul {w : Nat} (x y : BitVec w) : BitVec.ofInt w (x.toInt * y.toInt) = x * y := by
  rw [BitVec.ofInt_mul]; simp

theorem ofNat_toNat_add {w : Nat} (x y : BitVec w) : BitVec.ofNat w (x.toNat + y.toNat) = x + y := by
  apply BitVec.eq_of_toNat_eq; simp
theorem ofNat_toNat_mul {w : Nat} (x y : BitVec w) : BitVec.ofNat w (x.toNat * y.toNat) = x * y := by
  apply BitVec.eq_of_toNat_eq; simp
theorem ofNat_toNat_mul_two_pow {w : Nat} (x : BitVec w) (k : Nat) : BitVec.ofNat w (x.toNat * 2 ^ k) = x <<< k := by
  apply BitVec.eq_of_toNat_eq; simp [Nat.shiftLeft_eq]
theorem ofInt_toInt_signExtend {w v : Nat} (x : BitVec w) (j : BitVec v) :
    BitVec.ofInt w (x.toInt + j.toInt) = x + j.signExtend w := by
  rw [BitVec.ofInt_add, BitVec.ofInt_toInt]; rfl

theorem shl_eq {w : Nat} (x : BitVec w) (n : Nat) : BitVec.ofNat w (shl w x.toNat n) = x <<< (n % 256) := by
  unfold shl
  split_ifs with h
  · rw [BitVec.shiftLeft_eq_zero h]
  · apply BitVec.eq_of_toNat_eq; simp [BitVec.toNat_shiftLeft]

theorem shr_eq {w : Nat} (x : BitVec w) (n : Nat) : BitVec.ofNat w (shr w x.toNat n) = x >>> (n % 256) := by
  unfold shr
  split_ifs with h
  · apply BitVec.eq_of_toNat_eq
    have : x.toNat >>> (n % 256) = 0 := by
      rw [Nat.shiftRight_eq_div_pow]
      exact Nat.div_eq_of_lt (lt_of_lt_of_le x.isLt (Nat.pow_le_pow_right (by omega) h))
    simp [this]
  · apply BitVec.eq_of_toNat_eq
    simp only [BitVec.toNat_ofNat, BitVec.toNat_ushiftRight]
    apply Nat.mod_eq_of_lt
    exact lt_of_le_of_lt (Nat.shiftRight_le _ _) x.isLt

theorem sra_eq {w : Nat} (x : BitVec w) (n : Nat) (hw : 0 < w) : BitVec.ofNat w (sra w x.toNat n) = x.sshiftRight (n % 256) := by
  unfold sra
  rw [signed_toNat x hw, ofNat_wrap, BitVec.sshiftRight, Int.shiftRight_eq_div_pow]
  rcases le_total (n % 256) w with h | h
  · rw [min_eq_left h]; norm_cast
  · rw [min_eq_right h]
    congr 1
    have hb : -(2 : Int) ^ (w - 1) ≤ x.toInt ∧ x.toInt < 2 ^ (w - 1) := by
      have := BitVec.le_toInt x; have := BitVec.toInt_lt (x := x); constructor <;> assumption
    have hw1 : (2 : Int) ^ (w - 1) ≤ 2 ^ w := pow_le_pow_right₀ (by norm_num) (by omega)
    have hw2 : (2 : Int) ^ w ≤ 2 ^ (n % 256) := pow_le_pow_right₀ (by norm_num) h
    rcases lt_or_ge x.toInt 0 with hn | hn
    · have e1 : x.toInt / (2 : Int) ^ w = -1 := by
        rw [Int.ediv_eq_iff_of_pos (by positivity)]; constructor <;> linarith
      have e2 : x.toInt / ((2 ^ (n % 256) : Nat) : Int) = -1 := by
        push_cast
        rw [Int.ediv_eq_iff_of_pos (by positivity)]; constructor <;> linarith
      rw [e1, e2]
    · rw [Int.ediv_eq_zero_of_lt hn (by linarith), Int.ediv_eq_zero_of_lt hn (by push_cast; linarith)]

theorem popCount_eq {w : Nat} (x : BitVec w) : popCount w x.toNat = (List.range w).countP (fun n => x.getLsbD n) := by
  simp only [popCount, List.countP_eq_length_filter]
  rfl

theorem pickMin_eq {w : Nat} (x y : BitVec w) (u : Bool) (hw : 0 < w) :
    BitVec.ofNat w (pickOrder w u false x.toNat y.toNat) = if (if u then y.ult x else y.slt x) then y else x := by
  unfold pickOrder
  simp only [signed_toNat _ hw, Bool.bne_false]
  cases u <;> simp only [Bool.false_eq_true, if_true, if_false, BitVec.ult, BitVec.slt] <;> split_ifs <;> simp_all

theorem pickMax_eq {w : Nat} (x y : BitVec w) (u : Bool) (hw : 0 < w) :
    BitVec.ofNat w (pickOrder w u true x.toNat y.toNat) = if (if u then x.ult y else x.slt y) then y else x := by
  unfold pickOrder
  simp only [signed_toNat _ hw, Bool.bne_true]
  cases u
  · simp only [Bool.false_eq_true, if_false, BitVec.slt, Bool.not_eq_true', decide_eq_false_iff_not, decide_eq_true_eq]
    rcases lt_trichotomy x.toInt y.toInt with h | h | h
    · simp [h, not_lt.2 h.le]
    · have := BitVec.eq_of_toInt_eq h; subst this; simp
    · simp [h, not_lt.2 h.le]
  · simp only [if_true, BitVec.ult, Bool.not_eq_true', decide_eq_false_iff_not, decide_eq_true_eq]
    rcases lt_trichotomy x.toNat y.toNat with h | h | h
    · simp [h, not_lt.2 h.le]
    · have := BitVec.eq_of_toNat_eq h; subst this; simp
    · simp [h, not_lt.2 h.le]

theorem mulHighS_eq {w : Nat} (x y : BitVec w) (hw : 0 < w) :
    BitVec.ofNat w (mulHigh w false x.toNat y.toNat) = BitVec.ofInt w (x.toInt * y.toInt / 2 ^ w) := by
  simp [mulHigh, signed_toNat _ hw, ofNat_wrap]
theorem mulHighU_eq {w : Nat} (x y : BitVec w) :
    BitVec.ofNat w (mulHigh w true x.toNat y.toNat) = BitVec.ofNat w (x.toNat * y.toNat / 2 ^ w) := by
  simp [mulHigh]

end Sys2Proof.Machine
end

