-- ==== Sys2Proof/Laws/Map.lean ====
section
/-! SUPPORT. Laws of tables: reading after writing, and the canonical form. -/

namespace Sys2Proof.Machine

theorem Tb.get?_put {α : Type} (m : List (Nat × α)) (k j : Nat) (v : α) :
    Tb.get? (Tb.put m k v) j = if j = k then some v else Tb.get? m j := by
  induction m with
  | nil =>
    by_cases h : j = k
    · simp [Tb.put, Tb.get?, h]
    · simp [Tb.put, Tb.get?, h, Ne.symm h]
  | cons e t ih =>
    obtain ⟨i, w⟩ := e
    by_cases h1 : i = k
    · by_cases h2 : j = k
      · simp [Tb.put, Tb.get?, h1, h2]
      · simp [Tb.put, Tb.get?, h1, h2, Ne.symm h2]
    · by_cases h3 : k < i
      · by_cases h2 : j = k
        · simp [Tb.put, Tb.get?, h1, h3, h2]
        · simp [Tb.put, Tb.get?, h1, h3, h2, Ne.symm h2]
      · simp only [Tb.put, h1, h3, if_false, Tb.get?, ih]
        by_cases h2 : j = k
        · subst h2; simp [h1]
        · simp [h2]

theorem Tb.get?_erase {α : Type} (m : List (Nat × α)) (k j : Nat) :
    Tb.get? (Tb.erase m k) j = if j = k then none else Tb.get? m j := by
  induction m with
  | nil => simp [Tb.erase, Tb.get?]
  | cons e t ih =>
    obtain ⟨i, w⟩ := e
    simp only [Tb.erase, ne_eq, decide_not, List.filter_cons] at ih ⊢
    by_cases h1 : i = k
    · subst h1
      by_cases h2 : j = i
      · subst h2; simpa using ih
      · simpa [h2, Tb.get?, Ne.symm h2] using ih
    · by_cases h2 : j = k
      · subst h2; simpa [h1, Tb.get?] using ih
      · simp only [h2, if_false] at ih
        simp [h1, Tb.get?, ih, h2]

@[simp] theorem Tb.get_put {α : Type} (d : α) (m : List (Nat × α)) (k j : Nat) (v : α) :
    Tb.get d (Tb.put m k v) j = if j = k then v else Tb.get d m j := by
  simp only [Tb.get, Tb.get?_put]; split_ifs <;> rfl

@[simp] theorem Tb.get_erase {α : Type} (d : α) (m : List (Nat × α)) (k j : Nat) :
    Tb.get d (Tb.erase m k) j = if j = k then d else Tb.get d m j := by
  simp only [Tb.get, Tb.get?_erase]; split_ifs <;> rfl

@[simp] theorem Tb.get_set {α : Type} [DecidableEq α] (d : α) (m : List (Nat × α)) (k j : Nat) (v : α) :
    Tb.get d (Tb.set d m k v) j = if j = k then v else Tb.get d m j := by
  unfold Tb.set; split_ifs <;> simp_all

theorem Tb.get?_modify {α : Type} (m : List (Nat × α)) (k j : Nat) (f : α → α) :
    Tb.get? (Tb.modify m k f) j = if j = k then (Tb.get? m k).map f else Tb.get? m j := by
  induction m with
  | nil => simp [Tb.modify, Tb.get?]
  | cons e t ih =>
    obtain ⟨i, w⟩ := e
    by_cases h1 : i = k
    · subst h1
      by_cases h2 : j = i
      · subst h2; simp [Tb.modify, Tb.get?]
      · simp [Tb.modify, Tb.get?, h2, Ne.symm h2]
    · by_cases h2 : j = k
      · subst h2; simpa [Tb.modify, Tb.get?, h1] using ih
      · simp only [h2, if_false] at ih
        simp [Tb.modify, Tb.get?, h1, h2, ih]

theorem Tb.modify_modify {α : Type} (m : List (Nat × α)) (k : Nat) (f g : α → α) :
    Tb.modify (Tb.modify m k f) k g = Tb.modify m k (fun x => g (f x)) := by
  induction m with
  | nil => rfl
  | cons e t ih =>
    obtain ⟨i, x⟩ := e
    by_cases h1 : i = k <;> simp [Tb.modify, h1, ih]

/-- Two changes that agree on the entry give the same table. -/
theorem Tb.modify_congr {α : Type} (m : List (Nat × α)) (k : Nat) (f g : α → α) (h : ∀ v, Tb.get? m k = some v → f v = g v) :
    Tb.modify m k f = Tb.modify m k g := by
  induction m with
  | nil => rfl
  | cons e t ih =>
    obtain ⟨i, x⟩ := e
    by_cases h1 : i = k
    · simp [Tb.modify, h1, h x (by simp [Tb.get?, h1])]
    · simp only [Tb.modify, h1, if_false]
      rw [ih (fun v hv => h v (by simpa [Tb.get?, h1] using hv))]

/-- A change that keeps the entry keeps the table. -/
theorem Tb.modify_id {α : Type} (m : List (Nat × α)) (k : Nat) (f : α → α) (h : ∀ v, Tb.get? m k = some v → f v = v) :
    Tb.modify m k f = m := by
  rw [Tb.modify_congr m k f id h]
  clear h
  induction m with
  | nil => rfl
  | cons e t ih =>
    obtain ⟨i, x⟩ := e
    by_cases h1 : i = k <;> simp [Tb.modify, h1, ih]

/-! ### The canonical form -/

/-- Every key of a table is above k. -/
def Tb.above {α : Type} (k : Nat) (m : List (Nat × α)) : Prop := ∀ e ∈ m, k < e.1

theorem Tb.sorted_cons {α : Type} (j : Nat) (w : α) (t : List (Nat × α)) :
    Tb.sorted ((j, w) :: t) = true ↔ Tb.above j t ∧ Tb.sorted t = true := by
  induction t generalizing j w with
  | nil => simp [Tb.sorted, Tb.above]
  | cons e t ih =>
    obtain ⟨k, x⟩ := e
    simp only [Tb.sorted, Bool.and_eq_true, decide_eq_true_eq]
    constructor
    · rintro ⟨h, hs⟩
      refine ⟨?_, hs⟩
      intro e he
      rcases List.mem_cons.1 he with rfl | he
      · exact h
      · exact lt_trans h (((ih k x).1 hs).1 e he)
    · rintro ⟨h, hs⟩
      exact ⟨h (k, x) (by simp), hs⟩

theorem Tb.mem_put {α : Type} (m : List (Nat × α)) (k : Nat) (v : α) (e : Nat × α) :
    e ∈ Tb.put m k v → e = (k, v) ∨ e ∈ m := by
  induction m with
  | nil => simp [Tb.put]
  | cons x t ih =>
    obtain ⟨j, w⟩ := x
    simp only [Tb.put]
    split_ifs
    · simp only [List.mem_cons]; rintro (h | h) <;> simp [h]
    · simp only [List.mem_cons]; rintro (h | h | h) <;> simp [h]
    · simp only [List.mem_cons]; rintro (h | h)
      · simp [h]
      · rcases ih h with h | h <;> simp [h]

theorem Tb.sorted_put {α : Type} (m : List (Nat × α)) (k : Nat) (v : α) (h : Tb.sorted m = true) :
    Tb.sorted (Tb.put m k v) = true := by
  induction m with
  | nil => simp [Tb.put, Tb.sorted]
  | cons x t ih =>
    obtain ⟨j, w⟩ := x
    have hc := (Tb.sorted_cons j w t).1 h
    simp only [Tb.put]
    split_ifs with h1 h2
    · exact (Tb.sorted_cons k v t).2 ⟨h1 ▸ hc.1, hc.2⟩
    · refine (Tb.sorted_cons k v _).2 ⟨?_, h⟩
      intro e he
      rcases List.mem_cons.1 he with rfl | he
      · exact h2
      · exact lt_trans h2 (hc.1 e he)
    · refine (Tb.sorted_cons j w _).2 ⟨?_, ih hc.2⟩
      intro e he
      rcases Tb.mem_put t k v e he with rfl | he
      · exact lt_of_le_of_ne (not_lt.1 h2) h1
      · exact hc.1 e he

theorem Tb.sorted_filter {α : Type} (m : List (Nat × α)) (p : Nat × α → Bool) (h : Tb.sorted m = true) :
    Tb.sorted (m.filter p) = true := by
  induction m with
  | nil => simpa using h
  | cons x t ih =>
    obtain ⟨j, w⟩ := x
    have hc := (Tb.sorted_cons j w t).1 h
    simp only [List.filter_cons]
    split_ifs
    · exact (Tb.sorted_cons j w _).2 ⟨fun e he => hc.1 e (List.mem_filter.1 he).1, ih hc.2⟩
    · exact ih hc.2

/-- A write keeps the canonical form. -/
theorem Tb.wf_set {α : Type} [DecidableEq α] (d : α) (m : List (Nat × α)) (k : Nat) (v : α) (h : Tb.wf d m = true) :
    Tb.wf d (Tb.set d m k v) = true := by
  simp only [Tb.wf, Bool.and_eq_true, List.all_eq_true, decide_eq_true_eq] at h ⊢
  unfold Tb.set
  split_ifs with hv
  · exact ⟨Tb.sorted_filter m _ h.1, fun e he => h.2 e (List.mem_filter.1 he).1⟩
  · refine ⟨Tb.sorted_put m k v h.1, fun e he => ?_⟩
    rcases Tb.mem_put m k v e he with rfl | he
    · exact hv
    · exact h.2 e he

/-- A part of a canonical table is canonical. -/
theorem Tb.wf_filter {α : Type} [DecidableEq α] (d : α) (m : List (Nat × α)) (p : Nat × α → Bool) (h : Tb.wf d m = true) :
    Tb.wf d (m.filter p) = true := by
  simp only [Tb.wf, Bool.and_eq_true, List.all_eq_true, decide_eq_true_eq] at h ⊢
  exact ⟨Tb.sorted_filter m p h.1, fun e he => h.2 e (List.mem_filter.1 he).1⟩

end Sys2Proof.Machine
end

