-- ==== Sys2Proof/Laws/State.lean ====
section
/-! SUPPORT. What updates of the state leave alone, field by field, and how changes of one group combine. -/

namespace Sys2Proof.Machine

/-! ### Changes of a group leave the rest alone -/

@[simp] theorem modG_now (s : State) (h : Nat) (f : Group → Group) : (s.modG h f).now = s.now := rfl
@[simp] theorem modG_ids (s : State) (h : Nat) (f : Group → Group) : (s.modG h f).ids = s.ids := rfl
@[simp] theorem modG_free (s : State) (h : Nat) (f : Group → Group) : (s.modG h f).free = s.free := rfl
@[simp] theorem modG_turns (s : State) (h : Nat) (f : Group → Group) : (s.modG h f).turns = s.turns := rfl
@[simp] theorem modG_cur (s : State) (h : Nat) (f : Group → Group) : (s.modG h f).cur = s.cur := rfl
@[simp] theorem modG_mem (s : State) (h : Nat) (f : Group → Group) : (s.modG h f).mem = s.mem := rfl
@[simp] theorem modG_cores (s : State) (h : Nat) (f : Group → Group) : (s.modG h f).cores = s.cores := rfl
@[simp] theorem modG_dies (s : State) (h : Nat) (f : Group → Group) : (s.modG h f).dies = s.dies := rfl
@[simp] theorem modG_clusters (s : State) (h : Nat) (f : Group → Group) : (s.modG h f).clusters = s.clusters := rfl
@[simp] theorem modG_pw (s : State) (h : Nat) (f : Group → Group) : (s.modG h f).pw = s.pw := rfl
@[simp] theorem modG_dev (s : State) (h : Nat) (f : Group → Group) : (s.modG h f).dev = s.dev := rfl
@[simp] theorem upG_cur (s : State) (f : Group → Group) : (s.upG f).cur = s.cur := rfl
@[simp] theorem upG_mem (s : State) (f : Group → Group) : (s.upG f).mem = s.mem := rfl
@[simp] theorem upG_ids (s : State) (f : Group → Group) : (s.upG f).ids = s.ids := rfl
@[simp] theorem upG_cores (s : State) (f : Group → Group) : (s.upG f).cores = s.cores := rfl
@[simp] theorem upG_dev (s : State) (f : Group → Group) : (s.upG f).dev = s.dev := rfl
@[simp] theorem upG_now (s : State) (f : Group → Group) : (s.upG f).now = s.now := rfl
@[simp] theorem upG_free (s : State) (f : Group → Group) : (s.upG f).free = s.free := rfl
@[simp] theorem upG_turns (s : State) (f : Group → Group) : (s.upG f).turns = s.turns := rfl
@[simp] theorem upG_pw (s : State) (f : Group → Group) : (s.upG f).pw = s.pw := rfl

/-! ### Changes of memory, cores, dies and clusters -/

@[simp] theorem upMem_work (s : State) (f : MemSt → MemSt) : (s.upMem f).work = s.work := rfl
@[simp] theorem upMem_cur (s : State) (f : MemSt → MemSt) : (s.upMem f).cur = s.cur := rfl
@[simp] theorem upMem_mem (s : State) (f : MemSt → MemSt) : (s.upMem f).mem = f s.mem := rfl
@[simp] theorem upMem_dev (s : State) (f : MemSt → MemSt) : (s.upMem f).dev = s.dev := rfl
@[simp] theorem setBytes_mem (s : State) (a : Nat) (l : List Byte) : (s.setBytes a l).mem = s.mem.setBytes a l := rfl
@[simp] theorem setNum_mem (s : State) (a n x : Nat) : (s.setNum a n x).mem = s.mem.setNum a n x := rfl
@[simp] theorem modCore_mem (s : State) (c : Nat) (f : Core → Core) : (s.modCore c f).mem = s.mem := rfl
@[simp] theorem modCore_work (s : State) (c : Nat) (f : Core → Core) : (s.modCore c f).work = s.work := rfl
@[simp] theorem modCore_cur (s : State) (c : Nat) (f : Core → Core) : (s.modCore c f).cur = s.cur := rfl
@[simp] theorem modDie_mem (s : State) (d : Nat) (f : Die → Die) : (s.modDie d f).mem = s.mem := rfl
@[simp] theorem modDie_work (s : State) (d : Nat) (f : Die → Die) : (s.modDie d f).work = s.work := rfl
@[simp] theorem modDie_pw (s : State) (d : Nat) (f : Die → Die) : (s.modDie d f).pw = s.pw := rfl
@[simp] theorem modDie_now (s : State) (d : Nat) (f : Die → Die) : (s.modDie d f).now = s.now := rfl
@[simp] theorem modCluster_mem (s : State) (c : Nat) (f : Cluster → Cluster) : (s.modCluster c f).mem = s.mem := rfl
@[simp] theorem modCluster_work (s : State) (c : Nat) (f : Cluster → Cluster) : (s.modCluster c f).work = s.work := rfl
@[simp] theorem modFunc_mem (s : State) (f : Nat) (u : Func → Func) : (s.modFunc f u).mem = s.mem := rfl
@[simp] theorem modLaunch_mem (s : State) (k : Nat) (f : Launch → Launch) : (s.modLaunch k f).mem = s.mem := rfl
@[simp] theorem modTeam_mem (s : State) (k t : Nat) (f : Team → Team) : (s.modTeam k t f).mem = s.mem := rfl
@[simp] theorem choose_mem (s : State) : s.choose.2.mem = s.mem := rfl
@[simp] theorem newId_mem (s : State) : s.newId.2.mem = s.mem := rfl

@[simp] theorem upG_dies (s : State) (f : Group → Group) : (s.upG f).dies = s.dies := rfl
@[simp] theorem upG_clusters (s : State) (f : Group → Group) : (s.upG f).clusters = s.clusters := rfl
@[simp] theorem upMem_now (s : State) (f : MemSt → MemSt) : (s.upMem f).now = s.now := rfl
@[simp] theorem upMem_ids (s : State) (f : MemSt → MemSt) : (s.upMem f).ids = s.ids := rfl
@[simp] theorem upMem_free (s : State) (f : MemSt → MemSt) : (s.upMem f).free = s.free := rfl
@[simp] theorem upMem_turns (s : State) (f : MemSt → MemSt) : (s.upMem f).turns = s.turns := rfl
@[simp] theorem upMem_cores (s : State) (f : MemSt → MemSt) : (s.upMem f).cores = s.cores := rfl
@[simp] theorem upMem_dies (s : State) (f : MemSt → MemSt) : (s.upMem f).dies = s.dies := rfl
@[simp] theorem upMem_clusters (s : State) (f : MemSt → MemSt) : (s.upMem f).clusters = s.clusters := rfl
@[simp] theorem upMem_pw (s : State) (f : MemSt → MemSt) : (s.upMem f).pw = s.pw := rfl
@[simp] theorem setBytes_now (s : State) (a : Nat) (l : List Byte) : (s.setBytes a l).now = s.now := rfl
@[simp] theorem setBytes_ids (s : State) (a : Nat) (l : List Byte) : (s.setBytes a l).ids = s.ids := rfl
@[simp] theorem setBytes_free (s : State) (a : Nat) (l : List Byte) : (s.setBytes a l).free = s.free := rfl
@[simp] theorem setBytes_turns (s : State) (a : Nat) (l : List Byte) : (s.setBytes a l).turns = s.turns := rfl
@[simp] theorem setBytes_cur (s : State) (a : Nat) (l : List Byte) : (s.setBytes a l).cur = s.cur := rfl
@[simp] theorem setBytes_cores (s : State) (a : Nat) (l : List Byte) : (s.setBytes a l).cores = s.cores := rfl
@[simp] theorem setBytes_dies (s : State) (a : Nat) (l : List Byte) : (s.setBytes a l).dies = s.dies := rfl
@[simp] theorem setBytes_clusters (s : State) (a : Nat) (l : List Byte) : (s.setBytes a l).clusters = s.clusters := rfl
@[simp] theorem setBytes_pw (s : State) (a : Nat) (l : List Byte) : (s.setBytes a l).pw = s.pw := rfl
@[simp] theorem setBytes_work (s : State) (a : Nat) (l : List Byte) : (s.setBytes a l).work = s.work := rfl
@[simp] theorem setBytes_dev (s : State) (a : Nat) (l : List Byte) : (s.setBytes a l).dev = s.dev := rfl
@[simp] theorem setNum_now (s : State) (a n x : Nat) : (s.setNum a n x).now = s.now := rfl
@[simp] theorem setNum_ids (s : State) (a n x : Nat) : (s.setNum a n x).ids = s.ids := rfl
@[simp] theorem setNum_free (s : State) (a n x : Nat) : (s.setNum a n x).free = s.free := rfl
@[simp] theorem setNum_turns (s : State) (a n x : Nat) : (s.setNum a n x).turns = s.turns := rfl
@[simp] theorem setNum_cur (s : State) (a n x : Nat) : (s.setNum a n x).cur = s.cur := rfl
@[simp] theorem setNum_cores (s : State) (a n x : Nat) : (s.setNum a n x).cores = s.cores := rfl
@[simp] theorem setNum_dies (s : State) (a n x : Nat) : (s.setNum a n x).dies = s.dies := rfl
@[simp] theorem setNum_clusters (s : State) (a n x : Nat) : (s.setNum a n x).clusters = s.clusters := rfl
@[simp] theorem setNum_pw (s : State) (a n x : Nat) : (s.setNum a n x).pw = s.pw := rfl
@[simp] theorem setNum_work (s : State) (a n x : Nat) : (s.setNum a n x).work = s.work := rfl
@[simp] theorem setNum_dev (s : State) (a n x : Nat) : (s.setNum a n x).dev = s.dev := rfl
@[simp] theorem modCore_now (s : State) (c : Nat) (f : Core → Core) : (s.modCore c f).now = s.now := rfl
@[simp] theorem modCore_ids (s : State) (c : Nat) (f : Core → Core) : (s.modCore c f).ids = s.ids := rfl
@[simp] theorem modCore_free (s : State) (c : Nat) (f : Core → Core) : (s.modCore c f).free = s.free := rfl
@[simp] theorem modCore_turns (s : State) (c : Nat) (f : Core → Core) : (s.modCore c f).turns = s.turns := rfl
@[simp] theorem modCore_dies (s : State) (c : Nat) (f : Core → Core) : (s.modCore c f).dies = s.dies := rfl
@[simp] theorem modCore_clusters (s : State) (c : Nat) (f : Core → Core) : (s.modCore c f).clusters = s.clusters := rfl
@[simp] theorem modCore_pw (s : State) (c : Nat) (f : Core → Core) : (s.modCore c f).pw = s.pw := rfl
@[simp] theorem modCore_dev (s : State) (c : Nat) (f : Core → Core) : (s.modCore c f).dev = s.dev := rfl
@[simp] theorem modDie_ids (s : State) (d : Nat) (f : Die → Die) : (s.modDie d f).ids = s.ids := rfl
@[simp] theorem modDie_free (s : State) (d : Nat) (f : Die → Die) : (s.modDie d f).free = s.free := rfl
@[simp] theorem modDie_turns (s : State) (d : Nat) (f : Die → Die) : (s.modDie d f).turns = s.turns := rfl
@[simp] theorem modDie_cur (s : State) (d : Nat) (f : Die → Die) : (s.modDie d f).cur = s.cur := rfl
@[simp] theorem modDie_cores (s : State) (d : Nat) (f : Die → Die) : (s.modDie d f).cores = s.cores := rfl
@[simp] theorem modDie_clusters (s : State) (d : Nat) (f : Die → Die) : (s.modDie d f).clusters = s.clusters := rfl
@[simp] theorem modDie_dev (s : State) (d : Nat) (f : Die → Die) : (s.modDie d f).dev = s.dev := rfl
@[simp] theorem modCluster_now (s : State) (c : Nat) (f : Cluster → Cluster) : (s.modCluster c f).now = s.now := rfl
@[simp] theorem modCluster_ids (s : State) (c : Nat) (f : Cluster → Cluster) : (s.modCluster c f).ids = s.ids := rfl
@[simp] theorem modCluster_free (s : State) (c : Nat) (f : Cluster → Cluster) : (s.modCluster c f).free = s.free := rfl
@[simp] theorem modCluster_turns (s : State) (c : Nat) (f : Cluster → Cluster) : (s.modCluster c f).turns = s.turns := rfl
@[simp] theorem modCluster_cur (s : State) (c : Nat) (f : Cluster → Cluster) : (s.modCluster c f).cur = s.cur := rfl
@[simp] theorem modCluster_cores (s : State) (c : Nat) (f : Cluster → Cluster) : (s.modCluster c f).cores = s.cores := rfl
@[simp] theorem modCluster_dies (s : State) (c : Nat) (f : Cluster → Cluster) : (s.modCluster c f).dies = s.dies := rfl
@[simp] theorem modCluster_pw (s : State) (c : Nat) (f : Cluster → Cluster) : (s.modCluster c f).pw = s.pw := rfl
@[simp] theorem modCluster_dev (s : State) (c : Nat) (f : Cluster → Cluster) : (s.modCluster c f).dev = s.dev := rfl
@[simp] theorem modFunc_now (s : State) (f : Nat) (u : Func → Func) : (s.modFunc f u).now = s.now := rfl
@[simp] theorem modFunc_ids (s : State) (f : Nat) (u : Func → Func) : (s.modFunc f u).ids = s.ids := rfl
@[simp] theorem modFunc_free (s : State) (f : Nat) (u : Func → Func) : (s.modFunc f u).free = s.free := rfl
@[simp] theorem modFunc_turns (s : State) (f : Nat) (u : Func → Func) : (s.modFunc f u).turns = s.turns := rfl
@[simp] theorem modFunc_cur (s : State) (f : Nat) (u : Func → Func) : (s.modFunc f u).cur = s.cur := rfl
@[simp] theorem modFunc_cores (s : State) (f : Nat) (u : Func → Func) : (s.modFunc f u).cores = s.cores := rfl
@[simp] theorem modFunc_dies (s : State) (f : Nat) (u : Func → Func) : (s.modFunc f u).dies = s.dies := rfl
@[simp] theorem modFunc_clusters (s : State) (f : Nat) (u : Func → Func) : (s.modFunc f u).clusters = s.clusters := rfl
@[simp] theorem modFunc_pw (s : State) (f : Nat) (u : Func → Func) : (s.modFunc f u).pw = s.pw := rfl
@[simp] theorem modFunc_dev (s : State) (f : Nat) (u : Func → Func) : (s.modFunc f u).dev = s.dev := rfl
@[simp] theorem modLaunch_now (s : State) (k : Nat) (f : Launch → Launch) : (s.modLaunch k f).now = s.now := rfl
@[simp] theorem modLaunch_ids (s : State) (k : Nat) (f : Launch → Launch) : (s.modLaunch k f).ids = s.ids := rfl
@[simp] theorem modLaunch_free (s : State) (k : Nat) (f : Launch → Launch) : (s.modLaunch k f).free = s.free := rfl
@[simp] theorem modLaunch_turns (s : State) (k : Nat) (f : Launch → Launch) : (s.modLaunch k f).turns = s.turns := rfl
@[simp] theorem modLaunch_cur (s : State) (k : Nat) (f : Launch → Launch) : (s.modLaunch k f).cur = s.cur := rfl
@[simp] theorem modLaunch_cores (s : State) (k : Nat) (f : Launch → Launch) : (s.modLaunch k f).cores = s.cores := rfl
@[simp] theorem modLaunch_dies (s : State) (k : Nat) (f : Launch → Launch) : (s.modLaunch k f).dies = s.dies := rfl
@[simp] theorem modLaunch_clusters (s : State) (k : Nat) (f : Launch → Launch) : (s.modLaunch k f).clusters = s.clusters := rfl
@[simp] theorem modLaunch_pw (s : State) (k : Nat) (f : Launch → Launch) : (s.modLaunch k f).pw = s.pw := rfl
@[simp] theorem modLaunch_dev (s : State) (k : Nat) (f : Launch → Launch) : (s.modLaunch k f).dev = s.dev := rfl
@[simp] theorem modTeam_now (s : State) (k t : Nat) (f : Team → Team) : (s.modTeam k t f).now = s.now := rfl
@[simp] theorem modTeam_ids (s : State) (k t : Nat) (f : Team → Team) : (s.modTeam k t f).ids = s.ids := rfl
@[simp] theorem modTeam_free (s : State) (k t : Nat) (f : Team → Team) : (s.modTeam k t f).free = s.free := rfl
@[simp] theorem modTeam_turns (s : State) (k t : Nat) (f : Team → Team) : (s.modTeam k t f).turns = s.turns := rfl
@[simp] theorem modTeam_cur (s : State) (k t : Nat) (f : Team → Team) : (s.modTeam k t f).cur = s.cur := rfl
@[simp] theorem modTeam_cores (s : State) (k t : Nat) (f : Team → Team) : (s.modTeam k t f).cores = s.cores := rfl
@[simp] theorem modTeam_dies (s : State) (k t : Nat) (f : Team → Team) : (s.modTeam k t f).dies = s.dies := rfl
@[simp] theorem modTeam_clusters (s : State) (k t : Nat) (f : Team → Team) : (s.modTeam k t f).clusters = s.clusters := rfl
@[simp] theorem modTeam_pw (s : State) (k t : Nat) (f : Team → Team) : (s.modTeam k t f).pw = s.pw := rfl
@[simp] theorem modTeam_dev (s : State) (k t : Nat) (f : Team → Team) : (s.modTeam k t f).dev = s.dev := rfl
@[simp] theorem choose_now (s : State) : s.choose.2.now = s.now := rfl
@[simp] theorem choose_ids (s : State) : s.choose.2.ids = s.ids := rfl
@[simp] theorem choose_turns (s : State) : s.choose.2.turns = s.turns := rfl
@[simp] theorem choose_cur (s : State) : s.choose.2.cur = s.cur := rfl
@[simp] theorem choose_cores (s : State) : s.choose.2.cores = s.cores := rfl
@[simp] theorem choose_dies (s : State) : s.choose.2.dies = s.dies := rfl
@[simp] theorem choose_clusters (s : State) : s.choose.2.clusters = s.clusters := rfl
@[simp] theorem choose_pw (s : State) : s.choose.2.pw = s.pw := rfl
@[simp] theorem choose_work (s : State) : s.choose.2.work = s.work := rfl
@[simp] theorem choose_dev (s : State) : s.choose.2.dev = s.dev := rfl
@[simp] theorem pick_now (s : State) (k : Nat) : (s.pick k).2.now = s.now := rfl
@[simp] theorem pick_ids (s : State) (k : Nat) : (s.pick k).2.ids = s.ids := rfl
@[simp] theorem pick_turns (s : State) (k : Nat) : (s.pick k).2.turns = s.turns := rfl
@[simp] theorem pick_cur (s : State) (k : Nat) : (s.pick k).2.cur = s.cur := rfl
@[simp] theorem pick_mem (s : State) (k : Nat) : (s.pick k).2.mem = s.mem := rfl
@[simp] theorem pick_cores (s : State) (k : Nat) : (s.pick k).2.cores = s.cores := rfl
@[simp] theorem pick_dies (s : State) (k : Nat) : (s.pick k).2.dies = s.dies := rfl
@[simp] theorem pick_clusters (s : State) (k : Nat) : (s.pick k).2.clusters = s.clusters := rfl
@[simp] theorem pick_pw (s : State) (k : Nat) : (s.pick k).2.pw = s.pw := rfl
@[simp] theorem pick_work (s : State) (k : Nat) : (s.pick k).2.work = s.work := rfl
@[simp] theorem pick_dev (s : State) (k : Nat) : (s.pick k).2.dev = s.dev := rfl
@[simp] theorem newId_now (s : State) : s.newId.2.now = s.now := rfl
@[simp] theorem newId_free (s : State) : s.newId.2.free = s.free := rfl
@[simp] theorem newId_turns (s : State) : s.newId.2.turns = s.turns := rfl
@[simp] theorem newId_cur (s : State) : s.newId.2.cur = s.cur := rfl
@[simp] theorem newId_cores (s : State) : s.newId.2.cores = s.cores := rfl
@[simp] theorem newId_dies (s : State) : s.newId.2.dies = s.dies := rfl
@[simp] theorem newId_clusters (s : State) : s.newId.2.clusters = s.clusters := rfl
@[simp] theorem newId_pw (s : State) : s.newId.2.pw = s.pw := rfl
@[simp] theorem newId_work (s : State) : s.newId.2.work = s.work := rfl
@[simp] theorem newId_dev (s : State) : s.newId.2.dev = s.dev := rfl
@[simp] theorem choose_free (s : State) : s.choose.2.free = s.free + 1 := rfl
@[simp] theorem pick_free (s : State) (k : Nat) : (s.pick k).2.free = s.free + 1 := rfl
@[simp] theorem newId_ids (s : State) : s.newId.2.ids = s.ids + 1 := rfl

@[simp] theorem modG_banks (s : State) (h : Nat) (f : Group → Group) : (s.modG h f).banks = s.banks := rfl
@[simp] theorem upG_banks (s : State) (f : Group → Group) : (s.upG f).banks = s.banks := rfl
@[simp] theorem upMem_banks (s : State) (f : MemSt → MemSt) : (s.upMem f).banks = s.banks := rfl
@[simp] theorem setBytes_banks (s : State) (a : Nat) (l : List Byte) : (s.setBytes a l).banks = s.banks := rfl
@[simp] theorem setNum_banks (s : State) (a n x : Nat) : (s.setNum a n x).banks = s.banks := rfl
@[simp] theorem modCore_banks (s : State) (c : Nat) (f : Core → Core) : (s.modCore c f).banks = s.banks := rfl
@[simp] theorem modDie_banks (s : State) (d : Nat) (f : Die → Die) : (s.modDie d f).banks = s.banks := rfl
@[simp] theorem modCluster_banks (s : State) (c : Nat) (f : Cluster → Cluster) : (s.modCluster c f).banks = s.banks := rfl
@[simp] theorem modFunc_banks (s : State) (f : Nat) (u : Func → Func) : (s.modFunc f u).banks = s.banks := rfl
@[simp] theorem modLaunch_banks (s : State) (k : Nat) (f : Launch → Launch) : (s.modLaunch k f).banks = s.banks := rfl
@[simp] theorem modTeam_banks (s : State) (k t : Nat) (f : Team → Team) : (s.modTeam k t f).banks = s.banks := rfl
@[simp] theorem choose_banks (s : State) : s.choose.2.banks = s.banks := rfl
@[simp] theorem pick_banks (s : State) (k : Nat) : (s.pick k).2.banks = s.banks := rfl
@[simp] theorem newId_banks (s : State) : s.newId.2.banks = s.banks := rfl

/-! ### Banks (R140): a step that reaches banks changes their states alone -/

@[simp] theorem setBankSt_now (s : State) (b : Nat) (x : BankSt) : (setBankSt s b x).now = s.now := rfl
@[simp] theorem setBankSt_ids (s : State) (b : Nat) (x : BankSt) : (setBankSt s b x).ids = s.ids := rfl
@[simp] theorem setBankSt_free (s : State) (b : Nat) (x : BankSt) : (setBankSt s b x).free = s.free := rfl
@[simp] theorem setBankSt_turns (s : State) (b : Nat) (x : BankSt) : (setBankSt s b x).turns = s.turns := rfl
@[simp] theorem setBankSt_cur (s : State) (b : Nat) (x : BankSt) : (setBankSt s b x).cur = s.cur := rfl
@[simp] theorem setBankSt_mem (s : State) (b : Nat) (x : BankSt) : (setBankSt s b x).mem = s.mem := rfl
@[simp] theorem setBankSt_cores (s : State) (b : Nat) (x : BankSt) : (setBankSt s b x).cores = s.cores := rfl
@[simp] theorem setBankSt_dies (s : State) (b : Nat) (x : BankSt) : (setBankSt s b x).dies = s.dies := rfl
@[simp] theorem setBankSt_clusters (s : State) (b : Nat) (x : BankSt) : (setBankSt s b x).clusters = s.clusters := rfl
@[simp] theorem setBankSt_pw (s : State) (b : Nat) (x : BankSt) : (setBankSt s b x).pw = s.pw := rfl
@[simp] theorem setBankSt_work (s : State) (b : Nat) (x : BankSt) : (setBankSt s b x).work = s.work := rfl
@[simp] theorem setBankSt_dev (s : State) (b : Nat) (x : BankSt) : (setBankSt s b x).dev = s.dev := rfl
/-- A fold of changes of banks changes banks alone. -/
theorem foldl_banks (f : State → Nat → State) (hf : ∀ s b, ∃ x, f s b = { s with banks := x }) (s : State) (bs : List Nat) :
    ∃ x, bs.foldl f s = { s with banks := x } := by
  induction bs generalizing s with
  | nil => exact ⟨s.banks, rfl⟩
  | cons y ys ih =>
    obtain ⟨a, ha⟩ := hf s y
    obtain ⟨b, hb⟩ := ih (f s y)
    exact ⟨b, by rw [List.foldl_cons, hb, ha]⟩
theorem touch_eq (s : State) (bs : List Nat) : ∃ b, touch s bs = { s with banks := b } :=
  foldl_banks _ (fun _ _ => ⟨_, rfl⟩) s bs
theorem reachBanks_eq (s : State) (bs : List Nat) : ∃ b, (reachBanks s bs).2 = { s with banks := b } := by
  refine foldl_banks _ (fun s b => ?_) s bs
  split
  · split
    · exact ⟨_, rfl⟩
    · exact ⟨s.banks, rfl⟩
  · exact ⟨_, rfl⟩
  · exact ⟨s.banks, rfl⟩
@[simp] theorem touch_now (s : State) (bs : List Nat) : (touch s bs).now = s.now := by obtain ⟨b, h⟩ := touch_eq s bs; rw [h]
@[simp] theorem touch_ids (s : State) (bs : List Nat) : (touch s bs).ids = s.ids := by obtain ⟨b, h⟩ := touch_eq s bs; rw [h]
@[simp] theorem touch_free (s : State) (bs : List Nat) : (touch s bs).free = s.free := by obtain ⟨b, h⟩ := touch_eq s bs; rw [h]
@[simp] theorem touch_turns (s : State) (bs : List Nat) : (touch s bs).turns = s.turns := by obtain ⟨b, h⟩ := touch_eq s bs; rw [h]
@[simp] theorem touch_cur (s : State) (bs : List Nat) : (touch s bs).cur = s.cur := by obtain ⟨b, h⟩ := touch_eq s bs; rw [h]
@[simp] theorem touch_mem (s : State) (bs : List Nat) : (touch s bs).mem = s.mem := by obtain ⟨b, h⟩ := touch_eq s bs; rw [h]
@[simp] theorem touch_cores (s : State) (bs : List Nat) : (touch s bs).cores = s.cores := by obtain ⟨b, h⟩ := touch_eq s bs; rw [h]
@[simp] theorem touch_dies (s : State) (bs : List Nat) : (touch s bs).dies = s.dies := by obtain ⟨b, h⟩ := touch_eq s bs; rw [h]
@[simp] theorem touch_clusters (s : State) (bs : List Nat) : (touch s bs).clusters = s.clusters := by obtain ⟨b, h⟩ := touch_eq s bs; rw [h]
@[simp] theorem touch_pw (s : State) (bs : List Nat) : (touch s bs).pw = s.pw := by obtain ⟨b, h⟩ := touch_eq s bs; rw [h]
@[simp] theorem touch_work (s : State) (bs : List Nat) : (touch s bs).work = s.work := by obtain ⟨b, h⟩ := touch_eq s bs; rw [h]
@[simp] theorem touch_dev (s : State) (bs : List Nat) : (touch s bs).dev = s.dev := by obtain ⟨b, h⟩ := touch_eq s bs; rw [h]
@[simp] theorem reachBanks_now (s : State) (bs : List Nat) : (reachBanks s bs).2.now = s.now := by obtain ⟨b, h⟩ := reachBanks_eq s bs; rw [h]
@[simp] theorem reachBanks_ids (s : State) (bs : List Nat) : (reachBanks s bs).2.ids = s.ids := by obtain ⟨b, h⟩ := reachBanks_eq s bs; rw [h]
@[simp] theorem reachBanks_free (s : State) (bs : List Nat) : (reachBanks s bs).2.free = s.free := by obtain ⟨b, h⟩ := reachBanks_eq s bs; rw [h]
@[simp] theorem reachBanks_turns (s : State) (bs : List Nat) : (reachBanks s bs).2.turns = s.turns := by obtain ⟨b, h⟩ := reachBanks_eq s bs; rw [h]
@[simp] theorem reachBanks_cur (s : State) (bs : List Nat) : (reachBanks s bs).2.cur = s.cur := by obtain ⟨b, h⟩ := reachBanks_eq s bs; rw [h]
@[simp] theorem reachBanks_mem (s : State) (bs : List Nat) : (reachBanks s bs).2.mem = s.mem := by obtain ⟨b, h⟩ := reachBanks_eq s bs; rw [h]
@[simp] theorem reachBanks_cores (s : State) (bs : List Nat) : (reachBanks s bs).2.cores = s.cores := by obtain ⟨b, h⟩ := reachBanks_eq s bs; rw [h]
@[simp] theorem reachBanks_dies (s : State) (bs : List Nat) : (reachBanks s bs).2.dies = s.dies := by obtain ⟨b, h⟩ := reachBanks_eq s bs; rw [h]
@[simp] theorem reachBanks_clusters (s : State) (bs : List Nat) : (reachBanks s bs).2.clusters = s.clusters := by obtain ⟨b, h⟩ := reachBanks_eq s bs; rw [h]
@[simp] theorem reachBanks_pw (s : State) (bs : List Nat) : (reachBanks s bs).2.pw = s.pw := by obtain ⟨b, h⟩ := reachBanks_eq s bs; rw [h]
@[simp] theorem reachBanks_work (s : State) (bs : List Nat) : (reachBanks s bs).2.work = s.work := by obtain ⟨b, h⟩ := reachBanks_eq s bs; rw [h]
@[simp] theorem reachBanks_dev (s : State) (bs : List Nat) : (reachBanks s bs).2.dev = s.dev := by obtain ⟨b, h⟩ := reachBanks_eq s bs; rw [h]
/-- A bank after a change. -/
theorem setBankSt_bankSt (s : State) (b k : Nat) (x : BankSt) :
    bankSt (setBankSt s b x) k = if k = b then (x, bankClk s b) else bankSt s k := by
  simp only [bankSt, setBankSt, Tb.get_put]

/-- A core after a change. -/
@[simp] theorem modCore_core (s : State) (c : Nat) (f : Core → Core) (k : Nat) :
    (s.modCore c f).core k = if k = c then f (s.core c) else s.core k := by
  simp [State.core, State.modCore, Tb.get_set]
@[simp] theorem modDie_die (s : State) (c : Nat) (f : Die → Die) (k : Nat) :
    (s.modDie c f).die k = if k = c then f (s.die c) else s.die k := by
  simp [State.die, State.modDie, Tb.get_set]
@[simp] theorem modCluster_cluster (s : State) (c : Nat) (f : Cluster → Cluster) (k : Nat) :
    (s.modCluster c f).cluster k = if k = c then f (s.cluster c) else s.cluster k := by
  simp [State.cluster, State.modCluster, Tb.get_set]
@[simp] theorem modFunc_func (s : State) (c : Nat) (f : Func → Func) (k : Nat) :
    (s.modFunc c f).func k = if k = c then f (s.func c) else s.func k := by
  simp [State.func, State.modFunc, Tb.get_put]

/-! ### One group -/

/-- A group after a change, where it is resident. -/
theorem modG_grp (s : State) (h k : Nat) (f : Group → Group) (hr : (Tb.get? s.work.groups h).isSome = true) :
    (s.modG h f).grp k = if k = h then f (s.grp h) else s.grp k := by
  obtain ⟨v, hv⟩ := Option.isSome_iff_exists.1 hr
  simp only [State.grp, State.modG, Tb.get, Tb.get?_modify, hv]
  split_ifs with e
  · simp
  · rfl
theorem upG_curG (s : State) (f : Group → Group) (hr : (Tb.get? s.work.groups s.cur.h).isSome = true) :
    (s.upG f).curG = f s.curG := by
  have := modG_grp s s.cur.h s.cur.h f hr
  simpa [State.curG, State.upG] using this
theorem modG_groups (s : State) (h k : Nat) (f : Group → Group) :
    Tb.get? (s.modG h f).work.groups k = if k = h then (Tb.get? s.work.groups h).map f else Tb.get? s.work.groups k :=
  Tb.get?_modify _ _ _ _
theorem modG_resident (s : State) (h k : Nat) (f : Group → Group) :
    (Tb.get? (s.modG h f).work.groups k).isSome = (Tb.get? s.work.groups k).isSome := by
  rw [modG_groups]; split_ifs with e <;> simp [e]
theorem upG_resident (s : State) (k : Nat) (f : Group → Group) :
    (Tb.get? (s.upG f).work.groups k).isSome = (Tb.get? s.work.groups k).isSome := modG_resident _ _ _ _

theorem modG_modG (s : State) (h : Nat) (f g : Group → Group) : (s.modG h f).modG h g = s.modG h (fun x => g (f x)) := by
  simp only [State.modG, Tb.modify_modify]
theorem upG_upG (s : State) (f g : Group → Group) : (s.upG f).upG g = s.upG (fun x => g (f x)) := modG_modG _ _ _ _
/-- A change of the issuing group gives it one new value. -/
theorem upG_const (s : State) (f : Group → Group) : s.upG f = s.upG (fun _ => f s.curG) := by
  unfold State.upG State.modG
  rw [Tb.modify_congr s.work.groups s.cur.h f (fun _ => f s.curG)]
  intro v hv
  simp [State.curG, State.grp, Tb.get, hv]

end Sys2Proof.Machine
end

