-- ==== Sys2Proof/Laws/Mem.lean ====
section
/-! SUPPORT. Memory: read after write, what a write leaves alone, and that every operation on bytes keeps the canonical form. -/

namespace Sys2Proof.Machine

/-! ### Bytes -/

theorem byte_setByte (m : MemSt) (a c : Nat) (b : Byte) : (m.setByte a b).byte c = if c = a then b else m.byte c := by
  simp [MemSt.byte, MemSt.setByte]
/-- A byte after a write of bytes: a written byte, or the byte as it was. -/
theorem byte_setBytes (m : MemSt) (a c : Nat) (bs : List Byte) :
    (m.setBytes a bs).byte c = if a ≤ c ∧ c < a + bs.length then bs.getD (c - a) 0 else m.byte c := by
  induction bs generalizing m a with
  | nil => simp only [MemSt.setBytes, List.length_nil]; rw [if_neg (by omega)]
  | cons b t ih =>
    simp only [MemSt.setBytes, List.length_cons, ih, byte_setByte]
    by_cases h : c = a
    · subst h; simp
    · by_cases h2 : a + 1 ≤ c ∧ c < a + 1 + t.length
      · rw [if_pos h2, if_pos (by omega), show c - a = (c - (a + 1)) + 1 by omega]; simp
      · rw [if_neg h2, if_neg h, if_neg (by omega)]
theorem bytes_setBytes_other (m : MemSt) (a c n : Nat) (bs : List Byte) (h : c + n ≤ a ∨ a + bs.length ≤ c) :
    (m.setBytes a bs).bytes c n = m.bytes c n := by
  simp only [MemSt.bytes, List.map_inj_left, List.mem_range, byte_setBytes]
  intro i hi
  rw [if_neg (by omega)]
theorem bytes_setBytes_same (m : MemSt) (a : Nat) (bs : List Byte) : (m.setBytes a bs).bytes a bs.length = bs := by
  apply List.ext_getElem
  · simp [MemSt.bytes]
  · intro i h1 h2
    simp only [MemSt.bytes, List.getElem_map, List.getElem_range, byte_setBytes]
    rw [if_pos (by omega)]
    simp [List.getD_eq_getElem?_getD, h2]

/-! ### Numbers -/

@[simp] theorem toBytes_length (n x : Nat) : (toBytes n x).length = n := by
  induction n generalizing x with
  | zero => rfl
  | succ n ih => simp [toBytes, ih]
theorem ofBytes_toBytes (n x : Nat) : ofBytes (toBytes n x) = x % 256 ^ n := by
  induction n generalizing x with
  | zero => simp [toBytes, ofBytes, Nat.mod_one]
  | succ n ih =>
    rw [toBytes, ofBytes, ih, BitVec.toNat_ofNat, show (2 : Nat) ^ 8 = 256 from rfl, Nat.pow_succ', Nat.mod_mul]
theorem num_setNum_same (m : MemSt) (a n x : Nat) : (m.setNum a n x).num a n = x % 256 ^ n := by
  have h := bytes_setBytes_same m a (toBytes n x)
  rw [toBytes_length] at h
  rw [MemSt.num, MemSt.setNum, h, ofBytes_toBytes]
theorem num_setNum_other (m : MemSt) (a n x c k : Nat) (h : c + k ≤ a ∨ a + n ≤ c) : (m.setNum a n x).num c k = m.num c k := by
  rw [MemSt.num, MemSt.setNum, bytes_setBytes_other _ _ _ _ _ (by simpa using h), MemSt.num]
/-- A write of a number changes no byte outside it. -/
theorem setNum_sameBytes (s : State) (a n x : Nat) : SameBytes s (s.setNum a n x) [(a, n)] := by
  intro c h
  have := h (a, n) (by simp)
  simp only [setNum_mem, MemSt.setNum, byte_setBytes, toBytes_length]
  rw [if_neg (by omega)]
theorem setBytes_sameBytes (s : State) (a : Nat) (bs : List Byte) : SameBytes s (s.setBytes a bs) [(a, bs.length)] := by
  intro c h
  have := h (a, bs.length) (by simp)
  simp only [setBytes_mem, byte_setBytes]
  rw [if_neg (by omega)]

/-! ### Check words -/

theorem crc32cStep_lt (c : Nat) (h : c < 2 ^ 32) : crc32cStep c < 2 ^ 32 := by
  unfold crc32cStep
  split_ifs
  · exact Nat.xor_lt_two_pow (by omega) (by decide)
  · omega
/-- A check word has 32 bits (R396). -/
theorem crc32c_lt (bs : List Byte) : crc32c bs < 2 ^ 32 := by
  have h : ∀ c, c < 2 ^ 32 → bs.foldl crc32cByte c < 2 ^ 32 := by
    induction bs with
    | nil => exact fun c h => h
    | cons b t ih =>
      intro c hc
      refine ih _ ?_
      have hb : c ^^^ b.toNat < 2 ^ 32 := Nat.xor_lt_two_pow hc (by omega)
      unfold crc32cByte
      iterate 8 refine crc32cStep_lt _ ?_
      exact hb
  exact Nat.xor_lt_two_pow (h _ (by decide)) (by decide)

/-! ### The canonical form -/

theorem wf_setByte (m : MemSt) (a : Nat) (b : Byte) (h : m.wf = true) : (m.setByte a b).wf = true := Tb.wf_set _ _ _ _ h
theorem wf_setBytes (m : MemSt) (a : Nat) (bs : List Byte) (h : m.wf = true) : (m.setBytes a bs).wf = true := by
  induction bs generalizing m a with
  | nil => exact h
  | cons b t ih => exact ih _ _ (wf_setByte _ _ _ h)
theorem wf_setNum (m : MemSt) (a n x : Nat) (h : m.wf = true) : (m.setNum a n x).wf = true := wf_setBytes _ _ _ h
theorem wf_setBound (m : MemSt) (a : Nat) (e : EB) (h : m.wf = true) : (m.setBound a e).wf = true := by
  unfold MemSt.setBound
  split
  · exact wf_setNum _ _ _ _ h
  · exact h
  · exact h
/-- Memory loses a set of addresses (RESET, a frame that is cleared). -/
theorem wf_filter (m : MemSt) (p : Host.Cell → Bool) (h : m.wf = true) : ({ m with cells := m.cells.filter p } : MemSt).wf = true :=
  Tb.wf_filter _ _ _ h
/-- The invariant depends on the bytes alone. -/
theorem wf_of_cells (m n : MemSt) (h : m.wf = true) (hc : n.cells = m.cells) : n.wf = true := by
  unfold MemSt.wf at *; rw [hc]; exact h

end Sys2Proof.Machine
end

