-- ==== Sys2Proof/Laws/Regs.lean ====
section
/-! SUPPORT. What the register operations of an issue write, once for each operation. -/

namespace Sys2Proof.Machine

theorem mem_lanesOf (m : Mask) (l : Nat) : l ∈ lanesOf m ↔ m.getLsbD l = true := by
  simp only [lanesOf, List.mem_filter, List.mem_range]
  constructor
  · exact fun h => h.2
  · intro h
    refine ⟨?_, h⟩
    by_contra hc
    rw [BitVec.getLsbD_of_ge m l (by omega)] at h
    cases h
theorem lanesOf_lt (m : Mask) (l : Nat) (h : l ∈ lanesOf m) : l < 64 := by
  simpa using (List.mem_filter.1 h).1

/-- First the writes of one effect, then those of another. -/
def Eff.seq (a b : Eff) : Eff :=
  ⟨fun n l => (b.v n l).or (a.v n l), fun n => (b.s n).or (a.s n), fun n l => (b.p n l).or (a.p n l), a.fl ||| b.fl⟩

theorem Writes.refl (g : Group) : Writes g g Eff.none := by
  refine ⟨?_, ?_, ?_, ?_, ?_, rfl, ⟨_, _, _, _, _, _, rfl⟩⟩ <;> try simp [Eff.none]
  intro c n l _; cases c <;> simp [Eff.heals]

theorem getD_or {α : Type} (a b : Option α) (c : α) : (a.or b).getD c = a.getD (b.getD c) := by cases a <;> rfl
theorem isSome_or {α : Type} (a b : Option α) : (a.or b).isSome = (a.isSome || b.isSome) := by cases a <;> rfl

theorem Writes.trans {g g' g'' : Group} {a b : Eff} (h : Writes g g' a) (k : Writes g' g'' b) : Writes g g'' (a.seq b) := by
  refine ⟨?_, ?_, ?_, ?_, ?_, ?_, ?_⟩
  · intro n l hl; rw [k.v n l hl, h.v n l hl]; exact (getD_or _ _ _).symm
  · intro n; rw [k.s n, h.s n]; exact (getD_or _ _ _).symm
  · intro n l hl; rw [k.p n l hl, h.p n l hl]
    split_ifs
    · rfl
    · exact (getD_or _ _ _).symm
  · rw [k.fl, h.fl]; simp [Eff.seq, BitVec.or_assoc]
  · intro x
    rw [k.soft, h.soft]
    obtain ⟨c, n, l⟩ := x
    cases c
    case v => simp only [Eff.heals, Eff.seq, isSome_or, Bool.or_eq_true]; tauto
    case s => simp only [Eff.heals, Eff.seq, isSome_or, Bool.or_eq_true]; tauto
    case p =>
      simp only [Eff.heals, Eff.seq, isSome_or, Bool.or_eq_true, exists_or]; tauto
    all_goals simp only [Eff.heals]; tauto
  · rw [k.outst, h.outst]
  · obtain ⟨_, _, _, _, _, _, h1⟩ := h.rest
    obtain ⟨_, _, _, _, _, _, h2⟩ := k.rest
    subst h1
    exact ⟨_, _, _, _, _, _, h2⟩

theorem Writes.congr {g g' : Group} {a b : Eff} (h : Writes g g' a) (e : a = b) : Writes g g' b := e ▸ h

theorem key_inj (n l n' l' : Nat) (h : l < 64) (h' : l' < 64) : 64 * n + l = 64 * n' + l' ↔ n = n' ∧ l = l' := by omega

theorem writes_setV (g : Group) (n l : Nat) (hl : l < 64) (c : VCell) :
    Writes g (g.setV n l c) { Eff.none with v := fun i j => if i = n ∧ j = l then some c else none } := by
  refine ⟨?_, ?_, ?_, ?_, ?_, rfl, ⟨_, _, _, _, _, _, rfl⟩⟩
  · intro i j hj
    simp only [Group.vAt, Group.setV, Tb.get_set, key_inj _ _ _ _ hj hl]
    split_ifs <;> simp_all
  · intro i; simp [Group.sAt, Group.setV, Eff.none]
  · intro i j _; simp [Group.pAt, Group.setV, Eff.none]
  · simp [Group.setV, Eff.none]
  · rintro ⟨c, i, j⟩
    simp only [Group.setV, List.mem_filter, decide_eq_true_eq, ne_eq, Prod.mk.injEq, not_and]
    cases c <;> simp [Eff.heals, Eff.none]

theorem writes_setS (g : Group) (n : Nat) (c : SCell) :
    Writes g (g.setS n c) { Eff.none with s := fun i => if i = n then some c else none } := by
  refine ⟨?_, ?_, ?_, ?_, ?_, rfl, ⟨_, _, _, _, _, _, rfl⟩⟩
  · intro i j hj; simp [Group.vAt, Group.setS, Eff.none]
  · intro i
    simp only [Group.sAt, Group.setS, Tb.get_set]
    split_ifs <;> simp_all
  · intro i j _; simp [Group.pAt, Group.setS, Eff.none]
  · simp [Group.setS, Eff.none]
  · rintro ⟨c, i, j⟩
    simp only [Group.setS, List.mem_filter, decide_eq_true_eq, ne_eq, Prod.mk.injEq, not_and]
    cases c <;> simp [Eff.heals, Eff.none]
    tauto

theorem writes_setP (g : Group) (n l : Nat) (hl : l < 64) (c : Byte) :
    Writes g (g.setP n l c) { Eff.none with p := fun i j => if i = n ∧ j = l then some c else none } := by
  unfold Group.setP
  by_cases hn : n = 0
  · simp only [hn, if_true]
    refine ⟨?_, ?_, ?_, ?_, ?_, rfl, ⟨_, _, _, _, _, _, rfl⟩⟩
    · intro i j _; simp [Eff.none]
    · intro i; simp [Eff.none]
    · intro i j _; split_ifs <;> simp_all
    · simp [Eff.none]
    · rintro ⟨c, i, j⟩
      refine ⟨fun h => ⟨h, ?_⟩, fun h => h.1⟩
      cases c <;> simp [Eff.heals, Eff.none]
  · simp only [hn, if_false]
    refine ⟨?_, ?_, ?_, ?_, ?_, rfl, ⟨_, _, _, _, _, _, rfl⟩⟩
    · intro i j hj; simp [Group.vAt, Eff.none]
    · intro i; simp [Group.sAt, Eff.none]
    · intro i j hj
      simp only [Group.pAt, Tb.get_set, key_inj _ _ _ _ hj hl]
      split_ifs <;> simp_all
    · simp [Eff.none]
    · rintro ⟨c, i, j⟩
      simp only [List.mem_filter, decide_eq_true_eq, ne_eq, Prod.mk.injEq, not_and]
      cases c <;> simp [Eff.heals, Eff.none]
      intro _
      constructor
      · intro h h1 _ h2; exact h h2 h1
      · intro h h1 h2; exact h h2 (h1 ▸ hn) h1

theorem writes_orFlags (g : Group) (f : BitVec 5) : Writes g (g.orFlags f) { Eff.none with fl := f } := by
  refine ⟨?_, ?_, ?_, ?_, ?_, rfl, ⟨_, _, _, _, _, _, rfl⟩⟩ <;> try simp [Group.vAt, Group.sAt, Group.pAt, Group.orFlags, Eff.none]
  intro c n l _; cases c <;> simp [Eff.heals]

theorem Eff.ext' {a b : Eff} (hv : ∀ n l, a.v n l = b.v n l) (hs : ∀ n, a.s n = b.s n) (hp : ∀ n l, a.p n l = b.p n l)
    (hf : a.fl = b.fl) : a = b := by
  cases a; cases b
  simp only [Eff.mk.injEq]
  exact ⟨funext fun n => funext fun l => hv n l, funext hs, funext fun n => funext fun l => hp n l, hf⟩

theorem writes_setVs (g : Group) (n : Nat) (f : Nat → VCell) (ls : List Nat) (hl : ∀ l ∈ ls, l < 64) :
    Writes g (g.setVs n (ls.map (fun l => (l, f l))))
      { Eff.none with v := fun i j => if i = n ∧ j ∈ ls then some (f j) else none } := by
  induction ls generalizing g with
  | nil => refine (Writes.refl g).congr ?_; simp [Eff.none]
  | cons l t ih =>
    have h1 := writes_setV g n l (hl l (by simp)) (f l)
    have h2 := ih (g.setV n l (f l)) (fun x hx => hl x (by simp [hx]))
    refine (h1.trans h2).congr (Eff.ext' ?_ ?_ ?_ ?_)
    · intro i j
      simp only [Eff.seq, List.mem_cons]
      by_cases hi : i = n <;> by_cases hj : j = l <;> by_cases ht : j ∈ t <;> simp_all
    · intro i; rfl
    · intro i j; rfl
    · simp [Eff.seq, Eff.none]

theorem writes_setPs (g : Group) (n : Nat) (f : Nat → Byte) (ls : List Nat) (hl : ∀ l ∈ ls, l < 64) :
    Writes g (g.setPs n (ls.map (fun l => (l, f l))))
      { Eff.none with p := fun i j => if i = n ∧ j ∈ ls then some (f j) else none } := by
  induction ls generalizing g with
  | nil => refine (Writes.refl g).congr ?_; simp [Eff.none]
  | cons l t ih =>
    have h1 := writes_setP g n l (hl l (by simp)) (f l)
    have h2 := ih (g.setP n l (f l)) (fun x hx => hl x (by simp [hx]))
    refine (h1.trans h2).congr (Eff.ext' ?_ ?_ ?_ ?_)
    · intro i j; rfl
    · intro i; rfl
    · intro i j
      simp only [Eff.seq, List.mem_cons]
      by_cases hi : i = n <;> by_cases hj : j = l <;> by_cases ht : j ∈ t <;> simp_all
    · simp [Eff.seq, Eff.none]

/-! ### The per-lane scheme -/

/-- What `vecOp` writes: one vector register in the issuing lanes, and the flags of every lane. -/
theorem vecOp_writes (s : State) (d : Reg) (f : Nat → LaneOut) :
    ∃ g', vecOp s d f = s.upG (fun _ => g') ∧
      Writes s.curG g' ((Eff.vec s d (fun l => (f l).cell)).flags ((lanesOf s.cur.mask).foldl (fun a l => a ||| (f l).fl) 0)) := by
  refine ⟨_, upG_const _ _, ?_⟩
  have h1 := writes_setVs s.curG d.toNat (fun l => (f l).cell) (lanesOf s.cur.mask) (fun l h => lanesOf_lt _ _ h)
  have h2 := h1.trans (writes_orFlags _ ((lanesOf s.cur.mask).foldl (fun a l => a ||| (f l).fl) 0))
  simp only [List.map_map, Function.comp_def, List.foldl_map]
  refine h2.congr (Eff.ext' ?_ ?_ ?_ ?_)
  · intro n l; simp [Eff.seq, Eff.none, Eff.flags, Eff.vec, mem_lanesOf]
  · intro n; rfl
  · intro n l; rfl
  · simp [Eff.seq, Eff.none, Eff.flags]

/-- What `uniOp` writes: one uniform register. -/
theorem uniOp_writes (s : State) (d : Reg) (srcs : List Opd) (c : SCell) :
    ∃ g', uniOp s d srcs c = s.upG (fun _ => g') ∧ Writes s.curG g' (Eff.uni d (orTokS srcs c)) :=
  ⟨_, upG_const _ _, writes_setS _ _ _⟩

/-- What `predOp` writes: one predicate in the issuing lanes. -/
theorem predOp_writes (s : State) (p : BitVec 3) (f : Nat → Byte) :
    ∃ g', predOp s p f = s.upG (fun _ => g') ∧ Writes s.curG g' (Eff.pred s p f) := by
  refine ⟨_, upG_const _ _, ?_⟩
  have h1 := writes_setPs s.curG p.toNat f (lanesOf s.cur.mask) (fun l h => lanesOf_lt _ _ h)
  refine h1.congr (Eff.ext' (fun _ _ => rfl) (fun _ => rfl) ?_ rfl)
  intro n l; simp [Eff.pred, mem_lanesOf]

/-- What `vecOp64` writes: a pair in the issuing lanes. -/
theorem vecOp64_writes (s : State) (d : Reg) (f : Nat → Opd) :
    ∃ g', vecOp64 s d f = s.upG (fun _ => g') ∧
      Writes s.curG g' (Eff.pair s d.toNat
        (fun l => match (f l).tok with | some t => VCell.tok t | none => ⟨BitVec.ofNat 32 (f l).v, (f l).eb⟩)
        (fun l => match (f l).tok with | some t => VCell.tok t | none => ⟨BitVec.ofNat 32 ((f l).v / 2 ^ 32), (f l).eb⟩)) := by
  refine ⟨_, upG_const _ _, ?_⟩
  have h1 := writes_setVs s.curG d.toNat
    (fun l => match (f l).tok with | some t => VCell.tok t | none => ⟨BitVec.ofNat 32 (f l).v, (f l).eb⟩)
    (lanesOf s.cur.mask) (fun l h => lanesOf_lt _ _ h)
  have h2 := h1.trans (writes_setVs _ (d.toNat + 1)
    (fun l => match (f l).tok with | some t => VCell.tok t | none => ⟨BitVec.ofNat 32 ((f l).v / 2 ^ 32), (f l).eb⟩)
    (lanesOf s.cur.mask) (fun l h => lanesOf_lt _ _ h))
  simp only [List.map_map, Function.comp_def]
  refine h2.congr (Eff.ext' ?_ (fun _ => rfl) (fun _ _ => rfl) ?_)
  · intro n l
    simp only [Eff.seq, Eff.pair, mem_lanesOf, Eff.none]
    by_cases h : s.cur.mask.getLsbD l = true <;> by_cases h1 : n = d.toNat + 1 <;> by_cases h2 : n = d.toNat <;> simp_all
  · simp [Eff.seq, Eff.none, Eff.pair]

/-! ### An issue -/

/-- A word that passes the checks at issue has its effect. -/
theorem issue_passes (i : Instr) (s : State) (body : State → State) (h : passes s i = true) :
    issue i s body = .next (settle s i (body s)) := by
  simp only [Machine.passes, Bool.and_eq_true, Bool.not_eq_true', decide_eq_true_eq, Option.isNone_iff_eq_none] at h
  obtain ⟨⟨⟨h1, h2⟩, h3⟩, h4⟩ := h
  unfold issue
  simp only [h1, h2, h3, h4, Bool.false_eq_true, if_false]

/-- Marks of outstanding results change nothing else. -/
theorem settle_writes (s : State) (i : Instr) (g' : Group) (e : Eff) (hi : Issuing s i) (w : Writes s.curG g' e) :
    ∃ g'', settle s i (s.upG (fun _ => g')) = s.upG (fun _ => g'') ∧ Writes s.curG g'' e := by
  unfold settle markContested
  simp only [upG_cur, hi.calm.1, hi.calm.2, Bool.or_self, Bool.false_eq_true, if_false]
  split_ifs with hc
  · exact ⟨g', rfl, w⟩
  · refine ⟨_, upG_upG s (fun _ => g') _, ⟨w.v, w.s, w.p, w.fl, w.soft, ?_, ?_⟩⟩
    · rw [← w.outst]
      simp only [List.map_map]
      apply List.map_congr_left
      intro x _
      simp only [Function.comp_apply]
      split_ifs <;> rfl
    · obtain ⟨_, _, _, _, _, _, h1⟩ := w.rest
      subst h1
      exact ⟨_, _, _, _, _, _, rfl⟩

theorem modG_id (s : State) (h : Nat) (f : Group → Group) (e : ∀ g, f g = g) : s.modG h f = s := by
  unfold State.modG
  rw [Tb.modify_id _ _ _ (fun v _ => e v)]
/-- An instruction without a destination marks nothing. -/
theorem settle_self (s : State) (i : Instr) (hw : ∀ n, writes n i = []) : settle s i s = s := by
  unfold settle markContested
  split_ifs
  · rfl
  · rfl
  · refine modG_id s _ _ (fun g => ?_)
    have : destKeys g.regs i s.cur.mask = [] := by simp [destKeys, hw]
    simp [this]

/-- An instruction whose effect is a change of its group. -/
theorem gives_of_body (i : Instr) (e : State → Eff) (body : State → State) (hx : ∀ s, exec i s = issue i s body)
    (hb : ∀ s, Issuing s i → ∃ g', body s = s.upG (fun _ => g') ∧ Writes s.curG g' (e s)) : Gives i e := by
  intro s hi
  obtain ⟨g', hg, w⟩ := hb s hi
  obtain ⟨g'', h2, w2⟩ := settle_writes s i g' (e s) hi w
  exact ⟨g'', by rw [hx, issue_passes i s body hi.passes, hg, h2], w2⟩

/-! ### Instructions by their shape -/

theorem laneOut_cell (srcs : List Opd) (c : VCell) (f : BitVec 5) : (laneOut srcs ⟨c, f⟩).cell = orTok srcs c := by
  unfold laneOut orTok; cases firstTok srcs <;> rfl
theorem laneOut_fl (srcs : List Opd) (c : VCell) : (laneOut srcs ⟨c, 0⟩).fl = 0 := by
  unfold laneOut; cases firstTok srcs <;> rfl
theorem orFlags_zero (l : List Nat) : l.foldl (fun (a : BitVec 5) _ => a ||| 0) 0 = 0 := by
  induction l with
  | nil => rfl
  | cons x t ih => simp

/-- A uniform instruction. -/
theorem givesS_of_issue (i : Instr) (d : Reg) (srcs srcs' : State → List Opd) (c c' : State → SCell)
    (hx : ∀ s, exec i s = issue i s (fun s => uniOp s d (srcs s) (c s)))
    (h1 : ∀ s, srcs s = srcs' s) (h2 : ∀ s, c s = c' s) : GivesS i d srcs' c' := by
  have e1 := funext h1
  have e2 := funext h2
  subst e1; subst e2
  exact gives_of_body i _ _ hx (fun s _ => uniOp_writes s d _ _)

/-- A vector instruction that raises no flag. -/
theorem gives_of_vecOp (i : Instr) (d : Reg) (f : State → Nat → LaneOut) (c : State → Nat → VCell)
    (hx : ∀ s, exec i s = issue i s (fun s => vecOp s d (f s)))
    (h1 : ∀ s l, (f s l).cell = c s l) (h2 : ∀ s l, (f s l).fl = 0) : Gives i (fun s => Eff.vec s d (c s)) := by
  refine gives_of_body i _ _ hx (fun s _ => ?_)
  obtain ⟨g', hg, w⟩ := vecOp_writes s d (f s)
  refine ⟨g', hg, w.congr ?_⟩
  simp only [h1, h2, orFlags_zero]
  rfl
theorem givesV_of_issue (i : Instr) (d : Reg) (srcs srcs' : State → Nat → List Opd) (c c' : State → Nat → VCell)
    (hx : ∀ s, exec i s = issue i s (fun s => vecOp s d (fun l => laneOut (srcs s l) ⟨c s l, 0⟩)))
    (h1 : ∀ s l, srcs s l = srcs' s l) (h2 : ∀ s l, c s l = c' s l) : GivesV i d srcs' c' := by
  have e1 : srcs = srcs' := funext fun s => funext fun l => h1 s l
  have e2 : c = c' := funext fun s => funext fun l => h2 s l
  subst e1; subst e2
  exact gives_of_vecOp i d _ _ hx (fun _ _ => laneOut_cell _ _ _) (fun _ _ => laneOut_fl _ _)
/-- A vector instruction with flags. -/
theorem givesF_of_issue (i : Instr) (d : Reg) (f f' : State → Nat → LaneOut)
    (hx : ∀ s, exec i s = issue i s (fun s => vecOp s d (f s))) (h : ∀ s l, f s l = f' s l) : GivesF i d f' := by
  have e : f = f' := funext fun s => funext fun l => h s l
  subst e
  exact gives_of_body i _ _ hx (fun s _ => vecOp_writes s d _)
/-- A comparison. -/
theorem givesP_of_issue (i : Instr) (p : BitVec 3) (f f' : State → Nat → Byte)
    (hx : ∀ s, exec i s = issue i s (fun s => predOp s p (f s))) (h : ∀ s l, f s l = f' s l) : GivesP i p f' := by
  have e : f = f' := funext fun s => funext fun l => h s l
  subst e
  exact gives_of_body i _ _ hx (fun s _ => predOp_writes s p _)

end Sys2Proof.Machine
end

