-- ==== Sys2Proof/Tests/Slice0.lean ====
section
/-! SUPPORT. Tests: ill-formed instructions that WellFormed refuses, words of each family, small single steps with results worked out from
the manual, and witnesses: states and operands that meet the hypotheses of the statements. -/

namespace Sys2Proof.Tests

open Sys2Proof Sys2Proof.Machine

set_option Elab.async false

/-! ### Well-formedness: one ill-formed term for each check -/

/-- R47 (pairs), R224, R234 (quads), R20's companions of Table 6-3a, R212 to R214 (formats), R223, R233 (widths), R273 (ids). -/
theorem test_illformed : [Instr.vmad 1 0 0 true, .cvt 0 0 .f16 .f16 .rn false, .pkn 0 0 0 .f32 false, .unpkn 0 0 .f16 2, .brx 5, .ret 3,
    .item 0 1 0 0, .ld 1 0 0 .d .plain, .lds 2 0 0 .q .plain, .st 1 0 0 .d .plain, .gath 0 0 0 .q .plain, .gaths 0 0 0 .q .plain,
    .scat 0 0 0 .q .plain, .ldt 0 0 0 .q, .stt 0 0 0 .q, .aadd 0 0 0 .b .plain, .amin 0 0 0 .h .plain, .amax 0 0 0 .q .plain,
    .aand 0 0 0 .b .plain, .aor 1 0 0 .d .plain, .axor 0 0 0 .b .plain, .axch 0 0 0 .b .plain, .acas 1 0 0 .w .plain,
    .acas 2 0 0 .d .plain, .afadd 0 0 0 .d .plain, .axadd 0 0 0 .b .plain, .axrd 0 0 0 .d .plain, .dqpush 0 1, .dqpop 1 0,
    .dqsteal 1 0 0, .bndminCl 0 1, .bndminDev 0 1, .bndrd 1 0, .tdesc 0 1, .enter 0, .leave 4096, .frqpop 2, .ptest 0 8 .p,
    .pcode 0 8 .p, .ssrP 0 8, .ssrV 0 1].all (fun i => !i.wellFormed) = true := by decide

/-! ### States -/

/-- A group of 16 lanes at PC 0, in user or supervisor mode. -/
def gr (sv : Bool) : Group := placedGroup sv
/-- A state in which `g` issues `i` with the lanes of `m`. -/
def stG (g : Group) (m : Mask) (i : Instr) : State :=
  { State.reset with
    work := { WorkSt.reset with groups := [(0, g)], launches := [placedLaunch], teams := [placedTeam] },
    cur := ⟨0, 0, 0, encode i, 1, m, false, false, false, false, none, g⟩ }
def st (i : Instr) : State := stG (gr false) 0xFFFF i
def sv (i : Instr) : State := stG (gr true) 0xFFFF i
/-- Lane 0 alone. -/
def st1 (i : Instr) : State := stG (gr false) 1 i

/-- The hypotheses of Issuing as one test. -/
def ok (s : State) (i : Instr) : Bool :=
  (Tb.get? s.work.groups s.cur.h).isSome && passes s i && !s.cur.trapped && !s.cur.stalled
theorem issuing_of_ok {s : State} {i : Instr} (h : ok s i = true) : Issuing s i := by
  simp only [ok, Bool.and_eq_true, Bool.not_eq_true'] at h
  exact ⟨h.1.1.1, h.1.1.2, h.1.2, h.2⟩
theorem only0 {l : Nat} (h : (1 : Mask).getLsbD l = true) : l = 0 := by
  by_contra hn
  simp [BitVec.getLsbD_ofNat, Nat.testBit_one_eq_true_iff_self_eq_zero] at h
  exact hn h.2

/-- Every instruction of the user's register families issues. -/
theorem witness_registers : [Instr.smov 1 2, .smovi 1 2, .smovh 1 2, .sadd 1 2 3, .saddi 1 2 3, .ssub 1 2 3, .smul 1 2 3, .smulh 1 2 3 true,
    .sand 1 2 3, .sor 1 2 3, .sxor 1 2 3, .sshl 1 2 3, .sshr 1 2 3, .ssra 1 2 3, .smin 1 2 3 true, .smax 1 2 3 false, .spopc 1 2,
    .sclz 1 2, .slea 1 2 3 4, .scmp 1 2 3 .lt, .vcmp 0 2 3 .geu, .ssel 1 2 3 1 true, .slane 1 2 3 true, .srsr 9 1, .vadd 1 2 3,
    .vaddi 1 2 3, .vsub 1 2 3, .vmul 1 2 3, .vmulh 1 2 3 false, .vmad 1 2 3 false, .vmad 2 4 6 true, .vmin 1 2 3 true, .vmax 1 2 3 true,
    .vabs 1 2 false, .vabs 1 2 true, .vand 1 2 3, .vor 1 2 3, .vxor 1 2 3, .vlop3 1 2 3 4, .vshl 1 2 3, .vshr 1 2 3, .vsra 1 2 3,
    .vfshl 1 2 3 4, .vfshr 1 2 3 4, .vpopc 1 2, .vclz 1 2, .vbrev 1 2, .vmov 1 2, .vmovi 1 2, .vbcst 1 2 true, .vsel 1 2 3 1 true,
    .vshfl 1 2 3 .idx, .vdp4 1 2 3 .ss, .vred 1 2 .add, .vlane 1 true].all (fun i => ok (st i) i) = true := by decide +kernel
theorem witness_floats : [Instr.fadd 1 2 3 .auto, .fsub 1 2 3 .exact, .fmul 1 2 3 .short, .ffma 1 2 3 .lean, .ffms 1 2 3 .exact,
    .fsacc 1 2 3 .exact, .fmin 1 2 3, .fmax 1 2 3, .fcmp 1 2 3 .lt, .fclass 1 2, .fscale 1 2 3, .frnd 1 2 .rn, .fbnd 1 2, .fsetb 1 2 3,
    .fhadd 1 2 3 .exact true, .fhmul 1 2 3 .exact false, .fhfma 1 2 3 .exact true, .cvt 1 2 .f32 .i32 .rn false,
    .pkn 1 2 3 .f16 true, .pkn 1 2 3 .e4m3 false, .unpkn 1 2 .i4 7, .frcp 1 2 .exact, .frsq 1 2 .exact, .fex2 1 2 .exact,
    .flg2 1 2 .exact, .fsin 1 2 .exact, .fcos 1 2 .exact].all (fun i => ok (st i) i) = true := by decide +kernel

/-- FCMP: a NaN, an infinite operand and a finite one, none of them poisoned. -/
theorem witness_compare : (let o := fun (v : Nat) => (⟨v, 3, none⟩ : Opd)
    (firstTok [o 0x7FC00000, o 0xFF800000, o 0x3F800000]).isNone && decide (fvOf .f32 0x7FC00000 = .nan) && decide (fvOf .f32 0xFF800000 = .inf true) &&
    (fvOf .f32 0x3F800000).isFin) = true := by decide +kernel

/-! ### Control, traps -/

/-- A user group with one vector register of lane 0 set. -/
def withV (n : Nat) (x : Word) (g : Group) : Group := g.setV n 0 ⟨x, 0⟩
/-- A register that holds the token HBND. -/
def poisoned (n : Nat) (g : Group) : Group := g.setV n 0 (VCell.tok (mkTok 1 0))
theorem witness_control : ok (st (.bra 5 1)) (.bra 5 1) && ok (st (.brc 1 5 1 true)) (.brc 1 5 1 true) && ok (st (.brx 2)) (.brx 2) &&
    ok (st (.brxU 2)) (.brxU 2) && ok (st (.call 5 1)) (.call 5 1) && ok (st (.ret 2)) (.ret 2) &&
    (let g := { gr false with sp := { (gr false).sp with hnd := true } }; ok (stG g 1 (.ret 2)) (.ret 2)) &&
    decide (slotOf ((st (.brx 2)).cur.rd.s 0 2).data.toNat ≠ 3) = true := by decide +kernel
theorem witness_knots : ok (st (.enrol 1)) (.enrol 1) && ok (st (.rejoin 1)) (.rejoin 1) && ok (st (.strike 1)) (.strike 1) &&
    decide (((st (.rejoin 1)).curG.k 1).arrived = 0) = true := by decide +kernel
theorem witness_words : [Instr.nop, .pref .l1 0 1, .chk 1, .chkTwoRegisters 1 2, .chkU 1, .chkp 1 true, .yield, .swsr 3 1, .swsr 7 1,
    .swsr 1 1].all (fun i => ok (st i) i) = true ∧ preqOf (st .yield) (gr false) = false := by decide +kernel
/-- YIELD of a team that is asked for. -/
theorem witness_yield : (let s := { st .yield with work := { (st .yield).work with teams := [{ placedTeam with preq := true }] } }
    ok s .yield && preqOf s s.cur.rd) = true := by decide +kernel
theorem whole_st (i : Instr) : (st i).curG.whole := fun e h => by change e ∈ ([] : List Entry) at h; cases h
theorem witness_user : (st (.trapu 9)).user ∧ (Tb.get? (st (.trapu 9)).work.groups 0).isSome = true ∧ (st (.trapu 9)).curG.whole ∧
    Issuing (st (.trapu 9)) (.trapu 9) ∧ Issuing (st (.illegalEncoding 0x3FFFFFFF)) (.illegalEncoding 0x3FFFFFFF) ∧
    (∀ c, c < 64 → (st (.trapu 9)).canEnter c) :=
  ⟨⟨rfl, rfl⟩, by decide, whole_st _, issuing_of_ok (by decide +kernel), issuing_of_ok (by decide +kernel),
   fun c h => ⟨(by decide +kernel : ∀ c, c < 64 → slotOf (vectorPc (st (.trapu 9)) c) ≠ 3) c h, rfl⟩⟩
/-- A vector of slot 3, beside a vector of MISPC that is none. -/
theorem witness_vector : (let s := { st .nop with mem := (st .nop).mem.setNum (0x8000080400 + 8 * 0x23) 8 3 }
    decide (slotOf (vectorPc s 0x23) = 3) && decide (slotOf (vectorPc s 0x25) ≠ 3)) = true := by decide +kernel
/-- Transfers to slot 3: the encoded slot, a pair, a uniform register, s63 of a handler; and a knot with another join PC. -/
theorem witness_misaligned :
    ok (st (.bra 5 3)) (.bra 5 3) && ok (st (.call 5 3)) (.call 5 3) && ok (st (.item 1 2 4 3)) (.item 1 2 4 3) && ok (st (.brc 1 5 3 true)) (.brc 1 5 3 true) &&
    (let s := stG (withV 2 3 (gr false)) 1 (.brx 2); ok s (.brx 2) && decide ((s.rvN 2 0).data = 3)) &&
    (let s := stG ((gr false).setS 2 ⟨3, 0⟩) 1 (.brxU 2); ok s (.brxU 2)) &&
    (let s := stG (withV 2 3 (gr false)) 1 (.ret 2); ok s (.ret 2)) &&
    (let g := ({ gr false with sp := { (gr false).sp with hnd := true } }).setS 63 ⟨3, 0⟩; ok (stG g 1 (.ret 2)) (.ret 2)) &&
    (let s := stG ((gr false).setK 1 ⟨6, 4, 7, true⟩) 1 (.rejoin 1)
     ok s (.rejoin 1) && decide ((s.curG.k 1).arrived ≠ 0) && decide ((s.curG.k 1).joinPc ≠ s.cur.wpc)) = true := by decide +kernel
theorem witness_privileged : decodeWord 0x38000000 = .ok ⟨false, false, .sret⟩ ∧ decodeWord 0x05A00000 = .ok ⟨false, false, .srsr 0x200 0⟩ ∧
    ok (sv (.srsr 0x200 0)) (.srsr 0x200 0) = true ∧ ok (sv (.swsr 0x3FF 0)) (.swsr 0x3FF 0) = true ∧ (st .sret).user ∧ (st .sret).curG.whole :=
  ⟨by decide +kernel, by decide +kernel, by decide +kernel, by decide +kernel, ⟨rfl, rfl⟩, whole_st _⟩
/-- A store whose offset is a token fails at its commit point. -/
theorem witness_commit : (let i := Instr.st 1 0 2 .w .plain; let s := stG (poisoned 2 (gr false)) 1 i
    decide (commitFails s i ≠ []) && !privFails s i && !fieldFails s i && s.curG.rejected.isNone && !s.curG.sp.sv && !s.cur.rd.sp.sv &&
    decide (slotOf (vectorPc s 0x25) ≠ 3)) = true := by
  decide +kernel
theorem witness_handler : (let g := { gr false with sp := { (gr false).sp with chandler := 8 } }; let s := stG g 1 .nop
    (Tb.get? s.work.groups s.cur.h).isSome && !s.curG.sp.sv && !s.curG.sp.hnd && decide (s.curG.sp.chandler ≠ 0) &&
    decide (slotOf s.curG.sp.chandler ≠ 3)) = true := by decide
/-- ITEM with a deque that holds an item, and with none, beside a knot that names no issuing lane and one that does; EXIT of running lanes. -/
theorem witness_items : (let i := Instr.item 1 2 4 1
    let s := st i
    let t := { s with work := { s.work with deques := [⟨1, 0, [(7, .sram 0)]⟩] } }
    ok s i && ok t i && decide ((serveItems s 1 0 [0]).2 = []) && decide ((serveItems t 1 0 [0]).2 ≠ []) && decide ((s.curG.k 1).enrolled = 0) &&
    (let u := stG ((gr false).setK 1 ⟨0x10001, 0, 7, true⟩) 0xFFFF i; ok u i && decide ((u.curG.k 1).enrolled &&& u.cur.mask ≠ 0)) &&
    ok (st1 .exit) .exit &&
    (let g := ((gr false).setK 1 ⟨3, 2, 7, true⟩).setLane 1 (fun x => { x with st := .knot 1 })
     let v := stG g 1 .exit
     ok v .exit && ({ (v.curG.k 1) with enrolled := 2, arrived := 2 } : Knot).complete && !(v.curG.k 1).complete) &&
    decide (((st1 .exit).curG.lane 0).st = .run)) = true := by decide +kernel

/-! ### Memory, atomics -/

/-- A user group whose b1 is a window at 0x1000 onto HBM4, readable and writable. -/
def win (g : Group) : Group := g.setB 1 ⟨0x1000, 0x400000, 0x1000, 0x7E00⟩
/-- Lane 0 issues through the window. -/
def w1 (i : Instr) : State := stG (win (gr false)) 1 i
theorem numbered_w1 (i : Instr) : (w1 i).Numbered := ⟨List.nodup_nil, fun _ h => by cases h⟩
theorem free_w1 (i : Instr) : (w1 i).free_ :=
  ⟨rfl, rfl, (by decide +kernel : (lanesOf 1).length ≤ requestsFree (w1 .nop) 0 0)⟩
theorem unchecked_w1 (i : Instr) : unchecked (w1 i) 1 := by unfold unchecked; exact (by decide : pteRc 0x7E00 = false)
theorem window_w1 (i : Instr) (k : AccKind) (h : permOk k false 0x7E00 = true) (n : Nat) (hn : 0x1000 % n = 0) (hp : 0x400000 % n = 0) :
    InWindow (w1 i) 1 k n 0x1000 :=
  ⟨by decide, hn, (by decide : ((w1 .nop).cur.rd.b 1).vbase.toNat ≤ 0x1000),
   (by decide : 0x1000 < ((w1 .nop).cur.rd.b 1).vbase.toNat + ((w1 .nop).cur.rd.b 1).limit.toNat), h,
   fun _ => (by decide : pteD 0x7E00 = true), hp⟩
/-- The window's hypotheses of MemoryLoadsIssue, StoresAndTiles and AtomicInstructionsIssue, at the width of a word. -/
theorem witness_window (i : Instr) : InWindow (w1 i) 1 .read 4 0x1000 ∧ InWindow (w1 i) 1 .write 4 0x1000 ∧ InWindow (w1 i) 1 .rw 4 0x1000 ∧
    InWindow (w1 i) 1 .read 8 0x1000 ∧ InWindow (w1 i) 1 .rw 32 0x1000 :=
  ⟨window_w1 i _ (by decide) _ (by decide) (by decide), window_w1 i _ (by decide) _ (by decide) (by decide),
   window_w1 i _ (by decide) _ (by decide) (by decide), window_w1 i _ (by decide) _ (by decide) (by decide),
   window_w1 i _ (by decide) _ (by decide) (by decide)⟩
theorem witness_memory : [Instr.ld 4 1 2 .w .plain, .lds 4 1 2 .w .plain, .gath 4 1 2 .w .plain, .gaths 4 1 2 .w .plain,
    .ld 4 1 2 .w (.acq .dev), .ldu 4 1 0, .ldus 4 1 0, .st 4 1 2 .w .plain, .scat 4 1 2 .w .plain, .st 4 1 2 .w (.rel .dev), .stu 4 1 0,
    .ldt 4 1 2 .w, .stt 4 1 2 .w, .aadd 4 1 2 .w .plain, .amin 4 1 2 .w .plain, .amax 4 1 2 .d .plain, .aand 4 1 2 .w .plain,
    .aor 4 1 2 .w .plain, .axor 4 1 2 .w .plain, .axch 4 1 2 .w .plain, .acas 4 1 2 .w .plain, .afadd 4 1 2 .w .plain,
    .axrd 4 1 2 .w .plain, .aadd 4 1 2 .w (.acqrel .dev), .axadd 4 1 2 .w .plain, .bxlt 4 1].all (fun i =>
      ok (w1 i) i && decide (offVa (w1 i) 1 (offScale i) 0 = 0x1000)) = true ∧
    native (.aadd 4 1 2 .w .plain) (windowAcc (w1 .nop) 1 0x1000) = true ∧ keepsBnd 0x400000 0x7E00 = false ∧
    ((w1 (.st 4 1 2 .w .plain)).odata 4 .w 0).eb = 0 ∧ (w1 .nop).curTeam = some placedTeam ∧
    tileAddr ((w1 .nop).ov 1 0).v ((w1 .nop).os 2).v 4 / 0x8000 < placedTeam.tiles.length ∧ engineTile (w1 .nop) 1 0 0 = false := by
  decide +kernel
/-- A lane whose offset is a token; a misaligned lane; a lane above 2^57; a bound that a page without bounds would lose. -/
theorem witness_faults : (let i := Instr.ld 4 1 2 .w .plain
    let s := stG (poisoned 2 (win (gr false))) 1 i
    let t := stG (withV 2 2 (win (gr false))) 1 i
    let v := stG ((gr false).setB 1 ⟨0x1FFFFFFFFFFFFFF, 0, 0, 0⟩ |> withV 2 1) 1 i
    let j := Instr.st 4 1 2 .w .plain
    let b := stG ((win (gr false)).setV 4 0 ⟨0, 5⟩) 1 j
    ok s i && decide ((s.rv 2 0).eb = ebPoison) && ok t i && decide (offVa t 1 1 2 % 4 ≠ 0) && ok v i && decide (2 ^ 57 ≤ offVa v 1 1 1) &&
    ok b j && decide ((b.odata 4 .w 0).eb ≠ 0)) = true := by decide +kernel
theorem user_w1 (i : Instr) : (w1 i).user := ⟨rfl, rfl⟩

/-- Page tables that map 0 to 4 KiB of tag 1 by a leaf at level 0. -/
def pt (e1 e0 : Nat) : MemSt :=
  let n := 0x8000800000
  (((((MemSt.reset.setNum 0x8000000008 8 (pteNode n)).setNum n 8 (pteNode (n + 0x1000))).setNum (n + 0x1000) 8
    (pteNode (n + 0x2000))).setNum (n + 0x2000) 8 (pteNode (n + 0x3000))).setNum (n + 0x3000) 8 e1).setNum (n + 0x4000) 8 e0
/-- A leaf at level 0: TIER 2, R, W, U. -/
def lf : Nat := 0x20000000000 / 4096 * 2 ^ 24 + 0x1609
/-- Walks: an invalid root, a malformed root, leaves at levels 1 and 0, an invalid leaf. -/
theorem witness_walks :
    walk MemSt.reset 1 0 = .invalid 5 0x8000000008 0 ∧
    walk (MemSt.reset.setNum 0x8000000008 8 3) 1 0 = .malformed 5 3 ∧
    walk (pt (pteCode 0x200000) 0) 1 0 = .leaf 1 0x8000803000 (pteCode 0x200000) ∧
    walk (pt (pteNode 0x8000804000) lf) 1 0 = .leaf 0 0x8000804000 lf ∧
    walk (pt (pteNode 0x8000804000) 0) 1 0 = .invalid 0 0x8000804000 0 := by decide +kernel
/-- A translation that the core does not hold, with permission to read and without permission to fetch. -/
theorem witness_translation : (let s := { st .nop with mem := pt (pteNode 0x8000804000) lf }
    decide (walk s.mem 1 0 = .leaf 0 0x8000804000 lf) && permOk .read false (lf % 2 ^ 16) &&
    !permOk .fetch false (lf % 2 ^ 16) && !pteC16 lf && !leafBad s.mem.carved 1 0 lf && pteV lf &&
    decide (s.num 0x8000804000 8 = lf) && ((s.core 0).tlb.find? (fun t => t.hit 1 0)).isNone && decide ((s.core 0).nodes = []) &&
    (List.range 16).all (fun i => !pteC16 (s.num (0x8000804000 + 8 * i) 8))) = true := by decide +kernel

/-- A 64 KiB page: sixteen equal entries. -/
theorem witness_c16 : (let e := 0x10000000000 / 4096 * 2 ^ 24 + 0x11605
    let m := (List.range 16).foldl (fun (m : MemSt) i => m.setNum (0x8000804000 + 8 * i) 8 e) (pt (pteNode 0x8000804000) 0)
    decide (walk m 1 0 = .leaf 0 0x8000804000 e) && pteC16 e && !leafBad m.carved 1 0 e &&
    (List.range 16).all (fun i => decide (m.num (0x8000804000 + 8 * i) 8 = e))) = true := by decide +kernel
/-- An outstanding load of lane 0 at 0x400000, home 1 so that no cache takes part. -/
def loadE : Entry := ⟨5, .ld 4 1 2 .w .plain, 0, 0, true, false, 1, 0, 0, 0, [], [(0, ⟨0x400000, 0x1000, 0x7E20, none⟩)], [], []⟩
def doneE (i : Instr) : Entry := { loadE with instr := i, performed := 1, acc := [] }
def withE (e : Entry) : State := stG { gr false with outst := [e] } 1 .nop
theorem witness_load : findEntry (withE loadE) 0 5 = some loadE ∧ Tb.get? loadE.acc 0 = some ⟨0x400000, 0x1000, 0x7E20, none⟩ ∧
    pteHome 0x7E20 ≠ 0 ∧ isUniformLoad loadE.instr = false := by decide
/-- Results that have been obtained: a load, FRQPOP, BXLT. -/
theorem witness_returns : ∀ e ∈ [doneE (.ld 4 1 2 .w .plain), doneE (.frqpop 4), doneE (.bxlt 4 1)],
    findEntry (withE e) 0 5 = some e ∧ e.ready = true ∧ e.acc = [] ∧ e.contested = [] ∧ e.mask ≠ 0 ∧ emulated (withE e) 0 = false ∧
    ((withE e).die (dieOf ((withE e).grp 0).core)).off = false := by
  decide +kernel
/-- The load's result reaches v4 and its entry is gone. -/
theorem test_result_return : (match exec (.resultReturn 0 5) (withE { doneE (.ld 4 1 2 .w .plain) with slots := [(0, ⟨77, 3⟩)] }) with
    | .next t => decide (t.curG.vAt 4 0 = ⟨77, 3⟩) && decide (t.curG.outst = [])
    | _ => false) = true := by decide +kernel
/-- A store of four bytes on its way, alone. -/
def pend4 (bnd : Bool) : Pend :=
  ⟨3, 0, 1, 0, 0, 0, 0, 1, 1, 0, false, .store [⟨0x400000, [(0, 1), (1, 2), (2, 3), (3, 4)], 0, none, bnd⟩]⟩
theorem witness_store : (let s := { st .nop with mem := { MemSt.reset with pend := [pend4 false] } }
    decide (s.mem.pend.find? (fun q => decide (q.id = 3)) = some (pend4 false)) && decide (groupOps s 0 = [(3, false, [0x20000])]) &&
    Tb.sorted [(0, (1 : Byte)), (1, 2), (2, 3), (3, 4)] && decide (s.mem.err 0x400000 = none) && !(s.die 0).off &&
    !(pend4 false).tears) = true := by decide +kernel
/-- No bank has left service after reset. -/
theorem witness_banks (b : Nat) : (bankSt State.reset b).1 = .active := rfl
theorem test_store_home : (match exec (.storeReachesHome 3) { st .nop with mem := { MemSt.reset with pend := [pend4 true] } } with
    | .next t => decide (t.num 0x400000 4 = 0x04030201) && decide (t.mem.pend = []) | _ => false) = true := by decide +kernel
/-- A page with bounds over a poisoned sector; a page without; a line in error. -/
theorem witness_atoms : MemSt.reset.err 0x400000 = none ∧ MemSt.reset.bound 0x400000 ≠ ebPoison ∧ keepsBnd 0x400000 0x7E80 = true ∧
    bndHome 0x400000 = .word 0xF00040000 ∧ ((MemSt.reset.setNum 0xF00040000 2 0xFFFF).bound 0x400000 = ebPoison) := by decide +kernel

/-- An atomic of two lanes at one location. -/
def atomE : Entry := { loadE with instr := .aadd 4 1 2 .w .plain, mask := 9, acc := [(0, ⟨0x400000, 0x1000, 0x7E20, none⟩), (3, ⟨0x400000, 0x1000, 0x7E20, none⟩)] }
theorem witness_atomic_step : (let s := withE atomE
    decide (emulated s 0 = false) && decide (findEntry s 0 5 = some atomE) && isAtomic atomE.instr && Tb.sorted atomE.acc &&
    atomE.acc.all (fun x => decide (x.1 < 64) && decide (x.2.pa = 0x400000) && !raceOn (s.grp 0) x.2.attr) &&
    (groupOps s 0).all (fun o => decide (5 ≤ o.1)) && ((withE atomE).grp 0).rejected.isNone && !(s.die 0).off &&
    (let r : Held := ⟨atomE, 9, 0, 0⟩
     let u := stG { gr false with rejected := some r } 1 .nop
     decide ((u.grp 0).rejected = some r) && (findEntry u 0 5).isNone && !(u.die 0).off &&
     (let f := u.modDie 0 (fun d => { d with off := true }); (f.die 0).off && decide ((f.grp 0).rejected = some r))) &&
    (let d := doneE (.ld 4 1 2 .w .plain)
     let v := stG { gr false with outst := [d], rejected := some ⟨d, 1, 0, 0⟩ } 1 .nop
     decide (findEntry v 0 5 = some d) && d.ready && (v.grp 0).rejected.isSome)) = true := by decide +kernel
/-- A load that is held for lane 1, with and without a free request entry: lane 1 walks the table of page 0. -/
def heldE : Entry := { loadE with mask := 3 }
def heldS (full : Bool) : State :=
  let s := stG { gr false with outst := [heldE], rejected := some ⟨heldE, 2, 0, 7⟩ } 1 .nop
  let o := { gr false with gid := 1, outst := [{ loadE with id := 9, acc := (List.range 1024).map (fun i => (i, ⟨0x400000, 0x1000, 0x7E20, none⟩)) }] }
  { s with ids := 20, mem := pt (pteNode 0x8000804000) lf, work := { s.work with groups := if full then s.work.groups ++ [(1, o)] else s.work.groups } }
theorem witness_retry : (let s := heldS false
    let w := s.modG 0 (fun g => { g with rejected := none })
    let z := (heldS true).modG 0 (fun g => { g with rejected := none })
    decide ((s.grp 0).rejected = some ⟨heldE, 2, 0, 7⟩) && decide (findEntry s 0 5 = some heldE) && (acqOf heldE.instr).isNone && !(s.die 0).off &&
    !(s.grp 0).ctl.halted && !(s.grp 0).ctl.dying && !heldE.ready && decide (idleLanes heldE = [1]) && decide (0 < requestsFree w 0 0) &&
    decide (requestsFree z 0 0 = 0) && decide ((Tb.get VCell.zero heldE.slots 8).eb ≠ ebPoison) &&
    (match (laneAccess w (entryCtx w 0 heldE) none .read (alignOf heldE.instr) (entryVa heldE 1)).2 with | .ok _ => true | _ => false)) = true := by
  decide +kernel
/-- AXADD: an exact addend, an inexact one, a special and an integer one; an AXADD on its way; a cell in error and a poisoned sector. -/
theorem witness_exact : (let p : Pend := ⟨3, 0, 1, 0, 0, 0, 0, 1, 1, 0, false, .axadd 0x400000 [(0, ⟨0x3F800000, 0⟩)] false false⟩
    let s := { st .nop with mem := { MemSt.reset with pend := [p] } }
    let e := { MemSt.reset with bad := [0x400000 / 128] }
    decide (s.mem.pend.find? (fun q => decide (q.id = 3)) = some p) && decide (s.mem.err 0x400000 = none) &&
    (groupOps s 0).all (fun o => decide (3 ≤ o.1)) && isNaN .f32 0x7FC00000 && isInf .f32 0x7F800000 && !isNaN .f32 0x3F800000 &&
    !isInf .f32 0x3F800000 && decide (fx157 (fpDecode .f32 0x3F800000) % 2 ^ 93 = 0) && decide (fx157 (fpDecode .f32 1) % 2 ^ 93 ≠ 0) &&
    decide (e.err 0x400000 = some 1)) = true := by decide +kernel
/-- R91: 1.0 is 2^64 units of 2^-64. -/
theorem test_axadd_one : (let r := xa128Add MemSt.reset 0x400000 false ⟨0x3F800000, 0⟩
    decide (r.num 0x400000 16 = 2 ^ 64) && decide (r.num 0x400010 4 = 0)) = true := by decide +kernel

/-! ### Barriers, deques, bound cells -/

/-- A team with one barrier object at 0x500000, holding a word, and a group of its own. -/
def barS (x : Nat) (g : Group) (m : Mask) (i : Instr) : State :=
  let s := stG g m i
  { s with mem := s.mem.setNum 0x500000 8 x, work := { s.work with teams := [{ placedTeam with barPa := [0x500000] }] } }
/-- Barriers: a first and a last arrival, one that is counted already, drops, and every barrier instruction on a listed barrier and on one
beyond the list; counts 0, 1, 1024 and 1025; a wait for a phase that is met and for one that is not. -/
theorem witness_barriers : (let b := fun (x : Nat) => barS x (gr false) 1 .nop
    let a := barS 0x20000 (setArr (gr false) 0 0 ⟨true, true, 0, 0⟩) 1 .nop
    decide (barPa (b 0) 1 0 0 = some 0x500000) && decide (barPa (b 0) 1 0 1 = none) &&
    decide (readBar (b 0x20000) 0x500000 = ⟨0, 2, 0, 0, 0⟩) && decide (readBar (b 0x10000) 0x500000 = ⟨0, 1, 0, 0, 0⟩) &&
    decide (readBar (b 0) 0x500000 = ⟨0, 0, 0, 0, 0⟩) &&
    decide (arrOf (gr false) 0 0 = ⟨false, false, 0, 0⟩) && decide (arrOf (a.grp 0) 0 0 = ⟨true, true, 0, 0⟩) &&
    (let c := barS 0x20000 ((gr false).setS 1 ⟨1, 0⟩) 1; let d := barS 0x20000 ((gr false).setS 1 ⟨1024, 0⟩) 1
     let e := barS 0x20000 ((gr false).setS 1 ⟨1025, 0⟩) 1; let z := barS 0x20000 (gr false) 1
     ok (c (.bari 1 0)) (.bari 1 0) && ok (d (.bari 1 0)) (.bari 1 0) && ok (e (.bari 1 0)) (.bari 1 0) && ok (z (.bari 1 0)) (.bari 1 0) &&
     ok (z (.barw 1 0)) (.barw 1 0) && ok (z (.bard 1 0)) (.bard 1 0) && ok (z (.baraw 1 0)) (.baraw 1 0) &&
     ok (z (.bardDrop 0)) (.bardDrop 0) && ok (z (.bari 1 1)) (.bari 1 1) && ok (z (.barw 1 1)) (.barw 1 1) && ok (z (.bard 1 1)) (.bard 1 1) &&
     ok (z (.baraw 1 1)) (.baraw 1 1) && ok (z (.bardDrop 1)) (.bardDrop 1)) && phaseMet 0 0 && !phaseMet 0 1) = true := by decide +kernel
/-- The last expected arrival ends the phase (R160). -/
theorem test_barrier_last : (let t := arriveLane (barS 0x10000 (gr false) 1 .nop) 0 0 0
    decide (readBar t 0x500000 = ⟨1, 1, 0, 0, 0⟩)) = true := by decide +kernel
/-- Deques: room, a take from an empty deque and from one with an item, of this core and of the core that sa names. -/
theorem witness_deques : (let s := fun (i : Instr) => stG (gr false) 1 i
    let e := fun (i : Instr) => { loadE with instr := i, acc := [] }
    let t := fun (i : Instr) => let u := withE (e i); { u with work := { u.work with deques := [⟨1, 0, [(7, .sram 0)]⟩] } }
    ok (s (.dqpush 1 2)) (.dqpush 1 2) && decide (pairLoss (s (.dqpush 1 2)) 2 = []) && decide (dequeOf (s .nop) 1 0 = []) &&
    decide (sramUsed (s .nop) 0 = 0) && ok (s (.dqpop 2 1)) (.dqpop 2 1) && ok (s (.dqsteal 2 1 1)) (.dqsteal 2 1 1) &&
    decide (findEntry (t (.dqpop 2 1)) 0 5 = some (e (.dqpop 2 1))) && decide (dequeOf (t .nop) 1 0 = [] ++ [(7, .sram 0)]) &&
    decide (findEntry (t (.dqsteal 2 1 1)) 0 5 = some (e (.dqsteal 2 1 1))) && decide (dequeOf (withE (e .nop)) 1 0 = [])) = true := by
  decide +kernel
/-- DQPUSH with the SRAM full of items, and no launch that has an overflow area. -/
theorem witness_deque_full : (let s := stG (gr false) 1 (.dqpush 1 2)
    let f := { s with work := { s.work with deques := [⟨1, 0, List.replicate 4096 (7, .sram 0)⟩] } }
    ok f (.dqpush 1 2) && decide (pairLoss f 2 = []) && decide (4096 ≤ sramUsed f 0) && f.work.launches.all (fun l => decide (l.rc.dqSize = 0)) &&
    f.curG.outst.isEmpty) = true := by decide +kernel
/-- Bound cells: a translated cell in HBM4, a core's copy, and none. -/
theorem witness_cells : (let p := fun (i : Instr) => { st1 i with mem := pt (pteCode 0x200000) 0 }
    let good := fun (i : Instr) (k : AccKind) => let s := p i
      ok s i && decide ((translate s (issueCtx s) 0 k).2 = .ok 0x200000 0x7E01) &&
      (groupOps (translate s (issueCtx s) 0 k).1 0).all (fun o => !o.2.2.contains (sectorOf 0x200000))
    good (.bndminCl 1 2) .rw && good (.bndminDev 1 2) .rw && good (.bndrd 2 1) .read && decide (pmem 0x200000 = .hbm 0) &&
    decide (pteHome 0x7E00 ≠ 3) && decide (pairLoss (st1 .nop) 2 = []) &&
    (let c := (st1 .nop).modCore 0 (fun c => { c with watch := [(0x200000, 9)] })
     decide ((c.core 0).watch.find? (fun e => decide (e.1 = 0x200000)) = some (0x200000, 9)) &&
     decide (((st1 .nop).core 0).watch = []))) = true := by decide +kernel

/-! ### Batches, fences, engine -/

/-- A descriptor in the pond: format, rows, columns, stride in sectors, address. -/
def dsc (f rows cols stride addr : Nat) : BitVec 128 :=
  BitVec.ofNat 128 (f * 2 ^ 124 + rows * 2 ^ 113 + cols * 2 ^ 102 + rows * 2 ^ 91 + cols * 2 ^ 80 + stride * 2 ^ 58 + addr)
/-- A copy task of batch 1. -/
def copyT (out : Option TaskOut) : Task :=
  ⟨2, 0, 0, 1, 0, 0, 0, 0, .tcopy (dsc 0 1 8 1 0) (dsc 0 1 8 1 0x100) .none, 0xFF00, 0, 0, 1, some 1, [0], [0], false, false, out⟩
def withT (ts : List Task) (s : State) : State := { s with work := { s.work with tasks := ts } }
/-- A group with n closed batches that waits for batch x. -/
def batchS (n x : Nat) : State :=
  stG (({ gr false with ctl := { (gr false).ctl with closed := BitVec.ofNat 32 n } }).setS 1 ⟨BitVec.ofNat 64 x, 0⟩) 1 (.waitb 1)
/-- BATCH; WAITB of a finished batch, of batch 0, of one that is not closed, of one that waits, and over two failure records; IFENCE; FENCE. -/
theorem witness_batches : (let c := batchS
    ok (st .batch) .batch && ok (c 1 1) (.waitb 1) && ok (c 1 0) (.waitb 1) && ok (c 1 2) (.waitb 1) && decide (((c 1 1).os 1).v = 1) &&
    !((1 : Word) - 1).msb && ((1 : Word) - 2).msb && decide ((c 1 1).curG.ctl.fails = []) &&
    ok (withT [copyT none] (c 1 1)) (.waitb 1) && ok (withT [copyT none] (c 1 0)) (.waitb 1) &&
    (let f := (c 3 2).upG (fun g => { g with ctl := { g.ctl with fails := [⟨2, 3, 0x20, 7, 0x40, 2, 0⟩, ⟨1, 1, 0x21, 9, 0x80, 1, 0⟩] } })
     ok f (.waitb 1) && decide (f.curG.ctl.fails.length = 2) && !((3 : Word) - 2).msb && ((1 : Word) - 2).msb && !((2 : Word) - 1).msb &&
     !((2 : Word) - 2).msb && ((2 : Word) - 3).msb) && ok (st .ifence) .ifence && ok (st (.fence .team)) (.fence .team) &&
    ok (st (.fence .dev)) (.fence .dev)) = true ∧ (st (.fence .dev)).Numbered :=
  ⟨by decide +kernel, List.nodup_nil, fun _ h => by cases h⟩
/-- Engine instructions: f16 operands of 16 by 16, an f32 accumulator, an f32 source, and f32 vectors for TSCALE. -/
def eng (i : Instr) : State :=
  stG (((((gr false).setD 1 (dsc 1 16 16 1 0x1000)).setD 2 (dsc 1 16 16 1 0x2000)).setD 3 (dsc 0 16 16 2 0x3000)).setD 4
    (dsc 0 16 16 2 0x4000)) 0xFFFF i
theorem witness_engine : (let s := eng .nop; let t := placedTeam; let d := fun (n : Nat) => s.cur.rd.d n
    [Instr.mma 1 2 3 .short true, .mmag 1 2 3 0 .exact false, .tcopy 4 3 .none, .tfill 3 1, .tscaleExp 4 3 1, .tscaleAcc 4 3 1 .exact,
     .tscaleAccr 4 2 3 .exact, .tscaleAccc 4 2 3 .exact, .tconv 4 1 .rn false, .tgive 3, .ttake 3].all (fun i => ok (eng i) i) &&
    mmaOk s t (d 1) (d 2) (d 3) false && mmaOk s t (d 1) (d 2) (d 3) true && copyOk 1 (d 4) (d 3) && pondDesc 1 (d 3) &&
    scaleOk 1 0 (d 4) (d 0) (d 3) && scaleOk 1 1 (d 4) (d 0) (d 3) && scaleOk 1 2 (d 4) (dsc 0 1 16 2 0x5000) (d 3) &&
    scaleOk 1 3 (d 4) (dsc 0 1 16 2 0x5000) (d 3) && convOk 1 (d 4) (d 1) false && accDesc s t (d 3) && decide (curBank s = none) &&
    decide (s.curTeam = some placedTeam) && decide (halfEntries (s.core 0) = 64) && decide (s.work.tasks.length = 0) &&
    (let f := withT (List.replicate 64 (copyT none)) s
     decide (((f.work.tasks).filter (fun e => decide (e.core = 0) && decide (e.half = halfOf (f.core 0) 0))).length = 64)) &&
    (let r := withT (List.replicate 16 { copyT none with rename := true }) s
     decide ((r.work.tasks.filter (fun e => decide (e.core = 0) && e.rename)).length = 16) &&
     (tileSet (d 3)).any (fun j => (copyT none).rset.contains j)) && ok (eng (.mma 1 2 0 .short true)) (.mma 1 2 0 .short true) &&
    !mmaOk s t (d 1) (d 2) (d 0) false &&
    (let w := s.modCore 0 (fun c => { c with banks := [(0, ⟨1, 5, 3, d 3, [], false⟩)] }); (curBank w).isSome && !residentFor w (d 3)) &&
    (let u := s.modCore 0 (fun c => { c with banks := [(0, ⟨1, 0, 3, d 3, [], false⟩)] }); residentFor u (d 3) && (curBank u).isSome)) = true := by
  decide +kernel
/-- Tasks that may start, must wait, and may finish. -/
theorem witness_tasks : (let o : TaskOut := ⟨[], [], 1, none, none, [], [], [], [], [], []⟩
    let first := { copyT none with id := 1 }
    let s := withT [copyT none] (st .nop)
    let b := withT [first, copyT none] (st .nop)
    let f := withT [copyT (some o)] (st .nop)
    decide (s.work.tasks.find? (fun x => decide (x.id = 2)) = some (copyT none)) && s.work.tasks.all (fun x => !taskWaits (copyT none) x) &&
    decide (s.team? 1 0 = some placedTeam) && b.work.tasks.any (fun x => taskWaits (copyT none) x) &&
    decide (f.work.tasks.find? (fun x => decide (x.id = 2)) = some (copyT (some o))) &&
    f.work.tasks.all (fun x => !finishWaits (copyT (some o)) x) && decide ((finishOut f (copyT (some o)) placedTeam o).2.races = []) &&
    !(s.die 0).off && (pondReads (copyT none) placedTeam).all (fun x => (s.mem.err x.pa).isNone) &&
    decide ((f.grp 0).launch = 1) && decide ((f.grp 0).team = 0) && decide ((f.grp 0).gid = 0) && !(f.grp 0).retired &&
    (let off := s.modDie 0 (fun d => { d with off := true }); (off.die 0).off) &&
    (let g : Task := { copyT none with op := .tgive (dsc 0 16 16 2 0x3000) }
     let r := s.modCore 0 (fun c => { c with banks := [(0, ⟨1, 0, 2, 0, [], false⟩)] })
     let k := s.modCore 0 (fun c => { c with banks := [(0, ⟨1, 5, 9, 0, [], false⟩)] })
     !bankTaken r g && bankTaken k g) &&
    (let k := tileBanks placedTeam [0]
     let z := { s with banks := k.map (fun b => (b, (.retained, 0))) }
     (reachBanks s k).1 && !(reachBanks z k).1 && k.all (fun b => decide ((bankSt s b).1 = .active)) &&
     (reachBanks f (finishBanks (copyT (some o)) placedTeam o)).1)) = true := by decide +kernel
/-- A copy from memory with a sector to request and with one that was accepted, and a copy to memory with a sector to read. -/
theorem witness_copies : (let load : TaskOp := .tcopy (dsc 8 1 8 1 0x200) (dsc 0 1 8 1 0x100) .none
    let store : TaskOp := .tcopy (dsc 0 1 8 1 0x100) (dsc 8 1 8 1 0x200) .none
    let o : TaskOut := ⟨[], [], 0, none, none, [], [], [((0, 0), (0, 0, none))], [], [], []⟩
    let q : TaskOut := { o with late := [], reqs := [⟨7, (0, 0), ⟨0x400000, 0x200, 0x7E20, none⟩⟩] }
    let done : TaskOut := { o with late := [], copy := [.ok 0x200 0x400000 false ⟨[], 0, none⟩ false] }
    [(load, o), (load, q), (store, o)].all (fun (x : TaskOp × TaskOut) =>
      let t := { copyT (some x.2) with op := x.1 }
      let s := withT [t] (st .nop)
      decide (s.work.tasks.find? (fun y => decide (y.id = 2)) = some t) && decide (s.team? 1 0 = some placedTeam) && !(s.die 0).off &&
      s.work.tasks.all (fun y => !finishWaits t y) && (decide (x.2.late ≠ []) || decide (x.2.reqs ≠ []))) &&
    dKind (dsc 8 1 8 1 0x200) && !dKind (dsc 0 1 8 1 0x100) && done.fail.isNone &&
    (copySecs (dsc 0 1 8 1 0x100) (dsc 8 1 8 1 0x200)).all (fun k => (MemSt.reset.err (pondAcc placedTeam (srcAt (dsc 0 1 8 1 0x100) k)).pa).isNone)) = true := by
  decide +kernel

/-! ### Descriptor fields, regions, timers -/

/-- TDESC of a pair with bit 57 clear and set; TSETD of a value that fits and of one that does not, at the edges of ROWS. -/
theorem witness_descriptors : (let s := fun (x : Nat) (i : Instr) => stG ((gr false).setS 2 ⟨BitVec.ofNat 64 x, 0⟩) 1 i
    ok (s (2 ^ 57 - 1) (.tdesc 1 2)) (.tdesc 1 2) && ok (s (2 ^ 57) (.tdesc 1 2)) (.tdesc 1 2) && ok (s 2047 (.tsetd 1 2 .rows)) (.tsetd 1 2 .rows) &&
    ok (s 2048 (.tsetd 1 2 .rows)) (.tsetd 1 2 .rows) && ok (s 64 (.tsetd 1 2 .adv)) (.tsetd 1 2 .adv) &&
    [Instr.ptest 1 2 .plain, .ptest 1 2 .bud, .ptest 1 2 .p, .ptest 1 2 .u, .ptest 1 2 .ubud, .pcode 1 2 .plain, .pcode 1 2 .p,
     .pcode 1 2 .u, .pset 1 2 true].all (fun i => ok (st i) i)) = true := by decide +kernel
/-- R264: TSETD.rows changes bits [123:113] only. -/
theorem test_tsetd_rows : (let i := Instr.tsetd 1 2 .rows
    match exec i (stG (((gr false).setS 2 ⟨2047, 0⟩).setD 1 0) 1 i) with
    | .next t => decide (t.curG.d 1 = BitVec.ofNat 128 (2047 * 2 ^ 113)) | _ => false) = true := by decide +kernel
/-- A group with a region stack, an overflow count and a stop request or none. -/
def reg (rs : List (BitVec 12 × EB)) (ovf : BitVec 11) : Group :=
  { gr false with sp := { (gr false).sp with regions := rs, ovf := ovf } }
theorem witness_regions : (let s := fun (g : Group) (i : Instr) => stG g 0xFFFF i
    let full := List.replicate 16 ((7 : BitVec 12), (0xFF00 : EB))
    ok (s (reg [] 0) (.enter 1)) (.enter 1) && ok (s (reg full 0) (.enter 4095)) (.enter 4095) && !ok (s (reg [] 0) (.enter 0)) (.enter 0) &&
    ok (s (reg full 2047) (.enter 1)) (.enter 1) && ok (s (reg full 1) (.leave 7)) (.leave 7) && ok (s (reg full 0) (.leave 0)) (.leave 0) &&
    ok (s (reg full 0) (.leave 7)) (.leave 7) && ok (s (reg full 0) (.leave 8)) (.leave 8) && ok (s (reg [] 0) (.leave 0)) (.leave 0) &&
    !((st .nop).func ((st .nop).funcOf 1)).traced && !(reg [] 0).ctl.stopPend &&
    [Instr.ebset 5, .ebrd 1, .clock 1, .clockV 1, .wall 1, .wallV 2].all (fun i => ok (st i) i)) = true := by decide +kernel
/-- A group whose cycle timer is armed, at CTXCLK 0. -/
def armed (g : Group) (t : Timer) : Group := setTimer g .cyc t
theorem witness_timers : (let s := fun (t : Timer) (i : Instr) => stG (armed (gr false) t) 0xFFFF i
    ok (s Timer.clear (.timer 1 .cyc)) (.timer 1 .cyc) && ok (s ⟨false, true, 5⟩ (.timerWait .cyc)) (.timerWait .cyc) &&
    ok (s ⟨false, false, 5⟩ (.timerWait .cyc)) (.timerWait .cyc) && ok (s ⟨true, false, 5⟩ (.timerWait .cyc)) (.timerWait .cyc) &&
    ok (s ⟨true, false, 5⟩ (.timerPoll 1 .cyc)) (.timerPoll 1 .cyc) && ok (st (.timer 1 .wall)) (.timer 1 .wall) &&
    (let x := s ⟨true, false, 5⟩ .nop; !timerDue x x.curG .cyc) && (let x := s Timer.clear .nop; !timerDue x x.curG .wall) &&
    (let x := s ⟨true, false, 0⟩ .nop; timerDue x (x.grp 0) .cyc) && !(gr false).ctl.saved) = true := by decide +kernel

/-! ### The supervisor -/

/-- A supervisor group that has nothing outstanding, with every saved user register 0. -/
def back : Group :=
  { gr true with bank := ⟨(List.range 8).map (fun i => (i, SCell.zero)), (List.range 16).map (fun l => (l, 0)), BReg.zero, []⟩ }
theorem witness_sret : (let s := stG back 0xFFFF .sret
    let g := s.curG
    ok s .sret && decide (g.outst = []) && decide (g.replay = []) && decide (g.frame.killm = 0) && !g.sp.hnd &&
    (List.range 8).all (fun k => !(g.k k).complete) && g.lanes.all (fun x => decide (x.lst = .run) && decide (x.st = .run) && decide (slotOf x.epc ≠ 3)) &&
    (let m := stG { back with lanes := List.replicate 16 ⟨0, .run, 3, .run⟩ } 0xFFFF .sret; ok m .sret && decide (misaligned (sretTargets m.curG) ≠ [])) &&
    !g.ctl.preemptPend && !g.ctl.stopForced && !g.ctl.stopDue && decide (g.width ≤ 64)) = true := by decide +kernel
/-- SRET with a lane of KILLM; and with a lane that waits for a phase that was reached, and for one that was not. -/
theorem witness_killm : (let k := stG { back with frame := { back.frame with killm := 1 } } 0xFFFF .sret
    let w := fun (v : BitVec 16) => barS 0 (back.setLane 0 (fun x => { x with lst := .wait (.barrier 0 v) 0 })) 0xFFFF .sret
    let met := fun (v : BitVec 16) => phaseMet (readBar (w v) 0x500000).phase v.toNat
    ok k .sret && k.curG.frame.killm.getLsbD 0 && decide ((k.curG.lane 0).lst ≠ .done) && decide (misaligned (sretTargets k.curG) = []) &&
    decide (k.curG.outst = []) && decide ((k.team? 1 0) = some placedTeam) && ok (w 0) .sret && decide ((w 0).curG.frame.killm = 0) &&
    decide (misaligned (sretTargets (w 0).curG) = []) && decide (barPa (w 0) 1 0 0 = some 0x500000) && met 0 && !met 1) = true := by
  decide +kernel
/-- SSR and SSW of registers of Tables 13-2 and 13-3, and of a number that names none; the queues. -/
theorem witness_supervisor : [Instr.ssr 0x203 1, .ssr 0x238 1, .ssr 0x239 1, .ssrV 0x212 2, .ssrV 0x218 2, .ssrP 0x214 1, .ssw 0x203 1, .ssw 0x205 1,
      .ssw 0x207 1, .ssw 0x21A 1, .ssw 0x21D 1, .ssw 0x238 1, .ssw 0x212 1, .sswV 0x218 2, .sswV 0x219 2, .ssrV 0x200 2, .ssrP 0x200 1, .ssrV 0x239 2,
      .frqpop 8, .dbgset 1 2 3 7].all
      (fun i => ok (sv i) i) = true ∧
    (let s := fun (i : Instr) => stG { gr true with replay := [loadE] } 1 i
     [Instr.rqrd 1 2 0, .rqrd 1 2 3, .rqrdV 2 2 1, .rqwr 2 3 0, .rqwr 2 3 1, .rqwr 2 3 2, .rqwr 2 3 3, .rqwrV 2 3 1].all (fun i => ok (s i) i) &&
     decide ((s .nop).cur.rd.replay[0]? = some loadE) && decide (((s .nop).cur.rd.s 0 2).data.toNat % 32 = 0) &&
     (let far := fun (x : Nat) (i : Instr) => stG ({ gr true with replay := [loadE] }.setS 2 ⟨BitVec.ofNat 64 x, 0⟩) 1 i
      ok (far 24 (.rqrd 1 2 0)) (.rqrd 1 2 0) && ok (far 23 (.rqrd 1 2 0)) (.rqrd 1 2 0) && (far 23 .nop).cur.rd.replay[23]?.isNone)) = true := by decide +kernel
/-- A group with n invalidations outstanding that has y in s2. -/
def invS (n y : Nat) (i : Instr) : State :=
  stG (({ gr true with ctl := { (gr true).ctl with invs := List.range n } }).setS 2 ⟨BitVec.ofNat 64 y, 0⟩) 1 i
/-- TLBINV with room and with eight outstanding, of a range and of an empty one; TLBWAIT. -/
theorem witness_tlbinv : (let s := invS
    ok (s 7 0x10001 (.tlbinvRange 1 2)) (.tlbinvRange 1 2) && ok (s 0 1 (.tlbinvRange 1 2)) (.tlbinvRange 1 2) &&
    ok (s 0 1 (.tlbinvTag 1 2)) (.tlbinvTag 1 2) && ok (s 0 1 (.tlbinvAll 1 2)) (.tlbinvAll 1 2) &&
    ok (s 8 0x10001 (.tlbinvRange 1 2)) (.tlbinvRange 1 2) && ok (s 8 1 (.tlbinvTag 1 2)) (.tlbinvTag 1 2) &&
    ok (s 8 1 (.tlbinvAll 1 2)) (.tlbinvAll 1 2) && ok (s 0 0 .tlbwait) .tlbwait && ok (s 1 0 .tlbwait) .tlbwait) = true := by decide +kernel
/-- An invalidation that core 0 has not received; one that it has received and drained, alone and with another recipient. -/
theorem witness_inval : (let v := fun (r w : List Nat) => (⟨4, some 0, 1, 0, 1, 0, r, w, [], []⟩ : Inval)
    let s := fun (x : Inval) => { st .nop with work := { (st .nop).work with invals := [x] } }
    decide (findInval (s (v [] [0, 1])) 4 = some (v [] [0, 1])) && drained (s (v [0] [0, 1])) (v [0] [0, 1]) 0 &&
    decide ([0, 1] ≠ [0]) && drained (s (v [0] [0])) (v [0] [0]) 0 && decide (findInval (s (v [0] [0])) 4 = some (v [0] [0])) &&
    (v [] []).coversB 1 ⟨0, 0x400000, 0x1000, 0x7E00⟩) = true := by decide +kernel
/-- CTXSV after PREEMPT; CTXRS in restore mode with an image that does not match; both where they are illegal. -/
theorem witness_context : (let g := { gr true with frame := { (gr true).frame with tcause := 0x2F } }
    let r := { gr true with sp := { (gr true).sp with rst := true } }
    let a := fun (x : Nat) (g : Group) (i : Instr) => stG (g.setS 1 ⟨BitVec.ofNat 64 x, 0⟩) 0xFFFF i
    ok (a 0x600000 g (.ctxsv 1)) (.ctxsv 1) && ok (a 1 g (.ctxsv 1)) (.ctxsv 1) && ok (a 0x600000 r (.ctxrs 1)) (.ctxrs 1) &&
    ok (a 0x600000 g (.ctxrs 1)) (.ctxrs 1) && decide (g.outst = []) && decide (g.frame.tcause.toNat % 256 = 0x2F) &&
    !imageOk (a 0x600000 r .nop) 0x600000 r && decide ((st .nop).mem.pend = []) && decide (g.width = 16) && decide (g.regs < 256) &&
    decide (groupTasks (a 0x600000 g (.ctxsv 1)) g = []) && decide (g.soft = []) && decide (g.bank.soft = []) && decide (g.frame.killm = 0) &&
    decide (back.bank = ⟨(List.range 8).map (fun i => (i, SCell.zero)), (List.range 16).map (fun l => (l, 0)), BReg.zero, []⟩) &&
    decide (g.lanes.length = g.width) && g.sp.sv &&
    (let b := withT [copyT none] (a 0x600000 g (.ctxsv 1)); ok b (.ctxsv 1) && decide (groupTasks b g ≠ [])) &&
    decide ((st .nop).team? 1 0 = some placedTeam) && !placedTeam.hdrBad) = true := by decide +kernel
/-- Memory with a group's image: version, width and registers, and the check word of what follows, whatever that is. -/
theorem witness_image : ∃ s : State, s.team? 1 0 = some placedTeam ∧ imageOk s 0x600000 (gr true) = true := by
  obtain ⟨u, hu⟩ : ∃ u, u = (((sv .nop).setNum 0x600000 4 1).setNum 0x60000C 1 0).setNum 0x60000D 1 64 := ⟨_, rfl⟩
  obtain ⟨n, hn⟩ : ∃ n, n = groupImageSize 16 64 - 8 := ⟨_, rfl⟩
  obtain ⟨x, hx⟩ : ∃ x, x = crc32c (toBytes 4 1 ++ toBytes 4 0 ++ u.mem.bytes (0x600000 + 8) n) := ⟨_, rfl⟩
  have hc : (u.setNum (0x600000 + 4) 4 x).num (0x600000 + 4) 4 = x := by
    rw [State.num, setNum_mem, num_setNum_same]
    exact Nat.mod_eq_of_lt (hx ▸ crc32c_lt _)
  have hb : (u.setNum (0x600000 + 4) 4 x).mem.bytes (0x600000 + 8) n = u.mem.bytes (0x600000 + 8) n := by
    rw [setNum_mem, MemSt.setNum]
    exact bytes_setBytes_other _ _ _ _ _ (.inr (by rw [toBytes_length]))
  have keep : ∀ a k, 0x600008 ≤ a ∨ a + k ≤ 0x600004 → (u.setNum (0x600000 + 4) 4 x).num a k = u.num a k := fun a k h =>
    num_setNum_other u.mem (0x600000 + 4) 4 x a k (by omega)
  have hu' : u.num 0x600000 4 = 1 ∧ u.num 0x600008 4 = 0 ∧ u.num 0x60000C 1 = 0 ∧ u.num 0x60000D 1 = 64 := by rw [hu]; decide +kernel
  have ht : (u.setNum (0x600000 + 4) 4 x).team? 1 0 = some placedTeam := by rw [hu]; rfl
  refine ⟨u.setNum (0x600000 + 4) 4 x, ht, ?_⟩
  have h1 := keep 0x600000 4 (by omega)
  have h2 := keep 0x600008 4 (by omega)
  have h3 := keep 0x60000C 1 (by omega)
  have h4 := keep 0x60000D 1 (by omega)
  unfold imageOk
  rw [show (gr true).launch = 1 from rfl, show (gr true).team = 0 from rfl, ht, show (gr true).width = 16 from rfl,
    show (gr true).regs = 64 from rfl, show (gr true).gid = 0 from rfl, ← hn, hc, hb, ← hx]
  simp only [Nat.reduceAdd, h1, h2, h3, h4, hu', placedTeam]
  decide
theorem witness_kills : ok (sv (.kill 1)) (.kill 1) && ok (sv .halt) .halt && ok (sv .killTeam) .killTeam && ok (sv .killDump) .killDump &&
    decide ((sv .nop).launch? 1 = some placedLaunch) && decide (placedLaunch.ending = .none) &&
    decide ((sv .nop).mem.bad = []) && decide ((sv .nop).mem.linkErr = []) &&
    (sv .nop).work.groups.all (fun x => decide (x.2.lanes.length ≤ 64) && (List.range 8).all (fun k => decide ((x.2.k k).enrolled = 0))) = true := by
  decide +kernel

/-- A function that discloses dumps at FULL and has an area; a group of the team that holds an atomic accepted in part. -/
theorem witness_dump : (let s := (sv .killDump).modFunc 0 (fun f => { f with policy := some ⟨1, 0xFFFF, 2, []⟩, dumpSize := 4096 })
    let e := { loadE with instr := .aadd 4 1 2 .w .plain }
    let k := { s with work := { s.work with groups := s.work.groups ++ [(1, { gr false with gid := 1, outst := [e], rejected := some ⟨e, 2, 0, 0⟩ })] } }
    decide (levelOf s placedLaunch.func 4 = 3) && decide ((s.func placedLaunch.func).dumpSize ≠ 0) && decide (levelOf (sv .nop) placedLaunch.func 4 < 2) &&
    decide (s.work.teams.filter (fun x => decide (x.launch = s.curG.launch)) = [placedTeam]) && ok s .killDump &&
    ok k .killTeam && killWaits k (k.grp 1) && !killWaits k (k.grp 0) && decide (k.launch? 1 = some placedLaunch)) = true := by decide +kernel

/-- A trap of a supervisor group, with room in the record queue and without; an illegal word in supervisor mode. -/
theorem witness_double : (let s := sv (.illegalEncoding 0x3FFFFFFF)
    let f := s.modCore 0 (fun c => { c with frq := List.replicate 256 (mkRec 3 0 false 0 0 0 0) })
    ok s (.illegalEncoding 0x3FFFFFFF) && s.curG.sp.sv && decide (s.launch? s.curG.launch = some placedLaunch) && decide (placedLaunch.ending = .none) &&
    decide ((s.core 0).frq.length < 256) && decide (256 ≤ (f.core 0).frq.length) && decide (s.mem.bad = []) && decide (s.mem.linkErr = []) &&
    (s.team? 1 0).isSome && s.work.teams.all (fun t => decide (t.launch = 1))) = true := by decide +kernel

/-- Lane 0 loads through the window, lane 1 above it, where the table has an invalid entry with FT = 1. -/
def pageS : State :=
  { stG ((win (gr false)).setV 2 1 ⟨0x800000, 0⟩) 3 (.ld 4 1 2 .w .plain) with mem := (pt 0 0).setNum 0x8000803020 8 0x2000 }
theorem witness_demand : (let s := pageS
    let va := offVa s 1 1 (s.rv 2 1).data.toNat
    let win := s.cur.rd.b 1
    ok s (.ld 4 1 2 .w .plain) && !s.cur.multi && decide (slotOf (vectorPc s 0x2B) ≠ 3) && s.curG.rejected.isNone && decide (s.curG.core = s.cur.rd.core) &&
    [0, 1].all (fun l => s.cur.mask.getLsbD l && decide ((s.rv 2 l).eb ≠ ebPoison)) && decide (offVa s 1 1 (s.rv 2 0).data.toNat = 0x1000) &&
    (s.mem.err 0x400000).isNone && decide (groupOps s 0 = []) && decide (va < 2 ^ 57) && decide (va % 4 = 0) &&
    decide (win.vbase.toNat + win.limit.toNat ≤ va) && decide ((s.core 0).tlb = []) && decide ((s.core 0).nodes = []) &&
    decide (walk s.mem s.cur.rd.sp.tag.toNat va = .invalid 1 0x8000803020 0x2000) && decide (pteFt 0x2000 = 1) && decide ((s.core 0).frq.length < 256)) = true := by
  decide +kernel
theorem witness_demand_window : pageS.user ∧ pageS.free_ ∧ pageS.Numbered ∧ unchecked pageS 1 ∧ InWindow pageS 1 .read 4 0x1000 :=
  ⟨⟨rfl, rfl⟩, ⟨rfl, rfl, by decide +kernel⟩, ⟨List.nodup_nil, fun _ h => by cases h⟩,
   by unfold unchecked; exact (by decide : pteRc 0x7E00 = false),
   ⟨by decide, by decide, (by decide : (pageS.cur.rd.b 1).vbase.toNat ≤ 0x1000),
    (by decide : 0x1000 < (pageS.cur.rd.b 1).vbase.toNat + (pageS.cur.rd.b 1).limit.toNat), (by decide : permOk .read false 0x7E00 = true),
    fun _ => (by decide : pteD 0x7E00 = true), (by decide : (0x400000 + (0x1000 - 0x1000)) % 4 = 0)⟩⟩

/-! ### Teams -/

/-- The group of the placed team, and the team, changed. -/
def crew (g : Group) (t : Team) : State := { stG g 1 .nop with work := { (stG g 1 .nop).work with teams := [t] } }
/-- A function with an image area; a team whose deadline is over, in user mode with running and with finished lanes, and in supervisor
mode; a stop request that is due. -/
theorem witness_preempt : (let a := (crew (gr false) placedTeam).modFunc 0 (fun f => { f with ctxPa := 0x800000, ctxSize := 0x800000 })
    (placeImage a placedLaunch placedTeam).isSome && decide (a.launch? 1 = some placedLaunch) && !(a.die (dieOf placedTeam.core)).off &&
    decide (a.team? 1 0 = some placedTeam) && !placedTeam.preq && !placedTeam.dead && decide ((a.work.groups.map (·.1)).Nodup) &&
    !(gr false).ctl.halted && ({ (gr false).ctl with halted := true } : Ctl).halted &&
    (let t := { placedTeam with preq := true, preqCnt := 60000, preqLim := 60000, image := 0x800000 }
     let d := { gr false with lanes := List.replicate 16 ⟨0, .done, 0, .done⟩ }
     [gr false, gr true, d].all (fun g => let s := crew g t
       decide (s.team? 1 0 = some t) && decide (s.teamGroups 1 0 = [0]) && !(s.grp 0).ctl.saved && !(s.grp 0).ctl.saving && !(s.grp 0).ctl.dead &&
         (s.grp 0).rejected.isNone && decide (slotOf (vectorPc s 0x2F) ≠ 3)) &&
     d.lanes.all (fun x => decide (x.st = .done)) && (gr false).lanes.any (fun x => decide (x.st ≠ .done))) &&
    [gr false, gr true].all (fun g =>
      let s := stG { g with ctl := { g.ctl with stopPend := true, stopCnt := 9, stopLim := 9 } } 1 .nop
      (s.grp 0).ctl.stopPend && decide ((s.grp 0).ctl.stopLim ≤ (s.grp 0).ctl.stopCnt) && !(s.grp 0).retired && !preqOf s (s.grp 0) &&
      decide (slotOf (vectorPc s 0x2E) ≠ 3)) && preqOf (crew (gr false) { placedTeam with preq := true }) (gr false)) = true := by
  decide +kernel
theorem witness_slice : (let s := { State.reset with now := 1000000 }
    decide ((s.cluster 0).sliceStart + (s.func (s.cluster 0).holder).slice ≤ s.now) && (starved s (nextHolder s 0) 0).isNone &&
    decide (candidates State.reset 0 = []) && (starved State.reset (nextHolder State.reset 0) 0).isNone) = true := by
  decide +kernel
/-- A launch with a team to dispatch in a cluster of its function; and no candidate. -/
theorem witness_dispatch : (let l := { placedLaunch with nextTeam := 0 }
    let s0 := { State.reset with work := { WorkSt.reset with launches := [l], lines := [⟨1, 0, 0, 0, false, false, false, none, some 1, []⟩] } }
    let s := (s0.modFunc 0 (fun f => { f with clusters := 1 })).modCluster 0 (fun c => { c with holder := 0 })
    let u := noteCands s 0
    decide (s.dev.nextCluster = 0) && decide (bestCand u 0 = some l) && decide (nextTeam l = some (0, none)) && (candPlace u l 0 []).isSome &&
    decide (l.rc.nbar = 0) && decide (s.work.groups = []) && (bestCand (noteCands State.reset 0) 0).isNone) = true := by decide +kernel
/-- A launch with a barrier for each team, one that translates and one that does not; a launch with a saved team. -/
theorem witness_places : (let ln : Line := ⟨1, 0, 0, 0, false, false, false, none, some 1, []⟩
    let s0 := fun (l : Launch) => ({ State.reset with work := { WorkSt.reset with launches := [l], lines := [ln] } } : State)
    let s := fun (l : Launch) => ((s0 l).modFunc 0 (fun f => { f with clusters := 1 })).modCluster 0 (fun c => { c with holder := 0 })
    let b := { placedLaunch with nextTeam := 0, rc := { placedLaunch.rc with nbar := 1 } }
    let r := { placedLaunch with savedTeams := [(0, 0x800000)] }
    let ready := fun (l : Launch) (x : State) => decide (bestCand (noteCands x 0) 0 = some l) && (candPlace (noteCands x 0) l 0 []).isSome
    let m := { s b with mem := pt (pteCode 0x200000) 0 }
    ready b m && decide (nextTeam b = some (0, none)) && ready b (s b) &&
    (match (barrierPas 1 (noteCands m 0) (barrierVas b.rc 0)).2 with | .inl ps => decide (ps = [0x200000]) | .inr _ => false) &&
    (match (barrierPas 1 (noteCands (s b) 0) (barrierVas b.rc 0)).2 with | .inl _ => false | .inr _ => true) &&
    ready r (s r) && decide (nextTeam r = some (0, some 0x800000)) && decide (imageResident (s r) 0x800000 = []) && decide (r.rc.nbar = 0) &&
    decide (slotOf (vectorPc (s r) 0x3F) ≠ 3) && decide (pmem 0x800000 = .hbm 0) && decide (pmem (State.reset.dev.vtab.toNat + 0x1F8) = .tarn)) = true := by
  decide +kernel
/-- A team that has retired, and one that has not; a team whose groups are saved. -/
theorem witness_leave : (let d := { gr false with lanes := List.replicate 16 ⟨0, .done, 0, .done⟩, ctl := { (gr false).ctl with retiring := true } }
    let r := crew d placedTeam
    let n := crew (gr false) placedTeam
    let t := { placedTeam with preq := true, image := 0x800000 }
    let v := crew { gr false with ctl := { (gr false).ctl with saved := true } } t
    (r.teamGroups 1 0).all (fun h => groupRetired (r.grp h) && decide ((r.grp h).outst = [])) && decide (openTasks r placedTeam = []) &&
    decide (r.mem.pend = []) && decide (r.team? 1 0 = some placedTeam) && !groupRetired (n.grp 0) &&
    decide (v.team? 1 0 = some t) && (v.teamGroups 1 0).all (fun h => (v.grp h).ctl.saved) && decide (0 ∈ v.teamGroups 1 0) &&
    decide (openTasks v t = []) && decide (v.launch? 1 = some placedLaunch) && decide (((v.core 0).banks ++ (v.core 1).banks).length = 0) &&
    decide (t.tiles.length = placedLaunch.rc.tiles) && decide (placedLaunch.rc.width = 16) && decide (placedLaunch.rc.regs < 256) &&
    decide (pmem t.image = .hbm 0) && decide (t.image + placedLaunch.rc.imageSize ≤ 0x8000100000) && !(r.die 0).off &&
    (let k := { placedTeam with dead := true }
     let y := crew { gr false with ctl := { (gr false).ctl with dead := true } } k
     let z := crew { gr false with ctl := { (gr false).ctl with dying := true } } k
     let off := fun (s : State) => s.modDie 0 (fun d => { d with off := true })
     decide (y.team? 1 0 = some k) && !(y.grp 0).ctl.dying && decide (openTasks y k = []) && (z.grp 0).ctl.dying && !(z.die 0).off &&
     ((off z).die 0).off && decide (openTasks (off z) k = []) && ((off r).die 0).off && decide ((off r).team? 1 0 = some placedTeam) &&
     decide (openTasks (withT [copyT none] y) k ≠ []))) = true ∧
    (State.reset.now < State.reset.dev.lastVt + 100000 ∧ ({ crew (gr false) placedTeam with now := 100000 }).dev.lastVt + 100000 ≤ 100000 ∧
      (0, 0) ∈ residentProcs (crew (gr false) placedTeam)) := by decide +kernel

/-! ### Power, observation -/

theorem witness_gating : (let s := { State.reset with now := 100000 }
    let g := s.modCluster 3 (fun x => { x with gating := true, idleSince := 98000 })
    clusterIdle s 3 && decide ((s.cluster 3).idleSince + 100000 ≤ s.now) && decide (s.dev.nextCluster ≠ 3) && !(s.cluster 3).gated &&
    (g.cluster 3).gating && decide ((g.cluster 3).idleSince + 2000 ≤ g.now) && !clusterIdle (crew (gr false) placedTeam) 0 &&
    (let r := { s with now := 2 ^ 20, banks := [(1, (.entering, 0)), (2, (.retained, 0)), (3, (.exiting, 0))] }
     decide ((bankSt r 0).1 = .active) && decide ((bankSt r 0).2 + 2 ^ 20 ≤ bankClk r 0) && decide ((bankSt r 1).1 = .entering) &&
     decide ((bankSt r 1).2 + 512 ≤ bankClk r 1) && decide ((bankSt r 2).1 = .retained) && decide ((bankSt r 3).1 = .exiting) &&
     decide ((bankSt r 3).2 + 256 ≤ bankClk r 3)) &&
    (let w := { s with mem := { s.mem with watchUpd := [(0, 0x200000, 5)] } }
     decide (w.mem.watchUpd.find? (fun e => decide (e.1 = 0) && decide (e.2.1 = 0x200000)) = some (0, 0x200000, 5)))) = true := by decide +kernel
/-- Steps up, into a sprint and out of one, and one that owes more; a sprint at its limit; a cool-down that is over; grants above, at and
below a point, and a mode that one brings; hot dies, one that has stepped; samples with and without a new mode. -/
theorem witness_power : (let d := fun (f : Die → Die) => (({ State.reset with now := 500000000 } : State).modDie 0 f).die 0
    let n : State := { State.reset with pw := { Power.reset with grantMode := false } }
    let still := fun (x : Die) => !x.off && x.step.isNone && decide (x.owed = 0)
    [(0, some 1), (3, some 4), (4, some 3)].all (fun (p : Nat × Option Nat) =>
      let x := d (fun y => { y with point := p.1, step := p.2 }); decide (x.step = p.2) && !x.off && decide (x.owed = 0)) &&
    (let x := d (fun y => { y with point := 5, step := some 4, owed := 1 }); decide (x.step = some 4) && decide (0 < x.owed)) &&
    [4, 5].all (fun p => let x := d (fun y => { y with point := p, sprintAt := some 250000000 })
      decide (x.sprintAt = some 250000000) && still x && decide (x.point = p)) &&
    decide ((d (fun y => { y with coolUntil := some 500000000 })).coolUntil = some 500000000) &&
    (let x := d (fun y => { y with point := 3, hot := true }); decide (2 < x.point) && still x && x.hot && x.hotAt.isNone && x.weirAt.isNone) &&
    decide ((d (fun y => { y with hot := true, hotAt := some 499999999 })).hotAt = some 499999999) && still (d id) &&
    decide ((d (fun y => { y with grant := some (1, 2, 499999999) })).grant = some (1, 2, 499999999)) && State.reset.pw.grantMode &&
    decide (State.reset.pw.modeNext = none) && !n.pw.grantMode && (List.range 8).all (fun k => let x := n.die k
      x.sprintAt.isNone && decide (x.point < 4) && still x)) = true := by decide +kernel
/-- A fourth sample in a row over the peak cap with every die at point 0, and a team that its die dispatched last. -/
theorem witness_overrun : (let s := { crew (gr false) placedTeam with
      now := 5000000, pw := { Power.reset with grantMode := false, overRun := 3, samples := (List.range 9).map (fun i => (5000000 - 1000 * i, 10 ^ 9)) } }
    !s.pw.grantMode && s.pw.modeNext.isNone && decide (lastTeam s 0 = some placedTeam) && !(s.die 0).off && (s.launch? 1).isSome &&
    decide (s.team? 1 0 = some placedTeam) && decide (s.pw.overRun + 1 = 4) &&
    (List.range 8).all (fun d => decide ((s.die d).point = 0) && (s.die d).sprintAt.isNone && (s.die d).step.isNone && decide ((s.die d).owed = 0)) &&
    decide (s.pw.cPeak * 10 < (((s.now, 10 ^ 9) :: s.pw.samples).map (·.2)).sum)) = true := by decide +kernel
/-- A group to sample by a busy scheduler whose pick is due, with a ring and a function at each level; charges; marks; a merge that is due. -/
theorem witness_observation : (let s0 := (crew (gr false) placedTeam).modCore 0 (fun c => { c with busy := [(0, 1)] })
    let s := (({ s0 with dev := { s0.dev with sampleN := 8, ringSize := 4096 } }).modDie 0 (fun d => { d with ringS := some 0x900000, charge := [(0, 3), (1, 1)], corrected := [(2, 5)] })).modFunc 0 (fun f =>
      { f with policy := some ⟨1, 0xC, 2, []⟩ })
    let lvl := fun (levels : BitVec 16) => levelOf (s.modFunc 0 (fun f => { f with policy := some ⟨1, levels, 2, []⟩ })) 0 1
    (nextPick s 0 0).isSome && !idleSched s 0 0 && pickDue s 0 0 && idleSched s 0 1 && decide (lvl 0xC = 3) && decide (lvl 8 = 2) &&
    decide (lvl 4 = 1) && decide (lvl 0 = 0) && decide (levelOf s 0 1 = 3) && decide (levelOf s0 0 1 ≠ 3) && decide ((s.die 0).ringS = some 0x900000) && decide (s.num 0x900008 8 = 0) &&
    decide (s.num 0x900000 8 < ringCap 4096) && decide (((s.die 0).charge.map (·.2)).sum ≠ 0) && decide (((s.die 0).charge.map (·.1)).Nodup) &&
    decide (10 * 3 / 4 ≠ 0) && decide (Tb.get 0 (s.die 0).corrected 2 ≠ 0) && (Tb.get? (s.die 0).lastMerge 2).isNone &&
    decide (pmem 0x10000000000 = .lpddr)) = true := by decide +kernel
/-- The degraded mode, modes that a grant and a sample bring, a merge that is not due. -/
theorem witness_modes : (let s : State := { State.reset with dev := { DevSt.reset with degraded := true } }
    let g : State := { State.reset with pw := { Power.reset with modeNext := some false } }
    let w : State := { State.reset with pw := { Power.reset with grantMode := false, modeNext := some true } }
    s.dev.degraded && decide (pmem 0xD00000 ≠ .cxl) && decide (pmem 0x20000000000 = .cxl) && g.pw.grantMode && decide (g.pw.modeNext = some false) &&
    !w.pw.grantMode && decide (w.pw.modeNext = some true) &&
    decide (Tb.get? (((State.reset.modDie 0 (fun d => { d with lastMerge := [(2, 0)] })).die 0).lastMerge) 2 = some 0)) = true := by decide +kernel
theorem witness_withheld : (let s0 := crew (gr false) placedTeam
    let s := s0.modFunc 0 (fun f => { f with policy := some ⟨1, 0, 2, []⟩ })
    levelOf s 0 1) = 0 := by decide +kernel

/-! ### Lines, launches, commands -/

/-- A line of function 0 at 0xA00000 that has seen a record at 0xB00000. -/
def aLine (cmd : Bool) : Line := ⟨0xA00000, 0, 0, 0, cmd, false, false, some 0xB00000, none, []⟩
def withL (ls : List Line) (s : State) : State := { s with work := { s.work with lines := ls } }
def lineP (x : Nat) : State :=
  let s := withL [aLine false] State.reset
  { s with mem := (s.mem.setNum 0xA00008 8 0xB00000).setNum 0xB00000 8 x }
theorem witness_lines : (lineP 0).line? 0xA00000 = some (aLine false) ∧ (lineP 0).num (lineLast (lineP 0) 0xA00000) 8 = 0 ∧
    (lineP 128).num (lineLast (lineP 128) 0xA00000) 8 = 128 ∧ (lineP 64).num (lineLast (lineP 64) 0xA00000) 8 % 128 ≠ 0 ∧
    nextBad 64 = true ∧ nextBad (2 ^ 57) = true ∧ nextBad (2 ^ 57 - 128) = false ∧ (aLine false).active = none ∧
    ({ aLine false with broken := true }).broken = true ∧ (lineP 128).dev.degraded = false ∧ physNum (lineP 128) 0xB00000 8 = 128 ∧
    pmem 0xB00000 ≠ .cxl ∧ pmem 0x20000000000 = .cxl := by decide +kernel
/-- A completion address that translates, and one that does not. -/
theorem witness_complete : (let s := { State.reset with mem := pt (pteCode 0x200000) 0 }
    (match engineAccess s 1 0x100 .write with
     | (u, .inl x) => decide (x.1 = 0x200100) && decide (u.mem.peerDown = []) && !keepsBnd x.1 x.2 && decide (bndHome 0x200100 = .word 0xF00020010)
     | _ => false) &&
    (match engineAccess State.reset 1 0x100 .write with | (_, .inr _) => true | _ => false)) = true := by decide +kernel
/-- A record of one team of 16 lanes, in a function with a cluster; one that is malformed (reserved CTRL). -/
theorem witness_launch : (let w := fun (ctrl : Nat) =>
      let s := withL [aLine false] (State.reset.modFunc 0 (fun f => { f with clusters := 1 }))
      { s with mem := (((s.mem.setNum 0xB0002A 1 0).setNum 0xB0002B 1 64).setNum 0xB0002C 4 32768).setNum 0xB00036 1 ctrl |>.setNum 0xB00024 2 15 }
    let code := fun (x : Nat) => let s := w x; let u := lineRead s 0xA00000 0xB00000; recordCode u (readRecord u 0xB00000) 0
    hasMem 0xB00000 128 && decide (code 0 = 0) && decide (code 0x80 = 2) && hasMem 0xA00008 8 && hasMem 0xA00010 8 &&
    decide (0xA00000 + 24 ≤ 0x8000100000) &&
    (let l := { placedLaunch with nextTeam := 1 }
     launchOver { State.reset with work := { WorkSt.reset with launches := [l] } } l &&
     !launchOver { State.reset with work := { WorkSt.reset with launches := [l] } } { l with nextTeam := 0 })) = true := by decide +kernel
/-- A function's command line whose next record is an opcode with parameters. -/
def cmdS (f op : Nat) (ps : List (Nat × Nat)) (s : State) : State :=
  let m := ps.foldl (fun m p => m.setNum (0xB00020 + 8 * p.1) 8 p.2) (s.mem.setNum 0xB00008 2 op)
  { s with mem := m, work := { s.work with lines := [{ aLine true with func := f }, ⟨0xC00000, f, 0, 0, false, false, false, none, some 1, []⟩] } }
/-- The next record of function f is a good command with that opcode. -/
def taken (s : State) (f op : Nat) : Bool :=
  match s.cmdLine? f, nextCmd s f with
  | some _, some (_, c) => decide (c.op = op) && !cmdBad f c && !(decide (f ≠ 64) && pfOnly op)
  | _, _ => false
/-- The hypothesis Accepts of the statements about commands is met. -/
theorem witness_accepts : ∃ l pa c, Accepts (cmdS 0 1 [] State.reset) 0 l pa c ∧ c.op = 1 :=
  ⟨aLine true, 0xB00000, readCmd (cmdS 0 1 [] State.reset) 0xB00000, ⟨by decide +kernel, by decide +kernel, by decide +kernel, by decide +kernel⟩,
   by decide +kernel⟩
/-- Commands of every function, with parameters that meet their statements. -/
theorem witness_commands : (let r := { State.reset with work := { WorkSt.reset with launches := [{ placedLaunch with cb := 0xC00000 }] } }
    let s := fun (op : Nat) (ps : List (Nat × Nat)) => { cmdS 0 op ps r with mem := (cmdS 0 op ps r).mem.setNum 0xC00010 8 1 }
    [(1, []), (2, [(0, 0xD00000), (1, 0x102)]), (3, [(0, 0xC00000)]), (4, [(0, 63), (1, 255)]), (5, [(0, 0), (1, 1)]),
     (6, [(0, 0xC00000), (1, 1), (2, 0)]), (7, [(0, 0xC00000), (1, 1)]), (8, [(0, 0xC00000), (1, 1), (2, 1)]), (9, [(0, 0xC00000), (1, 1)]),
     (10, [(0, 0xC00000)]), (11, [(0, 5), (1, 1)]), (12, [(0, 0)]), (13, [])].all (fun x => taken (s x.1 x.2) 0 x.1) &&
    (let x := s 7 [(0, 0xC00000), (1, 1)]
     let c := readCmd x 0xB00000
     (x.line? 0xC00000).isSome && (launchOf x c).isSome && decide (1 ≤ lineCount x 0xC00000) && decide (x.work.teams = []) &&
     decide (x.work.cmds = []) && !knownOp (readCmd (s 13 []) 0xB00000) && (x.line? 0xD00000).isNone && hasMem 0xD00000 64)) = true := by
  decide +kernel
/-- Memory with a launch image: its version, and the check word of what follows, whatever that is. -/
theorem witness_restore (s : State) : ∃ t : State, launchImageOk t 0xE00000 = true ∧ SameBytes s t [(0xE00000, 8)] := by
  obtain ⟨u, hu⟩ : ∃ u, u = s.setNum 0xE00000 4 1 := ⟨_, rfl⟩
  obtain ⟨x, hx⟩ : ∃ x, x = crc32c (toBytes 4 1 ++ toBytes 4 0 ++ u.mem.bytes (0xE00000 + 8) 4088) := ⟨_, rfl⟩
  have h1 : (u.setNum (0xE00000 + 4) 4 x).num 0xE00000 4 = 1 := by
    have := num_setNum_other u.mem (0xE00000 + 4) 4 x 0xE00000 4 (by omega)
    rw [State.num, setNum_mem, this, hu, setNum_mem, num_setNum_same, Nat.mod_eq_of_lt (by decide)]
  have h2 : (u.setNum (0xE00000 + 4) 4 x).num (0xE00000 + 4) 4 = x := by
    rw [State.num, setNum_mem, num_setNum_same]
    exact Nat.mod_eq_of_lt (hx ▸ crc32c_lt _)
  have h3 : (u.setNum (0xE00000 + 4) 4 x).mem.bytes (0xE00000 + 8) 4088 = u.mem.bytes (0xE00000 + 8) 4088 := by
    rw [setNum_mem, MemSt.setNum]
    exact bytes_setBytes_other _ _ _ _ _ (.inr (by rw [toBytes_length]))
  refine ⟨u.setNum (0xE00000 + 4) 4 x, ?_, fun a h => ?_⟩
  · unfold launchImageOk
    rw [h1, h2, h3, ← hx]
    simp only [decide_true, Bool.and_self]
  · have := h (0xE00000, 8) (by simp)
    simp only [hu, setNum_mem, MemSt.setNum, byte_setBytes, toBytes_length]
    rw [if_neg (by omega), if_neg (by omega)]
/-- Commands of the PF and POLICY operations; a VF that issues one, and a command with a reserved field set. -/
theorem witness_pf : ([(0x100, [(0, 64), (1, 2 ^ 32 - 1), (2, 100000), (3, 255), (4, 4096)]), (0x101, [(0, 64), (1, 0xE00000), (2, 4096)]),
      (0x102, [(0, 8)]), (0x103, [(0, 0), (1, 0xD00000), (2, 1)]), (0x104, [(0, 1), (1, 0)]), (0x105, [(0, 255), (1, 0), (2, 64)]),
      (0x106, [(0, 63), (1, 0xE00000), (2, 64), (3, 0xF00000)]), (0x107, [(0, 0), (1, 0xD00000)]), (0x107, [(0, 1), (1, 255), (2, 0x19)]),
      (0x107, [(0, 2), (1, 0), (2, 0xD00000), (3, 3)]), (0x107, [(0, 3), (1, 16), (2, 0x1000000), (3, 0x2000000), (4, 65536), (6, 1)]),
      (0x107, [(0, 4), (1, 0xD00000), (2, 64), (3, 0xE00000)]), (0x107, [(0, 5), (1, 0xD00000), (2, 2 ^ 20)]), (0x107, [(0, 6), (1, 1)]),
      (0x108, [(3, 3), (4, 31)])].all (fun x => taken (cmdS 64 x.1 x.2 State.reset) 64 x.1) &&
    areaOk 0xE00000 4096 && areaOk 0 0 && hasMem 0xD00000 1152 && hasMem 0xF00000 512 && inRingMem 0x1000000 65536 && ringSizeOk 65536 &&
    (let p := { State.reset with mem := (State.reset.mem.setNum 0xD00000 8 0x200000).setNum 0x8000080018 4 256 }
     frameOk p 0 (p.num 0xD00000 8) && decide (poolCount p 0 < poolCap p 0)) && decide (teamsOn State.reset 255 = []) &&
    (let d := cmdS 1 0x100 [] State.reset; (nextCmd d 1).isSome && pfOnly 0x100) &&
    (let b := cmdS 0 1 [] State.reset; let c := { b with mem := b.mem.setNum 0xB0000E 2 1 }
     (nextCmd c 0).any (fun x => cmdBad 0 x.2))) = true := by decide +kernel
/-- A halted group, with and without an outstanding result. -/
theorem witness_resume : (let g := { gr false with ctl := { (gr false).ctl with halted := true } }
    ((stG g 1 .nop).grp 0).ctl.halted && decide (((stG g 1 .nop).grp 0).outst = []) && !((stG (gr false) 1 .nop).grp 0).ctl.halted &&
    ((stG { g with outst := [loadE] } 1 .nop).grp 0).ctl.halted) = true := by decide +kernel
/-- MIGRATE of a page of level 0 to another frame; commands that wait: SAVE_LAUNCH of a launch whose teams are gone, MIGRATE of a page with and
without bounds. -/
theorem witness_waits : (let s := { State.reset with mem := pt (pteNode 0x8000804000) lf }
    decide (walk s.mem 1 0 = .leaf 0 0x8000804000 lf) && !pteC16 lf && decide (0x30000000000 % leafSize 0 lf = 0) &&
    !leafBad s.mem.carved 1 0 (migrated lf 0x20000001000) &&
    (let w : CmdWait := ⟨0, 0xA00000, 1, 5, 0, 0, 0, 0, some 7, none, 0, [], false⟩
     let u : State := { State.reset with work := { WorkSt.reset with cmds := [w] } }
     decide (w ∈ u.work.cmds) && (findInval u 7).isNone) &&
    (let l := { placedLaunch with saveOff := some 0, savedTeams := [(0, 0x800000)], rc := { placedLaunch.rc with raw := List.replicate 128 0 } }
     let w : CmdWait := ⟨0, 0xA00000, 1, 9, 0, 0, 0, 0, none, some 1, 0, [], false⟩
     let u : State := { State.reset with work := { WorkSt.reset with cmds := [w], launches := [l] } }
     decide (w ∈ u.work.cmds) && decide (u.launch? 1 = some l) && decide (l.ending = .none) && decide (l.rc.raw.length = 128)) &&
    (let e := 0x400000 / 4096 * 2 ^ 24 + 0x21601
     let w : CmdWait := ⟨64, 0xA00000, 1, 0x104, 0, 0, 0, 0, some 7, none, 0, [1, 0x8000803000, e, 0x600000], false⟩
     let u : State := { State.reset with work := { WorkSt.reset with cmds := [w] }, mem := State.reset.mem.setNum 0x8000080018 4 256 }
     decide (w ∈ u.work.cmds) && decide (pteFrame e = 0x400000) && decide (leafSize 1 e = 0x200000) && !pteC16 e && !pteBnd e && pteBnd (e + 0x80) &&
     !pteC16 (e + 0x80) && decide (pteFrame (e + 0x80) = 0x400000) && decide (bndHome 0x600000 = .word 0xF00060000) &&
     decide (listOfFrame (pteTier e) 0x400000 = some 0) && decide (poolCount u 0 < poolCap u 0))) = true := by decide +kernel
/-- READ: a function at each level for counters, enough of them at AGGREGATE and too few. -/
def policies (least : Nat) : State :=
  [(0, 3), (1, 2), (2, 1), (3, 1), (4, 0)].foldl
    (fun (u : State) (x : Nat × Nat) => u.modFunc x.1 (fun f => { f with policy := some ⟨1, BitVec.ofNat 16 x.2, least, []⟩ })) State.reset
theorem witness_rows : [0, 1, 2, 3, 4].map (fun f => levelOf (policies 2) f 0) = [3, 2, 1, 1, 0] ∧
    ((policies 2).func 2).policy = some ⟨1, 1, 2, []⟩ ∧ ((policies 3).func 2).policy = some ⟨1, 1, 3, []⟩ := by decide +kernel

/-! ### Steps, reset, invariants, decoding -/

/-- A state that step fetches a word in: its scheduler chooses the group, nothing fetched before, no comparator, the translation at hand, no
interlock. -/
theorem witness_step : (let s := State.reset.withFetchWord 32 (encode (.vadd 1 2 3)).toNat
    let v : State := { s with turns := [] }
    let u := (schedule v 0 0).1
    let g := u.grp 0
    let u' := u.modG 0 (fun g => { g with rejected := none })
    decide (s.turns = [.issue 0]) && idleSched v 0 0 && decide ((schedule v 0 0).2 = some 0) && !portLost u 0 && g.ctl.rom.isNone &&
    canIssue u g && g.rejected.isNone && decide (choosePc g = some (0, 0xFFFF)) &&
    (match translate u' ⟨0, g.core, fetchTag g, g.sp.sv, 0⟩ (wordVa (codeBase u' g) 0) .fetch with
     | (t, .ok pa _) => (t.mem.err pa).isNone && (Tb.get? (t.core g.core).fetched pa).isNone && decide ((t.core g.core).dbg = []) &&
         (let w : Word := BitVec.ofNat 32 (t.num pa 4)
          let f : FWord := ⟨0, w, .ok ⟨false, false, .vadd 1 2 3⟩⟩
          let x := putLimited (touch t (banksAt g.core false pa)) fetchWords (t.core g.core).fetched pa w
          let b := beginIssue (x.1.modCore g.core (fun c => { c with fetched := x.2 })) 0 0 0 (nextPc 0) w 0xFFFF false g
          decide (decodeWord w = .ok ⟨false, false, .vadd 1 2 3⟩) && decide (interlock b [f] [.vadd 1 2 3] = 0))
     | _ => false) &&
    (match step s with
     | .next t => !t.cur.stalled && !t.cur.trapped && t.work.groups.all (fun e => e.2.rejected.isNone)
     | _ => false)) = true := by decide +kernel
theorem witness_invariants : State.reset.Inv ∧ State.reset.Numbered :=
  ⟨(by decide +kernel : State.reset.mem.wf = true), List.nodup_nil, fun _ h => by cases h⟩
/-- The hypotheses about the firmware's signature are one or the other. -/
theorem witness_firmware : firmwareVerified = true ∨ firmwareVerified = false := by cases firmwareVerified <;> simp
/-- Poisoned operands, as firstTok finds them. -/
theorem witness_tokens : firstTok [⟨0, 0, none⟩, ⟨0, 0, some 0x40000001⟩] = some 0x40000001 := by decide
theorem witness_encode : (Instr.vadd 1 2 3).encoded = true ∧ (Instr.vadd 1 2 3).wellFormed = true ∧ (Instr.item 1 2 4 1).wellFormed = true := by decide

/-- A word of each family, field by field from bit 31 down, as the encodings of the opcode table lay it out. -/
theorem test_words : [
    (0#2 ++ 32#8 ++ 1#6 ++ 2#6 ++ 3#6 ++ 0#4, Instr.vadd 1 2 3),
    (0#2 ++ 432#11 ++ 5#3 ++ 2#6 ++ 3#6 ++ 2#4, .vcmp 5 2 3 .lt),
    (0#2 ++ 64#8 ++ 1#6 ++ 2#6 ++ 3#6 ++ 0#2 ++ 0#2, .fadd 1 2 3 .exact),
    (0#2 ++ 96#8 ++ 1#6 ++ 2#6 ++ 0#3 ++ 5#3 ++ 1#2 ++ 0#1 ++ 0#1, .cvt 1 2 .f32 .i32 .rz false),
    (0#2 ++ 99#8 ++ 1#6 ++ 2#6 ++ 0#6 ++ 0#2 ++ 0#2, .frcp 1 2 .exact),
    (0#2 ++ 112#8 ++ 0xFFFFF#20 ++ 2#2, .bra 0xFFFFF 2),
    (0#2 ++ 128#8 ++ 1#6 ++ 2#3 ++ 3#6 ++ 2#3 ++ 1#2 ++ 2#2, .ld 1 2 3 .w (.acq .dev)),
    (0#2 ++ 160#8 ++ 1#6 ++ 2#3 ++ 3#6 ++ 2#3 ++ 0#2 ++ 0#2, .aadd 1 2 3 .w .plain),
    (0#2 ++ 196083712#28 ++ 2#2, .fence .dev),
    (0#2 ++ 49920#16 ++ 9#4 ++ 33#6 ++ 0#4, .tfill 9 33),
    (0#2 ++ 218112#18 ++ 4095#12, .enter 4095),
    (0#2 ++ 939524096#30, .sret),
    (0#2 ++ 233#8 ++ 0x21B#10 ++ 7#6 ++ 0#6, .ssr 0x21B 7)].all
      (fun (x : Word × Instr) => decide (decodeWord x.1 = .ok ⟨false, false, x.2⟩)) = true := by decide +kernel

end Sys2Proof.Tests
end

namespace Sys2Proof.Machine

/-! ### The canonical form of memory, operation by operation

Every operation of the model that answers a state has one lemma here: from a canonical memory it gives a canonical memory. The lemma
of an operation cites those of the operations it calls, from the byte upwards. Operations that never write memory have the stronger `_mem`. -/

variable {s t : State} {m : MemSt}

/-- Only the bytes matter. -/
theorem inv_of_mem (e : t.mem = s.mem) (h : s.Inv) : t.Inv := by unfold State.Inv; rwa [e]
theorem inv_of_cells (e : t.mem.cells = s.mem.cells) (h : s.Inv) : t.Inv := wf_of_cells _ _ h e

theorem inv_of_eq {α : Type} {r : State × α} {u : State} {a : α} (e : r = (u, a)) (h : r.1.Inv) : u.Inv := by rw [e] at h; exact h

theorem foldl_inv {α : Type} {f : State → α → State} (hf : ∀ s x, s.Inv → (f s x).Inv) (l : List α) (h : s.Inv) :
    (l.foldl f s).Inv :=
  List.foldlRecOn l f h (fun s h x _ => hf s x h)
theorem foldl_inv_fst {α β : Type} {f : State × β → α → State × β} (hf : ∀ r x, r.1.Inv → (f r x).1.Inv) (l : List α) {b : β}
    (h : s.Inv) : (l.foldl f (s, b)).1.Inv :=
  List.foldlRecOn l f (motive := fun r : State × β => r.1.Inv) h (fun r h x _ => hf r x h)
theorem foldl_wf {α : Type} {f : MemSt → α → MemSt} (hf : ∀ m x, m.wf = true → (f m x).wf = true) (l : List α)
    (h : m.wf = true) : (l.foldl f m).wf = true :=
  List.foldlRecOn l f h (fun m h x _ => hf m x h)
theorem foldl_mem {α : Type} {f : State → α → State} (hf : ∀ s x, (f s x).mem = s.mem) (l : List α) : (l.foldl f s).mem = s.mem :=
  List.foldlRecOn l f (motive := fun t => t.mem = s.mem) rfl (fun t h x _ => (hf t x).trans h)
theorem foldl_snd_mem {α β : Type} {f : β × State → α → β × State} (hf : ∀ r x, (f r x).2.mem = r.2.mem) (l : List α) {b : β} :
    (l.foldl f (b, s)).2.mem = s.mem :=
  List.foldlRecOn l f (motive := fun r : β × State => r.2.mem = s.mem) rfl (fun r h x _ => (hf r x).trans h)

/-! #### Counters and records: memory is not touched -/

theorem view_mem (s : State) (core ev n k t : Nat) : (s.view core ev n k t).mem = s.mem := by
  unfold State.view; grind [modTeam_mem]
theorem count_mem (s : State) (core f ev n : Nat) (team : Option (Nat × Nat)) : (s.count core f ev n team).mem = s.mem := by
  unfold State.count; grind [view_mem, modCore_mem]
theorem bump_mem (s : State) (h ev n : Nat) : (s.bump h ev n).mem = s.mem := count_mem ..
theorem addCharge_mem (s : State) (core f q : Nat) : (addCharge s core f q).mem = s.mem := rfl
theorem countCharge_mem (s : State) (core f q k t : Nat) : (countCharge s core f q k t).mem = s.mem := count_mem ..
theorem postRec_mem (s : State) (core : Nat) (r : FaultRec) : (postRec s core r).mem = s.mem := rfl
theorem postPage_mem (s : State) (core : Nat) (r : FaultRec) : (postPage s core r).mem = s.mem := rfl
theorem postMalformed_mem (s : State) (x : Ctx) (wr : Bool) (va level e : Nat) : (postMalformed s x wr va level e).mem = s.mem := by
  unfold postMalformed; grind [postRec_mem]
theorem raceRecord_mem (s : State) (x : Ctx) (wr : Bool) (va pa : Nat) (w : Writer) : (raceRecord s x wr va pa w).mem = s.mem := by
  unfold raceRecord; grind [postRec_mem]

/-! #### Translation (R353 to R356): only A and D are written -/

theorem setAD_wf (epa e : Nat) (a d : Bool) (h : m.wf = true) : (setAD m epa e a d).2.wf = true := by
  unfold setAD; grind [wf_setNum]
theorem walkView_mem (s : State) (core tag va : Nat) : (walkView s core tag va).1.mem = s.mem :=
  List.foldlRecOn (motive := fun r : State × MemSt => r.1.mem = s.mem) _ _ rfl (fun _ h _ _ => h)
theorem walkPick_mem (s : State) (m : MemSt) (tag va : Nat) : (walkPick s m tag va).1.mem = s.mem := by
  unfold walkPick; grind [pick_mem]
theorem cacheNodes_mem (s : State) (core tag va : Nat) (m : MemSt) : (cacheNodes s core tag va m).mem = s.mem := rfl
theorem walkFresh_inv (x : Ctx) (va : Nat) (k : AccKind) (h : s.Inv) : (walkFresh s x va k).1.Inv := by
  unfold walkFresh
  grind [walkView_mem, walkPick_mem, cacheNodes_mem, postMalformed_mem, State.Inv, setAD_wf, touch_mem, modCore_mem]
theorem translate_inv (x : Ctx) (va : Nat) (k : AccKind) (h : s.Inv) : (translate s x va k).1.Inv := by
  unfold translate
  grind [walkFresh_inv, State.Inv, setAD_wf, touch_mem, modCore_mem, pick_mem, choose_mem]
theorem translateB_inv (x : Ctx) (n : Nat) (b : BReg) (va : Nat) (k : AccKind) (h : s.Inv) : (translateB s x n b va k).1.Inv := by
  unfold translateB
  grind [translate_inv, walkFresh_inv, State.Inv, setAD_wf, touch_mem, modG_mem]

/-! #### The journal and reports of errors (R385, R431) -/

theorem postJournal_inv (kind func status : Nat) (body : List Byte) (h : s.Inv) : (postJournal s kind func status body).Inv := by
  have hb (a : Nat) (l : List Byte) : (s.setBytes a l).Inv := wf_setBytes _ _ _ h
  unfold postJournal countClass; grind [State.Inv]
theorem rasReport_inv (source sev code : Nat) (wr : Bool) (pa va pc : Nat) (x : Accessor) (h : s.Inv) :
    (rasReport s source sev code wr pa va pc x).Inv := postJournal_inv _ _ _ _ h
theorem reportErrors_inv (x : Accessor) (wr : Bool) (pc : PC) (told : List Nat) (as : List LaneAcc) (h : s.Inv) :
    (reportErrors s x wr pc told as).1.Inv :=
  foldl_inv_fst (fun r a hr => by grind [rasReport_inv]) as h

/-! #### Sectors, stores on their way, atomics -/

theorem poisonSector_wf (pa : Nat) (t : Word) (h : m.wf = true) : (m.poisonSector pa t).wf = true :=
  wf_setBound _ _ _ (wf_setBytes _ _ _ h)
theorem applySector_wf (m : MemSt) (w : SectorW) (h : m.wf = true) : (applySector m w).wf = true := by
  have hput : (w.bytes.foldl (fun m b => m.setByte (w.pa + b.1) b.2) m).wf = true := foldl_wf (fun m b h => wf_setByte m _ _ h) _ h
  unfold applySector; grind [wf_setBound, poisonSector_wf]
theorem xa128Add_wf (m : MemSt) (pa : Nat) (isInt : Bool) (x : VCell) (h : m.wf = true) : (xa128Add m pa isInt x).wf = true := by
  unfold xa128Add; dsimp only; split <;> exact wf_setBytes _ _ _ h
theorem atomLane_wf (i : Instr) (a : LaneAcc) (c : List VCell) (h : m.wf = true) : (atomLane m i a c).1.wf = true := by
  unfold atomLane; grind [wf_setNum, wf_setBound, xa128Add_wf]
theorem modEntry_mem (s : State) (h id : Nat) (f : Entry → Entry) : (modEntry s h id f).mem = s.mem := rfl
theorem putLimited_mem {α : Type} (s : State) (limit : Nat) (t : List (Nat × α)) (k : Nat) (v : α) :
    (putLimited s limit t k v).1.mem = s.mem := by unfold putLimited; grind [pick_mem]
theorem dropL1_mem (s : State) (core : Nat) (ks : List Nat) : (dropL1 s core ks).mem = s.mem := rfl
theorem dropL1All_mem (s : State) (ks : List Nat) : (dropL1All s ks).mem = s.mem := rfl
theorem readL1_mem (s : State) (core : Nat) (a : LaneAcc) (n : Nat) : (readL1 s core a n).1.mem = s.mem := by
  unfold readL1; grind [choose_mem, putLimited_mem, modCore_mem]
theorem tokenLane_mem (s : State) (h id l : Nat) (t : Word) : (tokenLane s h id l t).mem = s.mem := rfl
theorem performLoad_mem (s : State) (h : Nat) (e : Entry) (l : Nat) : (performLoad s h e l).mem = s.mem := by
  unfold performLoad; grind [tokenLane_mem, bump_mem, readL1_mem, modEntry_mem]
theorem raceNote_wf (pa : Nat) (w : Writer) (sc : Option Scope) (a : Bool) (asc : Option Scope) (h : m.wf = true) :
    (raceNote m pa w sc a asc).wf = true := h
theorem performAtom_inv (h : Nat) (e : Entry) (l : Nat) (hs : s.Inv) : (performAtom s h e l).Inv := by
  unfold performAtom; grind [atomLane_wf, raceNote_wf, bump_mem, dropL1_mem, modEntry_mem, State.Inv, MemSt.wf]
theorem performLane_inv (h id l : Nat) (hs : s.Inv) : (performLane s h id l).Inv := by
  unfold performLane; grind [performAtom_inv, performLoad_mem, State.Inv]
theorem nextLocation_mem (s : State) (acc : List (Nat × LaneAcc)) (a : Nat × LaneAcc) : (nextLocation s acc a).1.mem = s.mem := by
  unfold nextLocation; grind [pick_mem]
theorem tellEntry_inv (h : Nat) (e : Entry) (as : List LaneAcc) (hs : s.Inv) : (tellEntry s h e as).Inv := by
  unfold tellEntry; grind [reportErrors_inv, modEntry_mem, State.Inv]
theorem performAt_inv (h : Nat) (e : Entry) (pa : Nat) (hs : s.Inv) : (performAt s h e pa).Inv :=
  foldl_inv (fun _ _ => performLane_inv _ _ _) _ (tellEntry_inv _ _ _ hs)
theorem performLocation_inv (h id : Nat) (hs : s.Inv) : (performLocation s h id).Inv := by
  unfold performLocation; grind [nextLocation_mem, performAt_inv, State.Inv]
theorem countL1_mem (s : State) (h : Nat) (e : Entry) : (countL1 s h e).mem = s.mem := (bump_mem ..).trans (bump_mem ..)
theorem performAcc_inv (h id : Nat) (hs : s.Inv) : (performAcc s h id).Inv := by
  unfold performAcc
  split
  · exact hs
  · next e _ =>
    have ht : (touch s (entryBanks s h e)).Inv := inv_of_mem (touch_mem ..) hs
    split
    · exact hs
    · dsimp only
      split
      · exact foldl_inv (fun _ _ => performLocation_inv _ _) _ ht
      · exact foldl_inv (fun _ _ => performLane_inv _ _ _) _ (inv_of_mem (countL1_mem ..) (tellEntry_inv _ _ _ ht))
theorem tellPend_inv (p : Pend) (as : List LaneAcc) (h : s.Inv) : (tellPend s p as).Inv := by
  unfold tellPend State.upMem; grind [reportErrors_inv, State.Inv, MemSt.wf]
theorem applyPend_inv (id : Nat) (h : s.Inv) : (applyPend s id).Inv := by
  unfold applyPend
  split
  · exact h
  · next p _ =>
    have hs (n : List Pend) (c : Nat) (b ks : List Nat) : ({ dropL1 (touch s b) c ks with mem := { s.mem with pend := n } } : State).Inv := h
    dsimp only
    split
    · exact tellPend_inv _ _ (foldl_wf applySector_wf _ (hs ..))
    · split
      · exact tellPend_inv _ _ (hs ..)
      · exact foldl_wf (fun m x => xa128Add_wf m _ _ _) _ (hs ..)
theorem pushPend_inv (h n : Nat) (pc : PC) (va : Nat) (m : Mask) (k : PendKind) (hs : s.Inv) : (pushPend s h n pc va m k).Inv := hs
theorem tearStore_inv (p : Pend) (h : s.Inv) : (tearStore s p).Inv := by
  unfold tearStore
  split
  · exact foldl_wf applySector_wf _ h
  · exact h
theorem performOp_inv (h : Nat) (o : Nat × Bool × List Nat) (hs : s.Inv) : (performOp s h o).Inv := by
  unfold performOp; grind [performAcc_inv, applyPend_inv]
theorem forceBefore_inv (h id : Nat) (ks : List Nat) (hs : s.Inv) : (forceBefore s h id ks).Inv :=
  foldl_inv (fun _ _ => performOp_inv _ _) _ hs
theorem tearLoad_inv (h : Nat) (e : Entry) (hs : s.Inv) : (tearLoad s h e).Inv := by
  unfold tearLoad
  split
  · exact foldl_inv (fun s a hs => by grind [choose_mem, forceBefore_inv, readL1_mem, modEntry_mem, State.Inv]) _ hs
  · exact hs
theorem performEntry_inv (h id : Nat) (hs : s.Inv) : (performEntry s h id).Inv := by
  unfold performEntry; grind [performAcc_inv, forceBefore_inv]
theorem storeHome_inv (id : Nat) (h : s.Inv) : (storeHome s id).Inv := by
  unfold storeHome; grind [applyPend_inv, forceBefore_inv]
theorem acquire_mem (s : State) (h : Nat) (sc : Scope) : (acquire s h sc).mem = s.mem := by unfold acquire; grind [modCore_mem]

end Sys2Proof.Machine

namespace Sys2Proof.Machine

variable {s t : State} {m : MemSt}

theorem setNum_inv (a n x : Nat) (h : s.Inv) : (s.setNum a n x).Inv := wf_setNum _ _ _ _ h
theorem setBytes_inv (a : Nat) (l : List Byte) (h : s.Inv) : (s.setBytes a l).Inv := wf_setBytes _ _ _ h
theorem touch_inv (bs : List Nat) (h : s.Inv) : (touch s bs).Inv := inv_of_mem (touch_mem ..) h
theorem modG_inv (k : Nat) (f : Group → Group) (h : s.Inv) : (s.modG k f).Inv := h
theorem bump_inv (k ev n : Nat) (h : s.Inv) : (s.bump k ev n).Inv := inv_of_mem (bump_mem ..) h

/-! #### Barriers, lanes that pass to DONE -/

theorem writeBar_inv (pa : Nat) (b : BarObj) (h : s.Inv) : (writeBar s pa b).Inv := setNum_inv _ _ _ h
theorem releaseBar_mem (s : State) (k t : Nat) (i : BitVec 3) (phase : Nat) : (releaseBar s k t i phase).mem = s.mem := by
  unfold releaseBar; exact foldl_mem (fun s h => acquire_mem (s.modG h _) h .team) _
theorem arriveLane_inv (h : Nat) (i : BitVec 3) (l : Nat) (hs : s.Inv) : (arriveLane s h i l).Inv := by
  unfold arriveLane; grind [releaseBar_mem, writeBar_inv, modG_inv, touch_inv, State.Inv]
theorem dropLane_inv (h : Nat) (i : BitVec 3) (l : Nat) (hs : s.Inv) : (dropLane s h i l).Inv := by
  unfold dropLane; grind [releaseBar_mem, writeBar_inv, modG_inv, touch_inv, State.Inv]
theorem dropLanes_inv (h : Nat) (ls : List Nat) (hs : s.Inv) : (dropLanes s h ls).Inv :=
  foldl_inv (fun _ _ hs => foldl_inv (fun _ _ => dropLane_inv _ _ _) _ hs) _ hs
theorem lanesDone_inv (h : Nat) (m : Mask) (hs : s.Inv) : (lanesDone s h m).Inv := by
  unfold lanesDone; grind [dropLanes_inv, modG_inv]

/-! #### Engines and firmware: translation, deques, bound cells -/

theorem engineAccess_inv (tag va : Nat) (k : AccKind) (h : s.Inv) : (engineAccess s tag va k).1.Inv := by
  unfold engineAccess; grind [translate_inv]
theorem engineTranslate_inv (tag va : Nat) (k : AccKind) (h : s.Inv) : (engineTranslate s tag va k).1.Inv := by
  unfold engineTranslate; grind [engineAccess_inv]
theorem exactStore_wf (pa : Nat) (attr : BitVec 16) (bs : List Byte) (h : m.wf = true) : (exactStore m pa attr bs).wf = true :=
  applySector_wf _ _ h
theorem setDeque_mem (s : State) (k core : Nat) (items : List (DWord × DqPlace)) : (setDeque s k core items).mem = s.mem := rfl
theorem freeSlot_inv (k : Nat) (h : s.Inv) : (freeSlot s k).1.Inv := by
  unfold freeSlot; grind [engineTranslate_inv, modLaunch_mem, State.Inv]
theorem evict_inv (fuel core pusher : Nat) (ex : List Nat) (h : s.Inv) : (evict fuel s core pusher ex).1.Inv := by
  induction fuel generalizing s ex with
  | zero => exact h
  | succ fuel ih => unfold evict; grind [freeSlot_inv, setNum_inv, setDeque_mem, State.Inv]
theorem placeItem_inv (k core : Nat) (h : s.Inv) : (placeItem s k core).1.Inv := by unfold placeItem; grind [evict_inv]
theorem pushItem_inv (k core : Nat) (x : DWord) (h : s.Inv) : (pushItem s k core x).1.Inv := by
  unfold pushItem; grind [placeItem_inv, touch_inv, setDeque_mem, State.Inv]
theorem popItem_mem (s : State) (k core : Nat) : (popItem s k core).1.mem = s.mem := by unfold popItem; grind [touch_mem, setDeque_mem]
theorem stealItem_mem (s : State) (k core : Nat) : (stealItem s k core).1.mem = s.mem := by
  unfold stealItem; grind [touch_mem, setDeque_mem]
theorem takeItem_mem (s : State) (k core : Nat) : (takeItem s k core).1.mem = s.mem := by unfold takeItem; grind [popItem_mem, stealItem_mem]
theorem readWatch_mem (s : State) (core pa : Nat) : (readWatch s core pa).1.mem = s.mem := touch_mem ..
theorem applyMin_inv (core pa : Nat) (dev : Bool) (x : Nat) (h : s.Inv) : (applyMin s core pa dev x).Inv := by
  unfold applyMin State.upMem; grind [touch_inv, setNum_inv, State.Inv, MemSt.wf]
theorem updateWatch_inv (core pa : Nat) (h : s.Inv) : (updateWatch s core pa).Inv := by
  unfold updateWatch State.upMem; grind [modCore_mem, State.Inv, MemSt.wf]

/-! #### Operations performed after issue, drains and releases -/

theorem wallLane_mem (h : Nat) (e : Entry) (s : State) (l : Nat) : (wallLane h e s l).mem = s.mem := by
  unfold wallLane; grind [modEntry_mem]
theorem wallsBefore_mem (s : State) (h id : Nat) : (wallsBefore s h id).mem = s.mem :=
  foldl_mem (fun _ _ => foldl_mem (fun _ _ => wallLane_mem ..) _) _
theorem takeLane_mem (h : Nat) (e : Entry) (s : State) (l : Nat) : (takeLane h e s l).mem = s.mem := by
  unfold takeLane; grind [popItem_mem, stealItem_mem, bump_mem, modEntry_mem]
theorem takesBefore_mem (s : State) (h id : Nat) (t : Nat → Bool) : (takesBefore s h id t).mem = s.mem :=
  foldl_mem (fun _ _ => foldl_mem (fun _ _ => takeLane_mem ..) _) _
theorem readCell_inv (h : Nat) (e : Entry) (hs : s.Inv) : (readCell s h e).1.Inv := by
  unfold readCell; grind [forceBefore_inv, tellEntry_inv, readWatch_mem, State.Inv]
theorem performLateLane_inv (h : Nat) (e : Entry) (l : Nat) (hs : s.Inv) : (performLateLane h e s l).Inv := by
  unfold performLateLane; grind [takeLane_mem, takesBefore_mem, readCell_inv, modEntry_mem, wallLane_mem, wallsBefore_mem, State.Inv]
theorem perform_inv (h id : Nat) (hs : s.Inv) : (perform s h id).Inv := by
  unfold perform
  split
  · exact hs
  · split
    · exact foldl_inv (fun _ _ => performLateLane_inv _ _ _) _ hs
    · exact performEntry_inv _ _ hs
theorem drainGroup_inv (h : Nat) (hs : s.Inv) : (drainGroup s h).Inv :=
  foldl_inv (fun s o hs => by split; exacts [perform_inv _ _ hs, applyPend_inv _ hs]) _ hs
theorem drainCore_inv (core : Nat) (h : s.Inv) : (drainCore s core).Inv := foldl_inv (fun _ _ => storeHome_inv _) _ h
theorem release_inv (h : Nat) (sc : Scope) (hs : s.Inv) : (release s h sc).Inv := drainCore_inv _ (drainGroup_inv _ hs)

/-! #### Core dumps and kills -/

theorem freeLocks_inv (h : Nat) (hs : s.Inv) : (freeLocks s h).Inv := foldl_inv (fun s c hs => by grind [setNum_inv]) _ hs
theorem killNow_inv (h : Nat) (atEpc : Bool) (hs : s.Inv) : (killNow s h atEpc).Inv :=
  freeLocks_inv _ (lanesDone_inv _ _ (modG_inv _ _ (foldl_inv (fun _ _ => performEntry_inv _ _) _ hs)))
theorem killGroup_inv (h : Nat) (atEpc : Bool) (hs : s.Inv) : (killGroup s h atEpc).Inv := by
  unfold killGroup; grind [killNow_inv, modG_inv]
theorem killDue_inv (h : Nat) (hs : s.Inv) : (killDue s h).Inv := by unfold killDue; grind [killNow_inv]
theorem dumpTeam_inv (l : Launch) (t : Team) (cause : Nat) (payload : DWord) (self : Option Nat) (h : s.Inv) :
    (dumpTeam s l t cause payload self).Inv := by
  have hb (a : Nat) (l : List Byte) : (s.setBytes a l).Inv := setBytes_inv _ _ h
  unfold dumpTeam; grind [State.Inv]
theorem killTeam_inv (l : Launch) (t : Team) (cause : Nat) (payload : DWord) (dump : Bool) (self : Option Nat) (h : s.Inv) :
    (killTeam s l t cause payload dump self).Inv :=
  foldl_inv (fun _ _ => killGroup_inv _ _) _ (by split; exacts [dumpTeam_inv _ _ _ _ _ h, h])
theorem killLaunch_inv (key cause team : Nat) (tpc : PC) (payload : DWord) (dump : Bool) (self : Option Nat) (restFail : Bool)
    (h : s.Inv) : (killLaunch s key cause team tpc payload dump self restFail).Inv := by
  have hf {s : State} (l : Launch) (ts : List Team) (h : s.Inv) :
      (ts.foldl (fun s t => killTeam s l t cause payload dump self) s).Inv := foldl_inv (fun _ _ => killTeam_inv _ _ _ _ _ _) _ h
  unfold killLaunch
  split
  · exact h
  · dsimp only
    split
    · exact h
    · exact hf _ _ (by split; exacts [postJournal_inv _ _ _ _ h, h])

end Sys2Proof.Machine

namespace Sys2Proof.Machine

variable {s t : State} {m : MemSt}

/-! #### Late results, capture, trap entry -/

theorem writeResults_mem (s : State) (h : Nat) (e : Entry) (m : Mask) : (writeResults s h e m).mem = s.mem := by
  unfold writeResults
  split
  · generalize hr : List.foldl _ ([], s) _ = r
    have hm : r.2.mem = s.mem := by rw [← hr]; exact foldl_snd_mem (fun r k => by grind [choose_mem]) _
    exact hm
  · exact foldl_mem (fun s j => by grind [choose_mem, modG_mem]) _
theorem writeResults_inv (h : Nat) (e : Entry) (m : Mask) (hs : s.Inv) : (writeResults s h e m).Inv := inv_of_mem (writeResults_mem ..) hs
theorem returnEntry_inv (h id : Nat) (hs : s.Inv) : (returnEntry s h id).Inv := by
  unfold returnEntry; grind [writeResults_inv, modG_inv]
theorem finishEntry_inv (h id : Nat) (hs : s.Inv) : (finishEntry s h id).Inv := by
  unfold finishEntry; grind [perform_inv, returnEntry_inv]
theorem finishAll_inv (h : Nat) (hs : s.Inv) : (finishAll s h).Inv := foldl_inv (fun _ _ => finishEntry_inv _ _) _ hs
theorem addEntry_mem (s : State) (h : Nat) (e : Entry) : (addEntry s h e).mem = s.mem := rfl
theorem captureEntry_mem (s : State) (h : Nat) (e : Entry) : (captureEntry s h e).1.mem = s.mem := by
  unfold captureEntry; grind [writeResults_mem]
theorem capture_mem (s : State) (h : Nat) (last : Option Nat) : (capture s h last).mem = s.mem :=
  List.foldlRecOn (motive := fun r : State × List Entry => r.1.mem = s.mem) _ _ rfl (fun _ hr _ _ => (captureEntry_mem ..).trans hr)
theorem doubleAt_inv (h cause : Nat) (pc : PC) (hs : s.Inv) : (doubleAt s h cause pc).Inv := killLaunch_inv _ _ _ _ _ _ _ _ hs
theorem enterAt_mem (v : PC) (s : State) (h cause payload slot : Nat) (forced : Bool) (tmask pcm : Mask) (tpc : PC) (epc : Option PC)
    (last : Option Nat) : (enterAt v s h cause payload slot forced tmask pcm tpc epc last).mem = s.mem := capture_mem ..
theorem enterSupervisor_inv (h cause payload slot : Nat) (forced : Bool) (tmask pcm : Mask) (tpc : PC) (epc : Option PC)
    (last : Option Nat) (hs : s.Inv) : (enterSupervisor s h cause payload slot forced tmask pcm tpc epc last).Inv := by
  unfold enterSupervisor; grind [enterAt_mem, doubleAt_inv, State.Inv]
theorem unissue_mem (s : State) : (unissue s).mem = s.mem := rfl
theorem doubleTrap_inv (cause : Nat) (h : s.Inv) : (doubleTrap s cause).Inv := doubleAt_inv _ _ _ h
theorem trap_inv (cause payload : Nat) (m : Mask) (own : Bool) (h : s.Inv) : (trap s cause payload m own).Inv := by
  unfold trap; grind [doubleTrap_inv, enterSupervisor_inv, unissue_mem, State.Inv]
theorem illegal_inv (h : s.Inv) : (illegal s).Inv := trap_inv _ _ _ _ h
theorem mispc_inv (ts : List (Nat × PC)) (h : s.Inv) : (mispc s ts).Inv := trap_inv _ _ _ _ h
theorem debugTrap_inv (hit : Nat) (m : Mask) (h : s.Inv) : (debugTrap s hit m).Inv := trap_inv _ _ _ _ h
theorem stall_inv (why : Nat) (h : s.Inv) : (stall s why).Inv := h

/-! #### Deferred faults, issue of a word -/

theorem deliver_inv (cause payload s62 : Nat) (h : s.Inv) : (deliver s cause payload s62).Inv := by
  unfold deliver
  split
  · exact mispc_inv _ h
  · exact bump_inv _ _ _ h
theorem deferredTrap_inv (cause payload : Nat) (m : Mask) (s62 : Nat) (h : s.Inv) : (deferredTrap s cause payload m s62).Inv := by
  unfold deferredTrap; grind [deliver_inv, trap_inv, bump_inv]
theorem deferred_inv (fs : List LaneFail) (h : s.Inv) : (deferred s fs).Inv := deferredTrap_inv _ _ _ _ h
theorem markContested_mem (s : State) (i : Instr) (n : Nat) : (markContested s i n).mem = s.mem := by
  unfold markContested; grind [upG_mem]
theorem settle_inv {r : State} (i : Instr) (h : r.Inv) : (settle s i r).Inv := by
  unfold settle; grind [markContested_mem, State.Inv]

/-- Where an outcome is a next state, its memory is canonical. -/
def Canonical (r : Res) : Prop := ∀ t, r = .next t → t.Inv

theorem canonical_next (h : s.Inv) : Canonical (.next s) := fun _ e => (Host.Outcome.next.inj e) ▸ h

/-- A word that issues keeps the form where its effect does. -/
theorem issue_canonical (i : Instr) {body : State → State} (hb : (body s).Inv) (h : s.Inv) : Canonical (issue i s body) := by
  unfold issue
  split_ifs
  · exact canonical_next (trap_inv _ _ _ _ h)
  · exact canonical_next (illegal_inv h)
  · split
    · split
      · exact canonical_next (settle_inv _ hb)
      · dsimp only
        exact canonical_next (by split; exacts [hb, trap_inv _ _ _ _ h])
    · exact canonical_next (deferred_inv _ h)
/-- A word whose effect leaves memory alone. -/
theorem issue_canonical_of_mem (i : Instr) {body : State → State} (hb : (body s).mem = s.mem) (h : s.Inv) :
    Canonical (issue i s body) := issue_canonical i (inv_of_mem hb h) h

/-! #### PAGE, stops at a region edge, return from a trap, rings -/

theorem pageLoad_inv (m : Mask) (n id : Nat) (wpc : PC) (h : s.Inv) : (pageLoad s m n id wpc).Inv := by
  unfold pageLoad; grind [enterSupervisor_inv, bump_inv, perform_inv]
theorem askPage_inv (m : Mask) (n id : Nat) (h : s.Inv) : (askPage s m n id).Inv := by
  have hp (c : Cur) : (pageLoad { s with cur := c } m n id s.cur.wpc).Inv := pageLoad_inv _ _ _ _ h
  unfold askPage; grind [State.Inv]
theorem stopAtEdge_inv (h : Nat) (hs : s.Inv) : (stopAtEdge s h).Inv := by
  unfold stopAtEdge endStop; grind [enterSupervisor_inv, modG_inv]
theorem regionEdge_inv (h : s.Inv) : (regionEdge s).Inv := by
  have hp (c : Cur) : (stopAtEdge { s with cur := c } s.cur.h).Inv := stopAtEdge_inv _ h
  unfold regionEdge; grind [State.Inv]
theorem reinject_mem (s : State) (h : Nat) (e : Entry) : (reinject s h e).mem = s.mem := by unfold reinject; grind [addEntry_mem]
theorem releaseLate_mem (s : State) (h : Nat) : (releaseLate s h).mem = s.mem :=
  foldl_mem (fun s i => by grind [acquire_mem, modG_mem]) _
theorem takePending_inv (h : Nat) (hs : s.Inv) : (takePending s h).Inv := by
  have he (n c : Nat) (f : Bool) (p : PC) : (enterSupervisor { s with free := n } h c 0 0 f 0 0 p none none).Inv :=
    enterSupervisor_inv _ _ _ _ _ _ _ _ _ _ hs
  unfold takePending endStop; grind [modG_inv]
theorem returnFromTrap_inv {resume : State → Nat → State} (hr : ∀ s h, s.Inv → (resume s h).Inv) (h : Nat) (hs : s.Inv) :
    (returnFromTrap resume s h).Inv := by
  have hlate {s : State} (hs : s.Inv) : (releaseLate s h).Inv := inv_of_mem (releaseLate_mem ..) hs
  have hre {s : State} (q : List Entry) (hs : s.Inv) : (q.foldl (fun s e => reinject s h e) s).Inv :=
    inv_of_mem (foldl_mem (fun _ _ => reinject_mem ..) _) hs
  unfold returnFromTrap; grind [finishAll_inv, modG_inv, lanesDone_inv, takePending_inv]
theorem ringPut_inv (ring : Option Nat) (size : Nat) (b : List Byte) (h : s.Inv) : (ringPut s ring size b).Inv := by
  unfold ringPut; grind [setNum_inv, setBytes_inv]
theorem traceRegion_inv (h kind : Nat) (pc : PC) (hs : s.Inv) : (traceRegion s h kind pc).Inv := by
  unfold traceRegion; grind [ringPut_inv]

end Sys2Proof.Machine

namespace Sys2Proof.Machine

variable {s t : State} {m : MemSt}

/-! #### Vector, uniform and control instructions

The effect of most of them changes the issuing group alone, so that `issue_canonical_of_mem _ rfl` closes them; those that may trap, or that
choose between several writes, have a lemma each. -/

theorem uniOp_mem (s : State) (d : Reg) (srcs : List Opd) (c : SCell) : (uniOp s d srcs c).mem = s.mem := rfl
theorem uni1_mem (s : State) (d a : Reg) (f : Nat → Nat) (e : Opd → EB) : (uni1 s d a f e).mem = s.mem := rfl
theorem vecOp_mem (s : State) (d : Reg) (f : Nat → LaneOut) : (vecOp s d f).mem = s.mem := rfl
theorem vecOp64_mem (s : State) (d : Reg) (f : Nat → Opd) : (vecOp64 s d f).mem = s.mem := rfl
theorem upG_inv (f : Group → Group) (h : s.Inv) : (s.upG f).Inv := h

theorem execSsel_canonical (d a b : Reg) (n : BitVec 3) (sense : Bool) (h : s.Inv) : Canonical (execSsel d a b n sense s) :=
  issue_canonical_of_mem _ (by grind [uniOp_mem, uni1_mem]) h
theorem execSlane_canonical (d a b : Reg) (sx : Bool) (h : s.Inv) : Canonical (execSlane d a b sx s) :=
  issue_canonical_of_mem _ (by grind [uniOp_mem]) h
theorem execSrsr_canonical (n : BitVec 10) (r : Reg) (h : s.Inv) : Canonical (execSrsr n r s) :=
  issue_canonical _ (by grind [uniOp_mem, illegal_inv, State.Inv]) h
theorem execSwsr_canonical (n : BitVec 10) (r : Reg) (h : s.Inv) : Canonical (execSwsr n r s) :=
  issue_canonical _ (by grind [upG_inv, illegal_inv]) h
theorem execVmad_canonical (d a b : Reg) (wide : Bool) (h : s.Inv) : Canonical (execVmad d a b wide s) :=
  issue_canonical_of_mem _ (by dsimp only; split <;> rfl) h
theorem execFclrb_canonical (d a : Reg) (h : s.Inv) : Canonical (execFclrb d a s) :=
  issue_canonical _ (by grind [vecOp_mem, illegal_inv, State.Inv]) h
theorem execPcode_canonical (d a : Reg) (m : PcMode) (h : s.Inv) : Canonical (execPcode d a m s) :=
  issue_canonical_of_mem _ (by cases m <;> rfl) h

theorem transfer_inv (ts : List (Nat × PC)) (h : s.Inv) : (transfer s ts).Inv := by unfold transfer; grind [upG_inv, mispc_inv]
theorem transferAll_inv (q : PC) (h : s.Inv) : (transferAll s q).Inv := transfer_inv _ h
theorem serveItems_mem (s : State) (k core : Nat) (ls : List Nat) : (serveItems s k core ls).1.mem = s.mem := by
  induction ls generalizing s with
  | nil => rfl
  | cons l t ih => unfold serveItems; grind [takeItem_mem]
theorem execCall_canonical (o : BitVec 20) (s' : BitVec 2) (h : s.Inv) : Canonical (execCall o s' s) :=
  issue_canonical _ (by grind [transferAll_inv, upG_inv]) h
theorem execRet_canonical (r : Reg) (h : s.Inv) : Canonical (execRet r s) :=
  issue_canonical _ (by grind [transferAll_inv, transfer_inv, upG_inv]) h
theorem execRejoin_canonical (k : BitVec 3) (h : s.Inv) : Canonical (execRejoin k s) :=
  issue_canonical _ (by grind [trap_inv, upG_inv]) h
theorem execItem_canonical (k : BitVec 3) (r : Reg) (o : BitVec 10) (s' : BitVec 2) (h : s.Inv) : Canonical (execItem k r o s' s) :=
  issue_canonical _ (by
    have hm (core k : Nat) (ls : List Nat) : (serveItems (takesBefore s s.cur.h s.ids (fun _ => true)) k core ls).1.Inv :=
      inv_of_mem ((serveItems_mem ..).trans (takesBefore_mem ..)) h
    grind [transferAll_inv, transfer_inv, upG_inv, bump_inv, addEntry_mem, State.Inv]) h
theorem execYield_canonical (h : s.Inv) : Canonical (execYield s) := issue_canonical _ (by grind [upG_inv]) h

/-! #### Requests: loads, stores, atomics -/

theorem laneAccess_inv (x : Ctx) (via : Option (Nat × BReg)) (k : AccKind) (align va : Nat) (h : s.Inv) :
    (laneAccess s x via k align va).1.Inv := by
  unfold laneAccess; grind [translateB_inv, translate_inv]
theorem postPages_mem (s : State) (core : Nat) (rs : List FaultRec) : (postPages s core rs).mem = s.mem := by
  unfold postPages; exact foldl_mem (fun _ _ => postPage_mem ..) _
theorem postPages_inv (core : Nat) (rs : List FaultRec) (h : s.Inv) : (postPages s core rs).Inv := inv_of_mem (postPages_mem ..) h
theorem keepRecords_inv (t : State) (core : Nat) (h : s.Inv) : (keepRecords s t core).Inv := h
theorem holdLanes_inv (h : Nat) (e : Entry) (m : Mask) (hs : s.Inv) : (holdLanes s h e m).Inv := hs
theorem holdWhole_inv (i : Instr) (done : Mask) (h : s.Inv) : (holdWhole s i done).Inv := bump_inv _ _ _ h
theorem acceptJobs_inv (i : Instr) {note : Mask → State → State} (hn : ∀ m s, s.Inv → (note m s).Inv)
    (js : List (PendKind × Mask × DWord)) (h : s.Inv) : (acceptJobs s i note js).Inv := by
  have hf (m : Mask) (now : List (PendKind × Mask × DWord)) :
      (now.foldl (fun t j => pushPend t t.cur.h s.ids t.cur.wpc j.2.2.toNat j.2.1 j.1) (note m s)).Inv :=
    foldl_inv (fun _ _ h => pushPend_inv _ _ _ _ _ _ h) _ (hn m s h)
  unfold acceptJobs
  dsimp only
  split
  · exact hf _ _
  · exact holdWhole_inv _ _ (hf _ _)
theorem startLane_inv (x : Ctx) (via : Option (Nat × BReg)) (id l : Nat) (r : State × List PageAt) (h : r.1.Inv) :
    (startLane x via id r l).1.Inv := by
  unfold startLane; grind [tokenLane_mem, bump_mem, laneAccess_inv, modEntry_mem, State.Inv]
theorem endStart_inv (x : Ctx) (id : Nat) (rej : Mask) (ps : List PageAt) {page : State → Mask → Nat → State}
    (hp : ∀ s m n, s.Inv → (page s m n).Inv) (h : s.Inv) : (endStart s x id rej ps page).Inv := by
  unfold endStart; grind [acquire_mem, perform_inv, bump_inv, holdLanes_inv, postPages_inv, State.Inv]
theorem loadBody_inv (i : Instr) (n : BitVec 3) (uop : DWord) (off : Option Reg) (h : s.Inv) : (loadBody i n uop off s).Inv := by
  have hf (x : Ctx) (via : Option (Nat × BReg)) (id : Nat) (e : Entry) (acc : List Nat) :
      (acc.foldl (startLane x via id) (addEntry s x.h e, [])).1.Inv := foldl_inv_fst (fun r l => startLane_inv _ _ _ l r) _ h
  have he {t : State} (x : Ctx) (id : Nat) (rej : Mask) (ps : List PageAt) (h : t.Inv) :
      (endStart t x id rej ps (fun s m n => askPage s m n id)).Inv := endStart_inv _ _ _ _ (fun _ _ _ => askPage_inv _ _ _) h
  unfold loadBody; grind [debugTrap_inv, doubleTrap_inv, keepRecords_inv]

theorem translateJobs_inv (x : Ctx) (k : StoreKind) (b : BReg) (js : List MemJob) (h : s.Inv) : (translateJobs x k b s js).1.Inv := by
  induction js generalizing s with
  | nil => exact h
  | cons j t ih =>
    have hl := laneAccess_inv x (some (k.breg.toNat, b)) k.acc k.align j.va h
    unfold translateJobs
    exact ih hl
theorem raceLog_mem (s : State) (x : Ctx) (rs : List (MemJob × LaneAcc)) : (raceLog s x rs).mem = s.mem :=
  List.foldlRecOn (motive := fun r : State × List Nat => r.1.mem = s.mem) _ _ rfl (fun r h a _ => by grind [raceRecord_mem, bump_mem])
/-- Of an answer that is a final state, or a state with a result to go on with. -/
def CanonicalSum {α : Type} (r : State ⊕ (State × α)) : Prop := Sum.elim State.Inv (fun p => p.1.Inv) r

theorem canonicalSum_ite {α : Type} {c : Prop} [Decidable c] {a b : State ⊕ (State × α)} (ha : CanonicalSum a) (hb : CanonicalSum b) :
    CanonicalSum (if c then a else b) := by split; exacts [ha, hb]

theorem checkJobs_inv (i : Instr) (k : StoreKind) (js : List MemJob) (h : s.Inv) : CanonicalSum (checkJobs s i k js) := by
  have ht := translateJobs_inv (issueCtx s) k (s.cur.rd.b k.breg.toNat) js h
  have hu := keepRecords_inv (translateJobs (issueCtx s) k (s.cur.rd.b k.breg.toNat) s js).1 (issueCtx s).core h
  unfold checkJobs
  dsimp only
  split
  · exact deferred_inv _ hu
  · split
    · exact deferredTrap_inv _ _ _ _ hu
    · split
      · exact debugTrap_inv _ _ hu
      · split
        · exact deferredTrap_inv _ _ _ _ hu
        · split
          · split_ifs
            · exact doubleTrap_inv _ hu
            · exact holdWhole_inv _ _ hu
            · exact trap_inv _ _ _ _ (bump_inv _ _ _ (postPages_inv _ _ hu))
          · split
            · exact ht
            · split
              · exact ht
              · exact trap_inv _ _ _ _ (bump_inv _ _ _ hu)
theorem noteRaces_inv (h : Nat) (rel : Option Scope) (atm : Bool) (asc : Option Scope) (as : List (MemJob × LaneAcc)) (hs : s.Inv) :
    (noteRaces s h rel atm asc as).Inv := foldl_inv (fun s a hs => by split; exacts [hs, hs]) _ hs
theorem enterRaces_inv (rel : Option Scope) (atm : Bool) (asc : Option Scope) (as : List (MemJob × LaneAcc)) (m : Mask) (h : s.Inv) :
    (enterRaces rel atm asc as m s).Inv := noteRaces_inv _ _ _ _ _ (inv_of_mem (raceLog_mem ..) h)
theorem writeJobs_inv (i : Instr) (n : Nat) (rel : Option Scope) (as : List (MemJob × LaneAcc)) (h : s.Inv) :
    (writeJobs s i n rel as).Inv := acceptJobs_inv _ (fun _ _ => enterRaces_inv _ _ _ _ _) _ h
theorem releaseOnce_inv (i : Instr) (rel : Option Scope) {k : State → State} (hk : ∀ s, s.Inv → (k s).Inv) (h : s.Inv) :
    (releaseOnce s i rel k).Inv := by
  unfold releaseOnce; grind [release_inv, holdWhole_inv]
theorem storeBody_inv (i : Instr) (k : StoreKind) (n : Nat) (rel : Option Scope) (js : List MemJob) (h : s.Inv) :
    (storeBody i k n rel js s).Inv := by
  have hc := checkJobs_inv i k (newJobs s i js) h
  unfold storeBody
  split
  · next e => rw [e] at hc; exact hc
  · next e => rw [e] at hc; exact releaseOnce_inv _ _ (fun _ => writeJobs_inv _ _ _ _) hc
theorem applyAtomic_inv (i : Instr) (n : BitVec 3) (o : Reg) (data : List Nat) (as : List (MemJob × LaneAcc)) (h : s.Inv) :
    (applyAtomic s i n o data as).Inv := by
  refine releaseOnce_inv _ _ (fun s h => ?_) h
  dsimp only
  split
  · have ha (i : Instr) (js : List (PendKind × Mask × DWord)) (rel asc : Option Scope) :=
      acceptJobs_inv i (fun m _ => enterRaces_inv rel true asc as m) js h
    grind [acquire_mem, drainGroup_inv, State.Inv]
  · grind [raceLog_mem, addEntry_mem, bump_inv, holdLanes_inv, acquire_mem, perform_inv, State.Inv]
theorem atomicBody_inv (i : Instr) (n : BitVec 3) (o : Reg) (ops : Nat → List Opd) (data : List Nat) (h : s.Inv) :
    (atomicBody i n o ops data s).Inv := by
  unfold atomicBody
  dsimp only
  split
  · next e => have hc := e ▸ checkJobs_inv i _ _ h; exact hc
  · next e =>
    have hc := e ▸ checkJobs_inv i _ _ h
    split
    · exact trap_inv _ _ _ _ (keepRecords_inv _ _ h)
    · exact applyAtomic_inv _ _ _ _ _ hc

/-! #### Tile access, base translation -/

theorem execBxlt_canonical (d : Reg) (b : BitVec 3) (h : s.Inv) : Canonical (execBxlt d b s) :=
  issue_canonical _ (translate_inv _ _ _ h) h
theorem tileCheck_inv (as : List Nat) {ok : Team → State} (hok : ∀ t, (ok t).Inv) (h : s.Inv) : (tileCheck s as ok).Inv := by
  unfold tileCheck; grind [illegal_inv, stall_inv]
theorem startTile_inv (t : Team) (h : Nat) (e : Entry) (ls : List Nat) (sb : Opd) (off : Nat → Opd) (n : Nat) (hs : s.Inv) :
    (startTile s t h e ls sb off n).Inv := by
  unfold startTile
  dsimp only
  split
  · exact hs
  · exact bump_inv _ _ _ hs
theorem execLdt_canonical (d a b : Reg) (wd : Width) (h : s.Inv) : Canonical (execLdt d a b wd s) :=
  issue_canonical _ (tileCheck_inv _ (fun _ => startTile_inv _ _ _ _ _ _ _ h) h) h
theorem execStt_canonical (d a b : Reg) (wd : Width) (h : s.Inv) : Canonical (execStt d a b wd s) :=
  issue_canonical _ (tileCheck_inv _ (fun _ => writeJobs_inv _ _ _ _ h) h) h

/-! #### Barriers, deques, bound cells, batches and fences -/

theorem acquire_inv (h : Nat) (sc : Scope) (hs : s.Inv) : (acquire s h sc).Inv := inv_of_mem (acquire_mem ..) hs
theorem withBarrier_inv (i : BitVec 3) {f : Nat → State} (hf : ∀ pa, (f pa).Inv) (h : s.Inv) : (withBarrier s i f).Inv := by
  unfold withBarrier; grind [illegal_inv]
theorem execBari_canonical (a : Reg) (i : BitVec 3) (h : s.Inv) : Canonical (execBari a i s) :=
  issue_canonical _ (withBarrier_inv _ (fun pa => by
    dsimp only
    split
    · exact illegal_inv h
    · exact inv_of_mem (releaseBar_mem ..) (writeBar_inv _ _ (touch_inv _ h))) h) h
theorem waitLane_mem (s : State) (i : BitVec 3) (pa l v : Nat) : (waitLane s i pa l v).mem = s.mem := by
  unfold waitLane; split; exacts [rfl, rfl]
theorem execBarw_canonical (a : Reg) (i : BitVec 3) (h : s.Inv) : Canonical (execBarw a i s) :=
  issue_canonical _ (withBarrier_inv _ (fun _ => acquire_inv _ _
    (inv_of_mem (foldl_mem (fun _ _ => waitLane_mem ..) _) (touch_inv _ h))) h) h
theorem arriveWith_inv (d : Reg) (i : BitVec 3) (pa : Nat) (wait : Bool) (s : State) (l : Nat) (h : s.Inv) :
    (arriveWith d i pa wait s l).Inv := by
  unfold arriveWith; grind [arriveLane_inv, upG_inv, waitLane_mem, State.Inv]
theorem execBaraw_canonical (d : Reg) (i : BitVec 3) (h : s.Inv) : Canonical (execBaraw d i s) :=
  issue_canonical _ (withBarrier_inv _ (fun _ => acquire_inv _ _ (foldl_inv (arriveWith_inv _ _ _ _) _ (release_inv _ _ h))) h) h
theorem execBard_canonical (d : Reg) (i : BitVec 3) (h : s.Inv) : Canonical (execBard d i s) :=
  issue_canonical _ (withBarrier_inv _ (fun _ => foldl_inv (arriveWith_inv _ _ _ _) _ (release_inv _ _ h)) h) h
theorem execBardDrop_canonical (i : BitVec 3) (h : s.Inv) : Canonical (execBardDrop i s) :=
  issue_canonical _ (withBarrier_inv _ (fun _ => foldl_inv (fun _ _ => dropLane_inv _ _ _) _ h) h) h
theorem lossTrap_inv (ls : List (Nat × EB)) (h : s.Inv) : (lossTrap s ls).Inv := deferredTrap_inv _ _ _ _ h
theorem pushLane_inv (p : BitVec 3) (a : Reg) (s : State) (l : Nat) (h : s.Inv) : (pushLane p a s l).Inv := pushItem_inv _ _ _ h
theorem execDqpush_canonical (p : BitVec 3) (a : Reg) (h : s.Inv) : Canonical (execDqpush p a s) := by
  refine issue_canonical _ ?_ h
  split
  · exact foldl_inv (pushLane_inv _ _) _ (inv_of_mem (takesBefore_mem ..) h)
  · exact lossTrap_inv _ h
theorem cellAt_inv (va : Nat) (k : AccKind) (h : s.Inv) : CanonicalSum (cellAt s va k) := by
  have ht := laneAccess_inv (issueCtx s) none k 8 va h
  have hfail (c p : Nat) (m : Mask) (n : Nat) :=
    deferredTrap_inv c p m n (keepRecords_inv (laneAccess s (issueCtx s) none k 8 va).1 (issueCtx s).core h)
  unfold cellAt
  dsimp only
  split
  · exact debugTrap_inv _ _ h
  · split
    · exact hfail _ _ _ _
    · exact hfail _ _ _ _
    · exact canonicalSum_ite ht (hfail _ _ _ _)
theorem minBody_inv (a b : Reg) (dev : Bool) (h : s.Inv) : (minBody a b dev s).Inv := by
  have hc := cellAt_inv (s.os a).v .rw h
  unfold minBody
  split
  · split
    · next e => rw [e] at hc; exact hc
    · next t pa e =>
      have hc : t.Inv := by rw [e] at hc; exact hc
      have hu := reportErrors_inv (whoOf s s.cur.h) true s.cur.wpc [] [⟨pa, (s.os a).v, 0, none⟩]
        (forceBefore_inv t.cur.h t.ids [sectorOf pa] hc)
      exact inv_of_mem (dropL1_mem ..) (foldl_inv (fun _ _ => applyMin_inv _ _ _ _) _ hu)
  · exact lossTrap_inv _ h
theorem execBndrd_canonical (d a : Reg) (h : s.Inv) : Canonical (execBndrd d a s) := by
  have hc := cellAt_inv (s.os a).v .read h
  refine issue_canonical _ ?_ h
  dsimp only
  split
  · next e => rw [e] at hc; exact hc
  · next e => rw [e] at hc; exact hc
theorem execWaitb_canonical (a : Reg) (h : s.Inv) : Canonical (execWaitb a s) :=
  issue_canonical _ (by grind [stall_inv, acquire_inv, illegal_inv, deferredTrap_inv, upG_inv]) h
theorem execFence_canonical (sc : Scope) (h : s.Inv) : Canonical (execFence sc s) :=
  issue_canonical _ (acquire_inv _ _ (release_inv _ _ h)) h

/-! #### Checks, regions, time -/

theorem execPset_canonical (d : Reg) (n : BitVec 3) (sense : Bool) (h : s.Inv) : Canonical (execPset d n sense s) :=
  issue_canonical _ (bump_inv _ _ _ h) h
theorem execEnter_canonical (i : BitVec 12) (h : s.Inv) : Canonical (execEnter i s) :=
  issue_canonical _ (by grind [illegal_inv, regionEdge_inv, traceRegion_inv, upG_inv]) h
theorem execLeave_canonical (i : BitVec 16) (h : s.Inv) : Canonical (execLeave i s) :=
  issue_canonical _ (by grind [illegal_inv, regionEdge_inv, traceRegion_inv, upG_inv]) h
theorem execTimerWait_canonical (t : TimerSel) (h : s.Inv) : Canonical (execTimerWait t s) :=
  issue_canonical_of_mem _ (by unfold settleTimer; grind [upG_mem]) h

end Sys2Proof.Machine

namespace Sys2Proof.Machine

variable {s : State} {m : MemSt}

theorem modCore_inv (c : Nat) (f : Core → Core) (h : s.Inv) : (s.modCore c f).Inv := h
theorem modTeam_inv (k t : Nat) (f : Team → Team) (h : s.Inv) : (s.modTeam k t f).Inv := h
theorem modLaunch_inv (k : Nat) (f : Launch → Launch) (h : s.Inv) : (s.modLaunch k f).Inv := h
theorem reachBanks_inv (bs : List Nat) (h : s.Inv) : (reachBanks s bs).2.Inv := inv_of_mem (reachBanks_mem ..) h
theorem inv_of_reachBanks {u : State} {bs : List Nat} {b : Bool} (e : reachBanks s bs = (b, u)) (h : s.Inv) : u.Inv := by
  have := reachBanks_inv bs h; rwa [e] at this
theorem upMem_inv {f : MemSt → MemSt} (h : (f s.mem).wf = true) : (s.upMem f).Inv := h
theorem pick_inv (k : Nat) (h : s.Inv) : (s.pick k).2.Inv := h
theorem choose_inv (h : s.Inv) : s.choose.2.Inv := h
theorem newId_inv (h : s.Inv) : s.newId.2.Inv := h
theorem addEntry_inv (h : Nat) (e : Entry) (hs : s.Inv) : (addEntry s h e).Inv := hs
theorem modEntry_inv (h id : Nat) (f : Entry → Entry) (hs : s.Inv) : (modEntry s h id f).Inv := hs

/-! #### Engine tasks -/

theorem taskCount_mem (s : State) (t : Task) (ev n : Nat) : (taskCount s t ev n).mem = s.mem := by unfold taskCount; grind [count_mem]
theorem taskCount_inv (t : Task) (ev n : Nat) (h : s.Inv) : (taskCount s t ev n).Inv := inv_of_mem (taskCount_mem ..) h
theorem meetErrors_inv (t : Task) (wr : Bool) (met : List Nat) (as : List LaneAcc) (h : s.Inv) : (meetErrors s t wr met as).1.Inv :=
  reportErrors_inv _ _ _ _ _ (by split; exacts [h, taskCount_inv _ _ _ h])
theorem acceptRead_inv (t : Task) (a : Nat) (h : s.Inv) : (acceptRead s t a).1.Inv := by unfold acceptRead; grind [translate_inv]
theorem tokenSector_inv (t : Task) (c a : Nat) (h : s.Inv) : (tokenSector s t c a).1.Inv := taskCount_inv _ _ _ h
theorem readAccepted_inv (t : Task) (p : LaneAcc) (h : s.Inv) : (readAccepted s t p).1.Inv := by
  unfold readAccepted; grind [tokenSector_inv, taskCount_inv]
theorem readSector_inv (t : Task) (tm : Team) (kind : Bool) (a : Nat) (h : s.Inv) : (readSector s t tm kind a).1.Inv := by
  unfold readSector; grind [acceptRead_inv, tokenSector_inv, readAccepted_inv, touch_inv]
theorem readEach_inv (t : Task) (tm : Team) (kind : Bool) (as : List Nat) (h : s.Inv) : (readEach t tm kind s as).1.Inv := by
  induction as generalizing s with
  | nil => exact h
  | cons a as ih => unfold readEach; exact ih (readSector_inv _ _ _ _ h)
theorem readSectors_inv (t : Task) (tm : Team) (kind : Bool) (met as : List Nat) (h : s.Inv) :
    (readSectors t tm kind met s as).1.Inv := meetErrors_inv _ _ _ _ (readEach_inv _ _ _ _ h)
theorem readRow_inv (t : Task) (tm : Team) (met : List Nat) (d : BitVec 128) (r n : Nat) (h : s.Inv) :
    (readRow s t tm met d r n).1.Inv := readSectors_inv _ _ _ _ _ h
theorem copySector_inv (t : Task) (a c : BitVec 128) (md : CopyMode) (k : Nat × Nat) (x : SecIn) (h : s.Inv) :
    (copySector s t a c md k x).1.Inv := by unfold copySector; grind [translate_inv]
theorem copyRace_inv (t : Task) (r : CopyRes) (h : s.Inv) : (copyRace t s r).1.Inv := by
  unfold copyRace; grind [taskCount_inv, raceRecord_mem, State.Inv]
theorem copyRaces_inv (t : Task) (rs : List CopyRes) (h : s.Inv) : (copyRaces t s rs).1.Inv := by
  induction rs generalizing s with
  | nil => exact h
  | cons r rs ih => unfold copyRaces; exact ih (copyRace_inv _ _ h)
theorem copyMove_inv (t : Task) (tm : Team) (a c : BitVec 128) (md : CopyMode) (o : TaskOut) (h : s.Inv) :
    (copyMove s t tm a c md o).1.Inv := by
  unfold copyMove
  grind [pick_inv, copySector_inv, acceptRead_inv, tokenSector_inv, newId_inv, reachBanks_inv, readAccepted_inv, meetErrors_inv, State.Inv]
theorem scaleTask_inv (t : Task) (tm : Team) (met : List Nat) (form : Nat) (a b c : BitVec 128) (k : Cls) (x : SCell) (h : s.Inv) :
    (scaleTask s t tm met form a b c k x).1.Inv := by
  have hr := readRow_inv t tm met b 0 (dCols b) h
  unfold scaleTask
  dsimp only
  split
  · exact h
  · exact hr
theorem runTask_inv (t : Task) (tm : Team) (met : List Nat) (h : s.Inv) : (runTask s t tm met).1.Inv := by
  unfold runTask; grind [readSectors_inv, scaleTask_inv, State.Inv]
theorem setTasks_inv (f : List Task → List Task) (h : s.Inv) : (setTasks s f).Inv := h
theorem setBank_inv (core half : Nat) (f : ResBank → ResBank) (h : s.Inv) : (setBank s core half f).Inv := h
theorem startTask_inv (id : Nat) (h : s.Inv) : (startTask s id).Inv := by
  unfold startTask
  split
  · exact h
  · next t _ =>
    split
    · exact h
    · split
      · exact h
      · next tm _ =>
        split
        · next e => exact inv_of_reachBanks e h
        · next u e =>
          have hm := meetErrors_inv t false [] (pondReads t tm) (inv_of_reachBanks e h)
          have hr := runTask_inv t tm (meetErrors u t false [] (pondReads t tm)).2 hm
          refine setTasks_inv _ ?_
          split
          · exact modCore_inv _ _ hr
          · exact hr
theorem finishOut_inv (t : Task) (tm : Team) (o : TaskOut) (h : s.Inv) : (finishOut s t tm o).1.Inv := by
  unfold finishOut
  split
  · exact meetErrors_inv t true o.met _ (copyRaces_inv t o.copy h)
  · exact meetErrors_inv _ _ _ _ h
theorem dropTeamL1_inv (tm : Team) (ks : List Nat) (h : s.Inv) : (dropTeamL1 s tm ks).Inv := by
  unfold dropTeamL1; exact foldl_inv (fun s c h => inv_of_mem (dropL1_mem s c ks) h) _ h
theorem endTask_inv (t : Task) (tm : Team) (o : TaskOut) (h : s.Inv) : (endTask s t tm o).Inv := by
  unfold endTask
  split
  next u o e =>
  have hu : u.Inv := inv_of_eq e (finishOut_inv _ _ _ h)
  extract_lets w s1 s2 s3 s4 q s5 s6
  have h1 : s1.Inv := foldl_wf (fun m pa => raceNote_wf pa w none false none) o.races (foldl_wf applySector_wf o.ws hu)
  have h4 : s4.Inv := foldl_inv (fun _ _ => taskCount_inv _ _ _) _ (modG_inv t.h (taskToGroup t o) (dropTeamL1_inv tm _ h1))
  have h5 : s5.Inv := by
    unfold s5; split
    · exact h4
    · exact inv_of_mem (countCharge_mem ..) h4
  have h6 : s6.Inv := by
    unfold s6; split
    · exact setBank_inv _ _ _ h5
    · exact h5
  split
  · exact h6
  · exact h6
theorem finishTask_inv (id : Nat) (h : s.Inv) : (finishTask s id).Inv := by
  unfold finishTask; grind [copyMove_inv, setTasks_inv, reachBanks_inv, endTask_inv]
theorem arrayError_inv (core half : Nat) (h : s.Inv) : (arrayError s core half).Inv := by
  unfold arrayError; grind [pick_inv, taskCount_inv, setTasks_inv, State.Inv]

/-! #### Issue of engine instructions -/

theorem tileDrain_inv (h : s.Inv) : (tileDrain s).Inv :=
  foldl_inv (fun s k h => by split; exacts [drainGroup_inv _ h, forceBefore_inv _ _ _ h]) _ h
theorem issueTask_inv (ok : Team → Bool) (x : TaskShape) (h : s.Inv) : (issueTask s ok x).Inv := by
  unfold issueTask; grind [illegal_inv, stall_inv, tileDrain_inv, setTasks_inv, State.Inv]
theorem execTgive_canonical (e : BitVec 4) (h : s.Inv) : Canonical (execTgive e s) :=
  issue_canonical _ (by grind [illegal_inv, stall_inv, issueTask_inv, modCore_inv]) h
theorem execTtake_canonical (e : BitVec 4) (h : s.Inv) : Canonical (execTtake e s) :=
  issue_canonical _ (by grind [issueTask_inv, setBank_inv]) h
theorem execTdesc_canonical (e : BitVec 4) (v : Reg) (h : s.Inv) : Canonical (execTdesc e v s) :=
  issue_canonical _ (by grind [illegal_inv, upG_inv]) h
theorem execTsetd_canonical (e : BitVec 4) (v : Reg) (f : TField) (h : s.Inv) : Canonical (execTsetd e v f s) :=
  issue_canonical _ (by grind [illegal_inv, upG_inv]) h

/-! #### Operations performed again -/

theorem pageResume_inv (h : Nat) (e : Entry) (slot : Nat) (m : Mask) (n : Nat) (hs : s.Inv) : (pageResume h e slot s m n).Inv := by
  unfold pageResume; grind [doubleAt_inv, enterSupervisor_inv, bump_inv, perform_inv]
theorem resumeAccess_inv (h : Nat) (e : Entry) (slot : Nat) (hs : s.Inv) : (resumeAccess s h e slot).Inv := by
  have hl (ls : List Nat) (x : Ctx) : (ls.foldl (startLane x none e.id) (s, [])).1.Inv :=
    foldl_inv_fst (fun r l => startLane_inv _ _ _ l r) _ hs
  have he {t : State} (ht : t.Inv) (x : Ctx) (id : Nat) (rej : Mask) (ps : List PageAt) :
      (endStart t x id rej ps (pageResume h e slot)).Inv := endStart_inv _ _ _ _ (fun _ _ _ => pageResume_inv _ _ _ _ _) ht
  unfold resumeAccess; grind [modEntry_inv]
theorem resumeTile_inv (h : Nat) (e : Entry) (hs : s.Inv) : (resumeTile s h e).Inv := by
  unfold resumeTile; grind [holdLanes_inv, startTile_inv]
theorem resumeCell_inv (h : Nat) (e : Entry) (hs : s.Inv) : (resumeCell s h e).Inv := by
  unfold resumeCell; grind [laneAccess_inv, modEntry_inv, bump_inv]
theorem resumeEntry_inv (h id slot : Nat) (hs : s.Inv) : (resumeEntry s h id slot).Inv := by
  unfold resumeEntry; grind [resumeTile_inv, translate_inv, modEntry_inv, resumeCell_inv, resumeAccess_inv]
theorem resumeAll_inv (h : Nat) (hs : s.Inv) : (resumeAll s h).Inv := foldl_inv (fun _ _ => resumeEntry_inv _ _ _) _ hs
theorem retryAccess_inv (h : Nat) (r : Held) (hs : s.Inv) : (retryAccess s h r).Inv := by
  unfold retryAccess; grind [resumeEntry_inv, resumeAll_inv, modG_inv]
theorem retryRequest_inv (h : Nat) (hs : s.Inv) : (retryRequest s h).Inv := by
  unfold retryRequest; grind [retryAccess_inv, killDue_inv, modG_inv]

/-! #### The supervisor -/

theorem execSret_canonical (h : s.Inv) : Canonical (execSret s) :=
  issue_canonical _ (by split; exacts [returnFromTrap_inv (fun _ => resumeAll_inv) _ h, mispc_inv _ h]) h
theorem execRqrd_canonical (d a : Reg) (w : BitVec 2) (h : s.Inv) : Canonical (execRqrd d a w s) :=
  issue_canonical _ (by grind [illegal_inv, addEntry_inv]) h
theorem execRqrdV_canonical (d a : Reg) (w : BitVec 2) (h : s.Inv) : Canonical (execRqrdV d a w s) :=
  issue_canonical _ (by grind [illegal_inv, addEntry_inv]) h
theorem setReplay_inv (i : Nat) (f : Entry → Entry) (h : s.Inv) : (setReplay s i f).Inv := h
theorem execRqwr_canonical (a b : Reg) (w : BitVec 2) (h : s.Inv) : Canonical (execRqwr a b w s) :=
  issue_canonical _ (by grind [illegal_inv, setReplay_inv]) h
theorem execRqwrV_canonical (a b : Reg) (n : BitVec 2) (h : s.Inv) : Canonical (execRqwrV a b n s) :=
  issue_canonical _ (by grind [illegal_inv, setReplay_inv]) h
theorem sendInval_inv (by_ : Option Nat) (tag base pages : Nat) (mode : BitVec 2) (h : s.Inv) :
    (sendInval s by_ tag base pages mode).1.Inv := h
theorem tlbinvBody_inv (tag base pages : Nat) (mode : BitVec 2) (h : s.Inv) : (tlbinvBody tag base pages mode s).Inv := by
  unfold tlbinvBody; grind [stall_inv, release_inv, sendInval_inv, upG_inv]
theorem execTlbwait_canonical (h : s.Inv) : Canonical (execTlbwait s) := issue_canonical _ (by grind [acquire_inv, stall_inv]) h
theorem saveKillm_inv (h : Nat) (hs : s.Inv) : (saveKillm s h).Inv := by unfold saveKillm; grind [dropLanes_inv, modG_inv]
theorem captureHalted_inv (h : Nat) (hs : s.Inv) : (captureHalted s h).Inv := by
  unfold captureHalted; grind [capture_mem, State.Inv]
theorem putNote_mem (s : State) (pa check : Nat) (bs : List (Nat × Byte)) : (putNote s pa check bs).mem = s.mem := rfl
theorem moveNotes_mem (s : State) (src size dst : Nat) : (moveNotes s src size dst).mem = s.mem := rfl
theorem saveGroup_inv (h pa : Nat) (hs : s.Inv) : (saveGroup s h pa).Inv := by
  unfold saveGroup
  extract_lets s1 s2 g r img s3
  have h1 : s1.Inv := by
    unfold s1; split
    · exact hs
    · exact bump_inv _ _ _ hs
  have h2 : s2.Inv := captureHalted_inv _ (saveKillm_inv _ (release_inv _ _ (finishAll_inv _ h1)))
  exact modG_inv _ _ (inv_of_mem (putNote_mem ..) (setBytes_inv pa img h2))
theorem execCtxsv_canonical (a : Reg) (h : s.Inv) : Canonical (execCtxsv a s) :=
  issue_canonical _ (by grind [illegal_inv, stall_inv, saveGroup_inv]) h
theorem restFail_inv (h : Nat) (hs : s.Inv) : (restFail s h).Inv := by unfold restFail; grind [postJournal_inv, modG_inv]
theorem loadImage_inv (h pa : Nat) (hs : s.Inv) : (loadImage s h pa).Inv := hs
theorem execCtxrs_canonical (a : Reg) (h : s.Inv) : Canonical (execCtxrs a s) :=
  issue_canonical _ (by grind [illegal_inv, loadImage_inv, restFail_inv, upG_inv]) h
theorem execDbgset_canonical (d a b : Reg) (n : BitVec 3) (h : s.Inv) : Canonical (execDbgset d a b n s) :=
  issue_canonical _ (by grind [illegal_inv, modCore_inv]) h
theorem execSsr_canonical (n : BitVec 10) (r : Reg) (h : s.Inv) : Canonical (execSsr n r s) :=
  issue_canonical _ (by split; exacts [h, illegal_inv h]) h
theorem execSsrV_canonical (n : BitVec 10) (r : Reg) (h : s.Inv) : Canonical (execSsrV n r s) :=
  issue_canonical _ (by split; exacts [illegal_inv h, h]) h
theorem execSsrP_canonical (n : BitVec 10) (r : Reg) (h : s.Inv) : Canonical (execSsrP n r s) :=
  issue_canonical _ (by split; exacts [h, illegal_inv h]) h
theorem execSsw_canonical (n : BitVec 10) (r : Reg) (h : s.Inv) : Canonical (execSsw n r s) :=
  issue_canonical _ (by grind [illegal_inv, upG_inv, modCore_inv, State.Inv]) h
theorem execSswV_canonical (n : BitVec 10) (r : Reg) (h : s.Inv) : Canonical (execSswV n r s) :=
  issue_canonical _ (by grind [illegal_inv, upG_inv]) h
theorem killOwn_inv (h : Nat) (dump : Bool) (hs : s.Inv) : (killOwn s h dump).Inv := killLaunch_inv _ _ _ _ _ _ _ _ hs

/-! #### Steps of the memory path and of the groups -/

theorem returnResult_inv (h id : Nat) (hs : s.Inv) : (returnResult s h id).Inv := by
  unfold returnResult; grind [reachBanks_inv, tearLoad_inv, finishEntry_inv]
theorem homeStep_inv (id : Nat) (h : s.Inv) : (homeStep s id).Inv := by
  unfold homeStep; grind [reachBanks_inv, choose_inv, tearStore_inv, forceBefore_inv, storeHome_inv]
theorem applyAtomicAt_inv (h id : Nat) (hs : s.Inv) : (applyAtomicAt s h id).Inv := by
  unfold applyAtomicAt; grind [homeStep_inv, reachBanks_inv, performLocation_inv, forceBefore_inv]
theorem requestPreempt_inv (k t : Nat) (h : s.Inv) : (requestPreempt s k t).Inv := by
  unfold requestPreempt
  split
  · split
    · exact h
    · exact foldl_inv (fun s k hs => modG_inv k _ hs) _ h
  · exact h
theorem assignImage_inv (k t : Nat) (h : s.Inv) : (assignImage s k t).Inv := by unfold assignImage; grind [modTeam_inv]
theorem forcePreempt_inv (h : Nat) (hs : s.Inv) : (forcePreempt s h).Inv := by
  have he (n : Nat) (p : PC) : (enterSupervisor { s with free := n } h 0x2F 0 0 false 0 0 p none none).Inv :=
    enterSupervisor_inv _ _ _ _ _ _ _ _ _ _ hs
  unfold forcePreempt; grind [modG_inv]
theorem preemptDeadline_inv (k t : Nat) (h : s.Inv) : (preemptDeadline s k t).Inv := by
  have ha := assignImage_inv k t h
  unfold preemptDeadline
  dsimp only
  split
  · exact ha
  · split
    · exact foldl_inv (fun _ _ => forcePreempt_inv _) _ ha
    · exact ha
theorem stopForced_inv (h : Nat) (hs : s.Inv) : (stopForced s h).Inv := by
  have he (n : Nat) (p : PC) : (enterSupervisor { s with free := n } h 0x2E 0 0 true 0 0 p none none).Inv :=
    enterSupervisor_inv _ _ _ _ _ _ _ _ _ _ hs
  unfold stopForced endStop; grind [modG_inv]
theorem setBankSt_inv (b : Nat) (x : BankSt) (h : s.Inv) : (setBankSt s b x).Inv := h
theorem receiveInval_inv (core id : Nat) (h : s.Inv) : (receiveInval s core id).Inv := by
  unfold receiveInval modInval; grind [modCore_inv, State.Inv]
theorem ackInval_inv (core id : Nat) (h : s.Inv) : (ackInval s core id).Inv := by
  unfold ackInval modInval; grind [modCore_inv, modG_inv, State.Inv]

end Sys2Proof.Machine

namespace Sys2Proof.Machine

variable {s t : State} {m : MemSt}

/-! #### Launch lines, admission and the end of a launch -/

theorem modLine_inv (cb : Nat) (f : Line → Line) (h : s.Inv) : (s.modLine cb f).Inv := h
theorem modFunc_inv (f : Nat) (u : Func → Func) (h : s.Inv) : (s.modFunc f u).Inv := h
theorem modCluster_inv (c : Nat) (u : Cluster → Cluster) (h : s.Inv) : (s.modCluster c u).Inv := h
theorem physSet_inv (pa n x : Nat) (h : s.Inv) : (physSet s pa n x).Inv := by unfold physSet; grind [setNum_inv]
theorem lineRead_inv (cb pa : Nat) (h : s.Inv) : (lineRead s cb pa).Inv := physSet_inv _ _ _ (physSet_inv _ _ _ h)
theorem watchNext_inv (cb : Nat) (h : s.Inv) : (watchNext s cb).Inv := by unfold watchNext; grind [modLine_inv, postJournal_inv]
theorem armLine_inv (l : Line) (h : s.Inv) : (armLine s l).Inv := watchNext_inv _ h
theorem lineaddr_inv (f : Nat) (a : DWord) (h : s.Inv) : (lineaddr s f a).Inv := by
  unfold lineaddr
  dsimp only
  split
  · exact h
  · split
    · exact armLine_inv _ h
    · exact h
theorem sendMsix_inv (f v : Nat) (h : s.Inv) : (sendMsix s f v).Inv := h
theorem completeWrite_wf (p : Nat × BitVec 16) (w v : Nat) (h : m.wf = true) :
    (exactStore (exactStore m (p.1 + 8) p.2 (toBytes 8 w)) p.1 p.2 (toBytes 8 v)).wf = true :=
  exactStore_wf _ _ _ (exactStore_wf _ _ _ h)
theorem complete_inv (d : Done) (code cause : Nat) (h : s.Inv) : (complete s d code cause).Inv := by
  unfold complete
  split
  next u pa e =>
  have hu : u.Inv := by grind [engineAccess_inv]
  extract_lets w cwf s1 s2
  have h1 : s1.Inv := postJournal_inv _ _ _ _ hu
  have h2 : s2.Inv := by
    unfold s2; split
    · exact upMem_inv (completeWrite_wf _ _ _ h1)
    · exact h1
  split
  · split
    · exact sendMsix_inv _ _ h2
    · exact h2
  · exact h2
theorem admitAt_inv (l : Line) (pa : Nat) (r : LaunchRec) (number : Nat) (f : Launch → Launch) (h : s.Inv) :
    (admitAt s l pa r number f).Inv := by
  have hp (k c n : Nat) (b : List Byte) : (postJournal s k c n b).mem.wf = true := postJournal_inv _ _ _ _ h
  unfold admitAt
  dsimp only
  split
  · exact complete_inv _ _ _ h
  · exact hp ..
theorem admitImage_inv (l : Line) (pa : Nat) (h : s.Inv) : (admitImage s l pa).Inv := by
  unfold admitImage
  extract_lets s1 s2 r m q teams next key at' items t
  have h2 : s2.Inv := modLine_inv _ _ (setNum_inv _ _ _ h)
  clear_value s2 m q
  have ht : t.Inv := admitAt_inv _ _ _ _ _ h2
  split
  · exact inv_of_mem (setDeque_mem ..) ht
  · exact ht
theorem launchAdmit_inv (cb : Nat) (h : s.Inv) : (launchAdmit s cb).Inv := by
  unfold launchAdmit; grind [admitImage_inv, lineRead_inv, admitAt_inv, watchNext_inv]
theorem launchFinish_inv (k : Nat) (h : s.Inv) : (launchFinish s k).Inv := by
  have hs (ids : List Nat) : (ids.foldl storeHome s).Inv := foldl_inv (fun _ _ => storeHome_inv _) _ h
  unfold launchFinish
  split
  · exact h
  · split
    · exact h
    · exact complete_inv _ _ _ (hs _)

/-! #### The distributor -/

theorem modProc_mem (s : State) (f p : Nat) (u : Proc → Proc) : (modProc s f p u).mem = s.mem := rfl
theorem addVtime_mem (s : State) (f p : Nat) : (addVtime s f p).mem = s.mem := by unfold addVtime; grind [modProc_mem]
theorem virtualTime_mem (s : State) : (virtualTime s).mem = s.mem := by
  have hf := foldl_mem (s := s) (f := fun s x => addVtime s x.1 x.2) (fun s x => addVtime_mem s x.1 x.2) (residentProcs s)
  unfold virtualTime
  split
  · rfl
  · exact hf
theorem noteCands_mem (s : State) (cluster : Nat) : (noteCands s cluster).mem = s.mem :=
  foldl_mem (fun s x => by dsimp only; split <;> rfl) _
theorem moveDeque_mem (s : State) (k src dst : Nat) : (moveDeque s k src dst).mem = s.mem := by
  unfold moveDeque; grind [setDeque_mem]
theorem settleDeques_mem (s : State) (k : Nat) : (settleDeques s k).mem = s.mem := by
  unfold settleDeques
  split
  · rfl
  · exact foldl_mem (fun s c => moveDeque_mem s k c _) _
theorem settleDeques_inv (k : Nat) (h : s.Inv) : (settleDeques s k).Inv := inv_of_mem (settleDeques_mem ..) h
theorem barrierPas_inv (tag : Nat) (as : List Nat) (h : s.Inv) : (barrierPas tag s as).1.Inv := by
  induction as generalizing s with
  | nil => exact h
  | cons a as ih =>
    have he := engineTranslate_inv tag a .write h
    unfold barrierPas
    grind
theorem initBarriers_inv (lanes : Nat) (ps : List Nat) (h : s.Inv) : (initBarriers s lanes ps).Inv :=
  inv_of_mem (dropL1All_mem ..) (foldl_inv (fun _ _ h => writeBar_inv _ _ (setNum_inv _ _ _ h)) _ h)
theorem addGroup_inv (l : Launch) (tm : Team) (restore : Bool) (gid : Nat) (h : s.Inv) : (addGroup s l tm restore gid).Inv := by
  unfold addGroup
  extract_lets core sched place g g' wk s1
  have h1 : s1.Inv := h
  split
  · exact doubleAt_inv _ _ _ h1
  · exact h1
theorem clearTiles_inv (tiles : List Nat) (h : s.Inv) : (clearTiles s tiles).Inv := h
theorem loadBounds_wf (m : MemSt) (dst src : Nat) (ks : List Nat) (h : m.wf = true) :
    (ks.foldl (fun m k => m.setBound (dst + 32 * k) (BitVec.ofNat 16 (m.num (src + 0x8000 + 2 * k) 2))) m).wf = true :=
  foldl_wf (fun _ _ h => wf_setBound _ _ _ h) _ h
theorem loadTile_inv (image : Nat) (x : Nat × Nat) (h : s.Inv) : (loadTile s image x).Inv := by
  unfold loadTile
  extract_lets src dst s1
  have h1 : s1.Inv := setBytes_inv _ _ h
  clear_value s1
  exact upMem_inv (loadBounds_wf _ dst src _ h1)
theorem loadResidency_inv (l : Launch) (tm : Team) (d : BitVec 128) (h : s.Inv) : (loadResidency l tm s d).Inv := startTask_inv _ h
theorem placeTeam_inv (l : Launch) (team : Nat) (img : Option Nat) (core : Nat) (bars : List Nat) (h : s.Inv) :
    (placeTeam s l team img core bars).Inv := by
  unfold placeTeam
  extract_lets r pair image cl wake tm s1 wk s2 s3 s4 s5 s6 s7
  have h3 : s3.Inv := h
  clear_value s3 tm
  have h4 : s4.Inv := by
    unfold s4; split
    · exact foldl_inv (fun _ _ => loadResidency_inv _ _ _) _ (foldl_inv (fun _ _ => loadTile_inv _ _) _ h3)
    · exact initBarriers_inv _ _ (clearTiles_inv _ h3)
  have h5 : s5.Inv := foldl_inv (fun _ _ => modCore_inv _ _) _ h4
  have h6 : s6.Inv := foldl_inv (fun _ _ => addGroup_inv _ _ _ _) _ h5
  exact settleDeques_inv _ h6
theorem dispatchTeam_inv (l : Launch) (cluster : Nat) (h : s.Inv) : (dispatchTeam s l cluster).Inv := by
  unfold dispatchTeam
  split
  · split
    next u c e => exact killLaunch_inv _ _ _ _ _ _ _ _ (inv_of_eq e (barrierPas_inv _ _ h))
    next u ps e => exact placeTeam_inv _ _ _ _ _ (inv_of_eq e (barrierPas_inv _ _ h))
  · exact h
theorem dispatch_inv (cluster : Nat) (h : s.Inv) : (dispatch s cluster).Inv := by
  have hn : (noteCands s cluster).Inv := inv_of_mem (noteCands_mem ..) h
  unfold dispatch
  split
  · exact h
  · extract_lets s1 s2
    have h2 : s2.Inv := by
      unfold s2; split
      · exact dispatchTeam_inv _ _ hn
      · exact hn
    exact h2

theorem settleSplit_mem (s : State) (core : Nat) : (settleSplit s core).mem = s.mem := by unfold settleSplit; grind [modCore_mem]
theorem removeTeam_mem (s : State) (tm : Team) : (removeTeam s tm).mem = s.mem := by
  unfold removeTeam
  extract_lets mine s1 stops s2 cores wk s3 s4 cl s5
  have h1 : s1.mem = s.mem := by unfold s1; split <;> first | exact addVtime_mem .. | rfl
  have h4 : s4.mem = s3.mem := foldl_mem (fun u c => (settleSplit_mem (u.modCore c _) c).trans (modCore_mem ..)) _
  have h5 : s5.mem = s4.mem := by unfold s5; split <;> rfl
  rw [settleDeques_mem, h5, h4, ← h1]
  rfl
theorem removeTeam_inv (tm : Team) (h : s.Inv) : (removeTeam s tm).Inv := inv_of_mem (removeTeam_mem ..) h
theorem retireTeam_inv (k n : Nat) (h : s.Inv) : (retireTeam s k n).Inv := by
  have hd (hs : List Nat) : (hs.foldl drainGroup s).Inv := foldl_inv (fun _ _ => drainGroup_inv _) _ h
  unfold retireTeam
  grind [removeTeam_inv, modLaunch_inv]
theorem storeBanks_inv (tm : Team) (h : s.Inv) : (storeBanks s tm).Inv :=
  foldl_inv (fun _ _ h => foldl_inv (fun _ _ h => upMem_inv (foldl_wf applySector_wf _ h)) _ h) _ h
theorem saveTile_inv (image : Nat) (x : Nat × Nat) (h : s.Inv) : (saveTile s image x).Inv := setBytes_inv _ _ h
theorem saveReady_inv (h : Nat) (hs : s.Inv) : (saveReady s h).Inv := by
  have he (n v : Nat) (p : PC) : (enterSupervisor { s with free := n } h 0x29 v 0 false 0 0 p none none).Inv :=
    enterSupervisor_inv _ _ _ _ _ _ _ _ _ _ hs
  unfold saveReady; grind [saveGroup_inv, modG_inv]
theorem teamSave_inv (k n : Nat) (h : s.Inv) : (teamSave s k n).Inv := by
  unfold teamSave
  extract_lets s1 s2
  have h1 : s1.Inv := assignImage_inv _ _ h
  have h2 : s2.Inv := foldl_inv (fun _ _ => saveReady_inv _) _ h1
  clear_value s1 s2
  split
  next tm l _ _ =>
    split
    · exact h1
    · extract_lets s3 tm' s4 s5 hdr s6 s7 s8
      have h3 : s3.Inv := inv_of_mem (count_mem ..) h2
      clear_value s3 tm'
      have h4 : s4.Inv := storeBanks_inv _ h3
      have h5 : s5.Inv := foldl_inv (fun _ _ => saveTile_inv _ _) _ h4
      have h6 : s6.Inv := inv_of_mem (putNote_mem ..) (setBytes_inv _ _ h5)
      have h8 : s8.Inv := modLaunch_inv _ _ (removeTeam_inv _ h6)
      split
      · exact h2
      · exact postJournal_inv _ _ _ _ h8
  · exact h1
theorem makeRoom_inv (cluster : Nat) (l : Launch) (vs : List Team) (ex : List (Nat × Nat)) (h : s.Inv) :
    (makeRoom cluster l s vs ex).Inv := by
  induction vs generalizing s ex with
  | nil => exact h
  | cons v vs ih =>
    unfold makeRoom
    split
    · exact h
    · split
      · exact ih _ (requestPreempt_inv _ _ h)
      · exact ih _ h
theorem slice_inv (cluster : Nat) (h : s.Inv) : (slice s cluster).Inv := by
  unfold slice; grind [modCluster_inv, makeRoom_inv]
theorem clusterGate_mem (s : State) (c : Nat) : (clusterGate s c).mem = s.mem := by
  unfold clusterGate; grind [State.modCluster]
theorem gatingEnd_mem (s : State) (c : Nat) : (gatingEnd s c).mem = s.mem := by unfold gatingEnd; grind [State.modCluster]
theorem wakeEnd_mem (s : State) (c : Nat) : (wakeEnd s c).mem = s.mem := rfl

end Sys2Proof.Machine

namespace Sys2Proof.Machine

variable {s t : State} {m : MemSt}

/-! #### The commands: what an act answers is canonical -/

/-- The state that an accepted command leaves, whether it completes or waits. -/
def Act.Canonical : Act → Prop
  | .done s _ => s.Inv
  | .wait s _ => s.Inv

/-- The state that a command leaves as it completes, with its code. -/
def CanonicalAnswer (r : State × Nat) : Prop := r.1.Inv

theorem startCmd_inv {f : Nat} {ok : Cmd → Bool} {check : State → Cmd → Option Nat} {act : State → Cmd → Act}
    (hact : ∀ u c, u.Inv → (act u c).Canonical) (h : s.Inv) : (startCmd s f ok check act).Inv := by
  unfold startCmd
  split
  next l pa c _ _ =>
    split
    · exact h
    · extract_lets s1 number s2
      have h1 : s1.Inv := lineRead_inv _ _ h
      have ha : (act (postCommand s1 f c) c).Canonical := hact _ _ (postJournal_inv _ _ _ _ h1)
      have h2 : s2.Inv := by
        unfold s2
        split
        · exact complete_inv _ _ _ h1
        · split
          next e => rw [e] at ha; exact complete_inv _ _ _ ha
          next e => rw [e] at ha; exact ha
      exact watchNext_inv _ h2
  · exact h
theorem quick_inv {f op : Nat} {check : State → Cmd → Option Nat} {act : State → Cmd → State × Nat}
    (hact : ∀ u c, u.Inv → CanonicalAnswer (act u c)) (h : s.Inv) : (quick s f op check act).Inv :=
  startCmd_inv hact h
theorem finishCmd_inv {f op : Nat} {ready : State → CmdWait → Bool} {act : State → CmdWait → State × Nat}
    (hact : ∀ u w, u.Inv → (act u w).1.Inv) (h : s.Inv) (e : finishCmd s f op ready act = some t) : t.Inv := by
  unfold finishCmd at e
  split at e
  · cases e
  · next w _ =>
    cases e
    exact complete_inv _ _ _ (hact _ _ h)
theorem command_inv {f op : Nat} {check : State → Cmd → Option Nat} {act : State → Cmd → Act} {ready : State → CmdWait → Bool}
    {fin : State → CmdWait → State × Nat} (hact : ∀ u c, u.Inv → (act u c).Canonical) (hfin : ∀ u w, u.Inv → (fin u w).1.Inv)
    (h : s.Inv) : (command s f op check act ready fin).Inv := by
  unfold command
  split
  next e => exact finishCmd_inv hfin h e
  next => exact startCmd_inv hact h
theorem policyOp_inv {f op : Nat} {check : State → Cmd → Option Nat} {act : State → Cmd → State × Nat}
    (hact : ∀ u c, u.Inv → CanonicalAnswer (act u c)) (h : s.Inv) : (policyOp s f op check act).Inv :=
  startCmd_inv hact h
theorem noAct_inv (code : Nat) (u : State) (_ : CmdWait) (h : u.Inv) : ((u, code) : State × Nat).1.Inv := h

theorem execNopCommand_canonical (f : Nat) (h : s.Inv) : Canonical (execNopCommand f s) := canonical_next (quick_inv (fun _ _ hu => hu) h)
theorem lineCreateAct_inv (f : Nat) (c : Cmd) (h : s.Inv) : (lineCreateAct s f c).1.Inv := by
  unfold lineCreateAct; grind [armLine_inv]
theorem execLineCreate_canonical (f : Nat) (h : s.Inv) : Canonical (execLineCreate f s) :=
  canonical_next (quick_inv (fun _ c => lineCreateAct_inv f c) h)
theorem destroyAct_canonical (c : Cmd) (h : s.Inv) : (destroyAct s c).Canonical := by
  unfold destroyAct
  extract_lets cb later s1 s2
  have h1 : s1.Inv := h
  unfold Act.Canonical s2
  dsimp only
  split
  · exact modLaunch_inv _ _ (killLaunch_inv _ _ _ _ _ _ _ _ h1)
  · exact h1
theorem cancelRecord_inv (cb pa : Nat) (h : s.Inv) : (cancelRecord cb s pa).Inv := by
  unfold cancelRecord
  split
  · exact h
  · exact complete_inv _ _ _ (lineRead_inv _ _ h)
theorem destroyFin_inv (w : CmdWait) (h : s.Inv) : (destroyFin s w).1.Inv := by
  have hc : ((w.work.drop 1).foldl (cancelRecord (w.work.headD 0)) s).Inv := foldl_inv (fun _ _ => cancelRecord_inv _ _) _ h
  exact hc
theorem execLineDestroy_canonical (f : Nat) (h : s.Inv) : Canonical (execLineDestroy f s) :=
  canonical_next (command_inv (fun _ => destroyAct_canonical) (fun _ => destroyFin_inv) h)

theorem procAct_canonical (f : Nat) (c : Cmd) (h : s.Inv) : (procAct s f c).Canonical :=
  sendInval_inv _ _ _ _ _ (setNum_inv _ _ _ (inv_of_mem (modProc_mem ..) h))
theorem execProcConfig_canonical (f : Nat) (h : s.Inv) : Canonical (execProcConfig f s) :=
  canonical_next (command_inv (fun _ c => procAct_canonical f c) (noAct_inv 0) h)
theorem invalidateAct_canonical (f : Nat) (c : Cmd) (h : s.Inv) : (invalidateAct s f c).Canonical := by
  unfold invalidateAct
  split
  · exact h
  · exact sendInval_inv none _ _ _ _ h
theorem execInvalidate_canonical (f : Nat) (h : s.Inv) : Canonical (execInvalidate f s) :=
  canonical_next (command_inv (fun _ c => invalidateAct_canonical f c) (noAct_inv 0) h)

theorem requestStop_mem (s : State) (l : Launch) (n : Nat) : (requestStop s l n).mem = s.mem := by
  unfold requestStop
  split
  · exact foldl_mem (fun s h => modG_mem s h _) _
  · split <;> rfl
theorem stopAct_canonical (c : Cmd) (h : s.Inv) : (stopAct s c).Canonical := by
  unfold stopAct
  split
  · exact h
  · exact inv_of_mem (requestStop_mem ..) h
theorem execStopRequest_canonical (f : Nat) (h : s.Inv) : Canonical (execStopRequest f s) :=
  canonical_next (command_inv (fun _ => stopAct_canonical) (noAct_inv 0) h)
theorem resumeGroup_inv (h : Nat) (hs : s.Inv) : (resumeGroup s h).Inv := by unfold resumeGroup; grind [resumeAll_inv, modG_inv]
theorem execResume_canonical (f : Nat) (h : s.Inv) : Canonical (execResume f s) :=
  canonical_next (quick_inv (fun _ _ hu => by split; exacts [hu, foldl_inv (fun _ _ => resumeGroup_inv _) _ hu]) h)
theorem execKillCommand_canonical (f : Nat) (h : s.Inv) : Canonical (execKillCommand f s) :=
  canonical_next (quick_inv (fun _ _ hu => by split; exacts [hu, killLaunch_inv _ _ _ _ _ _ _ _ hu]) h)
theorem saveLaunchAct_canonical (c : Cmd) (h : s.Inv) : (saveLaunchAct s c).Canonical := by
  unfold saveLaunchAct
  split
  · exact h
  · exact foldl_inv (fun _ (_ : Team) => requestPreempt_inv _ _) _ (modLaunch_inv _ _ h)
theorem writeLaunchImage_inv (l : Launch) (pa : Nat) (h : s.Inv) : (writeLaunchImage s l pa).Inv := by
  unfold writeLaunchImage
  extract_lets n items teams parts s1 s2 s3 s4
  have h1 : s1.Inv := inv_of_mem (foldl_mem (fun s _ => moveNotes_mem s _ _ _) _) h
  have h3 : s3.Inv := setBytes_inv _ _ (setBytes_inv _ _ h1)
  have h4 : s4.Inv := foldl_inv (fun _ (p : Nat × List Byte) => setBytes_inv p.1 p.2) _ h3
  exact setBytes_inv _ _ h4
theorem saveLaunchFin_inv (w : CmdWait) (h : s.Inv) : (saveLaunchFin s w).1.Inv := by
  unfold saveLaunchFin; grind [writeLaunchImage_inv, modLaunch_inv]
theorem execSaveLaunch_canonical (f : Nat) (h : s.Inv) : Canonical (execSaveLaunch f s) :=
  canonical_next (command_inv (fun _ => saveLaunchAct_canonical) (fun _ => saveLaunchFin_inv) h)
theorem execRestoreLaunch_canonical (f : Nat) (h : s.Inv) : Canonical (execRestoreLaunch f s) :=
  canonical_next (quick_inv (fun _ _ hu => modLine_inv _ _ hu) h)

theorem userWrite_inv (tag n va : Nat) (bs : List Byte) (h : s.Inv) : (userWrite tag n s va bs).Inv := by
  induction n generalizing s va bs with
  | zero => exact h
  | succ n ih =>
    unfold userWrite
    extract_lets k s1
    have h1 : s1.Inv := by
      unfold s1
      split
      next e => exact upMem_inv (exactStore_wf _ _ _ (inv_of_eq e (engineAccess_inv _ _ _ h)))
      next e => exact inv_of_eq e (engineAccess_inv _ _ _ h)
    split
    · exact h1
    · exact ih _ _ h1
theorem copySlot_inv (f seq tag dst : Nat) (h : s.Inv) : (copySlot f seq tag dst s).Inv := userWrite_inv _ _ _ _ h
theorem execJournalCopy_canonical (f : Nat) (h : s.Inv) : Canonical (execJournalCopy f s) :=
  canonical_next (quick_inv (fun _ _ hu => foldl_inv (fun _ _ => copySlot_inv _ _ _ _) _ hu) h)
theorem execEvent_canonical (f : Nat) (h : s.Inv) : Canonical (execEvent f s) :=
  canonical_next (quick_inv (fun _ _ hu => modFunc_inv _ _ hu) h)
theorem attention_inv (f tag reason list va : Nat) (h : s.Inv) : (attention s f tag reason list va).Inv := by
  unfold attention; grind [postJournal_inv, sendMsix_inv]
theorem execFuncConfig_canonical (f : Nat) (h : s.Inv) : Canonical (execFuncConfig f s) :=
  canonical_next (quick_inv (fun _ _ hu => modFunc_inv _ _ hu) h)
theorem execCtxArea_canonical (f : Nat) (h : s.Inv) : Canonical (execCtxArea f s) :=
  canonical_next (quick_inv (fun _ _ hu => modFunc_inv _ _ hu) h)
theorem execCarve_canonical (f : Nat) (h : s.Inv) : Canonical (execCarve f s) :=
  canonical_next (quick_inv (fun _ _ hu => upMem_inv (by split <;> exact hu)) h)
theorem poolPush_inv (i frame : Nat) (h : s.Inv) : (poolPush s i frame).Inv := setNum_inv _ _ _ (setNum_inv _ _ _ h)
theorem poolPushes_inv (i : Nat) (ps : List Nat) (h : s.Inv) : (ps.foldl (fun s p => poolPush s i p) s).Inv :=
  foldl_inv (fun _ _ => poolPush_inv _ _) _ h
theorem canonicalAnswer_ite {p : Prop} [Decidable p] {x y : State × Nat} (hx : CanonicalAnswer x) (hy : CanonicalAnswer y) :
    CanonicalAnswer (if p then x else y) := by
  split
  · exact hx
  · exact hy
theorem execPoolAdd_canonical (f : Nat) (h : s.Inv) : Canonical (execPoolAdd f s) :=
  canonical_next (quick_inv (fun _ _ hu => canonicalAnswer_ite hu (poolPushes_inv _ _ hu)) h)

theorem setEntries_inv (g : State → Nat → Nat) (as : List Nat) (h : s.Inv) : (as.foldl (fun s a => s.setNum a 8 (g s a)) s).Inv :=
  foldl_inv (fun _ _ => setNum_inv _ _ _) _ h
theorem migrateAct_canonical (c : Cmd) (h : s.Inv) : (migrateAct s c).Canonical := by
  unfold migrateAct
  split
  · exact sendInval_inv none _ _ _ _ (setEntries_inv _ _ h)
  · exact h
theorem moveSector_inv (bnd : Bool) (src dst k : Nat) (h : s.Inv) : (moveSector bnd src dst s k).Inv := by
  unfold moveSector
  dsimp only
  split
  · exact upMem_inv (wf_setBound _ _ _ (setBytes_inv _ _ h))
  · exact setBytes_inv _ _ h
theorem migrateFin_inv (w : CmdWait) (h : s.Inv) : (migrateFin s w).1.Inv := by
  unfold migrateFin
  split
  next level epa e new _ =>
    extract_lets old sz s1 s2 s3
    have h1 : s1.Inv := foldl_inv (fun _ _ => moveSector_inv _ _ _ _) _ h
    have h2 : s2.Inv := h1
    clear_value s1 s2
    have h3 : s3.Inv := setEntries_inv _ _ h2
    split
    · exact h3
    · split
      · exact poolPush_inv _ _ h3
      · exact postJournal_inv _ _ _ _ h3
  · exact h
theorem execMigrate_canonical (f : Nat) (h : s.Inv) : Canonical (execMigrate f s) :=
  canonical_next (command_inv (fun _ => migrateAct_canonical) (fun _ => migrateFin_inv) h)
theorem execSplit_canonical (f : Nat) (h : s.Inv) : Canonical (execSplit f s) :=
  canonical_next (quick_inv (fun _ _ hu => inv_of_mem (settleSplit_mem ..) (modCore_inv _ _ hu)) h)
theorem execVector_canonical (f : Nat) (h : s.Inv) : Canonical (execVector f s) :=
  canonical_next (quick_inv (fun _ _ hu => setNum_inv _ _ _ hu) h)
theorem execUnknownCommandOpcode_canonical (f : Nat) (h : s.Inv) : Canonical (execUnknownCommandOpcode f s) :=
  canonical_next (startCmd_inv (fun _ _ hu => hu) h)

/-! #### The operations of POLICY -/

theorem execLoad_canonical (f : Nat) (h : s.Inv) : Canonical (execLoad f s) :=
  canonical_next (policyOp_inv (fun _ _ hu => modFunc_inv _ _ hu) h)
theorem execClear_canonical (f : Nat) (h : s.Inv) : Canonical (execClear f s) :=
  canonical_next (policyOp_inv (fun _ _ hu => modFunc_inv _ _ hu) h)
theorem programCounter_mem (core : Nat) (s : State) (x : Nat × Nat) : (programCounter core s x).mem = s.mem := by
  unfold programCounter; grind [modCore_mem]
theorem execCounters_canonical (f : Nat) (h : s.Inv) : Canonical (execCounters f s) :=
  canonical_next (policyOp_inv (fun _ _ hu => inv_of_mem (foldl_mem (fun _ _ => foldl_mem (fun u x => programCounter_mem _ u x) _) _) hu) h)
theorem execRead_canonical (f : Nat) (h : s.Inv) : Canonical (execRead f s) :=
  canonical_next (policyOp_inv (fun _ _ hu => setBytes_inv _ _ hu) h)
theorem modDie_inv (d : Nat) (f : Die → Die) (h : s.Inv) : (s.modDie d f).Inv := h
theorem resetRing_inv (pa : Nat) (h : s.Inv) : (resetRing s pa).Inv := setBytes_inv _ _ h
theorem execSample_canonical (f : Nat) (h : s.Inv) : Canonical (execSample f s) := by
  unfold execSample
  refine canonical_next (policyOp_inv (fun u c hu => ?_) h)
  extract_lets s1 s2
  have h1 : s1.Inv := foldl_inv (fun _ d h => modDie_inv d _ (resetRing_inv _ (resetRing_inv _ h))) _ hu
  clear_value s1
  have h2 : s2.Inv := inv_of_mem (foldl_mem (fun s g => by extract_lets on; split <;> rfl) _) h1
  clear_value s2
  exact h2
theorem execQuote_canonical (f : Nat) (h : s.Inv) : Canonical (execQuote f s) :=
  canonical_next (policyOp_inv (fun _ _ hu => setBytes_inv _ _ hu) h)
theorem execIdentity_canonical (f : Nat) (h : s.Inv) : Canonical (execIdentity f s) :=
  canonical_next (policyOp_inv (fun _ _ hu => setBytes_inv _ _ hu) h)

/-! #### Observation -/

theorem stallOf_mem (s : State) (g : Group) : (stallOf s g).2.mem = s.mem := by unfold stallOf; grind
theorem pcSample_inv (core sched : Nat) (h : s.Inv) : (pcSample s core sched).Inv := by
  unfold pcSample
  split
  · exact h
  · split
    · exact h
    next g _ =>
      extract_lets s1 f
      have h1 : s1.Inv := modCore_inv _ _ h
      split
      next k u e =>
        have hu : u.Inv := inv_of_mem (by rw [← stallOf_mem s1 g, e]) h1
        dsimp only
        split
        · exact ringPut_inv _ _ _ hu
        · exact ringPut_inv _ _ _ hu
        · exact modCore_inv _ _ hu
        · exact hu
theorem energySplit_mem (s : State) (d uj : Nat) : (energySplit s d uj).mem = s.mem :=
  foldl_mem (fun s x => by dsimp only; split; exacts [rfl, by split <;> rfl]) _
theorem reportAt_inv (source code pa va pc k : Nat) (h : s.Inv) : (reportAt s source code pa va pc k).Inv := by
  unfold reportAt; grind [rasReport_inv, choose_inv]
theorem rasError_inv (source : Nat) (k : ErrKind) (pa va pc n : Nat) (reg : Option (RegClass × Nat × Nat)) (h : s.Inv) :
    (rasError s source k pa va pc n reg).Inv := by
  unfold rasError
  dsimp only
  split
  case h_1 => exact h
  case h_2 => exact h
  case h_3 =>
    split
    · exact reportAt_inv _ _ _ _ _ _ (modG_inv _ _ h)
    · split
      · exact reportAt_inv _ _ _ _ _ _ (arrayError_inv _ _ h)
      · exact reportAt_inv _ _ _ _ _ _ (upMem_inv (by split <;> exact h))
  case h_4 => exact reportAt_inv _ _ _ _ _ _ (upMem_inv (by split <;> exact h))
  case h_5 => exact upMem_inv (by split <;> exact h)
theorem mergeCorrected_inv (d source : Nat) (h : s.Inv) : (mergeCorrected s d source).Inv := by
  unfold mergeCorrected
  extract_lets x plain kept n due
  split
  · exact h
  · exact postJournal_inv _ _ _ _ h
theorem hostAccess_inv (pa : Nat) (a : HostAccess) (h : s.Inv) : (hostAccess s pa a).Inv := by
  unfold hostAccess; grind [setBytes_inv, State.Inv]

end Sys2Proof.Machine

namespace Sys2Proof.Machine

variable {s t : State} {m : MemSt}

/-! #### Power -/

theorem stepDie_mem (s : State) (d : Nat) (f : Die → Die) : (stepDie s d f).mem = s.mem := rfl
theorem lowerBy_mem (s : State) (d n : Nat) : (lowerBy s d n).mem = s.mem := by unfold lowerBy; split <;> rfl
theorem lowerTo_mem (s : State) (d p : Nat) : (lowerTo s d p).mem = s.mem := lowerBy_mem ..
theorem maybeRaise_mem (limit : Nat → Nat) (s : State) (d : Nat) : (maybeRaise limit s d).mem = s.mem := by
  unfold maybeRaise; grind [stepDie_mem, choose_mem]
theorem sprintLimit_mem (s : State) (d : Nat) : (sprintLimit s d).mem = s.mem := by
  unfold sprintLimit
  split
  · split
    · exact lowerTo_mem ..
    · rfl
  · rfl
theorem weirStep_mem (s : State) (d : Nat) : (weirStep s d).mem = s.mem := by unfold weirStep; grind [lowerBy_mem, modDie_mem]
theorem preemptEach_inv (h : s.Inv) : (preemptEach s).Inv :=
  foldl_inv (fun _ _ h => by split; exacts [requestPreempt_inv _ _ h, h]) _ h
theorem weirSample_inv (watts : Nat) (h : s.Inv) : (weirSample s watts).Inv := by
  unfold weirSample
  extract_lets s1 cap pw2 s2 overPeak above floor run calm throttle pw3 s3 s4
  have h1 : s1.Inv := inv_of_mem (foldl_mem sprintLimit_mem _) h
  clear_value s1 above calm throttle run
  have h3 : s3.Inv := h1
  clear_value s3
  have h4 : s4.Inv := by
    unfold s4
    split
    · exact preemptEach_inv h3
    · exact h3
  clear_value s4
  split
  · split
    · exact inv_of_mem (weirStep_mem ..) h4
    · exact h4
  · exact inv_of_mem (foldl_mem (maybeRaise_mem _) _) h4
theorem takeMode_mem (s : State) : (takeMode s).mem = s.mem := by
  have hg : (allDies.foldl (fun s d => s.modDie d (fun x => { x with grant := none })) s).mem = s.mem := foldl_mem (fun s d => modDie_mem s d _) _
  unfold takeMode
  grind

theorem execVfStepEnd_canonical (d : Nat) (h : s.Inv) : Canonical (execVfStepEnd d s) :=
  canonical_next (by split; exacts [by split <;> exact h, h])
theorem execCoolDownEnd_canonical (d : Nat) (h : s.Inv) : Canonical (execCoolDownEnd d s) :=
  canonical_next (by split; exacts [by split <;> exact h, h])
theorem execWeirSample_canonical (watts : Nat) (h : s.Inv) : Canonical (execWeirSample watts s) :=
  have ht : (takeMode s).Inv := inv_of_mem (takeMode_mem s) h
  canonical_next (by grind [weirSample_inv])
theorem execGrant_canonical (d budget point : Nat) (h : s.Inv) : Canonical (execGrant d budget point s) :=
  have ht : (takeMode s).Inv := inv_of_mem (takeMode_mem s) h
  canonical_next (by grind [lowerTo_mem, maybeRaise_mem, modDie_mem, State.Inv])
theorem execGrantExpiry_canonical (d : Nat) (h : s.Inv) : Canonical (execGrantExpiry d s) :=
  canonical_next (by grind [lowerTo_mem, stepDie_mem, State.Inv])
theorem execThermalStep_canonical (d celsius : Nat) (h : s.Inv) : Canonical (execThermalStep d celsius s) :=
  canonical_next (by grind [lowerBy_mem, modDie_mem, State.Inv])
theorem execThermalShutdown_canonical (d : Nat) (h : s.Inv) : Canonical (execThermalShutdown d s) :=
  canonical_next (postJournal_inv _ _ _ _ (inv_of_mem (foldl_mem (fun s d => modDie_mem s d _) _) h))
theorem execPower_canonical (f : Nat) (h : s.Inv) : Canonical (execPower f s) := by
  refine canonical_next (quick_inv (fun u c hu => ?_) h)
  extract_lets cs s1
  have h1 : s1.Inv := foldl_inv (fun _ k => modCluster_inv k _) _ hu
  exact h1

/-! #### Reset and bring-up -/

theorem initPool_inv (h : s.Inv) : (initPool s).Inv := foldl_inv (fun _ _ h => setNum_inv _ _ _ (setNum_inv _ _ _ h)) _ h
theorem bringStep_inv (k : Nat) (h : s.Inv) : (bringStep s k).Inv := by
  unfold bringStep; grind [initPool_inv, choose_inv, State.Inv]
theorem keepOutside_wf (h : m.wf = true) : (keepOutside m).wf = true := wf_filter m _ h
theorem resetDevice_inv (h : s.Inv) : (resetDevice s).Inv := by
  have hk : ({ State.reset with free := s.free, turns := s.turns, mem := keepOutside s.mem } : State).Inv := keepOutside_wf h
  exact foldl_inv (fun _ => bringStep_inv) _ hk

end Sys2Proof.Machine

namespace Sys2Proof.Machine

variable {s t : State} {m : MemSt}

/-! #### Every instruction and every step of the device -/

theorem inv_ite {p : Prop} [Decidable p] {x y : State} (hx : x.Inv) (hy : y.Inv) : (if p then x else y).Inv := by
  split
  · exact hx
  · exact hy

/-- The last arm stands for the instructions whose effect leaves memory alone. -/
theorem exec_canonical (i : Instr) (h : s.Inv) : Canonical (exec i s) := by
  unfold exec
  cases i with
  | ssel d a b n sense => exact execSsel_canonical d a b n sense h
  | slane d a b sx => exact execSlane_canonical d a b sx h
  | srsr n r => exact execSrsr_canonical n r h
  | swsr n r => exact execSwsr_canonical n r h
  | vmad d a b wide => exact execVmad_canonical d a b wide h
  | fclrb d a => exact execFclrb_canonical d a h
  | bra => exact issue_canonical _ (transferAll_inv _ h) h
  | brc | brx => exact issue_canonical _ (transfer_inv _ h) h
  | brxU => exact issue_canonical _ (transferAll_inv _ h) h
  | call o s' => exact execCall_canonical o s' h
  | ret r => exact execRet_canonical r h
  | rejoin k => exact execRejoin_canonical k h
  | item k r o s' => exact execItem_canonical k r o s' h
  | yield => exact execYield_canonical h
  | exit => exact issue_canonical _ (lanesDone_inv _ _ h) h
  | trapu => exact issue_canonical _ (trap_inv _ _ _ _ h) h
  | ld | lds => exact issue_canonical _ (loadBody_inv _ _ _ _ h) h
  | st => exact issue_canonical _ (storeBody_inv _ _ _ _ _ h) h
  | ldu | ldus => exact issue_canonical _ (loadBody_inv _ _ _ _ h) h
  | stu => exact issue_canonical _ (storeBody_inv _ _ _ _ _ h) h
  | gath | gaths => exact issue_canonical _ (loadBody_inv _ _ _ _ h) h
  | scat => exact issue_canonical _ (storeBody_inv _ _ _ _ _ h) h
  | ldt d a b wd => exact execLdt_canonical d a b wd h
  | stt d a b wd => exact execStt_canonical d a b wd h
  | bxlt d b => exact execBxlt_canonical d b h
  | aadd | amin | amax | aand | aor | axor | axch | acas | afadd | axadd | axrd => exact issue_canonical _ (atomicBody_inv _ _ _ _ _ h) h
  | bari a imm => exact execBari_canonical a imm h
  | barw a imm => exact execBarw_canonical a imm h
  | baraw d imm => exact execBaraw_canonical d imm h
  | bard d imm => exact execBard_canonical d imm h
  | bardDrop imm => exact execBardDrop_canonical imm h
  | dqpush p a => exact execDqpush_canonical p a h
  | bndminCl | bndminDev => exact issue_canonical _ (minBody_inv _ _ _ h) h
  | bndrd d a => exact execBndrd_canonical d a h
  | waitb a => exact execWaitb_canonical a h
  | fence sc => exact execFence_canonical sc h
  | mma | mmag | tcopy | tfill | tscaleExp | tscaleAcc | tscaleAccr | tscaleAccc | tconv => exact issue_canonical _ (issueTask_inv _ _ h) h
  | tgive e => exact execTgive_canonical e h
  | ttake e => exact execTtake_canonical e h
  | tdesc e v => exact execTdesc_canonical e v h
  | tsetd e v f => exact execTsetd_canonical e v f h
  | pcode d a m => exact execPcode_canonical d a m h
  | pset d n sense => exact execPset_canonical d n sense h
  | enter imm => exact execEnter_canonical imm h
  | leave imm => exact execLeave_canonical imm h
  | timerWait t => exact execTimerWait_canonical t h
  | sret => exact execSret_canonical h
  | rqrd d a w => exact execRqrd_canonical d a w h
  | rqrdV d a n => exact execRqrdV_canonical d a n h
  | rqwr a b w => exact execRqwr_canonical a b w h
  | rqwrV a b n => exact execRqwrV_canonical a b n h
  | tlbinvRange | tlbinvTag | tlbinvAll => exact issue_canonical _ (tlbinvBody_inv _ _ _ _ h) h
  | tlbwait => exact execTlbwait_canonical h
  | ctxsv a => exact execCtxsv_canonical a h
  | ctxrs a => exact execCtxrs_canonical a h
  | dbgset d a b n => exact execDbgset_canonical d a b n h
  | ssr n r => exact execSsr_canonical n r h
  | ssrV n r => exact execSsrV_canonical n r h
  | ssrP n r => exact execSsrP_canonical n r h
  | ssw n r => exact execSsw_canonical n r h
  | sswV n r => exact execSswV_canonical n r h
  | killTeam | killDump => exact issue_canonical _ (killOwn_inv _ _ h) h
  | illegalEncoding => exact issue_canonical _ (illegal_inv h) h
  | fetchFault => exact canonical_next (trap_inv _ _ _ _ h)
  | resultReturn => exact canonical_next (inv_ite h (returnResult_inv _ _ h))
  | atomicApply => exact canonical_next (inv_ite h (applyAtomicAt_inv _ _ h))
  | storeReachesHome => exact canonical_next (homeStep_inv _ h)
  | requestRetry => exact canonical_next (retryRequest_inv _ h)
  | taskStart => exact canonical_next (startTask_inv _ h)
  | taskFinish => exact canonical_next (finishTask_inv _ h)
  | preqRequest => exact canonical_next (requestPreempt_inv _ _ h)
  | preEmptionDeadline => exact canonical_next (preemptDeadline_inv _ _ h)
  | stopDeadline => exact canonical_next (stopForced_inv _ h)
  | cycleTimerFire | wallAlarmFire => exact canonical_next (modG_inv _ _ h)
  | retentionEntry | retentionExit => exact canonical_next (inv_ite (setBankSt_inv _ _ h) h)
  | watchCopyUpdate => exact canonical_next (updateWatch_inv _ _ h)
  | invalidationReceive => exact canonical_next (receiveInval_inv _ _ h)
  | invalidationAck => exact canonical_next (ackInval_inv _ _ h)
  | dispatch => exact canonical_next (dispatch_inv _ h)
  | retire => exact canonical_next (retireTeam_inv _ _ h)
  | teamSave => exact canonical_next (teamSave_inv _ _ h)
  | slice => exact canonical_next (slice_inv _ h)
  | virtualTimeAdd => exact canonical_next (inv_of_mem (virtualTime_mem _) h)
  | clusterGate => exact canonical_next (inv_of_mem (clusterGate_mem _ _) h)
  | weirSample watts => exact execWeirSample_canonical watts h
  | vfStepEnd die => exact execVfStepEnd_canonical die h
  | sprintLimit => exact canonical_next (inv_of_mem (sprintLimit_mem _ _) h)
  | coolDownEnd die => exact execCoolDownEnd_canonical die h
  | grant die budget point => exact execGrant_canonical die budget point h
  | grantExpiry die => exact execGrantExpiry_canonical die h
  | sensorFault => exact canonical_next h
  | thermalLimit => exact canonical_next (modDie_inv _ _ h)
  | thermalStep die celsius => exact execThermalStep_canonical die celsius h
  | thermalShutdown die => exact execThermalShutdown_canonical die h
  | reset => exact canonical_next (resetDevice_inv h)
  | pcSample => exact canonical_next (inv_ite h (pcSample_inv _ _ h))
  | energySplit => exact canonical_next (inv_of_mem (energySplit_mem _ _ _) h)
  | rasError => exact canonical_next (rasError_inv _ _ _ _ _ _ _ h)
  | correctedErrorMerge => exact canonical_next (mergeCorrected_inv _ _ h)
  | hostManagedDeviceMemoryAccess => exact canonical_next (hostAccess_inv _ _ h)
  | gatingSequenceEnd => exact canonical_next (inv_of_mem (gatingEnd_mem _ _) h)
  | clusterWakeEnd => exact canonical_next (inv_of_mem (wakeEnd_mem _ _) h)
  | retentionEntryEnd => exact canonical_next (inv_ite (setBankSt_inv _ _ h) h)
  | lineaddrWrite => exact canonical_next (lineaddr_inv _ _ h)
  | lineNotify => exact canonical_next (watchNext_inv _ h)
  | launchAdmit => exact canonical_next (launchAdmit_inv _ h)
  | launchFinish => exact canonical_next (launchFinish_inv _ h)
  | nopCommand f => exact execNopCommand_canonical f h
  | lineCreate f => exact execLineCreate_canonical f h
  | lineDestroy f => exact execLineDestroy_canonical f h
  | procConfig f => exact execProcConfig_canonical f h
  | invalidate f => exact execInvalidate_canonical f h
  | stopRequest f => exact execStopRequest_canonical f h
  | resume f => exact execResume_canonical f h
  | killCommand f => exact execKillCommand_canonical f h
  | saveLaunch f => exact execSaveLaunch_canonical f h
  | restoreLaunch f => exact execRestoreLaunch_canonical f h
  | journalCopy f => exact execJournalCopy_canonical f h
  | event f => exact execEvent_canonical f h
  | funcConfig f => exact execFuncConfig_canonical f h
  | ctxArea f => exact execCtxArea_canonical f h
  | carve f => exact execCarve_canonical f h
  | poolAdd f => exact execPoolAdd_canonical f h
  | migrate f => exact execMigrate_canonical f h
  | split f => exact execSplit_canonical f h
  | vector f => exact execVector_canonical f h
  | power f => exact execPower_canonical f h
  | load f => exact execLoad_canonical f h
  | counters f => exact execCounters_canonical f h
  | read f => exact execRead_canonical f h
  | sample f => exact execSample_canonical f h
  | quote f => exact execQuote_canonical f h
  | identity f => exact execIdentity_canonical f h
  | clear f => exact execClear_canonical f h
  | unknownCommandOpcode f => exact execUnknownCommandOpcode_canonical f h
  | _ => exact issue_canonical_of_mem _ rfl h

end Sys2Proof.Machine

namespace Sys2Proof.Machine

variable {s t : State} {m : MemSt}

/-! #### One issue of a group: fetch, the reads of outstanding results, the chain -/

theorem fetchTouch_mem (s : State) (core pa : Nat) : (fetchTouch s core pa).mem = s.mem := by unfold fetchTouch; grind [touch_mem]
theorem fetchWord_inv (h : Nat) (g : Group) (chain pc : PC) (hs : s.Inv) : (fetchWord s h g chain pc).1.Inv := by
  have ht := translate_inv ⟨h, g.core, fetchTag g, g.sp.sv, chain⟩ (wordVa (codeBase s g) pc) .fetch hs
  unfold fetchWord
  grind [fetchTouch_mem, choose_mem, putLimited_mem, modCore_mem, State.Inv]
theorem fetchChain_inv (h : Nat) (g : Group) (chain : PC) (n : Nat) (pc : PC) (hs : s.Inv) : (fetchChain h g chain n s pc).1.Inv := by
  induction n generalizing s pc with
  | zero => exact hs
  | succ n ih =>
    have hw := fetchWord_inv h g chain pc hs
    unfold fetchChain
    grind
theorem beginIssue_inv (h : Nat) (pc wpc next : PC) (word : Word) (m : Mask) (multi : Bool) (rd : Group) (hs : s.Inv) :
    (beginIssue s h pc wpc next word m multi rd).Inv := hs
theorem atWord_inv (w : FWord) (h : s.Inv) : (atWord s w).Inv := h
theorem resolveReads_inv (is : List Instr) (h : s.Inv) : (resolveReads s is).Inv :=
  foldl_inv (fun u id hu => by
    split
    · exact hu
    · exact foldl_inv (fun v j hv => by grind [choose_mem, perform_inv, State.Inv]) _ hu) _ h
theorem decodeStop_canonical {w : FWord} {r : Res} (h : s.Inv) (e : decodeStop s w = some r) : Canonical r := by
  have hi : Canonical (.next (illegal (atWord s w))) := canonical_next (illegal_inv h)
  have he (i : Instr) : Canonical (exec i (atWord s w)) := exec_canonical i h
  have ht (p : Nat) (m : Mask) : Canonical (.next (trap (atWord s w) 0x24 p m false)) := canonical_next (trap_inv _ _ _ _ h)
  unfold decodeStop at e
  grind
theorem countTokens_mem (s : State) (h : Nat) (is : List Instr) : (countTokens s h is).mem = s.mem := by
  unfold countTokens; grind [bump_mem]
theorem occupy_mem (s : State) (g : Group) (h p : Nat) : (occupy s g h p).mem = s.mem := rfl
theorem keepHeld_mem (before : Group) (h : Nat) (s : State) : (keepHeld before h s).mem = s.mem := rfl
theorem account_mem (s : State) (before : Group) (h : Nat) (m : Mask) (ws : List (FWord × Instr)) (marker : Bool) :
    (account s before h m ws marker).mem = s.mem := by
  unfold account
  extract_lets is n c p q autos use s1 s2 s3 s4 s5 f s6 s7 s8 s9
  have h3 : s3.mem = s.mem := rfl
  clear_value s3
  have h4 : s4.mem = s3.mem := by unfold s4; split <;> rfl
  clear_value s4
  have h5 : s5.mem = s4.mem := by unfold s5; split <;> rfl
  clear_value s5
  have h6 : s6.mem = s5.mem := countCharge_mem ..
  have h7 : s7.mem = s6.mem := (bump_mem ..).trans (bump_mem ..)
  clear_value s7
  have h8 : s8.mem = s7.mem := by unfold s8; split; exacts [bump_mem .., rfl]
  have h9 : s9.mem = s8.mem := countTokens_mem ..
  clear_value s9
  rw [foldl_mem (fun s ev => bump_mem s h ev 1), h9, h8, h7, h6, h5, h4, h3]

end Sys2Proof.Machine

namespace Sys2Proof.Machine

variable {s t : State} {m : MemSt}

/-! #### The end of an issue, and chains of several words -/

theorem account_inv (before : Group) (h : Nat) (m : Mask) (ws : List (FWord × Instr)) (marker : Bool) (hs : s.Inv) :
    (account s before h m ws marker).Inv := inv_of_mem (account_mem ..) hs
theorem occupy_inv (g : Group) (h p : Nat) (hs : s.Inv) : (occupy s g h p).Inv := hs
theorem keepHeld_inv (before : Group) (h : Nat) (hs : s.Inv) : (keepHeld before h s).Inv := hs
theorem endIssue_canonical {r : Res} (before : Group) (h : Nat) (m : Mask) (ws : List (FWord × Instr)) (marker : Bool) (hr : Canonical r) :
    Canonical (endIssue before h m ws marker r) := by
  cases r with
  | next s =>
    have hs : s.Inv := hr s rfl
    have ha := account_inv before h m ws marker hs
    unfold endIssue
    dsimp only
    split
    · exact canonical_next (keepHeld_inv _ _ hs)
    · split
      · exact canonical_next (occupy_inv _ _ _ (modG_inv _ _ (inv_ite (inv_of_mem (countTokens_mem ..) hs) hs)))
      · split
        · exact canonical_next ha
        · split
          · exact canonical_next (modG_inv _ _ (pageLoad_inv _ _ _ _ ha))
          · split
            · exact canonical_next (stopAtEdge_inv _ ha)
            · exact canonical_next ha
  | _ => exact hr
theorem firstStop_canonical {ws : List (FWord × Instr)} {r : Res} (h : s.Inv) (e : firstStop s ws = some r) : Canonical r := by
  obtain ⟨w, _, hw⟩ := List.exists_of_findSome?_eq_some e
  have he : Canonical (exec w.2 (atWord s w.1)) := exec_canonical w.2 (atWord_inv w.1 h)
  grind
theorem applyWords_canonical (ws : List (FWord × Instr)) (h : s.Inv) : Canonical (applyWords s ws) :=
  List.foldlRecOn (motive := Canonical) _ _ (canonical_next h) (fun r hr w _ => by
    split
    · exact exec_canonical _ (atWord_inv _ (hr _ rfl))
    · exact hr)
theorem badFetch_canonical (code va : Nat) (as : List LaneAcc) (h : s.Inv) : Canonical (badFetch s code va as) :=
  exec_canonical _ (reportErrors_inv _ _ _ _ _ h)
theorem runChain_canonical (ws : List FWord) (bad : Option (PC × Nat × Nat × List LaneAcc)) (h : s.Inv) :
    Canonical (runChain s ws bad) := by
  unfold runChain
  split
  next r e =>
    obtain ⟨w, _, hw⟩ := List.exists_of_findSome?_eq_some e
    exact decodeStop_canonical h hw
  next =>
    split
    · exact badFetch_canonical _ _ _ h
    · split
      · exact canonical_next (illegal_inv (by split <;> exact h))
      · split
        next r e => exact firstStop_canonical h e
        next =>
          split
          · exact canonical_next (holdWhole_inv _ _ (atWord_inv _ h))
          · exact applyWords_canonical _ h
theorem issueSet_canonical (h : Nat) (g : Group) (pc : PC) (m : Mask) (hs : s.Inv) : Canonical (issueSet s h g pc m) := by
  have hf := fetchChain_inv h g pc 3 pc hs
  unfold issueSet
  split
  next u ws bad e =>
    rw [e] at hf
    extract_lets multi next is wis marker s1 why dm s2
    have h1 : s1.Inv := beginIssue_inv _ _ _ _ _ _ _ _ hf
    have h2 : s2.Inv := resolveReads_inv _ h1
    clear_value s1 s2
    split
    · exact canonical_next (keepHeld_inv _ _ (stall_inv _ h1))
    · split
      · exact endIssue_canonical _ _ _ _ _ (canonical_next (debugTrap_inv _ _ h1))
      · split
        · exact endIssue_canonical _ _ _ _ _ (badFetch_canonical _ _ _ h2)
        · split
          · exact endIssue_canonical _ _ _ _ _ (runChain_canonical _ _ h2)
          · exact endIssue_canonical _ _ _ _ _ (exec_canonical _ h2)
        · exact endIssue_canonical _ _ _ _ _ (runChain_canonical _ _ h2)
theorem issueGroup_canonical (h : Nat) (hs : s.Inv) : Canonical (issueGroup s h) := by
  unfold issueGroup
  dsimp only
  split
  · exact canonical_next hs
  · split
    · exact canonical_next hs
    next pc m _ =>
      have hi := issueSet_canonical h (s.grp h) (BitVec.ofNat 48 pc) m (modG_inv h (fun g => { g with rejected := none }) hs)
      split
      next t e => exact canonical_next (killDue_inv _ (hi t e))
      next => exact hi

end Sys2Proof.Machine

namespace Sys2Proof.Machine

variable {s t : State} {m : MemSt}

/-! #### The routines of the ROM -/

theorem romSet_inv (h k x : Nat) (hs : s.Inv) : (romSet s h k x).Inv := hs
theorem romTrap_inv (h cause : Nat) (hs : s.Inv) : (romTrap s h cause).Inv := doubleAt_inv _ _ _ hs
theorem romSret_inv (h : Nat) (hs : s.Inv) : (romSret s h).Inv := by
  have hr := returnFromTrap_inv (fun _ => resumeAll_inv) h hs
  unfold romSret; grind [romTrap_inv]
theorem romSave_inv (h : Nat) (hs : s.Inv) : (romSave s h).Inv := by unfold romSave; grind [romTrap_inv, saveGroup_inv]
theorem romKill_inv (h : Nat) (hs : s.Inv) : (romKill s h).Inv := killOwn_inv _ _ hs
theorem romHalt_inv (h : Nat) (hs : s.Inv) : (romHalt s h).Inv := by unfold romHalt; grind [romSret_inv, romSet_inv, modG_inv]
theorem romRestore_inv (h : Nat) (hs : s.Inv) : (romRestore s h).Inv := by
  unfold romRestore; grind [romSret_inv, loadImage_inv, romKill_inv, restFail_inv]
theorem pagerPop_inv (h : Nat) (hs : s.Inv) : (pagerPop s h).Inv := by
  unfold pagerPop; grind [romSet_inv, modCore_inv, postJournal_inv]
theorem poolPop_inv {ls : List Nat} {p : Nat × Nat} (hs : s.Inv) (e : poolPop s ls = some (t, p)) : t.Inv := by
  unfold poolPop at e
  split at e
  · cases e
  · cases e
    exact setNum_inv _ _ _ hs
theorem zeroFrame_inv (core pa size : Nat) (hs : s.Inv) : (zeroFrame s core pa size).Inv := by
  unfold zeroFrame
  extract_lets inside m1 m2 m3
  have h2 : m2.wf = true := wf_filter s.mem _ hs
  have h3 : m3.wf = true := by
    unfold m3
    split
    · split
      · exact h2
      · exact wf_filter m2 _ h2
    · exact h2
    · exact h2
  exact modCore_inv _ _ h3
theorem fillNode_inv (pa e : Nat) (hs : s.Inv) : (fillNode s pa e).Inv := foldl_inv (fun _ _ => setNum_inv _ _ _) _ hs
theorem romFence_inv (h : Nat) (hs : s.Inv) : (romFence s h).Inv := acquire_inv _ _ (release_inv _ _ hs)
theorem c16Fill_inv (h epa new : Nat) (hs : s.Inv) : (c16Fill s h epa new).Inv :=
  romFence_inv _ (foldl_inv (fun _ _ hu => inv_ite hu (setNum_inv _ _ _ hu)) _ hs)
theorem pagerWait_inv (h reason list : Nat) (hs : s.Inv) : (pagerWait s h reason list).Inv := by
  unfold pagerWait; grind [romSet_inv, attention_inv, romSave_inv, acquire_inv]
theorem pagerNext_inv (h : Nat) (hs : s.Inv) : (pagerNext s h).Inv := hs
theorem pagerInstall_inv (h : Nat) (hs : s.Inv) : (pagerInstall s h).Inv := by
  unfold pagerInstall; grind [romSet_inv, setNum_inv, c16Fill_inv, postJournal_inv]
theorem pagerTake_inv (h level epa e : Nat) (hs : s.Inv) : (pagerTake s h level epa e).Inv := by
  have ha := acquire_inv h .sys hs
  unfold pagerTake
  dsimp only
  split
  · exact pagerWait_inv _ _ _ ha
  next u list frame ep =>
    have hu : u.Inv := poolPop_inv ha ep
    grind [romSet_inv, zeroFrame_inv, fillNode_inv]
theorem pagerServe_inv (h : Nat) (hs : s.Inv) : (pagerServe s h).Inv := by
  unfold pagerServe; grind [pagerInstall_inv, romSret_inv, pagerNext_inv, c16Fill_inv, pagerWait_inv, pagerTake_inv]
theorem romPager_inv (h : Nat) (hs : s.Inv) : (romPager s h).Inv := by unfold romPager; grind [pagerPop_inv, pagerServe_inv]

/-! #### The emulation routine -/

theorem emulOpen_inv (h : Nat) (hs : s.Inv) : (emulOpen s h).Inv := hs
theorem emulClose_inv (h : Nat) (hs : s.Inv) : (emulClose s h).Inv := hs
theorem emulOther_inv (f : FWord) (hs : s.Inv) : (emulOther s f).Inv := by
  unfold emulOther
  split
  next iw _ _ =>
    have he : Canonical (exec iw.i { s with cur := { s.cur with pc := f.pc, wpc := f.pc, word := f.word &&& 0x3FFFFFFF } }) := exec_canonical iw.i hs
    split
    next t e => exact inv_of_mem (countTokens_mem ..) (he t e)
    next => exact hs
  next => exact hs
theorem emulAccess_inv (x : Ctx) (i : Instr) (n : BitVec 3) (js : List MemJob) (hs : s.Inv) : (emulAccess x i n s js).1.Inv := by
  induction js generalizing s with
  | nil => exact hs
  | cons j js ih =>
    have hl := laneAccess_inv x (some (n.toNat, s.cur.rd.b n.toNat)) .rw (alignOf i) j.va hs
    unfold emulAccess
    grind
theorem emulBegin_inv (h : Nat) (hs : s.Inv) : (emulBegin s h).Inv := by
  unfold emulBegin
  extract_lets s0 s1 g
  have h1 : s1.Inv := emulOpen_inv _ hs
  have hf := fetchChain_inv h { g with sp := { g.sp with sv := false } } g.frame.tpc 3 g.frame.tpc h1
  split
  next u ws bad e =>
    rw [e] at hf
    extract_lets next rest
    split
    · exact killLaunch_inv _ _ _ _ _ _ _ _ hs
    · split
      · exact romSret_inv _ hs
      next iw _ =>
        split
        · exact romSret_inv _ hs
        next n o data _ =>
          extract_lets s2 js f
          have h2 : s2.Inv := inv_of_mem (countTokens_mem ..) hf
          have ha := emulAccess_inv ⟨h, g.core, g.sp.tag.toNat, false, g.frame.tpc⟩ iw.i n js h2
          split
          · exact romTrap_inv _ _ hs
          · split
            · exact romSret_inv _ (emulClose_inv _ h2)
            · split
              next v e => rw [e] at ha; exact romSret_inv _ (emulClose_inv _ ha)
              next v as e =>
                rw [e] at ha
                extract_lets s3 e s4 s5
                have h3 : s3.Inv := by
                  unfold s3
                  split
                  · exact release_inv _ _ ha
                  · exact ha
                have h4 : s4.Inv := foldl_inv (fun _ _ => emulOther_inv _) _ h3
                split
                · exact h4
                · exact romSet_inv _ _ _ (romSet_inv _ _ _ (emulClose_inv _ (addEntry_inv _ _ h4)))
theorem emulEnd_inv (h : Nat) (hs : s.Inv) : (emulEnd s h).Inv := by
  unfold emulEnd
  extract_lets s1 s2
  have h1 : s1.Inv := modG_inv _ _ hs
  have h2 : s2.Inv := by
    unfold s2
    split
    · split
      · exact acquire_inv _ _ h1
      · exact h1
    · exact h1
  exact romSret_inv _ h2
theorem emulUnlock_inv (h lk : Nat) (hs : s.Inv) : (emulUnlock s h lk).Inv := setNum_inv _ _ _ (modG_inv _ _ (drainCore_inv _ hs))
theorem emulLocation_inv (h : Nat) (hs : s.Inv) : (emulLocation s h).Inv := by
  unfold emulLocation
  grind [emulEnd_inv, touch_inv, acquire_inv, romSet_inv, setNum_inv, emulUnlock_inv, performAt_inv, forceBefore_inv]
theorem romEmul_inv (h : Nat) (hs : s.Inv) : (romEmul s h).Inv := by unfold romEmul; grind [emulBegin_inv, emulLocation_inv]
theorem romAct_inv (h cause : Nat) (hs : s.Inv) : (romAct s h cause).Inv := by
  unfold romAct; grind [romPager_inv, romEmul_inv, romHalt_inv, romSave_inv, romRestore_inv, romKill_inv]
theorem romStep_canonical (h cause : Nat) (hs : s.Inv) : Canonical (romStep s h cause) := by
  unfold romStep
  dsimp only
  split
  · exact canonical_next hs
  · exact canonical_next (romAct_inv _ _ (bump_inv _ _ _ (bump_inv _ _ _ (occupy_inv _ _ _ (modG_inv _ _ hs)))))

end Sys2Proof.Machine

namespace Sys2Proof.Machine

variable {s t : State} {m : MemSt}

/-! #### Turns -/

theorem countCycle_mem (s : State) (core : Nat) : (countCycle s core).mem = s.mem :=
  List.foldlRecOn (motive := fun r : State × List Nat => r.1.mem = s.mem) _ _ rfl (fun r h t _ => by grind [view_mem, count_mem])
theorem passCycle_mem (d : Nat) (s : State) : (passCycle d s).mem = s.mem := foldl_mem countCycle_mem _
theorem schedule_mem (s : State) (core sched : Nat) : (schedule s core sched).1.mem = s.mem := by
  unfold schedule
  split
  · rfl
  · rfl
  · exact foldl_mem (fun s j => by split <;> rfl) _
theorem notePick_mem (s : State) (core sched : Nat) : (notePick s core sched).mem = s.mem := by unfold notePick; grind [modG_mem]
theorem notePick_inv (core sched : Nat) (h : s.Inv) : (notePick s core sched).Inv := inv_of_mem (notePick_mem ..) h
theorem issueChosen_canonical (h : Nat) (hs : s.Inv) : Canonical (issueChosen s h) := by
  unfold issueChosen
  split
  · exact romStep_canonical _ _ hs
  · split
    · exact canonical_next (modG_inv _ _ hs)
    · exact issueGroup_canonical _ hs
theorem issueTurn_canonical (h : Nat) (hs : s.Inv) : Canonical (issueTurn s h) := by
  have hc := inv_of_mem (schedule_mem s (s.grp h).core (s.grp h).sched) hs
  unfold issueTurn
  dsimp only
  split
  · exact canonical_next hs
  · split
    next t k e =>
      rw [e] at hc
      split
      · exact issueChosen_canonical _ hc
      · exact canonical_next hc
    next t e => rw [e] at hc; exact canonical_next hc
theorem noteReleases_inv (s : State) (h : t.Inv) : (noteReleases s t).Inv :=
  foldl_inv (fun u e hu => by
    dsimp only
    exact inv_ite (retryRequest_inv _ (modG_inv _ _ hu)) (modG_inv _ _ hu)) _ h
theorem noted_canonical {r : Res} (s : State) (hr : Canonical r) : Canonical (noted s r) := by
  cases r with
  | next t => exact canonical_next (noteReleases_inv s (hr t rfl))
  | _ => exact hr
theorem issueDie_canonical (d : Nat) (h : s.Inv) : Canonical (issueDie d s) :=
  List.foldlRecOn (motive := Canonical) _ _ (canonical_next h) (fun r hr k _ => by
    split
    next u =>
      have hu : u.Inv := hr u rfl
      have hc := inv_of_mem (schedule_mem u k.1 k.2) hu
      split
      · exact canonical_next hu
      · split
        next t h e => rw [e] at hc; exact noted_canonical _ (issueChosen_canonical _ hc)
        next t e => rw [e] at hc; exact canonical_next hc
    next => exact hr)
theorem samplesDue_inv (d : Nat) (h : s.Inv) : (samplesDue d s).Inv := foldl_inv (fun _ _ hu => pcSample_inv _ _ (notePick_inv _ _ hu)) _ h
theorem ageReady_inv (d : Nat) (h : s.Inv) : (ageReady d s).Inv := h
theorem dieCycle_canonical (d : Nat) (h : s.Inv) : Canonical (dieCycle d s) := by
  have hi := issueDie_canonical d h
  unfold dieCycle
  split
  next t e => exact canonical_next (inv_of_mem (passCycle_mem ..) (ageReady_inv d (samplesDue_inv d (hi t e))))
  next => exact hi
theorem dieCycles_canonical (d n : Nat) (h : s.Inv) : Canonical (dieCycles d n s) := by
  induction n generalizing s with
  | zero => exact canonical_next h
  | succ n ih =>
    have hc := dieCycle_canonical d h
    unfold dieCycles
    split
    next t e => exact ih (hc t e)
    next => exact hc
theorem dieNs_canonical (d : Nat) (h : s.Inv) : Canonical (dieNs d s) := by
  unfold dieNs
  dsimp only
  split
  · exact canonical_next h
  · exact dieCycles_canonical _ _ (modDie_inv _ _ h)
theorem runNs_canonical (n : Nat) (h : s.Inv) : Canonical (runNs n s) := by
  induction n generalizing s with
  | zero => exact canonical_next h
  | succ n ih =>
    have hd : Canonical (allDies.foldl (fun (r : Res) d => match r with | .next s => dieNs d s | r => r) (.next s)) :=
      List.foldlRecOn (motive := Canonical) _ _ (canonical_next h) (fun r hr d _ => by
        split
        next u => exact dieNs_canonical _ (hr u rfl)
        next => exact hr)
    unfold runNs
    split
    next t e => exact ih (hd t e)
    next => exact hd
theorem readyStep_inv (i : Instr) (h : s.Inv) : (readyStep s i).Inv := by unfold readyStep; grind [notePick_inv]
theorem runTurn_canonical (u : Turn) (h : s.Inv) : Canonical (runTurn s u) := by
  cases u with
  | issue k => exact issueTurn_canonical k h
  | step i =>
    unfold runTurn
    dsimp only
    split
    · exact exec_canonical i (readyStep_inv i h)
    · exact canonical_next h
  | time ns => exact runNs_canonical ns h
theorem cmdRun_canonical (f op sub : Nat) (h : s.Inv) : Canonical (cmdRun f op sub s) := by
  unfold cmdRun
  split
  case h_1 => exact exec_canonical (.nopCommand f) h
  case h_2 => exact exec_canonical (.lineCreate f) h
  case h_3 => exact exec_canonical (.lineDestroy f) h
  case h_4 => exact exec_canonical (.procConfig f) h
  case h_5 => exact exec_canonical (.invalidate f) h
  case h_6 => exact exec_canonical (.stopRequest f) h
  case h_7 => exact exec_canonical (.resume f) h
  case h_8 => exact exec_canonical (.killCommand f) h
  case h_9 => exact exec_canonical (.saveLaunch f) h
  case h_10 => exact exec_canonical (.restoreLaunch f) h
  case h_11 => exact exec_canonical (.journalCopy f) h
  case h_12 => exact exec_canonical (.event f) h
  case h_13 => exact exec_canonical (.funcConfig f) h
  case h_14 => exact exec_canonical (.ctxArea f) h
  case h_15 => exact exec_canonical (.carve f) h
  case h_16 => exact exec_canonical (.poolAdd f) h
  case h_17 => exact exec_canonical (.migrate f) h
  case h_18 => exact exec_canonical (.split f) h
  case h_19 => exact exec_canonical (.vector f) h
  case h_20 => exact exec_canonical (.power f) h
  case h_21 =>
    split
    case h_1 => exact exec_canonical (.load f) h
    case h_2 => exact exec_canonical (.counters f) h
    case h_3 => exact exec_canonical (.read f) h
    case h_4 => exact exec_canonical (.sample f) h
    case h_5 => exact exec_canonical (.quote f) h
    case h_6 => exact exec_canonical (.identity f) h
    case h_7 => exact exec_canonical (.clear f) h
    case h_8 => exact exec_canonical (.unknownCommandOpcode f) h
  case h_22 => exact exec_canonical (.unknownCommandOpcode f) h
theorem dueCmd_canonical {r : Res} (h : s.Inv) (e : dueCmd s = some r) : Canonical r := by
  unfold dueCmd at e
  split at e
  · cases e
  · obtain ⟨c, _, rfl⟩ := Option.map_eq_some_iff.mp e
    exact cmdRun_canonical _ _ _ h
theorem defaultTurn_canonical (h : s.Inv) : Canonical (defaultTurn s) := by
  unfold defaultTurn
  split
  next i _ => exact noted_canonical s (exec_canonical i h)
  next =>
    split
    next r e => exact noted_canonical s (dueCmd_canonical h e)
    next =>
      split
      next k _ => exact noted_canonical s (runTurn_canonical (.issue k) h)
      next => exact runTurn_canonical (.time 1) h
theorem nextTurn_canonical (h : s.Inv) : Canonical (nextTurn s) := by
  unfold nextTurn
  split
  · exact runNs_canonical _ h
  · exact noted_canonical s (runTurn_canonical _ h)
  · exact defaultTurn_canonical h

/-- Settles O57: each turn is one of the operations above. -/
theorem stepKeepsMemoryCanonical : Obligations.StepKeepsMemoryCanonical := fun _ t h e => nextTurn_canonical h t e

end Sys2Proof.Machine

namespace Sys2Proof.Machine

/-! ### A write of what memory holds -/

section
variable {α : Type}

theorem Tb.mem_of_get? {m : List (Nat × α)} {k : Nat} {v : α} (h : Tb.get? m k = some v) : (k, v) ∈ m := by
  induction m with
  | nil => cases h
  | cons e t ih =>
    simp only [Tb.get?] at h
    split at h
    next ek => cases h; rw [← ek]; exact List.mem_cons_self
    next => exact List.mem_cons_of_mem _ (ih h)
theorem Tb.erase_of_get?_none {m : List (Nat × α)} {k : Nat} (h : Tb.get? m k = none) : Tb.erase m k = m := by
  induction m with
  | nil => rfl
  | cons e t ih =>
    simp only [Tb.get?] at h
    split at h
    next => cases h
    next ek =>
      have ht : t.filter (fun e => decide (e.1 ≠ k)) = t := ih h
      rw [Tb.erase, List.filter_cons_of_pos (by simpa using ek), ht]
theorem Tb.put_of_get?_some {m : List (Nat × α)} {k : Nat} {v : α} (hm : Tb.sorted m = true) (h : Tb.get? m k = some v) :
    Tb.put m k v = m := by
  induction m with
  | nil => cases h
  | cons e t ih =>
    obtain ⟨j, w⟩ := e
    obtain ⟨habove, ht⟩ := (Tb.sorted_cons j w t).mp hm
    simp only [Tb.get?] at h
    simp only [Tb.put]
    split at h
    next ek => cases h; simp [ek]
    next ek =>
      have hj : j < k := habove (k, v) (Tb.mem_of_get? h)
      rw [if_neg ek, if_neg (by omega), ih ht h]
/-- In a table of canonical form, writing an entry's own value changes nothing. -/
theorem Tb.set_get_self [DecidableEq α] {d : α} {m : List (Nat × α)} (hm : Tb.wf d m = true) (k : Nat) : Tb.set d m k (Tb.get d m k) = m := by
  obtain ⟨hs, hd⟩ := (Bool.and_eq_true_iff).mp hm
  cases hk : Tb.get? m k with
  | none => simp [Tb.set, Tb.get, hk, Tb.erase_of_get?_none hk]
  | some v =>
    have hv : v ≠ d := by simpa using List.all_eq_true.mp hd (k, v) (Tb.mem_of_get? hk)
    simp [Tb.set, Tb.get, hk, hv, Tb.put_of_get?_some hs hk]

end

variable {m : MemSt}

theorem toBytes_ofBytes (l : List Byte) : toBytes l.length (ofBytes l) = l := by
  induction l with
  | nil => rfl
  | cons b t ih =>
    have hb : b.toNat < 256 := b.isLt
    have hmod : BitVec.ofNat 8 (b.toNat + 256 * ofBytes t) = b := BitVec.eq_of_toNat_eq (by simp; omega)
    rw [List.length_cons, ofBytes, toBytes, hmod, show (b.toNat + 256 * ofBytes t) / 256 = ofBytes t by omega, ih]
theorem setByte_self (h : m.wf = true) (a : Nat) : m.setByte a (m.byte a) = m := by
  unfold MemSt.setByte MemSt.byte
  rw [Tb.set_get_self h]
theorem setBytes_self (h : m.wf = true) (a n : Nat) : m.setBytes a (m.bytes a n) = m := by
  induction n generalizing a with
  | zero => rfl
  | succ n ih =>
    have hb : m.bytes a (n + 1) = m.byte a :: m.bytes (a + 1) n := by
      simp only [MemSt.bytes, List.range_succ_eq_map, List.map_cons, List.map_map]
      simp [Function.comp_def, Nat.add_comm, Nat.add_left_comm]
    rw [hb, MemSt.setBytes, setByte_self h, ih]
theorem setNum_self (h : m.wf = true) (a n : Nat) : m.setNum a n (m.num a n) = m := by
  have hl : (m.bytes a n).length = n := by simp [MemSt.bytes]
  have ht := toBytes_ofBytes (m.bytes a n)
  rw [hl] at ht
  rw [MemSt.setNum, MemSt.num, ht, setBytes_self h]

/-- Settles O17: the laws of memory, and that a number written over itself changes nothing. -/
theorem readAfterWrite : Obligations.ReadAfterWrite := by
  intro m a n x
  refine ⟨num_setNum_same m a n x, fun b hb => ?_, wf_setNum m a n x, fun h => setNum_self h a n⟩
  rw [MemSt.setNum, byte_setBytes, toBytes_length, if_neg (by omega)]

end Sys2Proof.Machine

namespace Sys2Proof.Machine

/-! ### Reset and bring-up (R422) -/

theorem Tb.get?_filter_key {α : Type} (p : Nat → Bool) (t : List (Nat × α)) (k : Nat) :
    Tb.get? (t.filter (fun e => p e.1)) k = if p k then Tb.get? t k else none := by
  induction t with
  | nil => simp [Tb.get?]
  | cons e t ih =>
    by_cases hp : p e.1 = true
    · rw [List.filter_cons_of_pos (p := fun e : Nat × α => p e.1) hp]
      by_cases hk : e.1 = k
      · simp [Tb.get?, hk, hk ▸ hp]
      · simp [Tb.get?, hk, ih]
    · rw [List.filter_cons_of_neg (p := fun e : Nat × α => p e.1) hp, ih]
      by_cases hk : e.1 = k
      · simp [hk ▸ hp]
      · simp [Tb.get?, hk]
theorem byte_keepOutside (m : MemSt) (a : Nat) : (keepOutside m).byte a = if 0x20000000000 ≤ a then m.byte a else 0 := by
  simp only [MemSt.byte, keepOutside, Tb.get, Tb.get?_filter_key (fun k => decide (0x20000000000 ≤ k)), decide_eq_true_eq]
  split <;> rfl
theorem ofBytes_replicate_zero (n : Nat) : ofBytes (List.replicate n 0) = 0 := by
  induction n with
  | zero => rfl
  | succ n ih => rw [List.replicate_succ, ofBytes, ih]; rfl
theorem num_eq_zero {m : MemSt} {a n : Nat} (h : ∀ i, i < n → m.byte (a + i) = 0) : m.num a n = 0 := by
  have hb : m.bytes a n = List.replicate n 0 := List.ext_getElem (by simp [MemSt.bytes]) (fun i hi _ => by
    have hi : i < n := by simpa [MemSt.bytes] using hi
    simp only [MemSt.bytes, List.getElem_map, List.getElem_range, List.getElem_replicate, h i hi])
  rw [MemSt.num, hb, ofBytes_replicate_zero]

/-- The pool header (R363) as bring-up writes it for the first n lists. -/
def poolHeader (n : Nat) (m : MemSt) : MemSt :=
  (List.range n).foldl (fun m i => (m.setNum (poolRec i + 16) 8 (0x800008F800 + 0x800 * i)).setNum (poolRec i + 24) 4 256) m

theorem initPool_eq (s : State) : initPool s = { s with mem := poolHeader 10 s.mem } := by
  unfold initPool poolHeader
  generalize List.range 10 = l
  induction l generalizing s with
  | nil => rfl
  | cons i l ih => rw [List.foldl_cons, List.foldl_cons, ih]; simp only [State.setNum, State.upMem]
theorem poolHeader_succ (n : Nat) (m : MemSt) :
    poolHeader (n + 1) m = ((poolHeader n m).setNum (poolRec n + 16) 8 (0x800008F800 + 0x800 * n)).setNum (poolRec n + 24) 4 256 := by
  simp [poolHeader, List.range_succ]
theorem setBytes_eq (m : MemSt) (a : Nat) (l : List Byte) : m.setBytes a l = { m with cells := (m.setBytes a l).cells } := by
  induction l generalizing m a with
  | nil => rfl
  | cons b l ih => rw [MemSt.setBytes, ih]; rfl
theorem poolHeader_eq (n : Nat) (m : MemSt) : poolHeader n m = { m with cells := (poolHeader n m).cells } := by
  induction n with
  | zero => rfl
  | succ n ih => rw [poolHeader_succ, MemSt.setNum, setBytes_eq, MemSt.setNum, setBytes_eq (poolHeader n m), ih]
theorem byte_setNum_other {m : MemSt} {a n x b : Nat} (h : b < a ∨ a + n ≤ b) : (m.setNum a n x).byte b = m.byte b := by
  rw [MemSt.setNum, byte_setBytes, toBytes_length, if_neg (by omega)]
theorem byte_poolHeader {n : Nat} (hn : n ≤ 10) (m : MemSt) {a : Nat} (h : a < 0x8000080000 ∨ 0x8000080140 ≤ a) :
    (poolHeader n m).byte a = m.byte a := by
  induction n with
  | zero => rfl
  | succ n ih => rw [poolHeader_succ, byte_setNum_other (by unfold poolRec; omega), byte_setNum_other (by unfold poolRec; omega), ih (by omega)]
/-- HEAD and TAIL of every list keep their values. -/
theorem num_poolHeader_ends (n : Nat) (m : MemSt) (i : Nat) {o : Nat} (ho : o ≤ 8) :
    (poolHeader n m).num (poolRec i + o) 8 = m.num (poolRec i + o) 8 := by
  induction n with
  | zero => rfl
  | succ n ih =>
    rw [poolHeader_succ, num_setNum_other _ _ _ _ _ _ (by unfold poolRec; omega), num_setNum_other _ _ _ _ _ _ (by unfold poolRec; omega), ih]
/-- Base and capacity of every list that has been written. -/
theorem num_poolHeader_list {n i : Nat} (hn : n ≤ 10) (hi : i < n) (m : MemSt) :
    (poolHeader n m).num (poolRec i + 16) 8 = 0x800008F800 + 0x800 * i ∧ (poolHeader n m).num (poolRec i + 24) 4 = 256 := by
  induction n with
  | zero => omega
  | succ n ih =>
    rw [poolHeader_succ]
    by_cases hin : i = n
    · subst hin
      rw [num_setNum_other _ _ _ _ _ _ (by omega), num_setNum_same, num_setNum_same]
      exact ⟨Nat.mod_eq_of_lt (by omega), rfl⟩
    · obtain ⟨hbase, hcap⟩ := ih (by omega) (by omega)
      have hrec : poolRec i + 32 ≤ poolRec n := by unfold poolRec; omega
      rw [num_setNum_other _ _ _ _ _ _ (by omega), num_setNum_other _ _ _ _ _ _ (by omega), num_setNum_other _ _ _ _ _ _ (by omega),
        num_setNum_other _ _ _ _ _ _ (by omega)]
      exact ⟨hbase, hcap⟩

/-- The device of `s` during its bring-up: `up` steps of Table 17-5 done, one failed or none. -/
def bootState (s : State) (free up : Nat) (fail : Option Nat) (deg : Bool) : State :=
  { State.reset with
    free := free, turns := s.turns, mem := if 4 ≤ up then poolHeader 10 (keepOutside s.mem) else keepOutside s.mem,
    dev := { DevSt.reset with bringUp := up, bootFail := fail, degraded := deg } }

/-- Bring-up after n steps: all are done, or the one after those that are done has failed. -/
inductive Boots (s : State) (n : Nat) : State → Prop
  | running (free : Nat) (deg : Bool) (hfw : 2 ≤ n → firmwareVerified = true) : Boots s n (bootState s free n none deg)
  | failed (free k : Nat) (deg : Bool) (hk : k < n ∧ k ≤ 4) (hfw : firmwareVerified = false → k ≤ 1) :
    Boots s n (bootState s free k (some (k + 1)) deg)

theorem bringStep_failed (s : State) (free up k n : Nat) (deg : Bool) :
    bringStep (bootState s free up (some k) deg) n = bootState s free up (some k) deg := rfl
/-- A step other than 2 and 6 fails where the device chooses so; step 4 writes the pool header, and step 5 chooses the mode of the ports. -/
theorem bringStep_choice (s : State) (free : Nat) (deg : Bool) {up : Nat} (h1 : up ≠ 1) (h5 : up ≠ 5) :
    bringStep (bootState s free up none deg) (up + 1) =
      if Config.freeBit free then bootState s (free + 1) up (some (up + 1)) deg
      else if up = 4 then bootState s (free + 2) 5 none (Config.freeBit (free + 1))
      else bootState s (free + 1) (up + 1) none deg := by
  cases hb : Config.freeBit free with
  | true => simp [bringStep, bootState, State.choose, hb, h1, h5]
  | false =>
    by_cases h4 : up = 4
    · simp [bringStep, bootState, State.choose, hb, h4]
    · by_cases h3 : up = 3
      · simp [bringStep, bootState, State.choose, hb, h3, initPool_eq]
      · have hlt : 4 ≤ up + 1 ↔ 4 ≤ up := by omega
        simp [bringStep, bootState, State.choose, hb, h1, h3, h4, h5, hlt]
/-- Step 2 verifies the firmware image. -/
theorem bringStep_firmware (s : State) (free : Nat) (deg : Bool) :
    bringStep (bootState s free 1 none deg) 2 =
      if firmwareVerified then bootState s free 2 none deg else bootState s free 1 (some 2) deg := by
  cases hf : firmwareVerified <;> simp [bringStep, bootState, hf]
theorem bringStep_last (s : State) (free : Nat) (deg : Bool) :
    bringStep (bootState s free 5 none deg) 6 = bootState s free 6 none deg := by
  simp [bringStep, bootState]
theorem bringStep_boots {s t : State} {n : Nat} (h : Boots s n t) (hn : n < 6) : Boots s (n + 1) (bringStep t (n + 1)) := by
  cases h with
  | failed free k deg hk hfw => exact .failed free k deg (by omega) hfw
  | running free deg hfw =>
    by_cases h1 : n = 1
    · subst h1
      rw [bringStep_firmware]
      split
      next hf => exact .running free deg (fun _ => hf)
      next => exact .failed free 1 deg (by omega) (fun _ => le_rfl)
    · by_cases h5 : n = 5
      · subst h5
        rw [bringStep_last]
        exact .running free deg (fun _ => hfw (by omega))
      · have hfw' : 2 ≤ n + 1 → firmwareVerified = true := fun _ => hfw (by omega)
        rw [bringStep_choice s free deg h1 h5]
        split
        · exact .failed _ n deg (by omega) (fun hf => by_contra fun hn => by simp_all)
        · split
          next h4 => subst h4; exact .running _ _ hfw'
          next => exact .running _ _ hfw'
theorem resetDevice_boots (s : State) : Boots s 6 (resetDevice s) := by
  have h0 : Boots s 0 (bootState s s.free 0 none false) := .running _ _ (by omega)
  have h3 := bringStep_boots (bringStep_boots (bringStep_boots h0 (by omega)) (by omega)) (by omega)
  exact bringStep_boots (bringStep_boots (bringStep_boots h3 (by omega)) (by omega)) (by omega)

/-- What every end of bring-up leaves of memory: the bytes outside the device, and none of HBM4 and LPDDR6. -/
theorem byte_bootState (s : State) (free up : Nat) (fail : Option Nat) (deg : Bool) {a : Nat} (h : a < 0x8000080000 ∨ 0x8000080140 ≤ a) :
    (bootState s free up fail deg).mem.byte a = if 0x20000000000 ≤ a then s.mem.byte a else 0 := by
  simp only [bootState]
  split
  · rw [byte_poolHeader (by omega) _ h, byte_keepOutside]
  · exact byte_keepOutside _ _
theorem byte_device_zero (s : State) (free up : Nat) (fail : Option Nat) (deg : Bool) {a : Nat} (h : pmem a = .lpddr ∨ a < 0x8000000000) :
    (bootState s free up fail deg).mem.byte a = 0 := by
  have hl : pmem a = .lpddr → 0x10000000000 ≤ a ∧ a < 0x20000000000 := by unfold pmem; split_ifs <;> simp; omega
  have ha : a < 0x8000000000 ∨ 0x10000000000 ≤ a ∧ a < 0x20000000000 := h.symm.imp id hl
  rw [byte_bootState _ _ _ _ _ (by omega), if_neg (by omega)]
/-- The pool header once bring-up is complete (R363). -/
theorem pool_bootState (s : State) (free : Nat) (deg : Bool) {i : Nat} (hi : i < 10) :
    let t := bootState s free 6 none deg
    t.num (0x8000080000 + 32 * i) 8 = 0 ∧ t.num (0x8000080000 + 32 * i + 8) 8 = 0 ∧
      t.num (0x8000080000 + 32 * i + 16) 8 = 0x800008F800 + 0x800 * i ∧ t.num (0x8000080000 + 32 * i + 24) 4 = 256 := by
  have hz (o : Nat) (ho : o ≤ 8) : (poolHeader 10 (keepOutside s.mem)).num (poolRec i + o) 8 = 0 := by
    rw [num_poolHeader_ends 10 _ i ho]
    exact num_eq_zero (fun k hk => by rw [byte_keepOutside, if_neg (by unfold poolRec; omega)])
  exact ⟨hz 0 (by omega), hz 8 (by omega), num_poolHeader_list (by omega) hi _⟩
/-- Nothing of before RESET is left in memory beside the bytes. -/
theorem rest_bootState (s : State) (free up : Nat) (fail : Option Nat) (deg : Bool) :
    (bootState s free up fail deg).mem.pend = [] ∧ (bootState s free up fail deg).mem.bounds = [] ∧
      (bootState s free up fail deg).mem.bad = [] := by
  simp only [bootState]
  split
  · rw [poolHeader_eq]
    exact ⟨rfl, rfl, rfl⟩
  · exact ⟨rfl, rfl, rfl⟩
theorem reset_numbered : State.reset.Numbered := ⟨List.nodup_nil, fun _ h => by cases h⟩

/-- Settles O1: RESET goes through the steps of bring-up, which end in a state of `Boots`. -/
theorem resetState : Obligations.ResetState := by
  refine ⟨⟨rfl, reset_numbered⟩, ?_, fun s => ?_⟩
  · exact ⟨rfl, rfl, rfl, rfl, fun a _ => rfl, fun d => ⟨rfl, rfl⟩, rfl, rfl, rfl, rfl, fun f => ⟨rfl, rfl, rfl, rfl⟩, by decide,
      fun c i => ⟨rfl, rfl⟩⟩
  · have hb := resetDevice_boots s
    refine ⟨resetDevice s, rfl, ?_⟩
    generalize resetDevice s = t at hb ⊢
    have hout (free up : Nat) (fail : Option Nat) (deg : Bool) (a : Nat) (ha : 0x20000000000 ≤ a) :
        (bootState s free up fail deg).mem.byte a = s.mem.byte a := by
      rw [byte_bootState _ _ _ _ _ (by omega), if_pos ha]
    cases hb with
    | running free deg hfw =>
      obtain ⟨hpend, hbounds, hbad⟩ := rest_bootState s free 6 none deg
      exact ⟨rfl, rfl, rfl, rfl, rfl, hpend, hbounds, hbad, rfl, rfl, hout _ _ _ _, fun _ => byte_device_zero s free 6 none deg,
        fun _ => ⟨rfl, hfw (by omega), fun _ => pool_bootState s free deg⟩, nofun⟩
    | failed free k deg hk hfw =>
      obtain ⟨hpend, hbounds, hbad⟩ := rest_bootState s free k (some (k + 1)) deg
      refine ⟨rfl, rfl, rfl, rfl, rfl, hpend, hbounds, hbad, rfl, rfl, hout _ _ _ _, fun _ => byte_device_zero s free k (some (k + 1)) deg,
        nofun, fun j h => ?_⟩
      cases h
      exact ⟨by omega, by omega, rfl, fun hf => by have := hfw hf; omega⟩

end Sys2Proof.Machine

namespace Sys2Proof.Machine

variable {m : MemSt} {a : LaneAcc} {c : List VCell} {i : Instr}

/-! ### Atomics on elements (Table 8-5, R122, R236) -/

theorem ofBytes_lt (l : List Byte) : ofBytes l < 256 ^ l.length := by
  induction l with
  | nil => simp [ofBytes]
  | cons b t ih =>
    have hb : b.toNat < 256 := b.isLt
    rw [ofBytes, List.length_cons, Nat.pow_succ]
    omega
theorem num_lt (m : MemSt) (a n : Nat) : m.num a n < 256 ^ n := by
  have h := ofBytes_lt (m.bytes a n)
  rwa [show (m.bytes a n).length = n by simp [MemSt.bytes]] at h

/-- A write of a sector's bound leaves the bytes alone that are not its home. -/
theorem byte_setBound {pa q : Nat} (e : EB) (h : ∀ j, bndHome pa = .word j → q < j ∨ j + 2 ≤ q) :
    (m.setBound pa e).byte q = m.byte q := by
  unfold MemSt.setBound
  split
  next w hw => exact byte_setNum_other (h w hw)
  next => rfl
  next => rfl
theorem num_setBound {pa p n : Nat} (e : EB) (h : ∀ j, bndHome pa = .word j → j + 2 ≤ p ∨ p + n ≤ j) :
    (m.setBound pa e).num p n = m.num p n := by
  unfold MemSt.setBound
  split
  next w hw => exact num_setNum_other _ _ _ _ _ _ (by have := h w hw; omega)
  next => rfl
  next => rfl
theorem bound_setBound {pa : Nat} (e : EB) (h : bndHome pa ≠ .none) : (m.setBound pa e).bound pa = ebRead e := by
  unfold MemSt.setBound MemSt.bound
  split
  next w hw =>
    have he : e.toNat < 256 ^ 2 := e.isLt
    rw [num_setNum_same, Nat.mod_eq_of_lt he, BitVec.ofNat_toNat, BitVec.setWidth_eq]
  next => simp
  next hn => exact absurd hn h
theorem home_of_keepsBnd {pa : Nat} {attr : BitVec 16} (h : keepsBnd pa attr = true) : bndHome pa ≠ .none := by
  intro hn
  simp [keepsBnd, hn] at h

/-- The bound of the element that a lane's atomic finds. -/
def laneBound (m : MemSt) (a : LaneAcc) : EB := if keepsBnd a.pa a.attr then m.bound a.pa else 0
theorem laneBound_ne_poison (hb : keepsBnd a.pa a.attr = true → m.bound a.pa ≠ ebPoison) : laneBound m a ≠ ebPoison := by
  unfold laneBound
  split
  next h => exact hb h
  next => decide

/-- Memory after a lane's atomic has written an element of n bytes, or nothing. -/
def elemWrite (m : MemSt) (a : LaneAcc) (n : Nat) : Option (Nat × EB) → MemSt
  | none => m
  | some (v, e) => if keepsBnd a.pa a.attr then (m.setNum a.pa n v).setBound a.pa (ebMax (laneBound m a) e) else m.setNum a.pa n v
/-- The operand words of an element of n bytes. -/
def opdWords (n : Nat) : Nat := if n = 8 then 2 else 1

/-- A lane that meets no error: the new element, and the old one with the flag of ACAS. -/
theorem atomLane_served {n : Nat} (hn : widthBytes (atomWidthOf i) = n) (he : m.err a.pa = none) (hb : laneBound m a ≠ ebPoison)
    (hrd : ∀ d b o wd f, i ≠ .axrd d b o wd f) (hadd : ∀ d b o wd f, i ≠ .axadd d b o wd f) :
    let old := m.num a.pa n
    let nu := atomNew i n old (laneBound m a) (Opd.ofVs (c.take (opdWords n))) (Opd.ofVs ((c.drop (opdWords n)).take (opdWords n)))
    atomLane m i a c = (elemWrite m a n nu, elemCells n ⟨old, laneBound m a, none⟩ ++
      if isCas i then VCell.exact (b2n nu.isSome) :: (if n = 8 then [VCell.zero] else []) else []) := by
  subst hn
  have hb' : ¬ (if keepsBnd a.pa a.attr = true then m.bound a.pa else 0) = ebPoison := hb
  unfold atomLane
  rw [he]
  dsimp only
  rw [if_neg hb']
  split
  next => exact absurd rfl (hrd _ _ _ _ _)
  next => exact absurd rfl (hadd _ _ _ _ _)
  next =>
    unfold elemWrite
    rfl

/-- What Table 8-5 gives for a lane: an element of n bytes with the value `v`, its bound `e` where one is written, the bytes around it as they
were, and the result words. -/
def LaneGives (m : MemSt) (i : Instr) (a : LaneAcc) (c : List VCell) (n v : Nat) (e : Option EB) (cells : List VCell) : Prop :=
  (atomLane m i a c).1.num a.pa n = v % 2 ^ (8 * n) ∧
  (∀ b, e = some b → keepsBnd a.pa a.attr = true → (atomLane m i a c).1.bound a.pa = ebRead (ebMax (laneBound m a) b)) ∧
  (e = none → (atomLane m i a c).1 = m) ∧
  (∀ q, (q < a.pa ∨ a.pa + n ≤ q) → (∀ j, bndHome a.pa = .word j → q < j ∨ j + 2 ≤ q) → (atomLane m i a c).1.byte q = m.byte q) ∧
  (atomLane m i a c).2 = cells

theorem num_elemWrite {n v : Nat} {e : EB} (hw : ∀ k, bndHome a.pa = .word k → k + 2 ≤ a.pa ∨ a.pa + n ≤ k) :
    (elemWrite m a n (some (v, e))).num a.pa n = v % 2 ^ (8 * n) := by
  have hp : (256 : Nat) ^ n = 2 ^ (8 * n) := by rw [pow_mul]; rfl
  simp only [elemWrite]
  split
  · rw [num_setBound _ hw, num_setNum_same, hp]
  · rw [num_setNum_same, hp]
theorem byte_elemWrite {n v q : Nat} {e : EB} (hq : q < a.pa ∨ a.pa + n ≤ q) (hj : ∀ j, bndHome a.pa = .word j → q < j ∨ j + 2 ≤ q) :
    (elemWrite m a n (some (v, e))).byte q = m.byte q := by
  simp only [elemWrite]
  split
  · rw [byte_setBound _ hj, byte_setNum_other hq]
  · exact byte_setNum_other hq
/-- An atomic that writes its element. -/
theorem laneGives_some {n v v' : Nat} {b : EB} {cells : List VCell} (h : atomLane m i a c = (elemWrite m a n (some (v', b)), cells))
    (hv : v' % 2 ^ (8 * n) = v % 2 ^ (8 * n)) (hw : ∀ k, bndHome a.pa = .word k → k + 2 ≤ a.pa ∨ a.pa + n ≤ k) :
    LaneGives m i a c n v (some b) cells := by
  unfold LaneGives
  rw [h]
  refine ⟨by rw [num_elemWrite hw, hv], ?_, nofun, fun q hq hj => byte_elemWrite hq hj, rfl⟩
  intro b' hb hk
  cases hb
  simp only [elemWrite, hk, if_true]
  exact bound_setBound _ (home_of_keepsBnd hk)
/-- An ACAS that fails. -/
theorem laneGives_none {n : Nat} {cells : List VCell} (h : atomLane m i a c = (m, cells)) :
    LaneGives m i a c n (m.num a.pa n) none cells := by
  have hlt : m.num a.pa n < 2 ^ (8 * n) := by have := num_lt m a.pa n; rwa [show (256 : Nat) ^ n = 2 ^ (8 * n) by rw [pow_mul]; rfl] at this
  unfold LaneGives
  rw [h]
  exact ⟨(Nat.mod_eq_of_lt hlt).symm, nofun, fun _ => rfl, fun _ _ _ => rfl, rfl⟩

/-- An atomic of one new element, ACAS apart. -/
theorem laneGives_of_new {n v v' : Nat} {b : EB} (hn : widthBytes (atomWidthOf i) = n) (he : m.err a.pa = none)
    (hb : laneBound m a ≠ ebPoison) (hrd : ∀ d b o wd f, i ≠ .axrd d b o wd f) (hadd : ∀ d b o wd f, i ≠ .axadd d b o wd f)
    (hcas : isCas i = false) (hw : ∀ k, bndHome a.pa = .word k → k + 2 ≤ a.pa ∨ a.pa + n ≤ k)
    (hnew : atomNew i n (m.num a.pa n) (laneBound m a) (Opd.ofVs (c.take (opdWords n)))
      (Opd.ofVs ((c.drop (opdWords n)).take (opdWords n))) = some (v', b))
    (hv : v' % 2 ^ (8 * n) = v % 2 ^ (8 * n)) :
    LaneGives m i a c n v (some b) (elemCells n ⟨m.num a.pa n, laneBound m a, none⟩ ++ []) := by
  have hl := atomLane_served (c := c) hn he hb hrd hadd
  simp only [hcas, hnew, Bool.false_eq_true, if_false] at hl
  exact laneGives_some hl hv hw
theorem atomNew_aadd (d : Reg) (k : BitVec 3) (o : Reg) (wd : Width) (f : AtomForm) (n old : Nat) (oe : EB) (x y : Opd) :
    atomNew (.aadd d k o wd f) n old oe x y =
      some ((old + x.v) % 2 ^ (8 * n), intEb (8 * n) (signed (8 * n) old + signed (8 * n) x.v) (ebAdd oe x.eb)) := by
  simp only [atomNew, intEb, Bool.or_eq_true, decide_eq_true_eq]
/-- An ACAS, whichever way its comparison goes. -/
theorem laneGives_acas {d o : Reg} {k : BitVec 3} {wd : Width} {f : AtomForm} {n : Nat} (hn : widthBytes wd = n) (he : m.err a.pa = none)
    (hb : laneBound m a ≠ ebPoison) (hw : ∀ j, bndHome a.pa = .word j → j + 2 ≤ a.pa ∨ a.pa + n ≤ j) :
    let old := m.num a.pa n
    let x := Opd.ofVs (c.take (opdWords n))
    let y := Opd.ofVs ((c.drop (opdWords n)).take (opdWords n))
    LaneGives m (.acas d k o wd f) a c n (if old = x.v then y.v else old) (if old = x.v then some y.eb else none)
      (elemCells n ⟨old, laneBound m a, none⟩ ++ VCell.exact (b2n (decide (old = x.v))) :: (if n = 8 then [VCell.zero] else [])) := by
  intro old x y
  have hl := atomLane_served (i := .acas d k o wd f) (c := c) hn he hb nofun nofun
  have hnew : atomNew (.acas d k o wd f) n old (laneBound m a) x y = if old = x.v then some (y.v, y.eb) else none := rfl
  by_cases hx : old = x.v
  · rw [if_pos hx] at hnew
    simp only [if_pos hx, decide_eq_true hx]
    exact laneGives_some (hl.trans (by rw [hnew]; rfl)) rfl hw
  · rw [if_neg hx] at hnew
    simp only [if_neg hx, decide_eq_false hx]
    exact laneGives_none (hl.trans (by rw [hnew]; rfl))

end Sys2Proof.Machine

namespace Sys2Proof.Machine

/-- The part of O27 that Table 8-5 states: what each atomic on an element does in a lane that meets no error. -/
theorem atomLane_results (d : Reg) (b : BitVec 3) (o : Reg) (wd : Width) (f : AtomForm) (m : MemSt) (a : LaneAcc) (c : List VCell)
    (he : m.err a.pa = none) (hb : keepsBnd a.pa a.attr = true → m.bound a.pa ≠ ebPoison)
    (hw : ∀ k, bndHome a.pa = .word k → k + 2 ≤ a.pa ∨ a.pa + widthBytes wd ≤ k) :
    let n := widthBytes wd
    let w := 8 * n
    let old := m.num a.pa n
    let x := Opd.ofVs (c.take (opdWords n))
    let y := Opd.ofVs ((c.drop (opdWords n)).take (opdWords n))
    let oe := laneBound m a
    let bitw := if oe = 0 ∧ x.eb = 0 then (0 : EB) else ebInf
    let cells := elemCells n ⟨old, oe, none⟩
    LaneGives m (.aadd d b o wd f) a c n (old + x.v) (some (intEb w (signed w old + signed w x.v) (ebAdd oe x.eb))) (cells ++ []) ∧
    LaneGives m (.amin d b o wd f) a c n (if signed w x.v < signed w old then x.v else old) (some (ebMax oe x.eb)) (cells ++ []) ∧
    LaneGives m (.amax d b o wd f) a c n (if signed w old < signed w x.v then x.v else old) (some (ebMax oe x.eb)) (cells ++ []) ∧
    LaneGives m (.aand d b o wd f) a c n (old &&& x.v) (some bitw) (cells ++ []) ∧
    LaneGives m (.aor d b o wd f) a c n (old ||| x.v) (some bitw) (cells ++ []) ∧
    LaneGives m (.axor d b o wd f) a c n (old ^^^ x.v) (some bitw) (cells ++ []) ∧
    LaneGives m (.axch d b o wd f) a c n x.v (some x.eb) (cells ++ []) ∧
    LaneGives m (.acas d b o wd f) a c n (if old = x.v then y.v else old) (if old = x.v then some y.eb else none)
      (cells ++ VCell.exact (b2n (decide (old = x.v))) :: (if n = 8 then [VCell.zero] else [])) ∧
    LaneGives m (.afadd d b o wd f) a c n (fp32Sum old x.v).bits (some (fp32SumEb old x.v oe x.eb)) (cells ++ []) := by
  have hp := laneBound_ne_poison hb
  refine ⟨laneGives_of_new rfl he hp nofun nofun rfl hw (atomNew_aadd ..) (Nat.mod_mod _ _),
    laneGives_of_new rfl he hp nofun nofun rfl hw rfl rfl, laneGives_of_new rfl he hp nofun nofun rfl hw rfl rfl,
    laneGives_of_new rfl he hp nofun nofun rfl hw rfl rfl, laneGives_of_new rfl he hp nofun nofun rfl hw rfl rfl,
    laneGives_of_new rfl he hp nofun nofun rfl hw rfl rfl, laneGives_of_new rfl he hp nofun nofun rfl hw rfl rfl,
    laneGives_acas rfl he hp hw, laneGives_of_new rfl he hp nofun nofun rfl hw rfl rfl⟩

/-! ### A lane that is not applied, and AXRD -/

variable {m : MemSt} {a : LaneAcc} {c : List VCell} {i : Instr}

/-- A line in error: the error's token in every result word. -/
theorem atomLane_of_err {k : Nat} (he : m.err a.pa = some k) :
    atomLane m i a c = (m, List.replicate (atomWords i) (VCell.tok (vaTok k a.va))) := by
  unfold atomLane
  rw [he]
  simp
/-- A poisoned sector: its own token in every result word. -/
theorem atomLane_of_poison (he : m.err a.pa = none) (hk : keepsBnd a.pa a.attr = true) (hp : m.bound a.pa = ebPoison) :
    atomLane m i a c = (m, List.replicate (atomWords i) (VCell.tok (BitVec.ofNat 32 (m.num (a.pa / 32 * 32) 4)))) := by
  unfold atomLane
  rw [he]
  simp [hk, hp]
theorem atomLane_axrd {d o : Reg} {b : BitVec 3} {wd : Width} {f : AtomForm} (he : m.err a.pa = none) (hp : laneBound m a ≠ ebPoison) :
    atomLane m (.axrd d b o wd f) a c = (m, [xa128Read m a.pa]) := by
  unfold atomLane
  rw [he]
  exact if_neg hp

end Sys2Proof.Machine

namespace Sys2Proof.Machine

/-! ### The cells of XA128 (R91 to R93) -/

variable {m : MemSt} {pa : Nat} {isInt : Bool} {x : VCell}

theorem setBytes_append (m : MemSt) (a : Nat) (l l' : List Byte) : m.setBytes a (l ++ l') = (m.setBytes a l).setBytes (a + l.length) l' := by
  induction l generalizing m a with
  | nil => rfl
  | cons b l ih => rw [List.cons_append, MemSt.setBytes, ih, MemSt.setBytes, List.length_cons, show a + 1 + l.length = a + (l.length + 1) by omega]

/-- A cell with VAL, STAT and BND as given, and its reserved bytes 0. -/
def cellSet (m : MemSt) (pa v st b : Nat) : MemSt := (((m.setNum pa 16 v).setNum (pa + 16) 4 st).setNum (pa + 20) 2 b).setNum (pa + 22) 10 0

theorem num_cellSet_val (m : MemSt) (pa v st b : Nat) : (cellSet m pa v st b).num pa 16 = v % 2 ^ 128 := by
  unfold cellSet
  rw [num_setNum_other _ _ _ _ _ _ (by omega), num_setNum_other _ _ _ _ _ _ (by omega), num_setNum_other _ _ _ _ _ _ (by omega),
    num_setNum_same, show 256 ^ 16 = 2 ^ 128 by norm_num]
theorem num_cellSet_stat (m : MemSt) (pa v : Nat) {st : Nat} (b : Nat) (h : st < 2 ^ 3) : (cellSet m pa v st b).num (pa + 16) 4 = st := by
  unfold cellSet
  rw [num_setNum_other _ _ _ _ _ _ (by omega), num_setNum_other _ _ _ _ _ _ (by omega), num_setNum_same, Nat.mod_eq_of_lt (by omega)]
theorem num_cellSet_bnd (m : MemSt) (pa v st : Nat) (b : EB) : (cellSet m pa v st b.toNat).num (pa + 20) 2 = b.toNat := by
  have hb : b.toNat < 256 ^ 2 := b.isLt
  unfold cellSet
  rw [num_setNum_other _ _ _ _ _ _ (by omega), num_setNum_same, Nat.mod_eq_of_lt hb]
theorem byte_cellSet {q : Nat} (h : q < pa ∨ pa + 32 ≤ q) (v st b : Nat) : (cellSet m pa v st b).byte q = m.byte q := by
  unfold cellSet
  rw [byte_setNum_other (by omega), byte_setNum_other (by omega), byte_setNum_other (by omega), byte_setNum_other (by omega)]

/-- VAL of a cell as a word of 128 bits. -/
def cellVal (m : MemSt) (pa : Nat) : BitVec 128 := BitVec.ofNat 128 (m.num pa 16)
theorem cellVal_toNat (m : MemSt) (pa : Nat) : (cellVal m pa).toNat = m.num pa 16 := Nat.mod_eq_of_lt (num_lt m pa 16)
theorem signed_cellVal (m : MemSt) (pa : Nat) : signed 128 (m.num pa 16) = (cellVal m pa).toInt := by
  rw [← signed_toNat _ (by decide), cellVal_toNat]
/-- STAT of a cell without its reserved bits (R9). -/
def cellStat (m : MemSt) (pa : Nat) : Nat := m.num (pa + 16) 4 % 8
def cellBnd (m : MemSt) (pa : Nat) : EB := ebRead (BitVec.ofNat 16 (m.num (pa + 20) 2))

/-- The addend is a NaN or an infinity: nothing is added, and NV is set. -/
def addendSpecial (isInt : Bool) (x : VCell) : Bool := !isInt && (isNaN .f32 x.data.toNat || isInf .f32 x.data.toNat)
/-- The addend in units of 2^-64. -/
def addendUnits (isInt : Bool) (x : VCell) : Int :=
  if isInt then x.data.toInt * 2 ^ 64 else (fx157 (fpDecode .f32 x.data.toNat)).tdiv (2 ^ 93)
/-- The addend has bits below 2^-64: TR is set. -/
def addendCut (isInt : Bool) (x : VCell) : Bool := !isInt && decide (fx157 (fpDecode .f32 x.data.toNat) % 2 ^ 93 ≠ 0)
/-- A sum that VAL cannot hold: OV is set. -/
def cellOv (t : Int) : Bool := decide (t < -(2 : Int) ^ 127) || decide ((2 : Int) ^ 127 - 1 < t)

theorem shiftLeft_div_unit (n k : Nat) : (n <<< k) / 2 ^ 93 = if 93 ≤ k then n <<< (k - 93) else n >>> (93 - k) := by
  rw [Nat.shiftLeft_eq]
  split
  next h =>
    obtain ⟨j, rfl⟩ := Nat.exists_eq_add_of_le h
    rw [Nat.shiftLeft_eq, Nat.add_sub_cancel_left, Nat.add_comm, pow_add, ← Nat.mul_assoc, Nat.mul_div_cancel _ (by positivity)]
  next h =>
    obtain ⟨j, hj⟩ := Nat.exists_eq_add_of_le (Nat.le_of_not_le h)
    rw [Nat.shiftRight_eq_div_pow, hj, Nat.add_sub_cancel_left, pow_add, Nat.mul_comm, Nat.mul_div_mul_left _ _ (by positivity)]
theorem unit_dvd_shiftLeft (n k : Nat) : 2 ^ 93 ∣ n <<< k ↔ 93 ≤ k ∨ 2 ^ (93 - k) ∣ n := by
  rw [Nat.shiftLeft_eq]
  by_cases h : 93 ≤ k
  · simp only [h, true_or, iff_true]
    exact (pow_dvd_pow 2 h).trans (Nat.dvd_mul_left _ _)
  · obtain ⟨j, hj⟩ := Nat.exists_eq_add_of_le (Nat.le_of_not_le h)
    rw [hj, Nat.add_sub_cancel_left, pow_add, Nat.mul_comm n, Nat.mul_dvd_mul_iff_left (by positivity)]
    omega

/-- An FP32 value is a multiple of 2^-149. -/
theorem fpDecode_e_ge (y : Nat) : -149 ≤ (fpDecode .f32 y).e := by
  have h : (Fmt.bias .f32 : Int) = 127 ∧ (Fmt.m .f32 : Int) = 23 := by decide
  obtain ⟨hb, hm⟩ := h
  unfold fpDecode
  split <;> simp only [hb, hm] <;> omega

/-- The model's truncation of an FP32 value to units of 2^-64. -/
theorem fx157_tdiv_unit {v : Ex} (he : -149 ≤ v.e) :
    (fx157 v).tdiv (2 ^ 93) = let e := v.e + 64
      let mag := if 0 ≤ e then v.n <<< e.toNat else v.n >>> (-e).toNat
      if v.neg then -(mag : Int) else mag := by
  have hmag : ((v.n <<< (v.e - -157).toNat : Nat) : Int).tdiv (2 ^ 93) =
      ((if 0 ≤ v.e + 64 then v.n <<< (v.e + 64).toNat else v.n >>> (-(v.e + 64)).toNat : Nat) : Int) := by
    rw [show ((2 : Int) ^ 93) = ((2 ^ 93 : Nat) : Int) by norm_num, ← Int.ofNat_tdiv, shiftLeft_div_unit]
    congr 1
    by_cases h : 0 ≤ v.e + 64
    · rw [if_pos h, if_pos (by omega), show (v.e - -157).toNat - 93 = (v.e + 64).toNat by omega]
    · rw [if_neg h, if_neg (by omega), show 93 - (v.e - -157).toNat = (-(v.e + 64)).toNat by omega]
  unfold fx157 Ex.toInt
  dsimp only
  split
  · rw [Int.neg_tdiv, hmag]
  · exact hmag
theorem fx157_emod_unit {v : Ex} (he : -149 ≤ v.e) :
    fx157 v % 2 ^ 93 ≠ 0 ↔ v.e + 64 < 0 ∧ v.n % 2 ^ (-(v.e + 64)).toNat ≠ 0 := by
  have hmag : (2 : Int) ^ 93 ∣ ((v.n <<< (v.e - -157).toNat : Nat) : Int) ↔ ¬ (v.e + 64 < 0 ∧ v.n % 2 ^ (-(v.e + 64)).toNat ≠ 0) := by
    rw [show ((2 : Int) ^ 93) = ((2 ^ 93 : Nat) : Int) by norm_num, Int.natCast_dvd_natCast, unit_dvd_shiftLeft,
      show 93 - (v.e - -157).toNat = (-(v.e + 64)).toNat by omega, Nat.dvd_iff_mod_eq_zero]
    omega
  rw [Ne, ← Int.dvd_iff_emod_eq_zero]
  unfold fx157 Ex.toInt
  dsimp only
  split
  · rw [Int.dvd_neg, hmag, not_not]
  · rw [hmag, not_not]

/-- STAT after an addition: a NaN or an infinity sets NV alone, another addend TR and OV. -/
def addStat (m : MemSt) (pa : Nat) (isInt : Bool) (x : VCell) : Nat :=
  if addendSpecial isInt x then cellStat m pa ||| 4
  else cellStat m pa ||| (if addendCut isInt x then 2 else 0) ||| b2n (cellOv ((cellVal m pa).toInt + addendUnits isInt x))
/-- The amount by which an addend moves VAL. -/
def addStep (isInt : Bool) (x : VCell) : Int := if addendSpecial isInt x then 0 else addendUnits isInt x
def addBnd (m : MemSt) (pa : Nat) (isInt : Bool) (x : VCell) : EB :=
  if addendSpecial isInt x then ebInf else ebAdd (cellBnd m pa) (ebAdd x.eb (if addendCut isInt x then ebUp2 (-64) else 0))

theorem cell_bytes_eq (m : MemSt) (pa v st b : Nat) :
    m.setBytes pa (toBytes 16 v ++ toBytes 4 st ++ toBytes 2 b ++ toBytes 10 0) = cellSet m pa v st b := by
  simp only [setBytes_append, List.length_append, toBytes_length, cellSet, MemSt.setNum]

theorem addendCut_eq (isInt : Bool) (x : VCell) :
    addendCut isInt x = let ex := fpDecode .f32 x.data.toNat
      !isInt && decide (ex.e + 64 < 0) && decide (ex.n % 2 ^ (-(ex.e + 64)).toNat ≠ 0) := by
  rw [addendCut, decide_eq_decide.mpr (fx157_emod_unit (fpDecode_e_ge _)), Bool.decide_and, Bool.and_assoc]
theorem addendUnits_eq (isInt : Bool) (x : VCell) :
    addendUnits isInt x = let ex := fpDecode .f32 x.data.toNat
      let mag := if 0 ≤ ex.e + 64 then ex.n <<< (ex.e + 64).toNat else ex.n >>> (-(ex.e + 64)).toNat
      if isInt then signed 32 x.data.toNat * (2 : Int) ^ 64 else if ex.neg then -(mag : Int) else mag := by
  rw [addendUnits, fx157_tdiv_unit (fpDecode_e_ge _), signed_toNat _ (by decide)]

/-- xa128_add writes VAL, STAT and BND of the cell anew. -/
theorem xa128Add_eq (m : MemSt) (pa : Nat) (isInt : Bool) (x : VCell) :
    xa128Add m pa isInt x =
      cellSet m pa (wrap 128 ((cellVal m pa).toInt + addStep isInt x)) (addStat m pa isInt x) (addBnd m pa isInt x).toNat := by
  unfold xa128Add addStep addStat addBnd
  rw [addendUnits_eq, addendCut_eq, ← signed_cellVal]
  simp only [cell_bytes_eq]
  by_cases h : addendSpecial isInt x = true
  · rw [if_pos h, if_pos h, if_pos h, Int.add_zero]
    exact if_pos h
  · rw [if_neg h, if_neg h, if_neg h]
    exact if_neg h

theorem cellVal_xa128Add (m : MemSt) (pa : Nat) (isInt : Bool) (x : VCell) :
    cellVal (xa128Add m pa isInt x) pa = BitVec.ofInt 128 ((cellVal m pa).toInt + addStep isInt x) := by
  have hmod (z : Nat) : BitVec.ofNat 128 (z % 2 ^ 128) = BitVec.ofNat 128 z := by
    apply BitVec.eq_of_toNat_eq
    simp only [BitVec.toNat_ofNat, Nat.mod_mod]
  rw [xa128Add_eq, cellVal, num_cellSet_val, hmod, ofNat_wrap]

theorem cellStat_lt (m : MemSt) (pa : Nat) : cellStat m pa < 2 ^ 3 := Nat.mod_lt _ (by decide)
theorem addStat_lt (m : MemSt) (pa : Nat) (isInt : Bool) (x : VCell) : addStat m pa isInt x < 2 ^ 3 := by
  have hs := cellStat_lt m pa
  have hb (z : Bool) : b2n z < 2 ^ 3 := by cases z <;> decide
  unfold addStat
  split
  · exact Nat.or_lt_two_pow hs (by decide)
  · exact Nat.or_lt_two_pow (Nat.or_lt_two_pow hs (by split <;> decide)) (hb _)
theorem num_stat_xa128Add (m : MemSt) (pa : Nat) (isInt : Bool) (x : VCell) :
    (xa128Add m pa isInt x).num (pa + 16) 4 = addStat m pa isInt x := by
  rw [xa128Add_eq, num_cellSet_stat _ _ _ _ (addStat_lt ..)]
theorem num_bnd_xa128Add (m : MemSt) (pa : Nat) (isInt : Bool) (x : VCell) :
    (xa128Add m pa isInt x).num (pa + 20) 2 = (addBnd m pa isInt x).toNat := by
  rw [xa128Add_eq, num_cellSet_bnd]
theorem byte_xa128Add {q : Nat} (h : q < pa ∨ pa + 32 ≤ q) : (xa128Add m pa isInt x).byte q = m.byte q := by
  rw [xa128Add_eq, byte_cellSet h]

/-- The bits of STAT that an addition sets. -/
def addFlag (m : MemSt) (pa : Nat) (isInt : Bool) (x : VCell) (k : Nat) : Bool :=
  if addendSpecial isInt x then decide (k = 2)
  else (decide (k = 0) && cellOv ((cellVal m pa).toInt + addendUnits isInt x)) || (decide (k = 1) && addendCut isInt x)
theorem testBit_addStat (m : MemSt) (pa : Nat) (isInt : Bool) (x : VCell) (k : Nat) :
    (addStat m pa isInt x).testBit k = ((cellStat m pa).testBit k || addFlag m pa isInt x k) := by
  have hpow (j : Nat) : (2 ^ j).testBit k = decide (k = j) := by rw [Nat.testBit_two_pow, decide_eq_decide, eq_comm]
  have h1 (z : Bool) : (b2n z).testBit k = (decide (k = 0) && z) := by
    cases z
    · simp [b2n]
    · simpa [b2n] using hpow 0
  have h2 (z : Bool) : (if z then 2 else 0).testBit k = (decide (k = 1) && z) := by
    cases z
    · simp
    · simpa using hpow 1
  have h4 : (4 : Nat).testBit k = decide (k = 2) := hpow 2
  unfold addStat addFlag
  split
  · rw [Nat.testBit_or, h4]
  · rw [Nat.testBit_or, Nat.testBit_or, h1, h2, Bool.or_assoc, Bool.or_comm (decide (k = 1) && _)]

theorem cellStat_xa128Add (m : MemSt) (pa : Nat) (isInt : Bool) (x : VCell) : cellStat (xa128Add m pa isInt x) pa = addStat m pa isInt x := by
  rw [cellStat, num_stat_xa128Add]
  exact Nat.mod_eq_of_lt (addStat_lt ..)

/-- VAL is the same in either order of two addends (R93). -/
theorem num_val_xa128Add_comm (m : MemSt) (pa : Nat) (isInt : Bool) (x y : VCell) :
    (xa128Add (xa128Add m pa isInt x) pa isInt y).num pa 16 = (xa128Add (xa128Add m pa isInt y) pa isInt x).num pa 16 := by
  simp only [← cellVal_toNat, cellVal_xa128Add, BitVec.ofInt_add, BitVec.ofInt_toInt, BitVec.add_assoc]
  rw [BitVec.add_comm (BitVec.ofInt 128 (addStep isInt x))]
/-- TR and NV of an addend do not depend on the cell. -/
theorem addFlag_eq_of_sticky {k : Nat} (hk : k = 1 ∨ k = 2) (m m' : MemSt) (pa : Nat) (isInt : Bool) (x : VCell) :
    addFlag m pa isInt x k = addFlag m' pa isInt x k := by
  have h0 : decide (k = 0) = false := by simp; omega
  simp only [addFlag, h0, Bool.false_and]
/-- TR and NV are the same in either order of two addends (R93). -/
theorem testBit_stat_xa128Add_comm {k : Nat} (hk : k = 1 ∨ k = 2) (m : MemSt) (pa : Nat) (isInt : Bool) (x y : VCell) :
    ((xa128Add (xa128Add m pa isInt x) pa isInt y).num (pa + 16) 4).testBit k =
      ((xa128Add (xa128Add m pa isInt y) pa isInt x).num (pa + 16) 4).testBit k := by
  simp only [num_stat_xa128Add, testBit_addStat, cellStat_xa128Add]
  rw [addFlag_eq_of_sticky hk (xa128Add m pa isInt x) m, addFlag_eq_of_sticky hk (xa128Add m pa isInt y) m, Bool.or_assoc, Bool.or_assoc,
    Bool.or_comm (addFlag m pa isInt x k)]

/-- What xa128_add leaves in a cell. -/
theorem xa128Add_special (h : addendSpecial isInt x = true) :
    (xa128Add m pa isInt x).num pa 16 = m.num pa 16 ∧ (xa128Add m pa isInt x).num (pa + 16) 4 = cellStat m pa ||| 4 ∧
    (xa128Add m pa isInt x).num (pa + 20) 2 = ebInf.toNat := by
  refine ⟨?_, ?_, ?_⟩
  · rw [← cellVal_toNat, cellVal_xa128Add, addStep, if_pos h, Int.add_zero, BitVec.ofInt_toInt, cellVal_toNat]
  · rw [num_stat_xa128Add, addStat, if_pos h]
  · rw [num_bnd_xa128Add, addBnd, if_pos h]
theorem xa128Add_plain (h : addendSpecial isInt x = false) :
    signed 128 ((xa128Add m pa isInt x).num pa 16) = (BitVec.ofInt 128 (signed 128 (m.num pa 16) + addendUnits isInt x)).toInt ∧
    (∀ k, ((xa128Add m pa isInt x).num (pa + 16) 4).testBit k = ((cellStat m pa).testBit k ||
      (decide (k = 0) && cellOv (signed 128 (m.num pa 16) + addendUnits isInt x)) || (decide (k = 1) && addendCut isInt x))) ∧
    (xa128Add m pa isInt x).num (pa + 20) 2 =
      (ebAdd (cellBnd m pa) (ebAdd x.eb (if addendCut isInt x then ebUp2 (-64) else 0))).toNat := by
  simp only [signed_cellVal]
  refine ⟨?_, fun k => ?_, ?_⟩
  · rw [cellVal_xa128Add, addStep, h, if_neg Bool.false_ne_true]
  · rw [num_stat_xa128Add, testBit_addStat, addFlag, h, if_neg Bool.false_ne_true, Bool.or_assoc]
  · rw [num_bnd_xa128Add, addBnd, h, if_neg Bool.false_ne_true]

theorem addendSpecial_iff :
    addendSpecial isInt x = true ↔ isInt = false ∧ (isNaN .f32 x.data.toNat = true ∨ isInf .f32 x.data.toNat = true) := by
  simp [addendSpecial]
theorem addendCut_iff : addendCut isInt x = true ↔ isInt = false ∧ fx157 (fpDecode .f32 x.data.toNat) % 2 ^ 93 ≠ 0 := by
  simp only [addendCut, Bool.and_eq_true, Bool.not_eq_true', decide_eq_true_eq]
theorem cellOv_eq (t : Int) : cellOv t = decide (t < -(2 : Int) ^ 127 ∨ (2 : Int) ^ 127 - 1 < t) := by rw [cellOv, Bool.decide_or]
theorem addendCut_eq_decide (isInt : Bool) (x : VCell) :
    addendCut isInt x = decide (isInt = false ∧ fx157 (fpDecode .f32 x.data.toNat) % 2 ^ 93 ≠ 0) := by
  rw [Bool.eq_iff_iff, addendCut_iff, decide_eq_true_eq]

end Sys2Proof.Machine

namespace Sys2Proof.Machine

/-! ### An AXADD that reaches its cell (log entry 8) -/

variable {s : State} {p : Pend} {pa id : Nat} {xs : List (Nat × VCell)} {isInt bnd : Bool}

theorem reachBanks_of_active (h : ∀ b, (bankSt s b).1 = .active) (bs : List Nat) : (reachBanks s bs).1 = true := by
  simp [reachBanks, h]
/-- Where the banks serve and the die has power, a store that does not tear goes home whole. -/
theorem homeStep_of_active (hp : s.mem.pend.find? (fun q => decide (q.id = id)) = some p) (hd : (s.die (dieOf p.core)).off = false)
    (hb : ∀ b, (bankSt s b).1 = .active) (ht : p.tears = false) :
    ∃ bk, homeStep s id = storeHome { s with banks := bk } id := by
  obtain ⟨bk, hr⟩ := reachBanks_eq s p.banks
  have he : reachBanks s p.banks = (true, { s with banks := bk }) := Prod.ext (reachBanks_of_active hb _) hr
  refine ⟨bk, ?_⟩
  unfold homeStep
  rw [hp]
  simp only [hd, he, ht, Bool.false_eq_true, if_false]

theorem needed_eq_nil {ops : List (Nat × Bool × List Nat)} {ks : List Nat} (h : ∀ o ∈ ops, ∀ k ∈ o.2.2, k ∉ ks) : needed ops ks = [] := by
  induction ops with
  | nil => rfl
  | cons o t ih =>
    obtain ⟨ho, ht⟩ := List.forall_mem_cons.mp h
    rw [needed, if_neg (by simpa using ho), ih ht]
/-- Where no earlier operation of the group touches the sectors, none is performed first. -/
theorem forceBefore_of_disjoint {h : Nat} {ks : List Nat} (hd : ∀ o ∈ groupOps s h, o.1 < id → ∀ k ∈ o.2.2, k ∉ ks) :
    forceBefore s h id ks = s := by
  have hn : needed ((groupOps s h).filter (fun o => decide (o.1 < id))).reverse ks = [] := needed_eq_nil (fun o ho => by
    obtain ⟨hm, hlt⟩ := List.mem_filter.mp (List.mem_reverse.mp ho)
    exact hd o hm (of_decide_eq_true hlt))
  unfold forceBefore
  simp only [hn, List.reverse_nil, List.foldl_nil]

/-- No error is reported of a line that has none. -/
theorem tellPend_of_no_err {a : LaneAcc} (h : s.mem.err a.pa = none) : tellPend s p [a] = s := by
  have hr (x : Accessor) : reportErrors s x true p.pc [] [a] = (s, []) := by simp [reportErrors, h]
  unfold tellPend
  rw [hr]
  exact ite_self _

/-- Memory after an AXADD has gone home: its lanes applied, or discarded at a poisoned cell. -/
def axaddHome (m : MemSt) (id pa : Nat) (xs : List (Nat × VCell)) (isInt bnd : Bool) : MemSt :=
  let m' := { m with pend := m.pend.filter (fun q => decide (q.id ≠ id)) }
  if bnd && decide (m'.bound pa = ebPoison) then m' else xs.foldl (fun m x => xa128Add m pa isInt x.2) m'

theorem applyPend_axadd (hp : s.mem.pend.find? (fun q => decide (q.id = id)) = some p) (hk : p.kind = .axadd pa xs isInt bnd)
    (he : s.mem.err pa = none) :
    ∃ bk cs, applyPend s id = { s with banks := bk, cores := cs, mem := axaddHome s.mem id pa xs isInt bnd } := by
  obtain ⟨bk, ht⟩ := touch_eq s p.banks
  have hm (q : List Pend) : ({ s.mem with pend := q } : MemSt).err pa = none := he
  unfold applyPend axaddHome
  rw [hp]
  simp only [hk, ht, hm, Option.isSome_none, Bool.false_or]
  refine ⟨bk, (dropL1 { s with banks := bk } p.core p.sectors).cores, ?_⟩
  split
  next hb =>
    rw [tellPend_of_no_err he]
    rfl
  next hb => rfl

/-! ### The other fields of memory are not of the cell -/

theorem xa128Add_keeps (m : MemSt) (pa : Nat) (isInt : Bool) (x : VCell) :
    xa128Add m pa isInt x = { m with cells := (xa128Add m pa isInt x).cells } := by
  rw [xa128Add_eq, ← cell_bytes_eq, ← setBytes_eq]
theorem foldl_xa128Add_pend (m : MemSt) (pa : Nat) (isInt : Bool) (xs : List (Nat × VCell)) :
    (xs.foldl (fun m x => xa128Add m pa isInt x.2) m).pend = m.pend := by
  induction xs generalizing m with
  | nil => rfl
  | cons x xs ih => rw [List.foldl_cons, ih, xa128Add_keeps]

theorem cells_setBytes_congr {m m' : MemSt} (h : m.cells = m'.cells) (a : Nat) (l : List Byte) :
    (m.setBytes a l).cells = (m'.setBytes a l).cells := by
  induction l generalizing m m' a with
  | nil => exact h
  | cons b l ih => exact ih (by simp only [MemSt.setByte, h]) _
theorem num_congr {m m' : MemSt} (h : m.cells = m'.cells) (a n : Nat) : m.num a n = m'.num a n := by
  simp only [MemSt.num, MemSt.bytes, MemSt.byte, h]
/-- What xa128_add makes of the bytes depends on the bytes alone. -/
theorem cells_xa128Add_congr {m m' : MemSt} (h : m.cells = m'.cells) (pa : Nat) (isInt : Bool) (x : VCell) :
    (xa128Add m pa isInt x).cells = (xa128Add m' pa isInt x).cells := by
  rw [xa128Add_eq, xa128Add_eq, ← cell_bytes_eq, ← cell_bytes_eq, cells_setBytes_congr h]
  simp only [addStat, addBnd, cellStat, cellBnd, cellVal, num_congr h]
theorem cells_foldl_xa128Add_congr {m m' : MemSt} (h : m.cells = m'.cells) (pa : Nat) (isInt : Bool) (xs : List (Nat × VCell)) :
    (xs.foldl (fun m x => xa128Add m pa isInt x.2) m).cells = (xs.foldl (fun m x => xa128Add m pa isInt x.2) m').cells := by
  induction xs generalizing m m' with
  | nil => exact h
  | cons x xs ih => exact ih (cells_xa128Add_congr h pa isInt x.2)

/-- An AXADD's home-coming leaves the queue without it. -/
theorem axaddHome_pend (m : MemSt) (id pa : Nat) (xs : List (Nat × VCell)) (isInt bnd : Bool) :
    (axaddHome m id pa xs isInt bnd).pend = m.pend.filter (fun q => decide (q.id ≠ id)) := by
  unfold axaddHome
  dsimp only
  split
  · rfl
  · rw [foldl_xa128Add_pend]
theorem axaddHome_discarded {m : MemSt} (hb : bnd = true) (hp : m.bound pa = ebPoison) :
    (axaddHome m id pa xs isInt bnd).cells = m.cells ∧ (axaddHome m id pa xs isInt bnd).bounds = m.bounds := by
  have hp' (q : List Pend) : ({ m with pend := q } : MemSt).bound pa = ebPoison := hp
  simp only [axaddHome, hp', hb, decide_true, Bool.and_self, if_true, and_self]
theorem byte_axaddHome {m : MemSt} (hp : bnd = true → m.bound pa ≠ ebPoison) (q : Nat) :
    (axaddHome m id pa xs isInt bnd).byte q = (xs.foldl (fun m x => xa128Add m pa isInt x.2) m).byte q := by
  have hp' (l : List Pend) : ¬ (bnd && decide (({ m with pend := l } : MemSt).bound pa = ebPoison)) = true := by
    rw [Bool.and_eq_true, decide_eq_true_eq]
    exact fun ⟨hbnd, hpois⟩ => hp hbnd hpois
  have hc (l : List Pend) : (xs.foldl (fun m x => xa128Add m pa isInt x.2) { m with pend := l }).cells =
      (xs.foldl (fun m x => xa128Add m pa isInt x.2) m).cells :=
    cells_foldl_xa128Add_congr (m := { m with pend := l }) (m' := m) rfl pa isInt xs
  rw [axaddHome, if_neg (hp' _)]
  exact congrArg (fun cells => Tb.get memDefault cells q) (hc _)

/-- The step of an AXADD that no earlier operation of its group holds up. -/
theorem exec_storeReachesHome_axadd (hp : s.mem.pend.find? (fun q => decide (q.id = id)) = some p) (hk : p.kind = .axadd pa xs isInt bnd)
    (hops : ∀ o ∈ groupOps s p.h, o.1 < id → sectorOf pa ∉ o.2.2) (he : s.mem.err pa = none) (hd : (s.die (dieOf p.core)).off = false)
    (hb : ∀ b, (bankSt s b).1 = .active) :
    ∃ bk cs, exec (.storeReachesHome id) s = .next { s with banks := bk, cores := cs, mem := axaddHome s.mem id pa xs isInt bnd } := by
  have hs : p.sectors = [sectorOf pa] := by rw [Pend.sectors, hk]
  obtain ⟨bk, hh⟩ := homeStep_of_active hp hd hb (by rw [Pend.tears, hk])
  have hf : forceBefore { s with banks := bk } p.h id p.sectors = { s with banks := bk } := forceBefore_of_disjoint (fun o ho hlt k hko hks => by
    rw [hs, List.mem_singleton] at hks
    exact hops o ho hlt (hks ▸ hko))
  obtain ⟨bk', cs, ha⟩ := applyPend_axadd (s := { s with banks := bk }) hp hk he
  refine ⟨bk', cs, ?_⟩
  have hstore : storeHome { s with banks := bk } id = applyPend { s with banks := bk } id := by
    unfold storeHome
    simp only [hp, hf]
  rw [show exec (.storeReachesHome id) s = .next (homeStep s id) from rfl, hh, hstore, ha]

/-- Settles O27: Table 8-5 lane by lane, the cells of XA128, the lanes that are not applied and AXRD, and an AXADD that reaches its cell. -/
theorem atomicResults : Obligations.AtomicResults := by
  refine ⟨fun d b o wd f m a c _ he hb hw => ?_, fun m pa isInt x y => ?_, fun d b o wd f i m a c _ => ?_,
    fun s p pa xs isInt bnd hp hk hops he hd hb => ?_⟩
  · obtain ⟨hadd, hmin, hmax, hand, hor, hxor, hxch, hcas, hfadd⟩ := atomLane_results d b o wd f m a c he hb hw
    exact ⟨hadd, hmin, hmax, hand, hor, hxor, hxch, hcas, fun _ => hfadd⟩
  · refine ⟨fun q hq => byte_xa128Add hq, fun h => xa128Add_special (addendSpecial_iff.mpr h), fun h => ?_,
      num_val_xa128Add_comm m pa isInt x y, fun k hk => testBit_stat_xa128Add_comm hk m pa isInt x y⟩
    obtain ⟨hval, hstat, hbnd⟩ := xa128Add_plain (m := m) (pa := pa) (Bool.eq_false_iff.mpr (mt addendSpecial_iff.mp h))
    refine ⟨hval, fun k => ?_, ?_⟩
    · rw [hstat, cellOv_eq, addendCut_eq_decide]
      rfl
    · rw [hbnd]
      simp only [addendCut_iff]
      rfl
  · refine ⟨fun k => atomLane_of_err, atomLane_of_poison, ?_⟩
    rintro he hp rfl
    exact atomLane_axrd he (laneBound_ne_poison hp)
  · obtain ⟨bk, cs, ht⟩ := exec_storeReachesHome_axadd hp hk hops he hd hb
    exact ⟨_, ht, rfl, axaddHome_pend .., axaddHome_discarded, byte_axaddHome⟩

end Sys2Proof.Machine

namespace Sys2Proof.Machine

/-! ### What an issue adds to its effect -/

/-- A change of the issuing group that keeps the group keeps the state. -/
theorem upG_self {s : State} {f : Group → Group} (h : f s.curG = s.curG) : s.upG f = s := by
  unfold State.upG State.modG
  rw [Tb.modify_id _ _ _ (fun v hv => ?_)]
  have hg : s.curG = v := by simp only [State.curG, State.grp, Tb.get, hv, Option.getD_some]
  rwa [hg] at h

/-- `settle` marks outstanding results of the issuing group (R180), and changes nothing else. -/
theorem settle_outst (s r : State) (i : Instr) :
    ∃ o, settle s i r = r.upG (fun g => { g with outst := o }) ∧ o.map Entry.plain = r.curG.outst.map Entry.plain := by
  unfold settle markContested
  split_ifs with ht ha
  · exact ⟨_, (upG_self rfl).symm, rfl⟩
  · exact ⟨_, (upG_self rfl).symm, rfl⟩
  · refine ⟨_, (upG_const r _).trans (upG_const r (fun g => { g with outst := _ })).symm, ?_⟩
    rw [List.map_map]
    refine List.map_congr_left fun e _ => ?_
    simp only [Function.comp_apply]
    split_ifs <;> rfl

/-- `settle` after a change of the issuing group alone. -/
theorem settle_upG (s : State) (i : Instr) (g' : Group) (hr : (Tb.get? s.work.groups s.cur.h).isSome = true) :
    ∃ o, settle s i (s.upG (fun _ => g')) = s.upG (fun _ => { g' with outst := o }) ∧ o.map Entry.plain = g'.outst.map Entry.plain := by
  obtain ⟨o, he, ho⟩ := settle_outst s (s.upG (fun _ => g')) i
  rw [upG_curG s _ hr] at ho
  exact ⟨o, he.trans (upG_upG s _ _), ho⟩

/-- An instruction without a destination marks no outstanding result, whatever its effect. -/
theorem settle_of_no_writes (s r : State) {i : Instr} (hw : ∀ n, writes n i = []) : settle s i r = r := by
  unfold settle markContested
  split_ifs with ht ha
  · rfl
  · rfl
  · refine modG_id r _ _ (fun g => ?_)
    simp only [destKeys, hw, List.flatMap_nil, List.filter_nil, List.append_nil, ite_self, List.map_id']

/-- After a trap or a stall nothing is marked. -/
theorem settle_trapped (s : State) {r : State} (i : Instr) (h : r.cur.trapped = true) : settle s i r = r := by
  unfold settle
  rw [h, Bool.true_or, if_pos rfl]

@[simp] theorem trap_trapped (s : State) (cause payload : Nat) (m : Mask) (own : Bool) : (trap s cause payload m own).cur.trapped = true := by
  unfold trap
  split
  · rfl
  · rfl

/-! ### Knots and lanes of a group -/

@[simp] theorem setK_k (g : Group) (k j : Nat) (n : Knot) : (g.setK k n).k j = if j = k then n else g.k j := by
  simp only [Group.k, Group.setK, Tb.get_set]
@[simp] theorem setK_lane (g : Group) (k l : Nat) (n : Knot) : (g.setK k n).lane l = g.lane l := rfl
@[simp] theorem setK_lanes (g : Group) (k : Nat) (n : Knot) : (g.setK k n).lanes = g.lanes := rfl

theorem nodup_lanesOf (m : Mask) : (lanesOf m).Nodup := List.nodup_range.filter _

@[simp] theorem setLane_lanes (g : Group) (l : Nat) (f : Lane → Lane) : (g.setLane l f).lanes = g.lanes.modify l f := rfl
theorem setLane_lane (g : Group) (l j : Nat) (f : Lane → Lane) (hj : j < g.lanes.length) :
    (g.setLane l f).lane j = if j = l then f (g.lane j) else g.lane j := by
  simp only [Group.lane, Group.setLane, List.getD_eq_getElem?_getD, List.getElem?_modify, List.getElem?_eq_getElem hj,
    Option.map_eq_map, Option.map_some, Option.getD_some, eq_comm (a := l)]

/-- Changes of lanes, one after the other, change lanes alone. -/
theorem foldl_setLane_eq (f : Nat → Lane → Lane) (ls : List Nat) (g : Group) :
    ls.foldl (fun g l => g.setLane l (f l)) g = { g with lanes := ls.foldl (fun xs l => xs.modify l (f l)) g.lanes } := by
  induction ls generalizing g with
  | nil => rfl
  | cons l ls ih => rw [List.foldl_cons, ih]; rfl
theorem foldl_modify_length (f : Nat → Lane → Lane) (ls : List Nat) (xs : List Lane) :
    (ls.foldl (fun xs l => xs.modify l (f l)) xs).length = xs.length := by
  induction ls generalizing xs with
  | nil => rfl
  | cons l ls ih => rw [List.foldl_cons, ih, List.length_modify]
@[simp] theorem foldl_setLane_length (f : Nat → Lane → Lane) (ls : List Nat) (g : Group) :
    (ls.foldl (fun g l => g.setLane l (f l)) g).lanes.length = g.lanes.length := by
  rw [foldl_setLane_eq, foldl_modify_length]
/-- Each lane of a list without repetition is changed once. -/
theorem foldl_setLane_lane (f : Nat → Lane → Lane) {ls : List Nat} (hn : ls.Nodup) (g : Group) {j : Nat} (hj : j < g.lanes.length) :
    (ls.foldl (fun g l => g.setLane l (f l)) g).lane j = if j ∈ ls then f j (g.lane j) else g.lane j := by
  induction ls generalizing g with
  | nil => simp
  | cons l ls ih =>
    obtain ⟨hl, hn⟩ := List.nodup_cons.1 hn
    rw [List.foldl_cons, ih hn _ (by simpa using hj), setLane_lane _ _ _ _ hj]
    by_cases h : j = l
    · subst h
      simp [hl]
    · simp [h]
@[simp] theorem foldl_setLane_k (f : Nat → Lane → Lane) (ls : List Nat) (g : Group) (k : Nat) :
    (ls.foldl (fun g l => g.setLane l (f l)) g).k k = g.k k := by rw [foldl_setLane_eq]; rfl

/-! ### A knot that takes a new value (R29, R30) -/

/-- A knot takes a value, and is released where that is complete (R30). -/
theorem knotBecomes_settleKnot (g : Group) (k : Nat) (n : Knot) : KnotBecomes g (settleKnot (g.setK k n) k) k n g.lane := by
  have hk : (g.setK k n).k k = n := by simp
  unfold settleKnot releaseKnot
  dsimp only
  rw [hk]
  split
  next hc =>
    have hl := fun l (h : l < g.lanes.length) =>
      foldl_setLane_lane (fun _ x => { x with pc := nextPc n.joinPc, st := .run }) (nodup_lanesOf n.arrived) (g.setK k n) h
    refine ⟨?_, fun l h => ?_, ?_, fun j hj => ?_, ?_, ?_⟩
    · simp
    · rw [setK_lane, hl l h]
      simp [hc, mem_lanesOf]
    · simp [hc]
    · simp [hj]
    · rw [foldl_setLane_eq]; rfl
    · rw [foldl_setLane_eq]; exact ⟨_, _, _, _, rfl⟩
  next hc =>
    refine ⟨rfl, fun l h => ?_, ?_, fun j hj => ?_, rfl, ⟨_, _, _, _, rfl⟩⟩
    · simp [hc]
    · simp [hc]
    · simp [hj]

/-- `KnotBecomes` from a group whose lanes alone differ from the one before. -/
theorem KnotBecomes.of_lanes {g g1 g' : Group} {k : Nat} {n : Knot} {base : Nat → Lane} (h : KnotBecomes g1 g' k n base) {lanes : List Lane}
    (he : g1 = { g with lanes := lanes }) (hl : lanes.length = g.lanes.length) : KnotBecomes g g' k n base := by
  subst he
  obtain ⟨hcount, hlane, hknot, hother, houtst, ls, kn, soft, outst, hrest⟩ := h
  exact ⟨hcount.trans hl, fun l h => hlane l (hl ▸ h), hknot, hother, houtst, ls, kn, soft, outst, hrest⟩
/-- The lanes that a knot leaves alone are given by any function that agrees with them. -/
theorem KnotBecomes.congr {g g' : Group} {k : Nat} {n : Knot} {base base' : Nat → Lane} (h : KnotBecomes g g' k n base)
    (e : ∀ l, l < g.lanes.length → base l = base' l) : KnotBecomes g g' k n base' :=
  { h with lane := fun l hl => by rw [h.lane l hl, e l hl] }
/-- Marks of outstanding results leave the knot's change as it is. -/
theorem KnotBecomes.of_outst {g g' : Group} {k : Nat} {n : Knot} {base : Nat → Lane} (h : KnotBecomes g g' k n base) {o : List Entry}
    (ho : o.map Entry.plain = g'.outst.map Entry.plain) : KnotBecomes g { g' with outst := o } k n base := by
  obtain ⟨hcount, hlane, hknot, hother, houtst, ls, kn, soft, outst, hrest⟩ := h
  exact ⟨hcount, hlane, hknot, hother, ho.trans houtst, ls, kn, soft, o, by rw [hrest]⟩

/-- STRIKE and the strike of lanes that leave (R29, R32). -/
theorem knotBecomes_strikeKnot (g : Group) (k : Nat) (m : Mask) :
    KnotBecomes g (strikeKnot g k m) k (if (g.k k).enrolled &&& ~~~m = 0 then Knot.idle
      else { g.k k with enrolled := (g.k k).enrolled &&& ~~~m, arrived := (g.k k).arrived &&& ~~~m }) g.lane := by
  unfold strikeKnot
  dsimp only
  split
  next he =>
    have hs : g.setK k Knot.idle = settleKnot (g.setK k Knot.idle) k := by
      rw [settleKnot, setK_k, if_pos rfl]
      rfl
    rw [hs]
    exact knotBecomes_settleKnot g k Knot.idle
  next he => exact knotBecomes_settleKnot g k _

/-- REJOIN at the join PC, or where no lane has arrived (R29). -/
theorem knotBecomes_rejoinKnot (g : Group) (k : BitVec 3) (m : Mask) (q : PC) (h : (g.k k.toNat).arrived = 0 ∨ (g.k k.toNat).joinPc = q) :
    KnotBecomes g (rejoinKnot g k.toNat m q) k.toNat
      { g.k k.toNat with joinPc := q, arrived := (g.k k.toNat).arrived ||| (m &&& (g.k k.toNat).enrolled) }
      (fun l => if (m &&& (g.k k.toNat).enrolled).getLsbD l then { g.lane l with pc := q, st := .knot k } else g.lane l) := by
  have hj : (if (g.k k.toNat).arrived = 0 then q else (g.k k.toNat).joinPc) = q := by
    rcases h with h | h
    · rw [if_pos h]
    · rw [h, ite_self]
  unfold rejoinKnot
  dsimp only
  rw [hj, BitVec.ofNat_toNat, BitVec.setWidth_eq]
  refine ((knotBecomes_settleKnot _ k.toNat _).of_lanes (foldl_setLane_eq _ _ g) (foldl_modify_length _ _ _)).congr fun l hl => ?_
  rw [foldl_setLane_lane _ (nodup_lanesOf _) g hl]
  simp [mem_lanesOf]

/-- A word that issues and changes its group, for the group that it leaves. -/
theorem exec_of_body {s : State} {i : Instr} {body : State → State} {g' : Group} (hx : exec i s = issue i s body) (hi : Issuing s i)
    (hb : body s = s.upG (fun _ => g')) :
    ∃ o, exec i s = .next (s.upG (fun _ => { g' with outst := o })) ∧ o.map Entry.plain = g'.outst.map Entry.plain := by
  obtain ⟨o, he, ho⟩ := settle_upG s i g' hi.resident
  exact ⟨o, by rw [hx, issue_passes i s body hi.passes, hb, he], ho⟩

/-- REJOIN (R29): KNOT where the knot's lanes have arrived at another PC. -/
theorem rejoin_eq (k : BitVec 3) (s : State) : exec (.rejoin k) s = issue (.rejoin k) s (fun s =>
    if (s.curG.k k.toNat).arrived ≠ 0 ∧ (s.curG.k k.toNat).joinPc ≠ s.cur.wpc then trap s 0x26 k.toNat s.cur.mask true
    else s.upG (fun g => rejoinKnot g k.toNat s.cur.mask s.cur.wpc)) := rfl

/-- Settles O10: each instruction changes its knot as `enrolKnot`, `rejoinKnot` and `strikeKnot` say, and marks outstanding results. -/
theorem knotOperations : Obligations.KnotOperations := by
  intro k s
  refine ⟨fun hi => ?_, fun hi hj => ?_, fun hi => ?_⟩
  · obtain ⟨o, he, ho⟩ := exec_of_body (body := fun s => s.upG (fun g => enrolKnot g k.toNat s.cur.mask)) rfl hi (upG_const s _)
    refine ⟨_, he, ?_, fun j hj => ?_, ho, _, _, o, rfl⟩
    · exact (setK_k _ _ _ _).trans (if_pos rfl)
    · exact (setK_k _ _ _ _).trans (if_neg hj)
  · have hb : ¬ ((s.curG.k k.toNat).arrived ≠ 0 ∧ (s.curG.k k.toNat).joinPc ≠ s.cur.wpc) := by tauto
    obtain ⟨o, he, ho⟩ := exec_of_body (rejoin_eq k s) hi ((if_neg hb).trans (upG_const s _))
    exact ⟨_, he, (knotBecomes_rejoinKnot s.curG k s.cur.mask s.cur.wpc hj).of_outst ho⟩
  · obtain ⟨o, he, ho⟩ := exec_of_body (body := fun s => s.upG (fun g => strikeKnot g k.toNat s.cur.mask)) rfl hi (upG_const s _)
    exact ⟨_, he, (knotBecomes_strikeKnot s.curG k.toNat s.cur.mask).of_outst ho⟩

/-! ### Words without results -/

/-- A word whose effect and destinations are none. -/
theorem exec_of_id {s : State} {i : Instr} (hx : exec i s = issue i s id) (hw : ∀ n, writes n i = []) (hi : Issuing s i) : exec i s = .next s := by
  rw [hx, issue_passes i s id hi.passes, settle_of_no_writes _ _ hw]
  rfl
/-- A word without destinations has its effect alone. -/
theorem exec_of_no_writes {s : State} {i : Instr} {body : State → State} (hx : exec i s = issue i s body) (hw : ∀ n, writes n i = [])
    (hi : Issuing s i) : exec i s = .next (body s) := by
  rw [hx, issue_passes i s body hi.passes, settle_of_no_writes _ _ hw]

/-- YIELD (R37). -/
theorem exec_yield {s : State} (hi : Issuing s .yield) : exec .yield s = .next (
    if preqOf s s.cur.rd then s.upG (fun g => { g with ctl := { g.ctl with saving := true } }) else s) :=
  exec_of_no_writes (body := fun s => if preqOf s s.cur.rd then s.upG (fun g => { g with ctl := { g.ctl with saving := true } }) else s) rfl
    (fun _ => rfl) hi
/-- SWSR (R54, R57): STATUS, CHANDLER, and every other number. -/
theorem exec_swsr {n : BitVec 10} {r : Reg} {s : State} (hi : Issuing s (.swsr n r)) : exec (.swsr n r) s = .next (
    if n = 3 then s.upG (fun g => { g with sp := { g.sp with flags := g.sp.flags &&& ~~~((s.cur.rd.s s.pk r.toNat).data.setWidth 5) } })
    else if n = 7 ∧ (s.cur.rd.s s.pk r.toNat).data.toNat % 4 ≠ 3 then
      s.upG (fun g => { g with sp := { g.sp with chandler := (s.cur.rd.s s.pk r.toNat).data.setWidth 48 } })
    else illegal s) := by
  rw [exec_of_no_writes (i := .swsr n r) (body := fun s =>
    if n = 3 then s.upG (fun g => { g with sp := { g.sp with flags := g.sp.flags &&& ~~~(BitVec.ofNat 5 (s.os r).v) } })
    else if n = 7 ∧ (s.os r).v % 4 ≠ 3 then s.upG (fun g => { g with sp := { g.sp with chandler := BitVec.ofNat 48 (s.os r).v } })
    else illegal s) rfl (fun _ => rfl) hi]
  simp only [State.os, Opd.ofS, BitVec.ofNat_toNat]

/-- Settles O11: words without destinations have their effect alone, which is none, or a change of a special register. -/
theorem wordsWithoutResults : Obligations.WordsWithoutResults := by
  refine ⟨fun l b o a c amb i hm s => ⟨fun hi => ?_, fun hi hq => ?_⟩, fun s hi hq => ?_, fun n r s hi => ⟨fun hn => ?_, fun hn hv => ?_, fun h3 h7 => ?_⟩⟩
  · simp only [List.mem_cons, List.not_mem_nil, or_false] at hm
    rcases hm with rfl | rfl | rfl | rfl | rfl | rfl <;> exact exec_of_id rfl (fun _ => rfl) hi
  · rw [exec_yield hi, if_neg (by rw [hq]; decide)]
  · rw [exec_yield hi, if_pos hq]
  · rw [exec_swsr hi, if_pos hn]
  · rw [exec_swsr hi, if_neg (by rw [hn]; decide), if_pos ⟨hn, hv⟩]
  · rw [exec_swsr hi, if_neg h3, if_neg (by rintro ⟨h, hv⟩; exact h7.elim (absurd h) hv)]

end Sys2Proof.Machine

namespace Sys2Proof.Machine

/-! ### Tables by number, masks and pairs -/

/-- A table of the numbers below n. -/
theorem Tb.get_map_range {α : Type} (d : α) (f : Nat → α) {n k : Nat} (hk : k < n) : Tb.get d ((List.range n).map (fun i => (i, f i))) k = f k := by
  have key : ∀ (xs : List Nat), k ∈ xs → Tb.get? (xs.map (fun i => (i, f i))) k = some (f k) := by
    intro xs hx
    induction xs with
    | nil => cases hx
    | cons x xs ih =>
      rw [List.map_cons, Tb.get?]
      split
      next h => rw [h]
      next h => exact ih ((List.mem_cons.1 hx).resolve_left (Ne.symm h))
  rw [Tb.get, key _ (List.mem_range.2 hk), Option.getD_some]

theorem getLsbD_maskOf (ls : List Nat) (l : Nat) : (maskOf ls).getLsbD l = decide (l < 64 ∧ l ∈ ls) := by
  have key : ∀ (m : Mask), (ls.foldl (fun m l => m ||| ((1 : Mask) <<< l)) m).getLsbD l = (m.getLsbD l || decide (l < 64 ∧ l ∈ ls)) := by
    induction ls with
    | nil => simp
    | cons x ls ih =>
      intro m
      rw [List.foldl_cons, ih, BitVec.getLsbD_or, BitVec.getLsbD_shiftLeft, Bool.or_assoc]
      congr 1
      by_cases h64 : l < 64
      · rcases Nat.lt_trichotomy l x with h | h | h
        · simp [h, h.ne]
        · subst h
          simp [h64]
        · simp [h64, h.ne', Nat.not_lt.2 h.le, Nat.sub_ne_zero_of_lt h]
      · simp [h64]
  rw [maskOf, key]
  simp

@[simp] theorem maskOf_lanesOf (m : Mask) : maskOf (lanesOf m) = m := by
  refine BitVec.eq_of_getLsbD_eq fun l hl => ?_
  rw [getLsbD_maskOf]
  simp [hl, mem_lanesOf]

/-- Lanes of a mask that pass a test. -/
theorem lanesOf_filter {m m' : Mask} {p : Nat → Bool} (h : ∀ l, m'.getLsbD l = (m.getLsbD l && p l)) : (lanesOf m).filter p = lanesOf m' := by
  rw [lanesOf, lanesOf, List.filter_filter]
  exact List.filter_congr fun l _ => by rw [h, Bool.and_comm]
/-- The lowest lane of a mask. -/
theorem head?_lanesOf {m : Mask} {l : Nat} (h : m.getLsbD l = true) (hlow : ∀ j, j < l → m.getLsbD j = false) : (lanesOf m).head? = some l := by
  rw [lanesOf, List.head?_filter, List.find?_range_eq_some]
  exact ⟨h, List.mem_range.2 (lanesOf_lt m l ((mem_lanesOf m l).2 h)), fun j hj => by rw [hlow j hj]; rfl⟩
theorem head?_lanesOf_of_ne_zero {m : Mask} (h : m ≠ 0) : ∃ l, (lanesOf m).head? = some l := by
  cases hl : lanesOf m with
  | nil =>
    have := maskOf_lanesOf m
    rw [hl] at this
    exact absurd this.symm h
  | cons l ls => exact ⟨l, rfl⟩

/-- The four bytes of a word. -/
theorem ofBytes_append (a b : List Byte) : ofBytes (a ++ b) = ofBytes a + 256 ^ a.length * ofBytes b := by
  induction a with
  | nil => simp [ofBytes]
  | cons x a ih => rw [List.cons_append, ofBytes, ofBytes, ih, List.length_cons, pow_succ]; ring
/-- A pair operand as a number (R47). -/
theorem ofVs_pair (x y : VCell) : (Opd.ofVs [x, y]).v = x.data.toNat + 2 ^ 32 * y.data.toNat := by
  simp only [Opd.ofVs, List.flatMap_cons, List.flatMap_nil, List.append_nil, ofBytes_append, ofBytes_toBytes, toBytes_length]
  rw [Nat.mod_eq_of_lt (by simpa using x.data.isLt), Nat.mod_eq_of_lt (by simpa using y.data.isLt)]
  rfl
/-- The PC that a pair holds. -/
theorem ofNat_ofVs_pair (x y : VCell) : BitVec.ofNat 48 (Opd.ofVs [x, y]).v = (y.data ++ x.data).setWidth 48 := by
  rw [ofVs_pair]
  apply BitVec.eq_of_toNat_eq
  rw [BitVec.toNat_ofNat, BitVec.toNat_setWidth, BitVec.toNat_append, Nat.add_comm, ← Nat.shiftLeft_add_eq_or_of_lt x.data.isLt, Nat.shiftLeft_eq,
    Nat.mul_comm]

theorem wrap_lt (w : Nat) (z : Int) : wrap w z < 2 ^ w := by
  have hp : (0 : Int) < 2 ^ w := by positivity
  have h0 := Int.emod_nonneg z hp.ne'
  have h1 := Int.emod_lt_of_pos z hp
  rw [wrap]
  zify
  rwa [Int.toNat_of_nonneg h0]
/-- The target of a relative branch (R61, R172). -/
theorem targetOf_eq_branchTo {w : Nat} (s : State) (o : BitVec w) (q : BitVec 2) : targetOf s o.toInt q.toNat = branchTo s o q := by
  apply BitVec.eq_of_toNat_eq
  have hp : packetOf s.cur.wpc = ((s.cur.wpc >>> 2).setWidth 46).toNat := by
    rw [BitVec.toNat_setWidth, BitVec.toNat_ushiftRight, Nat.shiftRight_eq_div_pow]
    have := s.cur.wpc.isLt
    exact (Nat.mod_eq_of_lt (by omega : s.cur.wpc.toNat / 2 ^ 2 < 2 ^ 46)).symm
  have hw : wrap 46 ((packetOf s.cur.wpc : Int) + o.toInt) = ((s.cur.wpc >>> 2).setWidth 46 + o.signExtend 46).toNat := by
    rw [← Nat.mod_eq_of_lt (wrap_lt 46 _), ← BitVec.toNat_ofNat, ofNat_wrap, hp, BitVec.ofInt_add, BitVec.ofInt_natCast, BitVec.ofNat_toNat,
      BitVec.setWidth_eq]
    rfl
  rw [targetOf, mkPc, hw, branchTo, BitVec.toNat_ofNat, BitVec.toNat_append, ← Nat.shiftLeft_add_eq_or_of_lt q.isLt, Nat.shiftLeft_eq]
  have := ((s.cur.wpc >>> 2).setWidth 46 + o.signExtend 46).isLt
  omega


/-- Two changes that agree on the group give the same state. -/
theorem modG_congr (s : State) (h : Nat) {f f' : Group → Group} (e : f (s.grp h) = f' (s.grp h)) : s.modG h f = s.modG h f' := by
  unfold State.modG
  rw [Tb.modify_congr _ _ _ _ (fun v hv => ?_)]
  have hg : s.grp h = v := by simp only [State.grp, Tb.get, hv, Option.getD_some]
  rwa [hg] at e

/-! ### Trap entry from user mode (R319, R325, R326) -/

/-- No lane of an empty mask has results to write. -/
theorem writeResults_zero (s : State) (h : Nat) {e : Entry} (he : ∀ d, e.instr ≠ .frqpop d) : writeResults s h e 0 = s := by
  unfold writeResults
  split
  next d hd => exact absurd hd (he d)
  next => rfl
/-- A result performed whole, or not at all, is captured without a change of the state. -/
theorem captureEntry_whole (s : State) (h : Nat) {e : Entry} (hf : ∀ d, e.instr ≠ .frqpop d) (hp : e.ready = true ∨ e.performed = 0) :
    captureEntry s h e = (s, capturedOf (s.grp h) e) := by
  unfold captureEntry capturedOf
  split
  next hr => rfl
  next hr =>
    have h0 := hp.resolve_left hr
    have hm : e.mask &&& e.performed = 0 := by rw [h0]; exact BitVec.and_zero
    have hn : e.mask &&& ~~~e.performed = e.mask := by rw [h0]; exact BitVec.and_allOnes
    rw [hm, hn, writeResults_zero s h hf, h0]

theorem capture_whole (s : State) (h : Nat) (hw : (s.grp h).whole) :
    capture s h none = s.modG h (fun g => { g with replay := (s.grp h).outst.map (capturedOf (s.grp h)), outst := [] }) := by
  have key : ∀ (es q : List Entry), (∀ e ∈ es, e ∈ (s.grp h).outst) →
      es.foldl (fun (p : State × List Entry) e => ((captureEntry p.1 h e).1, p.2 ++ [(captureEntry p.1 h e).2])) (s, q) =
        (s, q ++ es.map (capturedOf (s.grp h))) := by
    intro es
    induction es with
    | nil => simp
    | cons e es ih =>
      intro q he
      obtain ⟨hf, hp⟩ := hw e (he e (by simp))
      rw [List.foldl_cons, captureEntry_whole s h hf hp, ih _ (fun x hx => he x (by simp [hx])), List.map_cons, List.append_assoc]
      rfl
  have hall : (s.grp h).outst.filter (fun e => decide (some e.id ≠ none)) ++ (s.grp h).outst.filter (fun e => decide (some e.id = none)) =
      (s.grp h).outst := by simp
  unfold capture
  dsimp only
  rw [hall]
  have := key (s.grp h).outst [] (fun _ h => h)
  rw [this]
  rfl

/-! #### The bank (R318, R319) -/

/-- Writes of consecutive uniform registers. -/
theorem foldl_setS_eq (f : Nat → SCell) (n : Nat) (ks : List Nat) (g : Group) :
    ∃ s soft, ks.foldl (fun g i => g.setS (n + i) (f i)) g = { g with r := { g.r with s := s }, soft := soft } ∧
      ∀ j, Tb.get SCell.zero s j = if n ≤ j ∧ j - n ∈ ks then f (j - n) else g.sAt j := by
  induction ks generalizing g with
  | nil => exact ⟨g.r.s, g.soft, rfl, fun j => by simp; rfl⟩
  | cons k ks ih =>
    obtain ⟨s, soft, he, hs⟩ := ih (g.setS (n + k) (f k))
    refine ⟨s, soft, he, fun j => ?_⟩
    rw [hs j]
    simp only [Group.sAt, Group.setS, Tb.get_set, List.mem_cons]
    by_cases hj : j = n + k
    · subst hj; simp
    · have : ¬ (n ≤ j ∧ j - n = k) := by omega
      by_cases hk : n ≤ j ∧ j - n ∈ ks
      · rw [if_pos hk, if_pos ⟨hk.1, .inr hk.2⟩]
      · rw [if_neg hk, if_neg hj, if_neg (by tauto)]
/-- Writes of one predicate in consecutive lanes. -/
theorem foldl_setP_eq (n : Nat) (hn : n ≠ 0) (b : Byte) (ls : List Nat) (g : Group) :
    ∃ p soft, ls.foldl (fun g l => g.setP n l b) g = { g with r := { g.r with p := p }, soft := soft } ∧
      ∀ j, Tb.get 0 p j = if 64 * n ≤ j ∧ j - 64 * n ∈ ls then b else Tb.get 0 g.r.p j := by
  induction ls generalizing g with
  | nil => exact ⟨g.r.p, g.soft, rfl, fun j => by simp⟩
  | cons l ls ih =>
    obtain ⟨p, soft, he, hp⟩ := ih (g.setP n l b)
    have hg : g.setP n l b = { g with r := { g.r with p := Tb.set 0 g.r.p (64 * n + l) b }, soft := (g.setP n l b).soft } := by
      rw [Group.setP, if_neg hn]
    refine ⟨p, soft, ?_, fun j => ?_⟩
    · rw [List.foldl_cons, he, hg]
    rw [hp j, hg]
    simp only [Tb.get_set, List.mem_cons]
    by_cases hj : j = 64 * n + l
    · subst hj; simp
    · have : ¬ (64 * n ≤ j ∧ j - 64 * n = l) := by omega
      by_cases hk : 64 * n ≤ j ∧ j - 64 * n ∈ ls
      · rw [if_pos hk, if_pos ⟨hk.1, .inr hk.2⟩]
      · rw [if_neg hk, if_neg hj, if_neg (by tauto)]

/-- `g'` is `g` with the bank in place (R319): s56 holds the save area, the other registers of the bank 0, and the user's values are kept. -/
structure BankIn (area : Nat) (g g' : Group) : Prop where
  rest : ∃ s p b bank soft, g' = { g with r := { g.r with s := s, p := p, b := b }, bank := bank, soft := soft }
  bankS : ∀ n, n < 8 → Tb.get SCell.zero g'.bank.s n = g.sAt (56 + n)
  bankP : ∀ l, l < g.width → Tb.get 0 g'.bank.p l = Tb.get 0 g.r.p (448 + l)
  bankB : g'.bank.b = g.b 7
  uni : ∀ n, g'.sAt n = if n = 56 then SCell.exact area else if 56 < n ∧ n < 64 then SCell.zero else g.sAt n
  preds : ∀ n, Tb.get 0 g'.r.p n = if 448 ≤ n ∧ n < 448 + g.width then 0 else Tb.get 0 g.r.p n
  bregs : ∀ n, g'.b n = if n = 7 then BReg.zero else g.b n

theorem bankIn_swapIn (area : Nat) (g : Group) : BankIn area g (swapIn area g) := by
  unfold swapIn
  dsimp only
  obtain ⟨s, soft, hes, hs⟩ := foldl_setS_eq (fun i => SCell.exact (if i = 0 then area else 0)) 56 (List.range 8)
    { g with bank := ⟨(List.range 8).map (fun i => (i, Tb.get SCell.zero g.r.s (56 + i))),
      (List.range g.width).map (fun l => (l, Tb.get 0 g.r.p (448 + l))), g.b 7, g.soft.filter inBank⟩ }
  rw [hes]
  obtain ⟨p, soft', hep, hp⟩ := foldl_setP_eq 7 (by decide) 0 (List.range g.width)
    { g with
      bank := ⟨(List.range 8).map (fun i => (i, Tb.get SCell.zero g.r.s (56 + i))),
        (List.range g.width).map (fun l => (l, Tb.get 0 g.r.p (448 + l))), g.b 7, g.soft.filter inBank⟩
      r := { g.r with s := s }
      soft := soft }
  rw [hep]
  refine ⟨⟨_, _, _, _, _, rfl⟩, fun n hn => Tb.get_map_range _ (fun i => Tb.get SCell.zero g.r.s (56 + i)) hn,
    fun l hl => Tb.get_map_range _ (fun l => Tb.get 0 g.r.p (448 + l)) hl, rfl, fun n => ?_, fun n => ?_, fun n => ?_⟩
  · refine (hs n).trans ?_
    simp only [List.mem_range]
    by_cases h56 : n = 56
    · subst h56; rfl
    · rw [if_neg h56]
      by_cases hn : 56 < n ∧ n < 64
      · rw [if_pos (by omega), if_pos hn, if_neg (by omega)]; rfl
      · rw [if_neg (by omega), if_neg hn]; rfl
  · refine (hp n).trans ?_
    simp only [List.mem_range]
    by_cases hn : 448 ≤ n ∧ n < 448 + g.width
    · rw [if_pos (by omega), if_pos hn]
    · rw [if_neg (by omega), if_neg hn]
  · simp only [Group.b, Group.setB, Tb.get_set]

/-! #### The entry -/

/-- A lane at trap entry (R325): DONE stays, any other runs at the vector with its PC and state saved. -/
def enteredLane (v : PC) (m : Mask) (epc : Option PC) (l : Nat) (x : Lane) : Lane :=
  if x.st = .done then { x with lst := .done }
  else { x with epc := (match epc with | some q => if m.getLsbD l then q else x.pc | none => x.pc), lst := x.st, pc := v, st := .run }

/-- The group of `g` after trap entry, before the bank is in place. -/
def enteredGroup (v : PC) (s : State) (g : Group) (cause payload slot : Nat) (forced : Bool) (m pcm : Mask) (tpc : PC) (epc : Option PC) : Group :=
  { g with
    replay := g.outst.map (capturedOf g)
    outst := []
    frame := ⟨BitVec.ofNat 11 (b2n forced * 1024 + slot * 256 + cause), BitVec.ofNat 64 payload, m, pcm, tpc, BitVec.ofNat 64 s.now, 0⟩
    lanes := g.lanes.mapIdx (enteredLane v m epc)
    waits := []
    rejected := none
    sp := { g.sp with sv := true }
    ctl := { g.ctl with rom := if s.dev.romVecs.getLsbD cause then some cause else none, romWork := [], userMarker := g.ctl.marker, marker := false,
                        userWaits := g.waits } }

/-- Trap entry changes the group alone (R325), where its outstanding results are whole. -/
theorem enterAt_whole (v : PC) (s : State) (h cause payload slot : Nat) (forced : Bool) (m pcm : Mask) (tpc : PC) (epc : Option PC)
    (hr : (Tb.get? s.work.groups h).isSome = true) (hw : (s.grp h).whole) :
    enterAt v s h cause payload slot forced m pcm tpc epc none =
      s.modG h (fun _ => swapIn (saveArea s (s.grp h)) (enteredGroup v s (s.grp h) cause payload slot forced m pcm tpc epc)) := by
  unfold enterAt
  rw [capture_whole s h hw]
  dsimp only
  rw [modG_modG, modG_grp _ _ _ _ hr, if_pos rfl]
  exact modG_congr s h rfl

/-- The lanes of an issue that has no effect hold the chain's first PC again (R45). -/
theorem unissue_eq (s : State) : unissue s = s.upG (fun _ => { s.curG with
    lanes := (lanesOf s.cur.mask).foldl (fun xs l => xs.modify l (fun x => { x with pc := s.cur.pc })) s.curG.lanes }) := by
  rw [unissue, upG_const, foldl_setLane_eq]
theorem unissue_curG (s : State) (hr : (Tb.get? s.work.groups s.cur.h).isSome = true) : (unissue s).curG = { s.curG with
    lanes := (lanesOf s.cur.mask).foldl (fun xs l => xs.modify l (fun x => { x with pc := s.cur.pc })) s.curG.lanes } := by
  rw [unissue_eq, upG_curG s _ hr]
theorem unissue_lane (s : State) (hr : (Tb.get? s.work.groups s.cur.h).isSome = true) {l : Nat} (hl : l < s.curG.lanes.length) :
    (unissue s).curG.lane l = { s.curG.lane l with pc := if s.cur.mask.getLsbD l then s.cur.pc else (s.curG.lane l).pc } := by
  rw [unissue, upG_curG s _ hr, foldl_setLane_lane _ (nodup_lanesOf _) _ hl]
  simp only [mem_lanesOf]
  split_ifs <;> rfl
theorem unissue_length (s : State) (hr : (Tb.get? s.work.groups s.cur.h).isSome = true) :
    (unissue s).curG.lanes.length = s.curG.lanes.length := by
  rw [unissue_curG s hr]
  exact foldl_modify_length _ _ _

theorem enteredGroup_lane (v : PC) (s : State) (g : Group) (cause payload slot : Nat) (forced : Bool) (m pcm : Mask) (tpc : PC) (epc : Option PC)
    {l : Nat} (hl : l < g.lanes.length) :
    (enteredGroup v s g cause payload slot forced m pcm tpc epc).lane l = enteredLane v m epc l (g.lane l) := by
  simp [Group.lane, enteredGroup, List.getD_eq_getElem?_getD, hl]

/-- The trap entry of an issue without effect (R325), at the vector of its cause. -/
theorem enterAt_taken (s : State) (cause payload : Nat) (m : Mask) (q : PC) (hr : (Tb.get? s.work.groups s.cur.h).isSome = true) (hw : s.curG.whole) :
    let t := enterAt (vectorPc s cause) (unissue s) s.cur.h cause payload (chainSlot s s.cur.wpc) false m 0 q (some q) none
    TrapTaken s { t with cur := { t.cur with trapped := true } } cause payload m q := by
  have hur : (Tb.get? (unissue s).work.groups s.cur.h).isSome = true := (upG_resident s _ _).trans hr
  have hug : (unissue s).grp s.cur.h = (unissue s).curG := rfl
  have huw : ((unissue s).grp s.cur.h).whole := by
    rw [hug, unissue_curG s hr]
    exact hw
  dsimp only
  rw [enterAt_whole _ _ _ _ _ _ _ _ _ _ _ hur huw, hug]
  obtain ⟨⟨rs, rp, rb, bank, soft, hrest⟩, hbankS, hbankP, hbankB, huni, hpreds, hbregs⟩ := bankIn_swapIn (saveArea (unissue s) (unissue s).curG)
    (enteredGroup (vectorPc s cause) (unissue s) (unissue s).curG cause payload (chainSlot s s.cur.wpc) false m 0 q (some q))
  generalize hG : swapIn (saveArea (unissue s) (unissue s).curG)
    (enteredGroup (vectorPc s cause) (unissue s) (unissue s).curG cause payload (chainSlot s s.cur.wpc) false m 0 q (some q)) = G at *
  suffices h : ∀ t : State, t = { (unissue s).modG s.cur.h (fun _ => G) with cur := { s.cur with trapped := true } } → TrapTaken s t cause payload m q from
    h _ rfl
  intro t ht
  have hcur : t.curG = G := by
    subst ht
    exact (modG_grp (unissue s) s.cur.h s.cur.h _ hur).trans (if_pos rfl)
  have hu := unissue_curG s hr
  refine ⟨⟨G, ?_⟩, ?_, ?_, fun l hl => ?_, ?_, ?_, ?_, ?_, ?_, ?_, ?_, ?_, ?_, ?_⟩
  · exact ht.trans (congrArg (fun x : State => { x with cur := { s.cur with trapped := true } }) (modG_modG s s.cur.h _ _))
  all_goals rw [hcur]
  · rw [hrest]; simp [enteredGroup, b2n, unissue]
  · rw [hrest]
    exact List.length_mapIdx.trans (unissue_length s hr)
  · have hlane : G.lane l = enteredLane (vectorPc s cause) m (some q) l ((unissue s).curG.lane l) := by
      rw [hrest]
      exact enteredGroup_lane (vectorPc s cause) (unissue s) (unissue s).curG cause payload (chainSlot s s.cur.wpc) false m 0 q (some q)
        ((unissue_length s hr).symm ▸ hl)
    rw [hlane, unissue_lane s hr hl, enteredLane]
    dsimp only
    split
    next hd => rw [hd]
    next hd => rfl
  · rw [hrest]
    simp [enteredGroup, hu]
  · intro n hn
    rw [hbankS n hn, enteredGroup, hu]
    rfl
  · intro l hl
    rw [hbankP l (by rw [enteredGroup, hu]; exact hl), enteredGroup, hu]
  · rw [hbankB, enteredGroup, hu]
    rfl
  · intro n
    rw [huni n, enteredGroup, hu]
    rfl
  · intro n
    rw [hpreds n, enteredGroup, hu]
  · intro n
    rw [hbregs n, enteredGroup, hu]
    rfl
  · rw [hrest, enteredGroup, hu]
    exact ⟨rfl, rfl, rfl, rfl⟩
  · rw [hrest, enteredGroup, hu]
    exact ⟨rfl, rfl⟩
  · rw [hrest, enteredGroup, hu]
    exact ⟨rfl, rfl⟩

/-- A trap from user mode (R325), whose vector is no PC of slot 3. -/
theorem trap_taken {s : State} {cause payload : Nat} {m : Mask} {own : Bool} (hr : (Tb.get? s.work.groups s.cur.h).isSome = true)
    (hsv : s.curG.sp.sv = false) (hw : s.curG.whole) (hv : slotOf (vectorPc s cause) ≠ 3) :
    TrapTaken s (trap s cause payload m own) cause payload m (if own then s.cur.wpc else s.cur.pc) := by
  have h := enterAt_taken s cause payload m (if own then s.cur.wpc else s.cur.pc) hr hw
  have hv' : slotOf (vectorPc (unissue s) cause) ≠ 3 := hv
  unfold trap enterSupervisor
  rw [hsv, if_neg Bool.false_ne_true]
  dsimp only
  rw [if_pos hv']
  exact h

/-! ### Words and transfers that trap (R29, R61, R177, R222) -/

/-- A word whose effect is a trap of user mode. -/
theorem exec_trap_taken {s : State} {i : Instr} {body : State → State} {cause payload : Nat} {m : Mask} {own : Bool} (hx : exec i s = issue i s body)
    (hi : Issuing s i) (hb : body s = trap s cause payload m own) (hu : s.user) (hw : s.curG.whole) (hv : s.canEnter cause) :
    ∃ t, exec i s = .next t ∧ TrapTaken s t cause payload m (if own then s.cur.wpc else s.cur.pc) := by
  refine ⟨_, ?_, trap_taken hi.resident hu.2 hw hv.1⟩
  rw [hx, issue_passes i s body hi.passes, hb, settle_trapped _ _ (trap_trapped ..)]

/-- The lanes of a mask with their targets, of which those of `bad` have slot 3. -/
theorem misaligned_lanes {m bad : Mask} {q : Nat → PC} (h : ∀ l, bad.getLsbD l = (m.getLsbD l && decide (slotOf (q l) = 3))) :
    misaligned ((lanesOf m).map (fun l => (l, q l))) = (lanesOf bad).map (fun l => (l, q l)) := by
  rw [misaligned, List.filter_map]
  exact congrArg _ (lanesOf_filter h)
/-- A transfer of which some targets have slot 3 is a MISPC of their lanes, with the lowest lane's target (R61). -/
theorem transfer_misaligned {s : State} {m bad : Mask} {q : Nat → PC} {l : Nat}
    (h : ∀ l, bad.getLsbD l = (m.getLsbD l && decide (slotOf (q l) = 3))) (hl : (lanesOf bad).head? = some l) :
    transfer s ((lanesOf m).map (fun l => (l, q l))) = trap s 0x25 (q l).toNat bad true := by
  have hne : misaligned ((lanesOf m).map (fun l => (l, q l))) ≠ [] := by
    rw [misaligned_lanes h]
    intro hn
    rw [List.map_eq_nil_iff.1 hn] at hl
    cases hl
  rw [transfer, if_neg hne, mispc]
  simp only [misaligned_lanes h, List.head?_map, hl, Option.map_some, Option.getD_some, List.map_map, Function.comp_def, List.map_id',
    maskOf_lanesOf]
/-- A transfer of every lane of a mask to one target of slot 3. -/
theorem transfer_all_misaligned {s : State} {m : Mask} {q : PC} (hm : m ≠ 0) (hq : slotOf q = 3) :
    transfer s ((lanesOf m).map (fun l => (l, q))) = trap s 0x25 q.toNat m true := by
  obtain ⟨l, hl⟩ := head?_lanesOf_of_ne_zero hm
  exact transfer_misaligned (q := fun _ => q) (fun l => by rw [decide_eq_true hq, Bool.and_true]) hl

theorem slotOf_branchTo {w : Nat} (s : State) (o : BitVec w) (q : BitVec 2) : slotOf (branchTo s o q) = q.toNat := by
  rw [slotOf, branchTo, BitVec.toNat_append, ← Nat.shiftLeft_add_eq_or_of_lt q.isLt, Nat.shiftLeft_eq]
  have := q.isLt
  omega
/-- A relative branch of every lane of a mask to slot 3. -/
theorem transfer_branch_misaligned {w : Nat} {s : State} {m : Mask} (o : BitVec w) (hm : m ≠ 0) :
    transfer s ((lanesOf m).map (fun l => (l, targetOf s o.toInt 3))) = trap s 0x25 (branchTo s o 3).toNat m true := by
  have ht : targetOf s o.toInt 3 = branchTo s o 3 := targetOf_eq_branchTo s o 3
  rw [ht]
  exact transfer_all_misaligned hm (slotOf_branchTo s o 3)
theorem pairTargets_eq (s : State) (a : Reg) :
    pairTargets s a = (lanesOf s.cur.mask).map (fun l => (l, ((s.rvN (a.toNat + 1) l).data ++ (s.rvN a.toNat l).data).setWidth 48)) := by
  simp only [pairTargets, State.opair, ofNat_ofVs_pair]

/-- BRC (R217). -/
theorem brc_eq (p : BitVec 3) (o : BitVec 16) (q : BitVec 2) (sense : Bool) (s : State) : exec (.brc p o q sense) s = issue (.brc p o q sense) s (fun s =>
    transfer s (((lanesOf s.cur.mask).filter (fun l => pVal (s.op p l) != sense)).map (fun l => (l, targetOf s o.toInt q.toNat)))) := rfl
/-- CALL (R219): a target of slot 3 transfers no lane; any other lets the lanes go with the link pair written. -/
theorem call_eq (o : BitVec 20) (q : BitVec 2) (s : State) : exec (.call o q) s = issue (.call o q) s (fun s =>
    if slotOf (targetOf s o.toInt q.toNat) = 3 then transferAll s (targetOf s o.toInt q.toNat)
    else transferAll (s.upG (fun g =>
      (g.setVs (s.cur.rd.regs - 2) ((lanesOf s.cur.mask).map (fun l => (l, VCell.exact (nextPc s.cur.wpc).toNat)))).setVs (s.cur.rd.regs - 1)
        ((lanesOf s.cur.mask).map (fun l => (l, VCell.exact ((nextPc s.cur.wpc).toNat / 2 ^ 32)))))) (targetOf s o.toInt q.toNat)) := rfl
/-- RET (R219, R127). -/
theorem ret_eq (r : Reg) (s : State) : exec (.ret r) s = issue (.ret r) s (fun s =>
    if s.cur.rd.sp.hnd && !s.cur.rd.sp.sv then
      if slotOf (BitVec.ofNat 48 (s.osN 63).v) = 3 then transferAll s (BitVec.ofNat 48 (s.osN 63).v)
      else (transferAll s (BitVec.ofNat 48 (s.osN 63).v)).upG (fun g => { g with sp := { g.sp with hnd := false, hndMask := 0 } })
    else transfer s (pairTargets s r)) := rfl

/-- The lanes of an ITEM that found no item leave at the exit target, and are struck from the knot where it names them (R34). -/
def itemMisses (s : State) (k : Nat) (q : PC) (miss : Mask) : State :=
  (transfer s ((lanesOf miss).map (fun l => (l, q)))).upG (fun g =>
    if miss &&& (g.k k).enrolled = 0 then g else strikeKnot g k (miss &&& (g.k k).enrolled))
/-- The result that an ITEM leaves outstanding for the lanes with an item (R34, R179). -/
def itemHits (s : State) (i : Instr) (got : List (Nat × DWord)) : State :=
  if got = [] then s
  else (addEntry s s.cur.h (got.foldl (fun e x => e.done x.1 (pairCells x.2)) (newEntry s i (maskOf (got.map (·.1))) 0 [] []))).bump s.cur.h 0x16
    got.length
/-- ITEM (R34, R35, R220): the group's earlier takes, the takes of its lanes, the lanes without an item, the result. -/
theorem item_eq (k : BitVec 3) (r : Reg) (o : BitVec 10) (q : BitVec 2) (s : State) : exec (.item k r o q) s = issue (.item k r o q) s (fun s =>
    if slotOf (targetOf s o.toInt q.toNat) = 3 then transferAll s (targetOf s o.toInt q.toNat)
    else
      let got := serveItems (takesBefore s s.cur.h s.ids (fun _ => true)) s.cur.rd.launch s.cur.rd.core (lanesOf s.cur.mask)
      itemHits (itemMisses got.1 k.toNat (targetOf s o.toInt q.toNat) (s.cur.mask &&& ~~~maskOf (got.2.map (·.1)))) (.item k r o q) got.2) := rfl

/-- Settles O13: each word's effect is a trap, which `trap_taken` describes. -/
theorem userTraps : Obligations.UserTraps := by
  refine ⟨fun n w code va s hu hw hv => ⟨fun hi => ?_, fun hi => ?_, fun hr => ?_⟩,
    fun o o' o2 p k sense a s hu hw hv25 hv26 => ⟨fun hi hm => ?_, fun hi hm => ?_, fun hi hm => ?_, fun m hi hm hb => ?_, fun m l hi hb hl hlow => ?_,
      fun hi hm hq => ?_, fun m l hi hh hb hl hlow => ?_, fun hi hh hm hq => ?_, fun hi ha hj => ?_⟩⟩
  · exact exec_trap_taken (body := fun s => trap s 0x2A n.toNat s.cur.mask true) rfl hi rfl hu hw (hv _ (by decide))
  · exact exec_trap_taken (body := illegal) rfl hi rfl hu hw (hv _ (by decide))
  · exact ⟨_, rfl, trap_taken hr hu.2 hw (hv _ (by decide)).1⟩
  · exact exec_trap_taken (body := fun s => transferAll s (targetOf s o.toInt 3)) rfl hi (transfer_branch_misaligned o hm) hu hw hv25
  · refine exec_trap_taken (own := true) (call_eq o 3 s) hi ?_ hu hw hv25
    have ht : slotOf (targetOf s o.toInt 3) = 3 := (congrArg slotOf (targetOf_eq_branchTo s o 3)).trans (slotOf_branchTo s o 3)
    exact (if_pos ht).trans (transfer_branch_misaligned o hm)
  · refine exec_trap_taken (own := true) (item_eq k a o2 3 s) hi ?_ hu hw hv25
    have ht : slotOf (targetOf s o2.toInt 3) = 3 := (congrArg slotOf (targetOf_eq_branchTo s o2 3)).trans (slotOf_branchTo s o2 3)
    exact (if_pos ht).trans (transfer_branch_misaligned o2 hm)
  · refine exec_trap_taken (own := true) (brc_eq p o' 3 sense s) hi ?_ hu hw hv25
    have hf : (lanesOf s.cur.mask).filter (fun l => pVal (s.op p l) != sense) = lanesOf m :=
      lanesOf_filter (fun l => Bool.eq_iff_iff.2 (by simp [hb l]))
    exact (congrArg (fun ls => transfer s (ls.map (fun l => (l, targetOf s o'.toInt 3)))) hf).trans (transfer_branch_misaligned o' hm)
  · refine exec_trap_taken (body := fun s => transfer s (pairTargets s a)) (own := true) rfl hi ?_ hu hw hv25
    rw [pairTargets_eq]
    exact transfer_misaligned hb (head?_lanesOf hl hlow)
  · refine exec_trap_taken (body := fun s => transferAll s (BitVec.ofNat 48 (s.os a).v)) (own := true) rfl hi ?_ hu hw hv25
    have ht : BitVec.ofNat 48 (s.os a).v = (s.cur.rd.s s.pk a.toNat).data.setWidth 48 := BitVec.ofNat_toNat ..
    rw [ht]
    exact transfer_all_misaligned hm hq
  · refine exec_trap_taken (own := true) (ret_eq a s) hi ?_ hu hw hv25
    rw [hh, Bool.false_and, if_neg Bool.false_ne_true, pairTargets_eq]
    exact transfer_misaligned hb (head?_lanesOf hl hlow)
  · refine exec_trap_taken (own := true) (ret_eq a s) hi ?_ hu hw hv25
    have ht : BitVec.ofNat 48 (s.osN 63).v = (s.cur.rd.s s.pk 63).data.setWidth 48 := BitVec.ofNat_toNat ..
    rw [hh, hu.1, ht, if_pos (by decide), if_pos hq]
    exact transfer_all_misaligned hm hq
  · exact exec_trap_taken (rejoin_eq k s) hi (if_pos ⟨ha, hj⟩) hu hw hv26

end Sys2Proof.Machine

namespace Sys2Proof.Machine

/-! ### The turn of a group (R27, R60, R149, R168, R354) -/

theorem putLimited_cores {α : Type} (s : State) (limit : Nat) (t : List (Nat × α)) (k : Nat) (v : α) :
    (putLimited s limit t k v).1.cores = s.cores := by
  unfold putLimited
  split
  · rfl
  · rfl

section
variable {s u t : State} {h pc pa : Nat} {m : Mask} {attr : BitVec 16} {g : Group} {q : PC}

/-- A word that the core has not fetched before is read from memory, and kept (R149). -/
theorem fetchWord_fresh (ht : translate s ⟨h, g.core, fetchTag g, g.sp.sv, q⟩ (wordVa (codeBase s g) q) .fetch = (t, .ok pa attr))
    (he : t.mem.err pa = none) (hf : Tb.get? (t.core g.core).fetched pa = none) :
    let w : Word := BitVec.ofNat 32 (t.num pa 4)
    let x := putLimited (touch t (banksAt g.core false pa)) fetchWords (t.core g.core).fetched pa w
    fetchWord s h g q q = (x.1.modCore g.core (fun c => { c with fetched := x.2 }), .inl w) := by
  have hcore : (touch t (banksAt g.core false pa)).core g.core = t.core g.core := by simp only [State.core, touch_cores]
  have hnum : (touch t (banksAt g.core false pa)).num pa 4 = t.num pa 4 := by simp only [State.num, touch_mem]
  dsimp only
  unfold fetchWord
  simp only [ht, fetchTouch, hf, Option.isSome_none, Bool.false_eq_true, if_false, touch_mem, he, hcore, hnum, Option.getD_none, if_true]

/-- A word whose chain bit is clear stands alone (R168). -/
theorem fetchChain_single {n : Nat} {w : Word} (hw : fetchWord s h g q q = (t, .inl w)) (hc : w.getLsbD 31 = false) :
    fetchChain h g q (n + 1) s q = (t, [⟨q, w, decodeWord w⟩], none) := by
  rw [fetchChain, hw]
  dsimp only
  rw [hc, Bool.false_and, if_neg Bool.false_ne_true]

/-- The C and W bits of a word that decodes. -/
theorem decodeWord_bits {w : Word} {c k : Bool} {i : Instr} (hd : decodeWord w = .ok ⟨c, k, i⟩) : w.getLsbD 31 = c ∧ w.getLsbD 30 = k := by
  unfold decodeWord at hd
  split at hd
  next => cases hd
  next => cases hd; exact ⟨rfl, rfl⟩

/-- No comparator matches where a core has none (R336). -/
theorem pcMatch_of_no_dbg {ps : List PC} (hd : (s.core s.cur.rd.core).dbg = []) : pcMatch s ps = (0, 0) := by
  unfold pcMatch
  dsimp only
  rw [hd]
  rfl
/-- A group without a held instruction stays without. -/
theorem keepHeld_of_none (hg : g.rejected = none) (r : State) : keepHeld g h r = r := by
  unfold keepHeld
  refine modG_id r h _ (fun x => ?_)
  split
  next hx => rw [hg, Option.map_none, ← hx]
  next => rfl

/-- The issue of a word that stands alone, from its fetch (R60, R168). -/
theorem issueSet_single {w : Word} {mk : Bool} {i : Instr} {x : State} (hw : fetchWord s h g q q = (x, .inl w))
    (hd : decodeWord w = .ok ⟨false, mk, i⟩) (hg : g.rejected = none) (hdbg : (x.core g.core).dbg = []) :
    let f : FWord := ⟨q, w, .ok ⟨false, mk, i⟩⟩
    let b0 := beginIssue x h q q (nextPc q) w m false g
    issueSet s h g q m = if interlock b0 [f] [i] ≠ 0 then .next (stall b0 (interlock b0 [f] [i]))
      else endIssue g h m [(f, i)] mk (exec i (resolveReads b0 [i])) := by
  obtain ⟨hc, hk⟩ := decodeWord_bits hd
  have hp : ∀ ps, pcMatch (beginIssue x h q q (nextPc q) w m false g) ps = (0, 0) := fun ps => pcMatch_of_no_dbg hdbg
  dsimp only
  unfold issueSet
  rw [fetchChain_single hw hc, hd]
  simp only [List.length_singleton, Nat.lt_irrefl, decide_false, Option.isSome_none, Bool.false_and, Bool.or_false, List.getLast?_singleton,
    List.map_cons, List.map_nil, asInstr, List.zip_cons_cons, List.zip_nil_left, List.any_cons, List.any_nil, hk, hp, hc, keepHeld_of_none hg,
    ne_eq, not_true_eq_false, if_false, Bool.false_eq_true]

/-- The turn of a group that its scheduler, free in this cycle, chooses (R27). -/
theorem step_of_issueTurn {ts : List Turn} (hts : s.turns = .issue h :: ts) (r : Res)
    (hi : issueTurn { s with turns := ts } h = r) : step s = noted s r := by
  unfold step nextTurn
  rw [hts]
  exact congrArg (noted s) hi
/-- A kill that waited for the end of the group's instruction takes effect after it (R338, log entry 7). -/
def withKillDue (h : Nat) : Res → Res
  | .next t => .next (killDue t h)
  | r => r
theorem issueTurn_chosen (hidle : idleSched s (s.grp h).core (s.grp h).sched = true)
    (hs : schedule s (s.grp h).core (s.grp h).sched = (u, some h)) (hport : portLost u h = false) (hrom : (u.grp h).ctl.rom = none)
    (hcan : canIssue u (u.grp h) = true) (hrej : (u.grp h).rejected = none) (hpc : choosePc (u.grp h) = some (pc, m)) :
    issueTurn s h = withKillDue h (issueSet (u.modG h (fun g => { g with rejected := none })) h (u.grp h) (BitVec.ofNat 48 pc) m) := by
  simp only [issueTurn, hidle, hs, issueChosen, hrom, hport, issueGroup, hcan, nextSet, hrej, hpc, Bool.not_true, Bool.false_eq_true, if_false,
    if_true]
  rfl

/-- The end of an issue that takes effect. -/
theorem endIssue_next {ws : List (FWord × Instr)} {mk : Bool} {r : State} (hs : r.cur.stalled = false) (ht : r.cur.trapped = false)
    (hp : r.cur.page = none) (he : r.cur.edge = false) : endIssue g h m ws mk (.next r) = .next (account r g h m ws mk) := by
  simp only [endIssue, hs, ht, hp, he, Bool.false_eq_true, if_false, Bool.false_and]
/-- The end of an issue that waits. -/
theorem endIssue_stalled {ws : List (FWord × Instr)} {mk : Bool} {r : State} (hg : g.rejected = none) (hs : r.cur.stalled = true) :
    endIssue g h m ws mk (.next r) = .next r := by
  simp only [endIssue, hs, if_true, keepHeld_of_none hg]
theorem noteReleases_of_none {r : State} (hr : ∀ e ∈ r.work.groups, e.2.rejected = none) : noteReleases s r = r := by
  have hf : r.work.groups.filter (fun e => e.2.rejected.isSome && (s.grp e.1).rejected.isSome) = [] :=
    List.filter_eq_nil_iff.2 (fun e he => by rw [hr e he]; simp)
  rw [noteReleases, hf, List.foldl_nil]

end

/-- Settles O56: the turn fetches the word alone, finds no interlock and no comparator, and ends as `endIssue` says. -/
theorem stepRunsDecoded : Obligations.StepRunsDecoded := by
  intro s u t h pc pa ts m attr i mk hts v g0 g q u' hidle hsch hport hrom hcan hrej hpc htr herr hfet hdbg w hdec x f b0 b
  have hfetch := fetchWord_fresh (h := h) (g := g) htr herr hfet
  have hcore : x.1.core g.core = t.core g.core := by
    have hx : x.1.cores = t.cores := (putLimited_cores ..).trans (touch_cores ..)
    rw [State.core, hx, State.core]
  have hd : ((x.1.modCore g.core (fun c => { c with fetched := x.2 })).core g.core).dbg = [] := by
    rw [modCore_core, if_pos rfl, hcore]
    exact hdbg
  have hstep : step s = noted s (withKillDue h (if interlock b0 [f] [i] ≠ 0 then .next (stall b0 (interlock b0 [f] [i]))
      else endIssue g h m [(f, i)] mk (exec i b))) :=
    step_of_issueTurn hts _ ((issueTurn_chosen (s := v) hidle hsch hport hrom hcan hrej hpc).trans
      (congrArg (withKillDue h) (issueSet_single (m := m) hfetch hdec hrej hd)))
  refine ⟨fun hlock => ?_, fun hlock => ?_, fun r hr => ?_, fun r hr => noteReleases_of_none hr⟩
  · rw [if_neg (not_not.2 hlock)] at hstep
    refine ⟨?_, fun r hr hs ht hp he => ?_, fun r hr hs => ?_⟩
    · rw [hstep]
      cases endIssue g h m [(f, i)] mk (exec i b) <;> rfl
    · rw [hstep, hr, endIssue_next hs ht hp he]
      rfl
    · rw [hstep, hr, endIssue_stalled hrej hs]
      rfl
  · rw [hstep, if_pos hlock]
    rfl
  · rw [killDue, hr, Bool.false_and, if_neg Bool.false_ne_true]

end Sys2Proof.Machine

namespace Sys2Proof.Machine

/-! ### Groups after changes (R358) -/

/-- A group after a change of a group, resident or not. -/
theorem modG_grp_same (s : State) (h : Nat) (f : Group → Group) :
    (s.modG h f).grp h = if (Tb.get? s.work.groups h).isSome then f (s.grp h) else s.grp h := by
  split
  next hr => rw [modG_grp s h h f hr, if_pos rfl]
  next hr =>
    have hn : Tb.get? s.work.groups h = none := Option.not_isSome_iff_eq_none.1 hr
    simp only [State.grp, State.modG, Tb.get, Tb.get?_modify, hn, Option.map_none, if_true]
theorem modG_grp_other (s : State) {h j : Nat} (f : Group → Group) (hj : j ≠ h) : (s.modG h f).grp j = s.grp j := by
  simp only [State.grp, State.modG, Tb.get, Tb.get?_modify, if_neg hj]
theorem mem_teamGroups_self {s : State} {h : Nat} (hr : (Tb.get? s.work.groups h).isSome = true) :
    h ∈ s.teamGroups (s.grp h).launch (s.grp h).team := by
  obtain ⟨g, hg⟩ := Option.isSome_iff_exists.1 hr
  have hs : s.grp h = g := by simp only [State.grp, Tb.get, hg, Option.getD_some]
  rw [hs, State.teamGroups, List.mem_map]
  exact ⟨(h, g), List.mem_filter.2 ⟨Tb.mem_of_get? hg, by simp⟩, rfl⟩
/-- A change that keeps a group's launch and team keeps every team's groups. -/
theorem teamGroups_modG (s : State) (h : Nat) {f : Group → Group} (hf : ∀ g, (f g).launch = g.launch ∧ (f g).team = g.team) (k n : Nat) :
    (s.modG h f).teamGroups k n = s.teamGroups k n := by
  have key : ∀ gs : List (Nat × Group), ((Tb.modify gs h f).filter (fun e => decide (e.2.launch = k) && decide (e.2.team = n))).map (·.1) =
      (gs.filter (fun e => decide (e.2.launch = k) && decide (e.2.team = n))).map (·.1) := by
    intro gs
    induction gs with
    | nil => rfl
    | cons e gs ih =>
      rw [Tb.modify]
      split
      · simp only [List.filter_cons, (hf e.2).1, (hf e.2).2]
        split <;> rfl
      · simp only [List.filter_cons]
        split
        · rw [List.map_cons, List.map_cons, ih]
        · exact ih
  exact key s.work.groups

/-! ### Barrier objects (Table 5-5) -/

/-- Fields of a barrier object that fit their places. -/
def BarObj.fits (b : BarObj) : Prop := b.phase < 2 ^ 16 ∧ b.expect < 2 ^ 16 ∧ b.arrived < 2 ^ 16 ∧ b.init < 2 ∧ b.epoch < 2 ^ 12

theorem readBar_fits (s : State) (pa : Nat) : (readBar s pa).fits :=
  ⟨Nat.mod_lt _ (by decide), Nat.mod_lt _ (by decide), Nat.mod_lt _ (by decide), Nat.mod_lt _ (by decide), Nat.mod_lt _ (by decide)⟩
theorem readBar_of_mem {s t : State} (h : t.mem = s.mem) (pa : Nat) : readBar t pa = readBar s pa := by
  simp only [readBar, State.num, h]
/-- What is written is read. -/
theorem readBar_writeBar (s : State) (pa : Nat) {b : BarObj} (h : b.fits) : readBar (writeBar s pa b) pa = b := by
  obtain ⟨phase, expect, arrived, init, epoch⟩ := b
  obtain ⟨hp, he, ha, hi, hep⟩ := h
  dsimp only at hp he ha hi hep
  have hn : (writeBar s pa ⟨phase, expect, arrived, init, epoch⟩).num pa 8 =
      phase + expect * 2 ^ 16 + arrived * 2 ^ 32 + init * 2 ^ 48 + epoch * 2 ^ 49 := by
    refine (num_setNum_same s.mem pa 8 _).trans (Nat.mod_eq_of_lt ?_)
    simp only [BarObj.word]
    omega
  simp only [readBar, hn, bits, Nat.shiftRight_eq_div_pow, BarObj.mk.injEq]
  omega
theorem writeBar_sameBytes (s : State) (pa : Nat) (b : BarObj) : SameBytes s (writeBar s pa b) [(pa, 8)] := setNum_sameBytes s pa 8 b.word

/-! ### The waiters of a phase (R160) -/

/-- A lane after the waiters of a phase have been released. -/
def releasedWaiter (i : BitVec 3) (phase : Nat) (x : Lane) : Lane :=
  match x.st with
  | .wait (.barrier j v) n => if j = i ∧ phaseMet phase v.toNat then { x with st := .run, pc := pcAfter n x.pc } else x
  | _ => x
theorem releaseWaiters_eq (g : Group) (i : BitVec 3) (phase : Nat) :
    releaseWaiters g i phase = { g with lanes := g.lanes.map (releasedWaiter i phase) } := by
  unfold releaseWaiters releasedWaiter
  rfl
theorem releasedWaiter_idem (i : BitVec 3) (phase : Nat) (x : Lane) : releasedWaiter i phase (releasedWaiter i phase x) = releasedWaiter i phase x := by
  obtain ⟨pc, st, epc, lst⟩ := x
  cases st with
  | wait o n =>
    cases o with
    | barrier j v =>
      by_cases h : j = i ∧ phaseMet phase v.toNat
      · simp only [releasedWaiter, h, and_self, if_true]
      · simp only [releasedWaiter, if_neg h]
    | cycTimer => rfl
    | wallAlarm => rfl
  | run => rfl
  | knot k => rfl
  | done => rfl
theorem releaseWaiters_idem (g : Group) (i : BitVec 3) (phase : Nat) :
    releaseWaiters (releaseWaiters g i phase) i phase = releaseWaiters g i phase := by
  simp only [releaseWaiters_eq, List.map_map, Function.comp_def, releasedWaiter_idem]
theorem released_releaseWaiters {g g1 : Group} (hg : g1.lanes = g.lanes) (i : BitVec 3) (p : Nat) : Released g (releaseWaiters g1 i p) i p := by
  rw [Released, releaseWaiters_eq]
  dsimp only
  rw [hg]
  refine List.map_congr_left (fun x _ => ?_)
  obtain ⟨pc, st, epc, lst⟩ := x
  cases st with
  | wait o n =>
    cases o with
    | barrier j v =>
      have hm : phaseMet p v.toNat = true ↔ (p + 0x10000 - v.toNat) % 0x10000 < 0x8000 := decide_eq_true_iff
      simp only [releasedWaiter, hm]
    | cycTimer => rfl
    | wallAlarm => rfl
  | run => rfl
  | knot k => rfl
  | done => rfl

/-- An acquire changes caches alone (R131). -/
theorem acquire_eq (s : State) (h : Nat) (sc : Scope) : ∃ c, acquire s h sc = { s with cores := c } := by
  have key : ∀ (p : Prop) [Decidable p] (x : List (Nat × Core)),
      ∃ c, (if p then s else { s with cores := x }) = { s with cores := c } := by
    intro p _ x
    split
    · exact ⟨s.cores, rfl⟩
    · exact ⟨x, rfl⟩
  exact key _ _

/-- A phase that ends (R160): the waiters of every group of the team are released, and nothing else but caches changes. -/
theorem releaseBar_spec (s : State) (k n : Nat) (i : BitVec 3) (p : Nat) :
    ∃ gs c, releaseBar s k n i p = { s with work := { s.work with groups := gs }, cores := c } ∧
      ∀ j, (Tb.get? gs j) = if j ∈ s.teamGroups k n then (Tb.get? s.work.groups j).map (fun g => releaseWaiters g i p) else Tb.get? s.work.groups j := by
  unfold releaseBar
  generalize s.teamGroups k n = hs
  induction hs generalizing s with
  | nil => exact ⟨s.work.groups, s.cores, rfl, fun j => by simp⟩
  | cons h hs ih =>
    obtain ⟨c, hc⟩ := acquire_eq (s.modG h (fun g => releaseWaiters g i p)) h .team
    rw [List.foldl_cons, hc]
    obtain ⟨gs, c', he, hg⟩ := ih { s.modG h (fun g => releaseWaiters g i p) with cores := c }
    refine ⟨gs, c', he, fun j => ?_⟩
    rw [hg j]
    have hm : Tb.get? (s.modG h (fun g => releaseWaiters g i p)).work.groups j =
        if j = h then (Tb.get? s.work.groups h).map (fun g => releaseWaiters g i p) else Tb.get? s.work.groups j := Tb.get?_modify ..
    change (if j ∈ hs then (Tb.get? (s.modG h _).work.groups j).map _ else Tb.get? (s.modG h _).work.groups j) = _
    rw [hm]
    by_cases hj : j = h
    · subst hj
      rw [if_pos rfl, if_pos List.mem_cons_self]
      split
      · rw [Option.map_map]
        exact congrFun (congrArg _ (funext fun g => releaseWaiters_idem g i p)) _
      · rfl
    · simp only [List.mem_cons, hj, false_or, if_false]

/-- A group after a phase has ended. -/
theorem releaseBar_grp (s : State) (k n : Nat) (i : BitVec 3) (p j : Nat) :
    (releaseBar s k n i p).grp j = if j ∈ s.teamGroups k n then releaseWaiters (s.grp j) i p else s.grp j := by
  obtain ⟨gs, c, he, hg⟩ := releaseBar_spec s k n i p
  rw [he]
  simp only [State.grp, Tb.get, hg j]
  split
  · cases Tb.get? s.work.groups j <;> rfl
  · rfl
theorem releaseBar_cur (s : State) (k n : Nat) (i : BitVec 3) (p : Nat) : (releaseBar s k n i p).cur = s.cur := by
  obtain ⟨gs, c, he, _⟩ := releaseBar_spec s k n i p
  rw [he]

/-! ### One arrival, one drop (R41, R160) -/

/-- What an arrival and a drop that count do: the lane's record and the object are written, and a phase that ends is released. -/
def recordLane (s : State) (h : Nat) (i : BitVec 3) (l pa : Nat) (a : Arrival) (b : BarObj) (ends : Bool) : State :=
  let t := writeBar (s.modG h (fun g => setArr g i.toNat l a)) pa b
  if ends then releaseBar t (s.grp h).launch (s.grp h).team i b.phase else t

/-- One arrival (R160). -/
theorem arriveLane_eq {s : State} {h pa : Nat} {i : BitVec 3} {l : Nat} (hp : barPa s (s.grp h).launch (s.grp h).team i.toNat = some pa) :
    let b := readBar s pa
    let a := arrOf (s.grp h) i.toNat l
    let u := touch s (barBanks (s.grp h).core pa)
    arriveLane s h i l = if a.valid = true ∧ a.phase.toNat = b.phase then u
      else recordLane u h i l pa { a with valid := true, phase := BitVec.ofNat 16 b.phase }
        (if b.expect ≤ b.arrived + 1 then { b with phase := (b.phase + 1) % 0x10000, arrived := 0 } else { b with arrived := b.arrived + 1 })
        (decide (b.expect ≤ b.arrived + 1)) := by
  intro b a u
  have hb : readBar u pa = b := readBar_of_mem (touch_mem ..) pa
  have hg : u.grp h = s.grp h := by simp only [State.grp, u, touch_work]
  unfold arriveLane recordLane
  simp only [hp]
  change (if a.valid = true ∧ a.phase.toNat = (readBar u pa).phase then u else _) = _
  rw [hb, hg]
  split
  · rfl
  · by_cases he : b.expect ≤ b.arrived + 1
    · simp only [he, if_true, decide_true]
      rfl
    · simp only [he, if_false, decide_false, Bool.false_eq_true]
      rfl

/-- One drop (R41). -/
theorem dropLane_eq {s : State} {h pa : Nat} {i : BitVec 3} {l : Nat} (hp : barPa s (s.grp h).launch (s.grp h).team i.toNat = some pa) :
    let b := readBar s pa
    let a := arrOf (s.grp h) i.toNat l
    let u := touch s (barBanks (s.grp h).core pa)
    let a' : Arrival := { a with dropped := true, epoch := BitVec.ofNat 12 b.epoch }
    let left := if a.valid = true ∧ a.phase.toNat = b.phase then b.arrived - 1 else b.arrived
    dropLane s h i l = if a.dropped = true ∧ a.epoch.toNat = b.epoch then u
      else if b.expect = 0 then u.modG h (fun g => setArr g i.toNat l a')
      else recordLane u h i l pa a' (if left = b.expect - 1 then { b with phase := (b.phase + 1) % 0x10000, expect := b.expect - 1, arrived := 0 }
        else { b with expect := b.expect - 1, arrived := left }) (decide (left = b.expect - 1)) := by
  have hb : readBar (touch s (barBanks (s.grp h).core pa)) pa = readBar s pa := readBar_of_mem (touch_mem ..) pa
  have hg : (touch s (barBanks (s.grp h).core pa)).grp h = s.grp h := by simp only [State.grp, touch_work]
  dsimp only
  rw [dropLane]
  simp only [hp, hb]
  split
  · rfl
  · split
    · rfl
    · by_cases he : (if (arrOf (s.grp h) i.toNat l).valid = true ∧ (arrOf (s.grp h) i.toNat l).phase.toNat = (readBar s pa).phase
          then (readBar s pa).arrived - 1 else (readBar s pa).arrived) = (readBar s pa).expect - 1
      · rw [if_pos he, if_pos he, decide_eq_true he, recordLane, hg, if_pos rfl]
      · rw [if_neg he, if_neg he, decide_eq_false he, recordLane, if_neg Bool.false_ne_true]

theorem arrOf_setArr (g : Group) (i l : Nat) (a : Arrival) : arrOf (setArr g i l a) i l = a := by
  rw [arrOf, setArr, Tb.get_set, if_pos rfl]

/-- The groups of a state whose banks alone have changed. -/
theorem touch_grp (s : State) (bs : List Nat) (j : Nat) : (touch s bs).grp j = s.grp j := by simp only [State.grp, touch_work]
theorem touch_teamGroups (s : State) (bs : List Nat) (k n : Nat) : (touch s bs).teamGroups k n = s.teamGroups k n := by
  simp only [State.teamGroups, touch_work]

/-- A recorded arrival or drop: the lane's record, the object's eight bytes, and the waiters of a phase that ends. -/
theorem recordLane_spec {s : State} {h : Nat} {i : BitVec 3} {l pa : Nat} {a : Arrival} {b : BarObj} {ends : Bool}
    (hr : (Tb.get? s.work.groups h).isSome = true) (hb : b.fits) :
    let t := recordLane s h i l pa a b ends
    arrOf (t.grp h) i.toNat l = a ∧ SameBytes s t [(pa, 8)] ∧ readBar t pa = b ∧
      (ends = true → ∀ j, j = h ∨ j ∈ s.teamGroups (s.grp h).launch (s.grp h).team → Released (s.grp j) (t.grp j) i b.phase) ∧
      (ends = false → (t.grp h).lanes = (s.grp h).lanes) := by
  intro t
  let v := s.modG h (fun g => setArr g i.toNat l a)
  let w := writeBar v pa b
  have hmem : t.mem = w.mem := by
    cases ends
    · rfl
    · exact releaseBar_mem ..
  have hwork : w.work = v.work := setNum_work ..
  have hgrp : ∀ j, w.grp j = if j = h then setArr (s.grp h) i.toNat l a else s.grp j := fun j => by
    rw [State.grp, hwork]
    exact modG_grp s h j _ hr
  have hlanes : ∀ j, (w.grp j).lanes = (s.grp j).lanes := fun j => by
    rw [hgrp j]
    split
    next e => rw [e]; rfl
    next => rfl
  have hteams : ∀ k n, w.teamGroups k n = s.teamGroups k n := fun k n => by
    rw [State.teamGroups, hwork]
    exact teamGroups_modG s h (f := fun g => setArr g i.toNat l a) (fun _ => ⟨rfl, rfl⟩) k n
  refine ⟨?_, ?_, ?_, fun he j hj => ?_, fun he => ?_⟩
  · have ha : arrOf (w.grp h) i.toNat l = a := by rw [hgrp h, if_pos rfl, arrOf_setArr]
    cases ends
    · exact ha
    · change arrOf ((releaseBar w _ _ i b.phase).grp h) i.toNat l = a
      rw [releaseBar_grp]
      split
      · rw [releaseWaiters_eq]; exact ha
      · exact ha
  · intro x hx
    rw [hmem]
    exact writeBar_sameBytes v pa b x hx
  · rw [readBar_of_mem hmem, readBar_writeBar v pa hb]
  · subst he
    have hj' : j ∈ w.teamGroups (s.grp h).launch (s.grp h).team := by
      rw [hteams]
      rcases hj with rfl | hj
      · exact mem_teamGroups_self hr
      · exact hj
    change Released (s.grp j) ((releaseBar w (s.grp h).launch (s.grp h).team i b.phase).grp j) i b.phase
    rw [releaseBar_grp, if_pos hj']
    exact released_releaseWaiters (hlanes j) i b.phase
  · subst he
    exact hlanes h

theorem SameBytes.of_mem {s s' t : State} {r : List (Nat × Nat)} (h : s'.mem = s.mem) (k : SameBytes s' t r) : SameBytes s t r :=
  fun a ha => (k a ha).trans (by rw [h])

/-- One arrival, for the lanes of a resident group (R160). -/
theorem arriveLane_spec (s : State) (h : Nat) (i : BitVec 3) (l pa : Nat) (hr : (Tb.get? s.work.groups h).isSome = true)
    (hp : barPa s (s.grp h).launch (s.grp h).team i.toNat = some pa) :
    let b := readBar s pa
    let a := arrOf (s.grp h) i.toNat l
    let t := arriveLane s h i l
    let again := a.valid = true ∧ a.phase.toNat = b.phase
    (again → t = touch s (barBanks (s.grp h).core pa)) ∧
    (¬ again → arrOf (t.grp h) i.toNat l = { a with valid := true, phase := BitVec.ofNat 16 b.phase } ∧ SameBytes s t [(pa, 8)] ∧
      (b.expect ≤ b.arrived + 1 → readBar t pa = { b with phase := (b.phase + 1) % 0x10000, arrived := 0 } ∧
        ∀ j, j = h ∨ j ∈ s.teamGroups (s.grp h).launch (s.grp h).team → Released (s.grp j) (t.grp j) i ((b.phase + 1) % 0x10000)) ∧
      (b.arrived + 1 < b.expect → readBar t pa = { b with arrived := b.arrived + 1 } ∧ (t.grp h).lanes = (s.grp h).lanes)) := by
  intro b a t again
  have ht : t = _ := arriveLane_eq (l := l) hp
  obtain ⟨hbp, hbe, hba, hbi, hbep⟩ := readBar_fits s pa
  refine ⟨fun hag => ht.trans (if_pos hag), fun hag => ?_⟩
  rw [if_neg hag] at ht
  have hru : (Tb.get? (touch s (barBanks (s.grp h).core pa)).work.groups h).isSome = true := by rw [touch_work]; exact hr
  by_cases he : b.expect ≤ b.arrived + 1
  · rw [if_pos he, decide_eq_true he] at ht
    obtain ⟨harr, hsame, hread, hrel, -⟩ := recordLane_spec (i := i) (l := l) (pa := pa)
      (a := { a with valid := true, phase := BitVec.ofNat 16 b.phase }) (ends := true) hru
      (b := { b with phase := (b.phase + 1) % 0x10000, arrived := 0 }) ⟨Nat.mod_lt _ (by decide), hbe, Nat.two_pow_pos 16, hbi, hbep⟩
    rw [← ht] at harr hsame hread hrel
    simp only [touch_grp, touch_teamGroups, true_implies] at hrel
    exact ⟨harr, hsame.of_mem (touch_mem ..), fun _ => ⟨hread, hrel⟩, fun hn => absurd he (Nat.not_le.2 hn)⟩
  · rw [if_neg he, decide_eq_false he] at ht
    obtain ⟨harr, hsame, hread, -, hlanes⟩ := recordLane_spec (i := i) (l := l) (pa := pa)
      (a := { a with valid := true, phase := BitVec.ofNat 16 b.phase }) (ends := false) hru
      (b := { b with arrived := b.arrived + 1 }) ⟨hbp, hbe, lt_of_lt_of_le (Nat.not_le.1 he) hbe.le, hbi, hbep⟩
    rw [← ht] at harr hsame hread hlanes
    rw [touch_grp] at hlanes
    exact ⟨harr, hsame.of_mem (touch_mem ..), fun hy => absurd hy he, fun _ => ⟨hread, hlanes rfl⟩⟩

/-- One drop, of a lane of a resident group (R41). -/
theorem dropLane_spec (s : State) (h : Nat) (i : BitVec 3) (l pa : Nat) (hr : (Tb.get? s.work.groups h).isSome = true)
    (hp : barPa s (s.grp h).launch (s.grp h).team i.toNat = some pa) :
    let b := readBar s pa
    let a := arrOf (s.grp h) i.toNat l
    let t := dropLane s h i l
    let again := a.dropped = true ∧ a.epoch.toNat = b.epoch
    let left := if a.valid = true ∧ a.phase.toNat = b.phase then b.arrived - 1 else b.arrived
    (again → t = touch s (barBanks (s.grp h).core pa)) ∧
    (¬ again → arrOf (t.grp h) i.toNat l = { a with dropped := true, epoch := BitVec.ofNat 12 b.epoch } ∧ SameBytes s t [(pa, 8)] ∧
      (b.expect = 0 → t.mem = s.mem) ∧
      (b.expect ≠ 0 → left = b.expect - 1 →
        readBar t pa = { b with phase := (b.phase + 1) % 0x10000, expect := b.expect - 1, arrived := 0 } ∧
        ∀ j, j = h ∨ j ∈ s.teamGroups (s.grp h).launch (s.grp h).team → Released (s.grp j) (t.grp j) i ((b.phase + 1) % 0x10000)) ∧
      (b.expect ≠ 0 → left ≠ b.expect - 1 → readBar t pa = { b with expect := b.expect - 1, arrived := left } ∧
        (t.grp h).lanes = (s.grp h).lanes)) := by
  intro b a t again left
  have ht : t = _ := dropLane_eq (l := l) hp
  obtain ⟨hbp, hbe, hba, hbi, hbep⟩ := readBar_fits s pa
  have hleft : left ≤ b.arrived := by
    change (if a.valid = true ∧ a.phase.toNat = b.phase then b.arrived - 1 else b.arrived) ≤ b.arrived
    split
    · exact Nat.sub_le _ _
    · exact Nat.le_refl _
  refine ⟨fun hag => ht.trans (if_pos hag), fun hag => ?_⟩
  rw [if_neg hag] at ht
  have hru : (Tb.get? (touch s (barBanks (s.grp h).core pa)).work.groups h).isSome = true := by rw [touch_work]; exact hr
  by_cases h0 : b.expect = 0
  · rw [if_pos h0] at ht
    have hmem : t.mem = s.mem := by rw [ht, modG_mem, touch_mem]
    refine ⟨?_, fun x _ => by rw [hmem], fun _ => hmem, fun hn => absurd h0 hn, fun hn => absurd h0 hn⟩
    rw [ht, modG_grp _ h h _ hru, if_pos rfl, arrOf_setArr]
  rw [if_neg h0] at ht
  by_cases he : left = b.expect - 1
  · rw [if_pos he, decide_eq_true he] at ht
    obtain ⟨harr, hsame, hread, hrel, -⟩ := recordLane_spec (i := i) (l := l) (pa := pa)
      (a := { a with dropped := true, epoch := BitVec.ofNat 12 b.epoch }) (ends := true) hru
      (b := { b with phase := (b.phase + 1) % 0x10000, expect := b.expect - 1, arrived := 0 })
      ⟨Nat.mod_lt _ (by decide), (Nat.sub_le _ _).trans_lt hbe, Nat.two_pow_pos 16, hbi, hbep⟩
    rw [← ht] at harr hsame hread hrel
    simp only [touch_grp, touch_teamGroups, true_implies] at hrel
    exact ⟨harr, hsame.of_mem (touch_mem ..), fun hz => absurd hz h0, fun _ _ => ⟨hread, hrel⟩, fun _ hn => absurd he hn⟩
  · rw [if_neg he, decide_eq_false he] at ht
    obtain ⟨harr, hsame, hread, -, hlanes⟩ := recordLane_spec (i := i) (l := l) (pa := pa)
      (a := { a with dropped := true, epoch := BitVec.ofNat 12 b.epoch }) (ends := false) hru
      (b := { b with expect := b.expect - 1, arrived := left })
      ⟨hbp, (Nat.sub_le _ _).trans_lt hbe, hleft.trans_lt hba, hbi, hbep⟩
    rw [← ht] at harr hsame hread hlanes
    rw [touch_grp] at hlanes
    exact ⟨harr, hsame.of_mem (touch_mem ..), fun hz => absurd hz h0, fun _ hy => absurd hy he, fun _ _ => ⟨hread, hlanes rfl⟩⟩

/-! ### The barrier instructions (R238, R239) -/

section
variable {s : State} {i : BitVec 3} {pa : Nat}

theorem withBarrier_none (h : barPa s s.cur.rd.launch s.cur.rd.team i.toNat = none) (f : Nat → State) : withBarrier s i f = illegal s := by
  rw [withBarrier, h]
theorem withBarrier_some (h : barPa s s.cur.rd.launch s.cur.rd.team i.toNat = some pa) (f : Nat → State) : withBarrier s i f = f pa := by
  rw [withBarrier, h]

/-- A word whose effect is an illegal-instruction trap marks nothing. -/
theorem exec_illegal_of_body {x : Instr} {body : State → State} (hx : exec x s = issue x s body) (hi : Issuing s x) (hb : body s = illegal s) :
    exec x s = .next (illegal s) := by
  rw [hx, issue_passes x s body hi.passes, hb]
  exact congrArg _ (settle_trapped s x (trap_trapped ..))
/-- A barrier instruction whose index the team does not list (R238). -/
theorem exec_illegal_of_no_barrier {x : Instr} {f : State → Nat → State} (hx : exec x s = issue x s (fun s => withBarrier s i (f s)))
    (hi : Issuing s x) (hn : barPa s s.cur.rd.launch s.cur.rd.team i.toNat = none) : exec x s = .next (illegal s) :=
  exec_illegal_of_body hx hi (withBarrier_none hn _)

/-- The issuing group after `settle`: its outstanding results are marked, and nothing else. -/
theorem settle_curG (r : State) (i : Instr) :
    ∃ o, (settle s i r).curG = { r.curG with outst := o } ∧ o.map Entry.plain = r.curG.outst.map Entry.plain := by
  obtain ⟨o, he, ho⟩ := settle_outst s r i
  rw [he]
  have hg := modG_grp_same r r.cur.h (fun g => { g with outst := o })
  change ∃ o', (r.modG r.cur.h (fun g => { g with outst := o })).grp r.cur.h = _ ∧ _
  rw [hg]
  split
  · exact ⟨o, rfl, ho⟩
  · exact ⟨r.curG.outst, rfl, rfl⟩
theorem settle_mem (r : State) (i : Instr) : (settle s i r).mem = r.mem := by
  obtain ⟨o, he, -⟩ := settle_outst s r i
  rw [he, upG_mem]

/-- A lane after it has looked at a phase (R42, R160): it waits where the phase is not reached. -/
def waitedLane (s : State) (i : BitVec 3) (pa v : Nat) (x : Lane) : Lane :=
  if phaseMet (readBar s pa).phase v then x else park s (.barrier i (BitVec.ofNat 16 v)) x
theorem waitLane_eq (s : State) (i : BitVec 3) (pa l v : Nat) : waitLane s i pa l v = s.upG (fun g => g.setLane l (waitedLane s i pa v)) := by
  unfold waitLane
  split
  next h =>
    have hw : waitedLane s i pa v = id := funext fun x => if_pos h
    refine (modG_id s _ _ (fun g => ?_)).symm
    rw [Group.setLane, hw, List.modify_id]
  next h =>
    have hw : waitedLane s i pa v = park s (.barrier i (BitVec.ofNat 16 v)) := funext fun x => if_neg h
    rw [hw]
theorem foldl_waitLane (s : State) (i : BitVec 3) (pa : Nat) (a : Reg) (ls : List Nat) :
    ls.foldl (fun s l => waitLane s i pa l ((s.ov a l).v % 2 ^ 16)) s =
      s.upG (fun g => ls.foldl (fun g l => g.setLane l (waitedLane s i pa ((s.ov a l).v % 2 ^ 16))) g) := by
  induction ls generalizing s with
  | nil => exact (modG_id s _ _ (fun _ => rfl)).symm
  | cons l ls ih =>
    rw [List.foldl_cons, waitLane_eq, ih, upG_upG]
    rfl

theorem acquire_grp (s : State) (h j : Nat) (sc : Scope) : (acquire s h sc).grp j = s.grp j := by
  obtain ⟨c, hc⟩ := acquire_eq s h sc
  rw [hc]
  rfl
theorem acquire_cur (s : State) (h : Nat) (sc : Scope) : (acquire s h sc).cur = s.cur := by
  obtain ⟨c, hc⟩ := acquire_eq s h sc
  rw [hc]

/-- The body of BARI (R239). -/
theorem bari_eq (a : Reg) (i : BitVec 3) (s : State) : exec (.bari a i) s = issue (.bari a i) s (fun s => withBarrier s i (fun pa =>
    if (s.os a).v < 1 ∨ 1024 < (s.os a).v then illegal s
    else
      let u := touch s (barBanks s.cur.rd.core pa)
      releaseBar (writeBar u pa { readBar u pa with
        expect := (s.os a).v, arrived := 0, phase := ((readBar u pa).phase + 1) % 2 ^ 16, epoch := ((readBar u pa).epoch + 1) % 2 ^ 12 })
        u.cur.rd.launch u.cur.rd.team i (((readBar u pa).phase + 1) % 2 ^ 16))) := rfl
/-- BARI with a count in range (R239). -/
theorem bari_effect {a : Reg} (hi : Issuing s (.bari a i)) (hp : barPa s s.cur.rd.launch s.cur.rd.team i.toNat = some pa)
    (h1 : 1 ≤ (s.os a).v) (h2 : (s.os a).v ≤ 1024) :
    exec (.bari a i) s = .next (
      releaseBar (writeBar (touch s (barBanks s.cur.rd.core pa)) pa { readBar s pa with
        expect := (s.os a).v, arrived := 0, phase := ((readBar s pa).phase + 1) % 2 ^ 16, epoch := ((readBar s pa).epoch + 1) % 2 ^ 12 })
        s.cur.rd.launch s.cur.rd.team i (((readBar s pa).phase + 1) % 2 ^ 16)) := by
  have hb : readBar (touch s (barBanks s.cur.rd.core pa)) pa = readBar s pa := readBar_of_mem (touch_mem ..) pa
  rw [exec_of_no_writes (bari_eq a i s) (fun _ => rfl) hi, withBarrier_some hp, if_neg (by omega)]
  dsimp only
  rw [hb, touch_cur]

/-- The body of BARW (R239). -/
theorem barw_eq (a : Reg) (i : BitVec 3) (s : State) : exec (.barw a i) s = issue (.barw a i) s (fun s => withBarrier s i (fun pa =>
    acquire ((lanesOf s.cur.mask).foldl (fun s l => waitLane s i pa l ((s.ov a l).v % 2 ^ 16)) (touch s (barBanks s.cur.rd.core pa)))
      s.cur.h .team)) := rfl
/-- The bodies of BARD, BARAW and BARD.drop (R239). -/
theorem bard_eq (d : Reg) (i : BitVec 3) (s : State) : exec (.bard d i) s = issue (.bard d i) s (fun s => withBarrier s i (fun pa =>
    (lanesOf s.cur.mask).foldl (arriveWith d i pa false) (release s s.cur.h .team))) := rfl
theorem baraw_eq (d : Reg) (i : BitVec 3) (s : State) : exec (.baraw d i) s = issue (.baraw d i) s (fun s => withBarrier s i (fun pa =>
    acquire ((lanesOf s.cur.mask).foldl (arriveWith d i pa true) (release s s.cur.h .team)) s.cur.h .team)) := rfl
theorem bardDrop_eq (i : BitVec 3) (s : State) : exec (.bardDrop i) s = issue (.bardDrop i) s (fun s => withBarrier s i (fun _ =>
    (lanesOf s.cur.mask).foldl (fun s l => dropLane s s.cur.h i l) s)) := rfl

/-- BARW (R42, R239): the lanes whose phase is not reached wait. -/
theorem barw_effect {a : Reg} (hi : Issuing s (.barw a i)) (hp : barPa s s.cur.rd.launch s.cur.rd.team i.toNat = some pa) :
    ∃ t, exec (.barw a i) s = .next t ∧ t.mem = s.mem ∧
      t.curG = (lanesOf s.cur.mask).foldl (fun g l => g.setLane l (waitedLane s i pa ((s.ov a l).v % 2 ^ 16))) s.curG := by
  refine ⟨_, exec_of_no_writes (barw_eq a i s) (fun _ => rfl) hi, ?_⟩
  have hu : (touch s (barBanks s.cur.rd.core pa)).cur = s.cur := touch_cur ..
  have hw : ∀ l, waitedLane (touch s (barBanks s.cur.rd.core pa)) i pa (((touch s (barBanks s.cur.rd.core pa)).ov a l).v % 2 ^ 16) =
      waitedLane s i pa ((s.ov a l).v % 2 ^ 16) := fun l => by
    have hb : readBar (touch s (barBanks s.cur.rd.core pa)) pa = readBar s pa := readBar_of_mem (touch_mem ..) pa
    have hv : (touch s (barBanks s.cur.rd.core pa)).ov a l = s.ov a l := by simp only [State.ov, State.rv, State.pk, hu]
    funext x
    rw [hv]
    simp only [waitedLane, hb, hu, park, wordsAfter]
  rw [withBarrier_some hp, foldl_waitLane]
  simp only [hw]
  refine ⟨?_, ?_⟩
  · rw [acquire_mem, upG_mem, touch_mem]
  · rw [State.curG, acquire_cur, acquire_grp]
    have hr : (Tb.get? (touch s (barBanks s.cur.rd.core pa)).work.groups (touch s (barBanks s.cur.rd.core pa)).cur.h).isSome = true := by
      rw [touch_work, hu]; exact hi.resident
    refine (upG_curG _ _ hr).trans ?_
    rw [State.curG, hu, touch_grp]
    rfl

end

/-- Settles O29: an arrival and a drop by `recordLane`, the instructions by what they do to the object and to the lanes. -/
theorem barriers : Obligations.Barriers := by
  refine ⟨⟨fun s h i l pa hr _ hp => arriveLane_spec s h i l pa hr hp, fun s h i l pa hr _ hp => dropLane_spec s h i l pa hr hp⟩,
    fun a d i s => ⟨fun hn x hx hi _ => ?_, fun pa hp => ⟨fun hi _ hv => ?_, fun hi h1 h2 => ?_, fun hi => ?_, fun hi => ?_, fun hi => ?_, fun hi => ?_⟩⟩⟩
  · simp only [List.mem_cons, List.not_mem_nil, or_false] at hx
    rcases hx with rfl | rfl | rfl | rfl | rfl
    · exact exec_illegal_of_no_barrier (bari_eq a i s) hi hn
    · exact exec_illegal_of_no_barrier (barw_eq a i s) hi hn
    · exact exec_illegal_of_no_barrier (baraw_eq d i s) hi hn
    · exact exec_illegal_of_no_barrier (bard_eq d i s) hi hn
    · exact exec_illegal_of_no_barrier (bardDrop_eq i s) hi hn
  · exact exec_illegal_of_body (bari_eq a i s) hi ((withBarrier_some hp _).trans (if_pos hv))
  · refine ⟨_, bari_effect hi hp h1 h2, ?_⟩
    obtain ⟨hbp, hbe, hba, hbi, hbep⟩ := readBar_fits s pa
    refine ⟨fun x hx => ?_, ?_, fun h hh => ?_⟩
    · rw [releaseBar_mem]
      exact (writeBar_sameBytes _ pa _ x hx).trans (by rw [touch_mem])
    · rw [readBar_of_mem (releaseBar_mem ..)]
      exact readBar_writeBar _ pa ⟨Nat.mod_lt _ (by decide), lt_of_le_of_lt h2 (by decide), Nat.two_pow_pos 16, hbi, Nat.mod_lt _ (by decide)⟩
    · have hw (v : BarObj) : (writeBar (touch s (barBanks s.cur.rd.core pa)) pa v).work = s.work := (setNum_work ..).trans (touch_work ..)
      have hh' (v : BarObj) : h ∈ (writeBar (touch s (barBanks s.cur.rd.core pa)) pa v).teamGroups s.cur.rd.launch s.cur.rd.team := by
        rw [State.teamGroups, hw]
        exact hh
      rw [releaseBar_grp, if_pos (hh' _)]
      exact released_releaseWaiters (by rw [State.grp, hw, State.grp]) i _
  · obtain ⟨t, he, hm, hg⟩ := barw_effect hi hp
    refine ⟨t, he, hm, fun l hl => ?_, ?_⟩
    · rw [hg, foldl_setLane_lane _ (nodup_lanesOf _) _ hl]
      have hv (x : Nat) : BitVec.ofNat 16 (x % 2 ^ 16) = BitVec.ofNat 16 x := by
        apply BitVec.eq_of_toNat_eq
        rw [BitVec.toNat_ofNat, BitVec.toNat_ofNat, Nat.mod_mod]
      simp only [mem_lanesOf, waitedLane, park, hv]
      by_cases hm : s.cur.mask.getLsbD l = true
      · by_cases hw : phaseMet (readBar s pa).phase ((s.ov a l).v % 2 ^ 16) = true
        · rw [if_pos hm, if_pos hw, if_neg (by rw [hw]; simp)]
        · rw [if_pos hm, if_neg hw, if_pos ⟨hm, Bool.eq_false_iff.2 hw⟩]
      · rw [if_neg hm, if_neg (fun h => hm h.1)]
    · rw [hg, foldl_setLane_eq]
      exact ⟨rfl, rfl, rfl, rfl, rfl⟩
  · rw [bard_eq, issue_passes _ s _ hi.passes, withBarrier_some hp]
    obtain ⟨o, hg, -⟩ := settle_curG (s := s) ((lanesOf s.cur.mask).foldl (arriveWith d i pa false) (release s s.cur.h .team)) (.bard d i)
    exact ⟨_, rfl, settle_mem .., by rw [hg], by rw [hg]⟩
  · rw [baraw_eq, issue_passes _ s _ hi.passes, withBarrier_some hp]
    obtain ⟨o, hg, -⟩ := settle_curG (s := s)
      (acquire ((lanesOf s.cur.mask).foldl (arriveWith d i pa true) (release s s.cur.h .team)) s.cur.h .team) (.baraw d i)
    have ha : (acquire ((lanesOf s.cur.mask).foldl (arriveWith d i pa true) (release s s.cur.h .team)) s.cur.h .team).curG =
        ((lanesOf s.cur.mask).foldl (arriveWith d i pa true) (release s s.cur.h .team)).curG := by
      rw [State.curG, acquire_cur, acquire_grp, State.curG]
    exact ⟨_, rfl, (settle_mem ..).trans (acquire_mem ..), by rw [hg, ha], by rw [hg, ha]⟩
  · rw [exec_of_no_writes (bardDrop_eq i s) (fun _ => rfl) hi, withBarrier_some hp]

end Sys2Proof.Machine

namespace Sys2Proof.Machine

/-! ### Changes that reach a group's outstanding results alone -/

/-- `t` is `s` but for banks, deques, counts and the outstanding results of group h. -/
structure OutstOnly (h : Nat) (s t : State) : Prop where
  mem : t.mem = s.mem
  cur : t.cur = s.cur
  groups : ∃ o, t.work.groups = Tb.modify s.work.groups h (fun g => { g with outst := o })

section
variable {s t u : State} {h : Nat}

theorem modify_outst_self (s : State) (h : Nat) : Tb.modify s.work.groups h (fun g => { g with outst := (s.grp h).outst }) = s.work.groups :=
  Tb.modify_id _ _ _ (fun v hv => by simp only [State.grp, Tb.get, hv, Option.getD_some])
theorem OutstOnly.refl (s : State) : OutstOnly h s s := ⟨rfl, rfl, (s.grp h).outst, (modify_outst_self s h).symm⟩
theorem OutstOnly.trans (hst : OutstOnly h s t) (htu : OutstOnly h t u) : OutstOnly h s u := by
  obtain ⟨hm, hc, o, hg⟩ := hst
  obtain ⟨hm', hc', o', hg'⟩ := htu
  exact ⟨hm'.trans hm, hc'.trans hc, o', by rw [hg', hg, Tb.modify_modify]⟩
theorem OutstOnly.foldl {α : Type} {f : State → α → State} (hf : ∀ s x, OutstOnly h s (f s x)) (s : State) (xs : List α) :
    OutstOnly h s (xs.foldl f s) := by
  induction xs generalizing s with
  | nil => exact .refl s
  | cons x xs ih => exact (hf s x).trans (ih (f s x))
theorem OutstOnly.resident (k : OutstOnly h s t) (j : Nat) : (Tb.get? t.work.groups j).isSome = (Tb.get? s.work.groups j).isSome := by
  obtain ⟨-, -, o, hg⟩ := k
  rw [hg]
  exact modG_resident s h j _
/-- The group itself, with other outstanding results. -/
theorem OutstOnly.grp (k : OutstOnly h s t) : ∃ o, t.grp h = { s.grp h with outst := o } := by
  obtain ⟨-, -, o, hg⟩ := k
  have hgrp : t.grp h = (s.modG h (fun g => { g with outst := o })).grp h := by rw [State.grp, hg]; rfl
  rw [hgrp, modG_grp_same]
  split
  · exact ⟨o, rfl⟩
  · exact ⟨_, rfl⟩

/-- `t` is `s` but for banks, deques and counts: memory and groups are as they were. -/
structure SameGroups (s t : State) : Prop where
  mem : t.mem = s.mem
  cur : t.cur = s.cur
  groups : t.work.groups = s.work.groups
theorem SameGroups.refl (s : State) : SameGroups s s := ⟨rfl, rfl, rfl⟩
theorem SameGroups.trans (hst : SameGroups s t) (htu : SameGroups t u) : SameGroups s u :=
  ⟨htu.mem.trans hst.mem, htu.cur.trans hst.cur, htu.groups.trans hst.groups⟩
theorem SameGroups.outstOnly (k : SameGroups s t) : OutstOnly h s t := ⟨k.mem, k.cur, (s.grp h).outst, by rw [k.groups, modify_outst_self]⟩
theorem SameGroups.grp (k : SameGroups s t) (j : Nat) : t.grp j = s.grp j := by rw [State.grp, k.groups, State.grp]

/-! #### Counts, deques and takes -/

theorem view_groups (s : State) (core ev n k t : Nat) : (s.view core ev n k t).work.groups = s.work.groups := by
  unfold State.view
  dsimp only
  split <;> rfl
theorem view_cur (s : State) (core ev n k t : Nat) : (s.view core ev n k t).cur = s.cur := by
  unfold State.view
  dsimp only
  split <;> rfl
theorem view_deques (s : State) (core ev n k t : Nat) : (s.view core ev n k t).work.deques = s.work.deques := by
  unfold State.view
  dsimp only
  split <;> rfl
theorem count_groups (s : State) (core f ev n : Nat) (team : Option (Nat × Nat)) : (s.count core f ev n team).work.groups = s.work.groups := by
  unfold State.count
  dsimp only
  split
  · rfl
  · split
    · rfl
    · exact view_groups ..
theorem count_cur (s : State) (core f ev n : Nat) (team : Option (Nat × Nat)) : (s.count core f ev n team).cur = s.cur := by
  unfold State.count
  dsimp only
  split
  · rfl
  · split
    · rfl
    · exact view_cur ..
theorem count_deques (s : State) (core f ev n : Nat) (team : Option (Nat × Nat)) : (s.count core f ev n team).work.deques = s.work.deques := by
  unfold State.count
  dsimp only
  split
  · rfl
  · split
    · rfl
    · exact view_deques ..
theorem bump_groups (s : State) (h ev n : Nat) : (s.bump h ev n).work.groups = s.work.groups := count_groups ..
theorem bump_cur (s : State) (h ev n : Nat) : (s.bump h ev n).cur = s.cur := count_cur ..
theorem bump_deques (s : State) (h ev n : Nat) : (s.bump h ev n).work.deques = s.work.deques := count_deques ..
theorem sameGroups_bump (s : State) (h ev n : Nat) : SameGroups s (s.bump h ev n) := ⟨bump_mem .., bump_cur .., bump_groups ..⟩
theorem outstOnly_modEntry (s : State) (id : Nat) (f : Entry → Entry) : OutstOnly h s (modEntry s h id f) :=
  ⟨rfl, rfl, (s.grp h).outst.map (fun e => if e.id = id then f e else e),
    congrArg (fun x : State => x.work.groups) (modG_congr s h (f := fun g => { g with outst := g.outst.map (fun e => if e.id = id then f e else e) }) rfl)⟩

/-- A take from a deque leaves memory and groups as they are (R162). -/
theorem sameGroups_popItem (s : State) (k core : Nat) : SameGroups s (popItem s k core).1 := by
  unfold popItem
  dsimp only
  split
  · exact ⟨touch_mem .., touch_cur .., by rw [touch_work]⟩
  · exact ⟨touch_mem .., touch_cur .., by simp only [setDeque, touch_work]⟩
theorem sameGroups_stealItem (s : State) (k core : Nat) : SameGroups s (stealItem s k core).1 := by
  unfold stealItem
  dsimp only
  split
  · exact ⟨touch_mem .., touch_cur .., by rw [touch_work]⟩
  · exact ⟨touch_mem .., touch_cur .., by simp only [setDeque, touch_work]⟩
theorem sameGroups_takeItem (s : State) (k core : Nat) : SameGroups s (takeItem s k core).1 := by
  have hp : SameGroups s (popItem s k core).1 := sameGroups_popItem s k core
  unfold takeItem
  split
  next u x e => rw [e] at hp; exact hp
  next u e =>
    rw [e] at hp
    split
    · exact hp
    · exact hp.trans (sameGroups_stealItem u k _)
theorem outstOnly_takeLane (e : Entry) (s : State) (l : Nat) : OutstOnly h s (takeLane h e s l) := by
  have hb (s : State) (x : Option DWord) (ev : Nat) : SameGroups s (if x.isSome then s.bump h ev 1 else s) := by
    split
    · exact sameGroups_bump s h ev 1
    · exact .refl s
  unfold takeLane
  dsimp only
  split
  · exact ((sameGroups_popItem s _ _).trans (hb _ _ _)).outstOnly.trans (outstOnly_modEntry _ _ _)
  · exact ((sameGroups_stealItem s _ _).trans (hb _ _ _)).outstOnly.trans (outstOnly_modEntry _ _ _)
  · exact .refl s
theorem outstOnly_takesBefore (s : State) (id : Nat) (f : Nat → Bool) : OutstOnly h s (takesBefore s h id f) :=
  .foldl (fun s e => .foldl (fun s l => outstOnly_takeLane e s l) s _) s _
/-- Where no outstanding result takes from a deque, there is no earlier take. -/
theorem takesBefore_of_none {id : Nat} {f : Nat → Bool} (hn : ∀ e ∈ (s.grp h).outst, dqCore (s.grp h) e = none) : takesBefore s h id f = s := by
  refine (congrArg (fun xs => List.foldl _ s xs) (List.filter_eq_nil_iff.2 fun e he => ?_)).trans List.foldl_nil
  rw [hn e he, Bool.and_false]
  exact Bool.false_ne_true

/-- The lanes of an ITEM take items, each at most once, and change deques alone (R34). -/
theorem serveItems_spec (s : State) (k core : Nat) (ls : List Nat) :
    SameGroups s (serveItems s k core ls).1 ∧ ((serveItems s k core ls).2.map (·.1)).Sublist ls := by
  induction ls generalizing s with
  | nil => exact ⟨.refl s, List.Sublist.slnil⟩
  | cons l ls ih =>
    have ht : SameGroups s (takeItem s k core).1 := sameGroups_takeItem s k core
    unfold serveItems
    split
    next u x e =>
      rw [e] at ht
      obtain ⟨ho, hs⟩ := ih u
      exact ⟨ht.trans ho, hs.cons_cons l⟩
    next u e =>
      rw [e] at ht
      obtain ⟨ho, hs⟩ := ih u
      exact ⟨ht.trans ho, hs.cons l⟩

end

/-! ### The lanes that leave, and the result (R34, R220) -/

/-- Lanes that transfer to one target. -/
theorem moves_foldl_setLane (g : Group) (m : Mask) (q : PC) :
    Moves g ((lanesOf m).foldl (fun g l => g.setLane l (fun x => { x with pc := q })) g) (fun l => if m.getLsbD l then some q else none) := by
  refine ⟨foldl_setLane_length _ _ g, fun l hl => ?_, ?_, ?_⟩
  · rw [foldl_setLane_lane _ (nodup_lanesOf m) g hl]
    by_cases h : m.getLsbD l = true <;> simp [mem_lanesOf, h]
  · rw [foldl_setLane_eq]
  · rw [foldl_setLane_eq]
    exact ⟨_, _, rfl⟩

/-- The group of an ITEM after the lanes without an item have left. -/
def missedGroup (g : Group) (k : Nat) (q : PC) (miss : Mask) : Group :=
  let g0 := (lanesOf miss).foldl (fun g l => g.setLane l (fun x => { x with pc := q })) g
  if miss &&& (g0.k k).enrolled = 0 then g0 else strikeKnot g0 k (miss &&& (g0.k k).enrolled)
/-- The lanes without an item move, and those of them that are enrolled are struck from the knot. -/
theorem missedGroup_moves (g : Group) (k : Nat) (q : PC) (miss : Mask) :
    let n := g.k k
    let en := miss &&& n.enrolled
    ∃ g0, Moves g g0 (fun l => if miss.getLsbD l then some q else none) ∧ (en = 0 → missedGroup g k q miss = g0) ∧
      (en ≠ 0 → KnotBecomes g0 (missedGroup g k q miss) k (if n.enrolled &&& ~~~en = 0 then Knot.idle
        else { n with enrolled := n.enrolled &&& ~~~en, arrived := n.arrived &&& ~~~en }) g0.lane) := by
  intro n en
  refine ⟨_, moves_foldl_setLane g miss q, fun h => ?_, fun h => ?_⟩
  · rw [missedGroup, foldl_setLane_k]
    exact if_pos h
  · rw [missedGroup, foldl_setLane_k]
    rw [if_neg h]
    have hk := knotBecomes_strikeKnot ((lanesOf miss).foldl (fun g l => g.setLane l (fun x => { x with pc := q })) g) k en
    rwa [foldl_setLane_k] at hk
theorem missedGroup_outst (g : Group) (k : Nat) (q : PC) (miss : Mask) :
    (missedGroup g k q miss).outst.map Entry.plain = g.outst.map Entry.plain := by
  obtain ⟨g0, hmoves, hnone, hsome⟩ := missedGroup_moves g k q miss
  by_cases h : miss &&& (g.k k).enrolled = 0
  · rw [hnone h]
    exact hmoves.outst
  · exact (hsome h).outst.trans hmoves.outst
theorem missedGroup_pc {g : Group} {k : Nat} {q : PC} {miss : Mask} {l : Nat} (hl : l < g.lanes.length) (hm : miss.getLsbD l = true)
    (ha : (g.k k).arrived.getLsbD l = false) : ((missedGroup g k q miss).lane l).pc = q := by
  obtain ⟨g0, hmoves, hnone, hsome⟩ := missedGroup_moves g k q miss
  have h0 : (g0.lane l).pc = q := by rw [hmoves.lane l hl, if_pos hm]; rfl
  by_cases h : miss &&& (g.k k).enrolled = 0
  · rw [hnone h]
    exact h0
  · rw [(hsome h).lane l (hmoves.count ▸ hl), if_neg]
    · exact h0
    · split
      · exact fun h => absurd h.1 Bool.false_ne_true
      · rw [BitVec.getLsbD_and, ha, Bool.false_and]
        exact fun h => absurd h.2 Bool.false_ne_true
theorem itemMisses_eq (s : State) (k : Nat) {q : PC} (miss : Mask) (hq : slotOf q ≠ 3) :
    itemMisses s k q miss = s.upG (fun g => missedGroup g k q miss) := by
  have hm : misaligned ((lanesOf miss).map (fun l => (l, q))) = [] := by
    rw [misaligned, List.filter_map, List.filter_eq_nil_iff.2 (fun l _ => by simpa using hq), List.map_nil]
  rw [itemMisses, transfer, if_pos hm, upG_upG]
  simp only [List.foldl_map]
  rfl

/-- A lane's result words in an outstanding result. -/
theorem cells_done (e : Entry) (l : Nat) (x : DWord) (j : Nat) :
    (e.done l (pairCells x)).cells j 0 2 = if j = l then pairCells x else e.cells j 0 2 := by
  simp only [Entry.cells, Entry.done, Entry.setCells, pairCells, List.range_succ, List.range_zero, List.nil_append, List.map_cons,
    List.map_nil, List.length_cons, List.length_nil, List.zip_cons_cons, List.zip_nil_left, List.foldl_cons, List.foldl_nil, List.cons_append,
    Tb.get_put, Nat.add_zero]
  by_cases h : j = l
  · subst h
    simp
  · have h1 : 8 * j ≠ 8 * l + 1 := by omega
    have h2 : 8 * j ≠ 8 * l := by omega
    have h3 : 8 * j + 1 ≠ 8 * l + 1 := by omega
    have h4 : 8 * j + 1 ≠ 8 * l := by omega
    simp only [if_neg h, if_neg h1, if_neg h2, if_neg h3, if_neg h4]

/-- The result of an ITEM: the lanes with an item have been performed, each with its item. -/
theorem foldl_done_spec (e : Entry) (got : List (Nat × DWord)) (hn : (got.map (·.1)).Nodup) :
    let r := got.foldl (fun e x => e.done x.1 (pairCells x.2)) e
    r.instr = e.instr ∧ r.mask = e.mask ∧ (∀ l, r.performed.getLsbD l = (e.performed.getLsbD l || decide (l < 64 ∧ l ∈ got.map (·.1)))) ∧
      (∀ x ∈ got, r.cells x.1 0 2 = pairCells x.2) ∧ ∀ j, j ∉ got.map (·.1) → r.cells j 0 2 = e.cells j 0 2 := by
  induction got generalizing e with
  | nil => exact ⟨rfl, rfl, fun l => by simp, fun x hx => absurd hx List.not_mem_nil, fun j _ => rfl⟩
  | cons x got ih =>
    rw [List.map_cons, List.nodup_cons] at hn
    obtain ⟨hi, hm, hp, hc, ho⟩ := ih (e.done x.1 (pairCells x.2)) hn.2
    refine ⟨hi, hm, fun l => ?_, fun y hy => ?_, fun j hj => ?_⟩
    · refine (hp l).trans ?_
      rw [Entry.done, BitVec.getLsbD_or, getLsbD_maskOf, Bool.or_assoc]
      congr 1
      by_cases hl : l < 64 <;> simp [hl]
    · rcases List.mem_cons.1 hy with rfl | hy
      · exact (ho _ hn.1).trans ((cells_done ..).trans (if_pos rfl))
      · exact hc y hy
    · rw [List.map_cons, List.mem_cons, not_or] at hj
      exact (ho j hj.2).trans ((cells_done ..).trans (if_neg hj.1))

/-- The entry that an ITEM leaves outstanding. -/
def itemEntry (s : State) (i : Instr) (got : List (Nat × DWord)) : Entry :=
  got.foldl (fun e x => e.done x.1 (pairCells x.2)) (newEntry s i (maskOf (got.map (·.1))) 0 [] [])
theorem itemEntry_spec (s : State) (i : Instr) {got : List (Nat × DWord)} {m : Mask} (hs : (got.map (·.1)).Sublist (lanesOf m)) :
    (itemEntry s i got).instr = i ∧ (itemEntry s i got).ready = true ∧
      (∀ l, (itemEntry s i got).mask.getLsbD l = true ↔ l ∈ got.map (·.1)) ∧ ∀ x ∈ got, (itemEntry s i got).cells x.1 0 2 = pairCells x.2 := by
  obtain ⟨hi, hm, hp, hc, -⟩ := foldl_done_spec (newEntry s i (maskOf (got.map (·.1))) 0 [] []) got (hs.nodup (nodup_lanesOf m))
  have hlt : ∀ l, l ∈ got.map (·.1) → l < 64 := fun l hl => lanesOf_lt m l (hs.subset hl)
  have hmask : ∀ l, (itemEntry s i got).mask.getLsbD l = true ↔ l ∈ got.map (·.1) := fun l => by
    rw [itemEntry, hm, newEntry, getLsbD_maskOf, decide_eq_true_iff]
    exact ⟨fun h => h.2, fun h => ⟨hlt l h, h⟩⟩
  refine ⟨hi, ?_, hmask, hc⟩
  rw [Entry.ready, decide_eq_true_iff]
  refine BitVec.eq_of_getLsbD_eq fun l hl => ?_
  rw [BitVec.getLsbD_and, BitVec.getLsbD_not, itemEntry, hp l]
  by_cases h : l ∈ got.map (·.1)
  · simp [h, hl]
  · have : (itemEntry s i got).mask.getLsbD l = false := Bool.eq_false_iff.2 (fun hb => h ((hmask l).1 hb))
    rw [itemEntry] at this
    rw [this, Bool.false_and]
    simp

/-- The end of an ITEM: its result is outstanding where some lane has an item. -/
theorem itemHits_spec {s : State} {i : Instr} {got : List (Nat × DWord)} (hr : (Tb.get? s.work.groups s.cur.h).isSome = true) :
    (itemHits s i got).mem = s.mem ∧ (itemHits s i got).work.deques = s.work.deques ∧ (itemHits s i got).cur = s.cur ∧
      (itemHits s i got).curG = { s.curG with outst := s.curG.outst ++ if got = [] then [] else [itemEntry s i got] } := by
  unfold itemHits
  split
  next h => exact ⟨rfl, rfl, rfl, by rw [List.append_nil]⟩
  next h =>
    refine ⟨bump_mem .., bump_deques .., bump_cur .., ?_⟩
    rw [State.curG, bump_cur, State.grp, bump_groups]
    exact upG_curG s (fun g => { g with outst := g.outst ++ [itemEntry s i got] }) hr

/-- The state of an ITEM before its results are marked. -/
theorem item_effect {k : BitVec 3} {r : Reg} {o : BitVec 10} {q : BitVec 2} {s : State} (hi : Issuing s (.item k r o q)) (hq : q ≠ 3) :
    let u := takesBefore s s.cur.h s.ids (fun _ => true)
    let got := serveItems u s.cur.rd.launch s.cur.rd.core (lanesOf s.cur.mask)
    let miss := s.cur.mask &&& ~~~maskOf (got.2.map (·.1))
    let g1 := missedGroup u.curG k.toNat (branchTo s o q) miss
    ∃ t e, exec (.item k r o q) s = .next t ∧ t.mem = s.mem ∧ t.work.deques = got.1.work.deques ∧
      (∃ outst, t.curG = { g1 with outst := outst } ∧
        outst.map Entry.plain = (g1.outst ++ if got.2 = [] then [] else [e]).map Entry.plain) ∧
      e.instr = .item k r o q ∧ e.ready = true ∧ (∀ l, e.mask.getLsbD l = true ↔ l ∈ got.2.map (·.1)) ∧
      ∀ x ∈ got.2, e.cells x.1 0 2 = pairCells x.2 := by
  intro u got miss g1
  have hu : OutstOnly s.cur.h s u := outstOnly_takesBefore s s.ids _
  obtain ⟨hgot, hsub⟩ := serveItems_spec u s.cur.rd.launch s.cur.rd.core (lanesOf s.cur.mask)
  have hcur : got.1.cur = s.cur := hgot.cur.trans hu.cur
  have hru : (Tb.get? got.1.work.groups got.1.cur.h).isSome = true := by
    rw [hcur, hgot.groups, hu.resident]
    exact hi.resident
  have hgu : got.1.curG = u.curG := by rw [State.curG, hgot.cur, hgot.grp, State.curG]
  have hslot : slotOf (branchTo s o q) ≠ 3 := by
    rw [slotOf_branchTo]
    exact fun h => hq (BitVec.eq_of_toNat_eq h)
  have hmiss : itemMisses got.1 k.toNat (branchTo s o q) miss = got.1.upG (fun g => missedGroup g k.toNat (branchTo s o q) miss) :=
    itemMisses_eq got.1 k.toNat miss hslot
  have hg1 : (itemMisses got.1 k.toNat (branchTo s o q) miss).curG = g1 := by rw [hmiss, upG_curG _ _ hru, hgu]
  have hr1 : (Tb.get? (itemMisses got.1 k.toNat (branchTo s o q) miss).work.groups
      (itemMisses got.1 k.toNat (branchTo s o q) miss).cur.h).isSome = true := by
    rw [hmiss, upG_cur, upG_resident]
    exact hru
  obtain ⟨hmem, hdeq, -, hg⟩ := itemHits_spec (i := .item k r o q) (got := got.2) hr1
  obtain ⟨hinstr, hready, hmask, hcells⟩ := itemEntry_spec (itemMisses got.1 k.toNat (branchTo s o q) miss) (.item k r o q) hsub
  have hx : exec (.item k r o q) s = .next (settle s (.item k r o q)
      (itemHits (itemMisses got.1 k.toNat (branchTo s o q) miss) (.item k r o q) got.2)) := by
    rw [item_eq, issue_passes _ s _ hi.passes, targetOf_eq_branchTo, if_neg hslot]
  obtain ⟨os, hset, -⟩ := settle_outst s (itemHits (itemMisses got.1 k.toNat (branchTo s o q) miss) (.item k r o q) got.2) (.item k r o q)
  obtain ⟨outst, hcurG, houtst⟩ := settle_curG (s := s) (itemHits (itemMisses got.1 k.toNat (branchTo s o q) miss) (.item k r o q) got.2)
    (.item k r o q)
  refine ⟨_, _, hx, ?_, ?_, ?_, hinstr, hready, hmask, hcells⟩
  · rw [settle_mem, hmem, hmiss, upG_mem, hgot.mem, hu.mem]
  · rw [hset]
    exact hdeq.trans (by rw [hmiss]; rfl)
  · rw [hg, hg1] at hcurG houtst
    exact ⟨outst, hcurG, houtst.trans (congrArg _ (by split <;> rfl))⟩

/-- The first part of O16. -/
theorem item_spec {k : BitVec 3} {r : Reg} {o : BitVec 10} {q : BitVec 2} {s : State} (hi : Issuing s (.item k r o q)) (hq : q ≠ 3) :
    let u := takesBefore s s.cur.h s.ids (fun _ => true)
    let got := serveItems u s.cur.rd.launch s.cur.rd.core (lanesOf s.cur.mask)
    ((∀ e ∈ s.curG.outst, dqCore s.curG e = none) → u = s) ∧
    ∃ t, exec (.item k r o q) s = .next t ∧ t.mem = s.mem ∧ t.work.deques = got.1.work.deques ∧
      (∀ l, s.cur.mask.getLsbD l = true → l < s.curG.lanes.length → l ∉ got.2.map (·.1) →
        (s.curG.k k.toNat).arrived.getLsbD l = false → (t.curG.lane l).pc = branchTo s o q) ∧
      (let n := s.curG.k k.toNat
       let miss := s.cur.mask &&& ~~~(maskOf (got.2.map (·.1)))
       let en := miss &&& n.enrolled
       ∃ g0 g1 outst, Moves u.curG g0 (fun l => if miss.getLsbD l then some (branchTo s o q) else none) ∧
         (en = 0 → g1 = g0) ∧
         (en ≠ 0 → KnotBecomes g0 g1 k.toNat (if n.enrolled &&& ~~~en = 0 then Knot.idle
           else { n with enrolled := n.enrolled &&& ~~~en, arrived := n.arrived &&& ~~~en }) g0.lane) ∧
         t.curG = { g1 with outst := outst }) ∧
      (got.2 = [] → t.curG.outst.map Entry.plain = u.curG.outst.map Entry.plain) ∧
      (got.2 ≠ [] → ∃ e, t.curG.outst.map Entry.plain = u.curG.outst.map Entry.plain ++ [e] ∧ e.instr = .item k r o q ∧
        e.ready = true ∧ (∀ l, e.mask.getLsbD l = true ↔ l ∈ got.2.map (·.1)) ∧
        ∀ x ∈ got.2, e.cells x.1 0 2 = [⟨x.2.setWidth 32, 0⟩, ⟨(x.2 >>> 32).setWidth 32, 0⟩]) := by
  intro u got
  obtain ⟨t, e, hx, hmem, hdeq, ⟨outst, hg, ho⟩, hinstr, hready, hmask, hcells⟩ := item_effect hi hq
  have hu : OutstOnly s.cur.h s u := outstOnly_takesBefore s s.ids _
  obtain ⟨uo, hug⟩ := hu.grp
  have hucur : u.curG = { s.curG with outst := uo } := by
    rw [State.curG, hu.cur]
    exact hug
  have hk : u.curG.k k.toNat = s.curG.k k.toNat := by rw [hucur]; rfl
  obtain ⟨g0, hmoves, hnone, hsome⟩ := missedGroup_moves u.curG k.toNat (branchTo s o q) (s.cur.mask &&& ~~~maskOf (got.2.map (·.1)))
  rw [hk] at hnone hsome
  have houtst : t.curG.outst.map Entry.plain = u.curG.outst.map Entry.plain ++ (if got.2 = [] then [] else [e]).map Entry.plain := by
    rw [hg, ← missedGroup_outst u.curG k.toNat (branchTo s o q) (s.cur.mask &&& ~~~maskOf (got.2.map (·.1))), ← List.map_append]
    exact ho
  refine ⟨takesBefore_of_none, t, hx, hmem, hdeq, fun l hl hlt hgot ha => ?_, ⟨g0, _, outst, hmoves, hnone, hsome, hg⟩, fun hn => ?_, fun hn => ?_⟩
  · rw [hg]
    refine missedGroup_pc (l := l) (by rw [hucur]; exact hlt) ?_ (by rw [hk]; exact ha)
    rw [BitVec.getLsbD_and, hl, BitVec.getLsbD_not, getLsbD_maskOf, decide_eq_true (BitVec.lt_of_getLsbD hl), Bool.true_and, Bool.true_and,
      decide_eq_false (fun h : l < 64 ∧ _ => hgot h.2), Bool.not_false]
  · rw [houtst, if_pos hn]
    exact List.append_nil _
  · rw [if_neg hn] at houtst
    exact ⟨e.plain, houtst, hinstr, hready, hmask, hcells⟩

end Sys2Proof.Machine

namespace Sys2Proof.Machine

/-! ### EXIT: the strike of lanes from every knot (R30, R32, R221) -/

/-- A knot after the strike of some lanes, before its release. -/
def struckKnot (n : Knot) (m : Mask) : Knot :=
  if n.enrolled &&& ~~~m = 0 then Knot.idle else { n with enrolled := n.enrolled &&& ~~~m, arrived := n.arrived &&& ~~~m }
/-- A lane after the release of a knot that is complete. -/
def releasedLane (n : Knot) (l : Nat) (x : Lane) : Lane :=
  if n.complete = true ∧ n.arrived.getLsbD l = true then { x with pc := nextPc n.joinPc, st := .run } else x

theorem struckKnot_arrived {n : Knot} {m : Mask} {l : Nat} (h : (struckKnot n m).arrived.getLsbD l = true) :
    n.arrived.getLsbD l = true ∧ m.getLsbD l = false := by
  unfold struckKnot at h
  split at h
  · exact absurd h (by simp [Knot.idle])
  · rw [BitVec.getLsbD_and, BitVec.getLsbD_not, Bool.and_eq_true, Bool.and_eq_true] at h
    exact ⟨h.1, by simpa using h.2.2⟩
theorem struckKnot_enrolled {n : Knot} {m : Mask} {l : Nat} (h : m.getLsbD l = true) : (struckKnot n m).enrolled.getLsbD l = false := by
  unfold struckKnot
  split
  · simp [Knot.idle]
  · rw [BitVec.getLsbD_and, BitVec.getLsbD_not, h, Bool.not_true, Bool.and_false, Bool.and_false]

theorem settleKnot_eq (g : Group) (k : Nat) :
    ∃ lanes kn soft, settleKnot g k = { g with lanes := lanes, r := { g.r with k := kn }, soft := soft } := by
  unfold settleKnot releaseKnot
  split
  · dsimp only
    rw [foldl_setLane_eq]
    exact ⟨_, _, _, rfl⟩
  · exact ⟨_, _, _, rfl⟩
/-- A strike changes the knot, lanes and marks of k registers alone. -/
theorem strikeKnot_eq (g : Group) (k : Nat) (m : Mask) :
    ∃ lanes kn soft, strikeKnot g k m = { g with lanes := lanes, r := { g.r with k := kn }, soft := soft } := by
  unfold strikeKnot
  dsimp only
  split
  · exact ⟨_, _, _, rfl⟩
  · obtain ⟨lanes, kn, soft, h⟩ := settleKnot_eq (g.setK k { g.k k with enrolled := (g.k k).enrolled &&& ~~~m, arrived := (g.k k).arrived &&& ~~~m }) k
    exact ⟨lanes, kn, soft, h⟩

/-- The strike from some knots, each once: every knot takes its own value, and every lane is released by the knots in turn. -/
theorem foldl_strikeKnot (m : Mask) {ks : List Nat} (hn : ks.Nodup) (g : Group) :
    let g' := ks.foldl (fun g k => strikeKnot g k m) g
    (∃ lanes kn soft, g' = { g with lanes := lanes, r := { g.r with k := kn }, soft := soft }) ∧
    (∀ l, l < g.lanes.length → g'.lane l = ks.foldl (fun x k => releasedLane (struckKnot (g.k k) m) l x) (g.lane l)) ∧
    (∀ j, j ∈ ks → g'.k j = if (struckKnot (g.k j) m).complete then Knot.idle else struckKnot (g.k j) m) ∧
    ∀ j, j ∉ ks → g'.k j = g.k j := by
  induction ks generalizing g with
  | nil => exact ⟨⟨_, _, _, rfl⟩, fun l _ => rfl, fun j hj => absurd hj List.not_mem_nil, fun j _ => rfl⟩
  | cons k ks ih =>
    obtain ⟨hk, hn⟩ := List.nodup_cons.1 hn
    have hb : KnotBecomes g (strikeKnot g k m) k (struckKnot (g.k k) m) g.lane := knotBecomes_strikeKnot g k m
    obtain ⟨⟨lanes, kn, soft, hrest⟩, hlane, hin, hout⟩ := ih hn (strikeKnot g k m)
    obtain ⟨lanes', kn', soft', hrest'⟩ := strikeKnot_eq g k m
    refine ⟨⟨lanes, kn, soft, ?_⟩, fun l hl => ?_, fun j hj => ?_, fun j hj => ?_⟩
    · exact hrest.trans (by rw [hrest'])
    · refine (hlane l (hb.count ▸ hl)).trans ?_
      rw [List.foldl_cons, hb.lane l hl]
      refine List.foldl_ext _ _ _ fun x j hj => ?_
      rw [hb.other j (fun h => hk (h ▸ hj))]
    · by_cases h : j = k
      · rw [h]
        exact (hout k hk).trans hb.knot
      · rw [← hb.other j h]
        exact hin j ((List.mem_cons.1 hj).resolve_left h)
    · rw [List.mem_cons, not_or] at hj
      exact (hout j hj.2).trans (hb.other j hj.1)

/-- A lane that has arrived at no knot is released by none. -/
theorem foldl_releasedLane_none {N : Nat → Knot} {l : Nat} {ks : List Nat} (h : ∀ k ∈ ks, (N k).arrived.getLsbD l = false) (x : Lane) :
    ks.foldl (fun x k => releasedLane (N k) l x) x = x := by
  induction ks generalizing x with
  | nil => rfl
  | cons k ks ih =>
    have hx : releasedLane (N k) l x = x := if_neg (by rw [h k List.mem_cons_self]; simp)
    rw [List.foldl_cons, hx, ih (fun j hj => h j (List.mem_cons_of_mem _ hj))]
/-- A lane that has arrived at one knot is released by that one. -/
theorem foldl_releasedLane_one {N : Nat → Knot} {k l : Nat} {ks : List Nat} (hn : ks.Nodup) (hk : k ∈ ks)
    (h : ∀ j ∈ ks, j ≠ k → (N j).arrived.getLsbD l = false) (x : Lane) : ks.foldl (fun x k => releasedLane (N k) l x) x = releasedLane (N k) l x := by
  induction ks generalizing x with
  | nil => exact absurd hk List.not_mem_nil
  | cons j ks ih =>
    obtain ⟨hj, hn⟩ := List.nodup_cons.1 hn
    rw [List.foldl_cons]
    by_cases e : j = k
    · subst e
      exact foldl_releasedLane_none (fun i hi => h i (List.mem_cons_of_mem _ hi) (fun c => hj (c ▸ hi))) _
    · have hx : releasedLane (N j) l x = x := if_neg (by rw [h j List.mem_cons_self e]; simp)
      rw [hx, ih hn ((List.mem_cons.1 hk).resolve_left (Ne.symm e)) (fun i hi => h i (List.mem_cons_of_mem _ hi))]

theorem releasedLane_of_arrived {n : Knot} {l : Nat} (h : n.arrived.getLsbD l = true) (x : Lane) :
    releasedLane n l x = if n.complete = true then { x with pc := nextPc n.joinPc, st := .run } else x := by
  rw [releasedLane]
  simp only [h, and_true]

/-! ### EXIT: the lanes that leave (R40, R221) -/

/-- The group of an EXIT before the lanes are dropped from the barriers. -/
def exitedGroup (g : Group) (m : Mask) : Group := strikeAll ((lanesOf m).foldl (fun g l => g.setLane l (fun x => { x with st := .done })) g) m

theorem exitedGroup_eq (g : Group) (m : Mask) :
    ∃ lanes kn soft, exitedGroup g m = { g with lanes := lanes, r := { g.r with k := kn }, soft := soft } := by
  obtain ⟨⟨lanes, kn, soft, h⟩, -⟩ := foldl_strikeKnot m (List.nodup_range (n := 8))
    ((lanesOf m).foldl (fun g l => g.setLane l (fun x => { x with st := .done })) g)
  refine ⟨lanes, kn, soft, ?_⟩
  rw [exitedGroup, strikeAll, h, foldl_setLane_eq]
theorem exitedGroup_sp (g : Group) (m : Mask) : (exitedGroup g m).sp = g.sp := by
  obtain ⟨lanes, kn, soft, h⟩ := exitedGroup_eq g m
  rw [h]
theorem exitedGroup_k (g : Group) (m : Mask) {k : Nat} (hk : k < 8) :
    (exitedGroup g m).k k = if (struckKnot (g.k k) m).complete then Knot.idle else struckKnot (g.k k) m := by
  obtain ⟨-, -, h, -⟩ := foldl_strikeKnot m (List.nodup_range (n := 8))
    ((lanesOf m).foldl (fun g l => g.setLane l (fun x => { x with st := .done })) g)
  have := h k (List.mem_range.2 hk)
  rwa [foldl_setLane_k] at this
theorem exitedGroup_lane (g : Group) (m : Mask) {l : Nat} (hl : l < g.lanes.length) :
    (exitedGroup g m).lane l = (List.range 8).foldl (fun x k => releasedLane (struckKnot (g.k k) m) l x)
      (if m.getLsbD l = true then { g.lane l with st := .done } else g.lane l) := by
  obtain ⟨-, h, -⟩ := foldl_strikeKnot m (List.nodup_range (n := 8))
    ((lanesOf m).foldl (fun g l => g.setLane l (fun x => { x with st := .done })) g)
  have := h l (by rw [foldl_setLane_length]; exact hl)
  rw [foldl_setLane_lane _ (nodup_lanesOf m) g hl] at this
  simp only [foldl_setLane_k, mem_lanesOf] at this
  exact this
theorem exitedGroup_lane_of_mask (g : Group) {m : Mask} {l : Nat} (hl : l < g.lanes.length) (hm : m.getLsbD l = true) :
    (exitedGroup g m).lane l = { g.lane l with st := .done } := by
  rw [exitedGroup_lane g m hl, if_pos hm]
  refine foldl_releasedLane_none (fun k _ => Bool.eq_false_iff.2 fun h => ?_) _
  rw [(struckKnot_arrived h).2] at hm
  exact Bool.false_ne_true hm
theorem exitedGroup_lane_of_waiting_nowhere (g : Group) {m : Mask} {l : Nat} (hl : l < g.lanes.length) (hm : m.getLsbD l = false)
    (ha : ∀ k, k < 8 → (g.k k).arrived.getLsbD l = false) : (exitedGroup g m).lane l = g.lane l := by
  rw [exitedGroup_lane g m hl, if_neg (by rw [hm]; exact Bool.false_ne_true)]
  refine foldl_releasedLane_none (fun k hk => Bool.eq_false_iff.2 fun h => ?_) _
  exact Bool.false_ne_true ((ha k (List.mem_range.1 hk)).symm.trans (struckKnot_arrived h).1)
theorem exitedGroup_lane_of_arrived (g : Group) {m : Mask} {k l : Nat} (hk : k < 8) (hl : l < g.lanes.length)
    (ha : (struckKnot (g.k k) m).arrived.getLsbD l = true) (ho : ∀ j, j < 8 → j ≠ k → (g.k j).arrived.getLsbD l = false) :
    (exitedGroup g m).lane l = releasedLane (struckKnot (g.k k) m) l (g.lane l) := by
  rw [exitedGroup_lane g m hl, if_neg (by rw [(struckKnot_arrived ha).2]; exact Bool.false_ne_true)]
  refine foldl_releasedLane_one (N := fun k => struckKnot (g.k k) m) List.nodup_range (List.mem_range.2 hk) (fun j hj hjk => Bool.eq_false_iff.2 fun h => ?_) _
  exact Bool.false_ne_true ((ho j (List.mem_range.1 hj) hjk).symm.trans (struckKnot_arrived h).1)

/-! ### EXIT: the drop from the barriers (R41) -/

/-- From `s` to `t` group h keeps its registers, its special registers and its lanes in DONE. -/
structure KeepsDone (h : Nat) (s t : State) : Prop where
  cur : t.cur = s.cur
  resident : (Tb.get? t.work.groups h).isSome = (Tb.get? s.work.groups h).isSome
  r : (t.grp h).r = (s.grp h).r
  sp : (t.grp h).sp = (s.grp h).sp
  done : ∀ l, ((s.grp h).lane l).st = .done → ((t.grp h).lane l).st = .done

section
variable {s t u : State} {h : Nat}
theorem KeepsDone.refl (s : State) : KeepsDone h s s := ⟨rfl, rfl, rfl, rfl, fun _ hl => hl⟩
theorem KeepsDone.trans (hst : KeepsDone h s t) (htu : KeepsDone h t u) : KeepsDone h s u :=
  ⟨htu.cur.trans hst.cur, htu.resident.trans hst.resident, htu.r.trans hst.r, htu.sp.trans hst.sp, fun l hl => htu.done l (hst.done l hl)⟩
theorem KeepsDone.foldl {α : Type} {f : State → α → State} (hf : ∀ s x, KeepsDone h s (f s x)) (s : State) (xs : List α) :
    KeepsDone h s (xs.foldl f s) := by
  induction xs generalizing s with
  | nil => exact .refl s
  | cons x xs ih => exact (hf s x).trans (ih (f s x))
theorem KeepsDone.of_work (hc : t.cur = s.cur) (hw : t.work = s.work) : KeepsDone h s t := by
  have hg : t.grp h = s.grp h := by rw [State.grp, hw, State.grp]
  exact ⟨hc, by rw [hw], by rw [hg], by rw [hg], fun l hl => by rw [hg]; exact hl⟩

theorem keepsDone_setArr (s : State) (h i l : Nat) (a : Arrival) : KeepsDone h s (s.modG h (fun g => setArr g i l a)) := by
  refine ⟨rfl, modG_resident s h h _, ?_, ?_, fun l hl => ?_⟩
  · rw [modG_grp_same]; split <;> rfl
  · rw [modG_grp_same]; split <;> rfl
  · rw [modG_grp_same]; split <;> exact hl
theorem releasedWaiter_done {i : BitVec 3} {phase : Nat} {x : Lane} (hx : x.st = .done) : (releasedWaiter i phase x).st = .done := by
  unfold releasedWaiter
  rw [hx]
  exact hx
theorem releaseWaiters_done (g : Group) (i : BitVec 3) (phase l : Nat) (hl : (g.lane l).st = .done) : ((releaseWaiters g i phase).lane l).st = .done := by
  rw [releaseWaiters_eq]
  simp only [Group.lane, List.getD_eq_getElem?_getD, List.getElem?_map] at hl ⊢
  cases hx : g.lanes[l]? with
  | none => rwa [hx] at hl
  | some x =>
    rw [hx] at hl
    exact releasedWaiter_done hl
theorem keepsDone_releaseBar (s : State) (k n : Nat) (i : BitVec 3) (p : Nat) : KeepsDone h s (releaseBar s k n i p) := by
  have hg := releaseBar_grp s k n i p h
  refine ⟨releaseBar_cur .., ?_, ?_, ?_, fun l hl => ?_⟩
  · obtain ⟨gs, c, he, hgs⟩ := releaseBar_spec s k n i p
    rw [he]
    dsimp only
    rw [hgs h]
    split
    · rw [Option.isSome_map]
    · rfl
  · rw [hg]; split
    · rw [releaseWaiters_eq]
    · rfl
  · rw [hg]; split
    · rw [releaseWaiters_eq]
    · rfl
  · rw [hg]; split
    · exact releaseWaiters_done _ _ _ _ hl
    · exact hl
theorem keepsDone_writeBar (s : State) (pa : Nat) (b : BarObj) : KeepsDone h s (writeBar s pa b) := by
  unfold writeBar
  exact .of_work (setNum_cur ..) (setNum_work ..)
theorem keepsDone_recordLane (s : State) (h : Nat) (i : BitVec 3) (l pa : Nat) (a : Arrival) (b : BarObj) (ends : Bool) :
    KeepsDone h s (recordLane s h i l pa a b ends) := by
  have hw : KeepsDone h s (writeBar (s.modG h (fun g => setArr g i.toNat l a)) pa b) :=
    (keepsDone_setArr s h i.toNat l a).trans (keepsDone_writeBar ..)
  unfold recordLane
  dsimp only
  split
  · exact hw.trans (keepsDone_releaseBar ..)
  · exact hw
theorem keepsDone_dropLane (s : State) (h : Nat) (i : BitVec 3) (l : Nat) : KeepsDone h s (dropLane s h i l) := by
  cases hp : barPa s (s.grp h).launch (s.grp h).team i.toNat with
  | none =>
    have he : dropLane s h i l = s := by rw [dropLane, hp]
    rw [he]
    exact .refl s
  | some pa =>
    have ht : KeepsDone h s (touch s (barBanks (s.grp h).core pa)) := .of_work (touch_cur ..) (touch_work ..)
    rw [dropLane_eq hp]
    split_ifs
    · exact ht
    · exact ht.trans (keepsDone_setArr ..)
    all_goals exact ht.trans (keepsDone_recordLane ..)
/-- The drop of one lane from each of some barriers, by the issuing group and by the group that issued at the start. -/
theorem foldl_dropLane_bars (l : Nat) (is : List Nat) (s : State) (h : Nat) (hs : s.cur.h = h) :
    is.foldl (fun u i => dropLane u u.cur.h (BitVec.ofNat 3 i) l) s = is.foldl (fun u i => dropLane u h (BitVec.ofNat 3 i) l) s := by
  induction is generalizing s with
  | nil => rw [List.foldl_nil, List.foldl_nil]
  | cons i is ih =>
    have hc : (dropLane s h (BitVec.ofNat 3 i) l).cur.h = h := by
      rw [(keepsDone_dropLane s h (BitVec.ofNat 3 i) l).cur, hs]
    rw [List.foldl_cons, List.foldl_cons, hs]
    exact ih _ hc
theorem foldl_dropLane_cur (bars : Nat) (ls : List Nat) (s : State) (h : Nat) (hs : s.cur.h = h) :
    ls.foldl (fun u l => (List.range bars).foldl (fun u i => dropLane u u.cur.h (BitVec.ofNat 3 i) l) u) s =
      ls.foldl (fun u l => (List.range bars).foldl (fun u i => dropLane u h (BitVec.ofNat 3 i) l) u) s := by
  induction ls generalizing s with
  | nil => rw [List.foldl_nil, List.foldl_nil]
  | cons l ls ih =>
    have hk : KeepsDone h s ((List.range bars).foldl (fun u i => dropLane u h (BitVec.ofNat 3 i) l) s) :=
      .foldl (fun u i => keepsDone_dropLane u h (BitVec.ofNat 3 i) l) s _
    rw [List.foldl_cons, List.foldl_cons, foldl_dropLane_bars l _ s h hs]
    refine ih _ ?_
    rw [hk.cur, hs]
theorem keepsDone_dropLanes (s : State) (bars : Nat) (ls : List Nat) : KeepsDone h s (ls.foldl (fun u l =>
    (List.range bars).foldl (fun u i => dropLane u h (BitVec.ofNat 3 i) l) u) s) :=
  .foldl (fun s l => .foldl (fun s _ => keepsDone_dropLane s h _ l) s _) s ls

end

/-! ### EXIT (R40, R41, R221) -/

theorem endHandler_eq (g : Group) : ∃ sp, endHandler g = { g with sp := sp } := by
  unfold endHandler
  split
  · exact ⟨_, rfl⟩
  · exact ⟨_, rfl⟩
/-- A handler goes on where one of its lanes is not DONE (R221). -/
theorem endHandler_hnd {g : Group} (h : (endHandler g).sp.hnd = true) : ∃ l, g.sp.hndMask.getLsbD l = true ∧ (g.lane l).st ≠ .done := by
  unfold endHandler at h
  split at h
  next => exact absurd h Bool.false_ne_true
  next hn =>
    have ha : (lanesOf g.sp.hndMask).all (fun l => decide ((g.lane l).st = .done)) = false := by
      rw [h, Bool.true_and] at hn
      exact Bool.eq_false_iff.2 hn
    obtain ⟨l, hl, hd⟩ := List.all_eq_false.1 ha
    exact ⟨l, (mem_lanesOf _ _).1 hl, by simpa using hd⟩

/-- The body of EXIT where every issuing lane runs. -/
theorem lanesDone_eq {s : State} {h : Nat} {m : Mask} (hr : (Tb.get? s.work.groups h).isSome = true)
    (hm : ∀ l, m.getLsbD l = true → l < (s.grp h).lanes.length ∧ ((s.grp h).lane l).st = .run) :
    let bars := match s.team? (s.grp h).launch (s.grp h).team with | some tm => tm.barPa.length | none => 0
    lanesDone s h m = ((lanesOf m).foldl (fun u l => (List.range bars).foldl (fun u i => dropLane u h (BitVec.ofNat 3 i) l) u)
      (s.modG h (fun _ => exitedGroup (s.grp h) m))).modG h endHandler := by
  intro bars
  have hf : (lanesOf m).filter (fun l => decide (l < (s.grp h).lanes.length) && decide (((s.grp h).lane l).st ≠ .done)) = lanesOf m := by
    refine List.filter_eq_self.2 fun l hl => ?_
    obtain ⟨hlt, hst⟩ := hm l ((mem_lanesOf _ _).1 hl)
    rw [decide_eq_true hlt, hst]
    rfl
  have hg : s.modG h (fun g => strikeAll ((lanesOf m).foldl (fun g l => g.setLane l (fun x => { x with st := .done })) g) m) =
      s.modG h (fun _ => exitedGroup (s.grp h) m) := modG_congr s h rfl
  have hx : (s.modG h (fun _ => exitedGroup (s.grp h) m)).grp h = exitedGroup (s.grp h) m := by rw [modG_grp_same, if_pos hr]
  obtain ⟨lanes, kn, soft, he⟩ := exitedGroup_eq (s.grp h) m
  unfold lanesDone
  dsimp only
  rw [hf, maskOf_lanesOf, modG_modG]
  rw [hg]
  unfold dropLanes
  dsimp only
  rw [hx, he]
  rfl

/-- The second part of O16. -/
theorem exit_spec {s : State} (hi : Issuing s .exit) (hm : ∀ l, s.cur.mask.getLsbD l = true → l < s.curG.lanes.length ∧ (s.curG.lane l).st = .run) :
    let bars := match s.team? s.curG.launch s.curG.team with | some tm => tm.barPa.length | none => 0
    let drop := fun (u : State) (l : Nat) => (List.range bars).foldl (fun u i => dropLane u u.cur.h (BitVec.ofNat 3 i) l) u
    let g' := exitedGroup s.curG s.cur.mask
    let t := ((lanesOf s.cur.mask).foldl drop (s.upG (fun _ => g'))).upG endHandler
    exec .exit s = .next t ∧ (∀ l, s.cur.mask.getLsbD l = true → (t.curG.lane l).st = .done) ∧ t.curG.r = g'.r ∧
      (t.curG.sp.hnd = true → ∃ l, s.curG.sp.hndMask.getLsbD l = true ∧ (t.curG.lane l).st ≠ .done) := by
  intro bars drop g' t
  have hr : (Tb.get? s.work.groups s.cur.h).isSome = true := hi.resident
  obtain ⟨lanes, kn, soft, hg'⟩ := exitedGroup_eq s.curG s.cur.mask
  let u := s.upG (fun _ => g')
  have hru : (Tb.get? u.work.groups u.cur.h).isSome = true := by
    rw [upG_cur, upG_resident]
    exact hr
  have hu : u.curG = g' := upG_curG s _ hr
  let v := (lanesOf s.cur.mask).foldl drop u
  have hv : KeepsDone s.cur.h u v := by
    have hdrop : v = (lanesOf s.cur.mask).foldl (fun u l => (List.range bars).foldl (fun u i => dropLane u s.cur.h (BitVec.ofNat 3 i) l) u) u :=
      foldl_dropLane_cur bars (lanesOf s.cur.mask) u s.cur.h rfl
    rw [hdrop]
    exact keepsDone_dropLanes u bars (lanesOf s.cur.mask)
  have hrv : (Tb.get? v.work.groups v.cur.h).isSome = true := by
    rw [hv.cur, upG_cur, hv.resident]
    exact hru
  have ht : t.curG = endHandler v.curG := upG_curG v _ hrv
  have hvr : v.curG.r = g'.r := by rw [State.curG, hv.cur, upG_cur, hv.r]; exact congrArg Group.r hu
  have hvs : v.curG.sp = s.curG.sp := by rw [State.curG, hv.cur, upG_cur, hv.sp]; exact (congrArg Group.sp hu).trans (exitedGroup_sp s.curG s.cur.mask)
  obtain ⟨sp, hsp⟩ := endHandler_eq v.curG
  refine ⟨?_, fun l hl => ?_, ?_, fun hh => ?_⟩
  · rw [exec_of_no_writes (i := .exit) (body := fun s => lanesDone s s.cur.h s.cur.mask) rfl (fun _ => rfl) hi, lanesDone_eq hr hm]
    have hdrop : v = (lanesOf s.cur.mask).foldl (fun u l => (List.range bars).foldl (fun u i => dropLane u s.cur.h (BitVec.ofNat 3 i) l) u) u :=
      foldl_dropLane_cur bars (lanesOf s.cur.mask) u s.cur.h rfl
    have htv : t = v.modG s.cur.h endHandler := by
      have hc : v.cur.h = s.cur.h := by rw [hv.cur]; rfl
      exact congrArg (fun h => v.modG h endHandler) hc
    rw [htv, hdrop]
    rfl
  · have hd : (v.curG.lane l).st = .done := by
      rw [State.curG, hv.cur, upG_cur]
      refine hv.done l ?_
      have := exitedGroup_lane_of_mask s.curG (hm l hl).1 hl
      exact (congrArg (fun g : Group => (g.lane l).st) hu).trans (congrArg Lane.st this)
    rw [ht, hsp]
    exact hd
  · rw [ht, hsp]
    exact hvr
  · rw [ht] at hh ⊢
    obtain ⟨l, hl, hd⟩ := endHandler_hnd hh
    refine ⟨l, by rw [← hvs]; exact hl, ?_⟩
    rw [hsp]
    exact hd

/-- Settles O16: ITEM by `item_spec`; EXIT by `exit_spec` and the strike of its lanes from the knots. -/
theorem itemsAndExit : Obligations.ItemsAndExit := by
  refine ⟨fun k r o q s hi hq => item_spec hi hq, fun s hi hm => ?_⟩
  intro bars drop
  obtain ⟨hx, hdone, hr, hhnd⟩ := exit_spec hi hm
  have hk : ∀ k, Group.k (((lanesOf s.cur.mask).foldl drop (s.upG (fun _ => exitedGroup s.curG s.cur.mask))).upG endHandler).curG k =
    (exitedGroup s.curG s.cur.mask).k k := fun k => congrArg (fun r : Regs => Tb.get Knot.idle r.k k) hr
  refine ⟨_, exitedGroup s.curG s.cur.mask, hx, rfl, hdone, fun k l h8 hl => ?_, fun l hl => ?_, fun l hlt hl ha => ?_, fun k h8 => ?_, ?_, hhnd⟩
  · refine (congrArg (fun n : Knot => n.enrolled.getLsbD l) ((hk k).trans (exitedGroup_k _ _ h8))).trans ?_
    split
    · simp [Knot.idle]
    · exact struckKnot_enrolled hl
  · exact exitedGroup_lane_of_mask _ (hm l hl).1 hl
  · exact exitedGroup_lane_of_waiting_nowhere _ hlt hl ha
  · exact ⟨exitedGroup_k _ _ h8, fun l hlt ha ho => (exitedGroup_lane_of_arrived _ h8 hlt ha ho).trans (releasedLane_of_arrived ha _)⟩
  · exact exitedGroup_eq _ _

end Sys2Proof.Machine

namespace Sys2Proof.Machine

/-! ### Capture and trap entry of any group (R325, R326) -/

/-- `t` is `s` but for the registers of group h and the count of free choices. -/
def RegsOnly (h : Nat) (s t : State) : Prop :=
  ∃ r soft n, t = { s.modG h (fun g => { g with r := r, soft := soft }) with free := n }

section
variable {h : Nat} {s t u : State}

/-- A change that leaves the group as it is keeps the state. -/
theorem modG_self (s : State) (h : Nat) {f : Group → Group} (hf : f (s.grp h) = s.grp h) : s.modG h f = s := by
  unfold State.modG
  rw [Tb.modify_id _ _ _ (fun v hv => ?_)]
  have hg : s.grp h = v := by simp only [State.grp, Tb.get, hv, Option.getD_some]
  rwa [hg] at hf
theorem RegsOnly.of_free (n : Nat) : RegsOnly h s { s with free := n } := by
  refine ⟨(s.grp h).r, (s.grp h).soft, n, ?_⟩
  rw [modG_self s h rfl]
theorem RegsOnly.refl : RegsOnly h s s := .of_free s.free
theorem RegsOnly.trans (hst : RegsOnly h s t) (htu : RegsOnly h t u) : RegsOnly h s u := by
  obtain ⟨r, soft, n, rfl⟩ := hst
  obtain ⟨r', soft', n', rfl⟩ := htu
  exact ⟨r', soft', n', congrArg (fun x : State => { x with free := n' }) (modG_modG s h _ _)⟩
theorem RegsOnly.of_modG {f : Group → Group} (hf : ∃ r soft, f (s.grp h) = { s.grp h with r := r, soft := soft }) : RegsOnly h s (s.modG h f) := by
  obtain ⟨r, soft, he⟩ := hf
  exact ⟨r, soft, s.free, modG_congr s h he⟩
theorem RegsOnly.foldl {α : Type} {f : State → α → State} (hf : ∀ s x, RegsOnly h s (f s x)) (s : State) (xs : List α) :
    RegsOnly h s (xs.foldl f s) := by
  induction xs generalizing s with
  | nil => exact .refl
  | cons x xs ih => exact (hf s x).trans (ih (f s x))

/-- The write of a result changes registers alone. -/
theorem writeDest_eq (g : Group) (e : Entry) (l : Nat) (r : Ref) (k : Nat) : ∃ rs soft, writeDest g e l r k = { g with r := rs, soft := soft } := by
  unfold writeDest
  dsimp only
  split
  · exact ⟨_, _, rfl⟩
  · unfold Group.setP
    split
    · exact ⟨_, _, rfl⟩
    · exact ⟨_, _, rfl⟩
  · exact ⟨_, _, rfl⟩
  · exact ⟨_, _, rfl⟩
  · exact ⟨_, _, rfl⟩
theorem popWords_eq (g : Group) (d : Nat) (e : Entry) (ks : List Nat) : ∃ rs soft, popWords g d e ks = { g with r := rs, soft := soft } := by
  obtain ⟨s, soft, he, -⟩ := foldl_setS_eq (popWord e) d ks g
  exact ⟨_, soft, he⟩

theorem RegsOnly.foldl_snd {α β : Type} {f : β × State → α → β × State} (hf : ∀ p x, RegsOnly h p.2 (f p x).2) (p : β × State) (xs : List α) :
    RegsOnly h p.2 (xs.foldl f p).2 := by
  induction xs generalizing p with
  | nil => exact .refl
  | cons x xs ih => exact (hf p x).trans (ih (f p x))
theorem regsOnly_writeResults (s : State) (h : Nat) (e : Entry) (m : Mask) : RegsOnly h s (writeResults s h e m) := by
  unfold writeResults
  split
  · generalize hr : List.foldl _ ([], s) _ = r
    have hk : RegsOnly h s r.2 := by
      rw [← hr]
      refine RegsOnly.foldl_snd (fun p k => ?_) ([], s) _
      split
      · exact .of_free _
      · exact .refl
    exact hk.trans (.of_modG (popWords_eq ..))
  · refine RegsOnly.foldl (fun s j => ?_) s _
    have hw (u : State) : RegsOnly h u (u.modG h (fun g => writeDest g e j.1 j.2.1 j.2.2)) := .of_modG (writeDest_eq ..)
    dsimp only
    split_ifs
    · exact .of_free _
    · exact RegsOnly.trans (.of_free _) (hw _)
    · exact .refl
    · exact hw _
theorem regsOnly_captureEntry (s : State) (h : Nat) (e : Entry) : RegsOnly h s (captureEntry s h e).1 := by
  unfold captureEntry
  split
  · exact .refl
  · exact regsOnly_writeResults ..

/-- Capture empties the outstanding results into the replay queue, one entry for each. -/
theorem capture_spec (s : State) (h : Nat) :
    ∃ r soft q n, capture s h none = { s.modG h (fun g => { g with r := r, soft := soft, replay := q, outst := [] }) with free := n } ∧
      q.length = (s.grp h).outst.length := by
  have key : ∀ (es : List Entry) (p : State × List Entry),
      let r := es.foldl (fun (p : State × List Entry) e => ((captureEntry p.1 h e).1, p.2 ++ [(captureEntry p.1 h e).2])) p
      RegsOnly h p.1 r.1 ∧ r.2.length = p.2.length + es.length := by
    intro es
    induction es with
    | nil => exact fun p => ⟨.refl, rfl⟩
    | cons e es ih =>
      intro p
      obtain ⟨hr, hl⟩ := ih ((captureEntry p.1 h e).1, p.2 ++ [(captureEntry p.1 h e).2])
      refine ⟨(regsOnly_captureEntry p.1 h e).trans hr, hl.trans ?_⟩
      rw [List.length_append, List.length_singleton, List.length_cons]
      omega
  have hall : (s.grp h).outst.filter (fun e => decide (some e.id ≠ none)) ++ (s.grp h).outst.filter (fun e => decide (some e.id = none)) =
      (s.grp h).outst := by simp
  obtain ⟨⟨r, soft, n, hr⟩, hl⟩ := key (s.grp h).outst (s, [])
  unfold capture
  dsimp only
  rw [hall]
  refine ⟨r, soft, _, n, ?_, hl.trans (Nat.zero_add _)⟩
  refine (congrArg (fun x : State => x.modG h _) hr).trans ?_
  exact congrArg (fun x : State => { x with free := n }) (modG_modG s h _ _)

/-- The group after trap entry, whatever its outstanding results are. -/
structure EnteredAt (v : PC) (g g' : Group) (cause slot : Nat) (forced : Bool) (m : Mask) (epc : Option PC) : Prop where
  sp : g'.sp = { g.sp with sv := true }
  tcause : g'.frame.tcause = BitVec.ofNat 11 (b2n forced * 1024 + slot * 256 + cause)
  lanes : g'.lanes = g.lanes.mapIdx (enteredLane v m epc)
  outst : g'.outst = []
  replay : g'.replay.length = g.outst.length
  rest : g'.launch = g.launch ∧ g'.team = g.team

/-- A lane that is not DONE runs at the vector. -/
theorem enteredAt_lane {v : PC} {m : Mask} {lanes : List Lane} {g : Group} {l : Nat} (h : lanes = g.lanes.mapIdx (enteredLane v m none))
    (hl : l < g.lanes.length) (hst : (g.lane l).st ≠ .done) : lanes.getD l Lane.reset = ⟨v, .run, (g.lane l).pc, (g.lane l).st⟩ := by
  have hx : g.lane l = g.lanes[l] := by rw [Group.lane, List.getD_eq_getElem _ _ hl]
  rw [hx] at hst ⊢
  rw [h, List.getD_eq_getElem _ _ (by simpa using hl), List.getElem_mapIdx, enteredLane, if_neg hst]

/-- Trap entry changes its group and the count of free choices alone. -/
theorem enterAt_spec (v : PC) (s : State) (h cause payload slot : Nat) (forced : Bool) (m pcm : Mask) (tpc : PC) (epc : Option PC)
    (hr : (Tb.get? s.work.groups h).isSome = true) :
    ∃ g' n, enterAt v s h cause payload slot forced m pcm tpc epc none = { s.modG h (fun _ => g') with free := n } ∧
      EnteredAt v (s.grp h) g' cause slot forced m epc := by
  obtain ⟨r, soft, q, n, hc, hq⟩ := capture_spec s h
  have hg : (capture s h none).grp h = { s.grp h with r := r, soft := soft, replay := q, outst := [] } := by
    rw [hc]
    exact (modG_grp s h h _ hr).trans (if_pos rfl)
  let w : Group := { s.grp h with
    r := r, soft := soft, replay := q, outst := []
    frame := ⟨BitVec.ofNat 11 (b2n forced * 1024 + slot * 256 + cause), BitVec.ofNat 64 payload, m, pcm, tpc, BitVec.ofNat 64 s.now, 0⟩
    lanes := (s.grp h).lanes.mapIdx (enteredLane v m epc)
    waits := []
    rejected := none
    sp := { (s.grp h).sp with sv := true }
    ctl := { (s.grp h).ctl with rom := if s.dev.romVecs.getLsbD cause then some cause else none, romWork := [],
                                userMarker := (s.grp h).ctl.marker, marker := false, userWaits := (s.grp h).waits } }
  obtain ⟨⟨rs, rp, rb, bank, soft', hrest⟩, -⟩ := bankIn_swapIn (saveArea (capture s h none) ((capture s h none).grp h)) w
  refine ⟨swapIn (saveArea (capture s h none) ((capture s h none).grp h)) w, n, ?_, ?_⟩
  · have hnow : (capture s h none).now = s.now := by rw [hc]; rfl
    have hdev : (capture s h none).dev = s.dev := by rw [hc]; rfl
    have hw : enterAt v s h cause payload slot forced m pcm tpc epc none =
        (capture s h none).modG h (fun _ => swapIn (saveArea (capture s h none) ((capture s h none).grp h)) w) := by
      refine modG_congr _ h ?_
      dsimp only
      rw [hnow, hdev, hg]
      rfl
    rw [hw]
    generalize swapIn (saveArea (capture s h none) ((capture s h none).grp h)) w = g'
    rw [hc]
    exact congrArg (fun x : State => { x with free := n }) (modG_modG s h _ _)
  · rw [hrest]
    exact ⟨rfl, rfl, rfl, rfl, hq, rfl, rfl⟩
theorem vectorPc_free (s : State) (n cause : Nat) : vectorPc { s with free := n } cause = vectorPc s cause := rfl
/-- An entry at a vector that can be entered, after a free choice. -/
theorem enterSupervisor_spec (s : State) (m h cause payload slot : Nat) (forced : Bool) (tpc : PC)
    (hr : (Tb.get? s.work.groups h).isSome = true) (hv : slotOf (vectorPc s cause) ≠ 3) :
    ∃ g', (∃ n, enterSupervisor { s with free := m } h cause payload slot forced 0 0 tpc none none = { s.modG h (fun _ => g') with free := n }) ∧
      EnteredAt (vectorPc s cause) (s.grp h) g' cause slot forced 0 none := by
  obtain ⟨g', n, he, hent⟩ := enterAt_spec (vectorPc s cause) { s with free := m } h cause payload slot forced 0 0 tpc none hr
  refine ⟨g', ⟨n, ?_⟩, hent⟩
  unfold enterSupervisor
  dsimp only
  rw [vectorPc_free, if_pos hv, he]
  rfl
theorem free_modG_grp (s : State) (h n : Nat) (g' : Group) (hr : (Tb.get? s.work.groups h).isSome = true) :
    State.grp { s.modG h (fun _ => g') with free := n } h = g' := (modG_grp s h h _ hr).trans (if_pos rfl)
end

/-! ### Groups and teams -/

theorem Tb.get?_isSome_of_mem {α : Type} {m : List (Nat × α)} {e : Nat × α} (h : e ∈ m) : (Tb.get? m e.1).isSome = true := by
  induction m with
  | nil => exact absurd h List.not_mem_nil
  | cons x m ih =>
    obtain ⟨j, v⟩ := x
    rw [Tb.get?]
    split
    · rfl
    next hj => exact ih ((List.mem_cons.1 h).resolve_left (fun he => hj (by rw [he])))
theorem resident_of_mem_teamGroups {s : State} {k n h : Nat} (hh : h ∈ s.teamGroups k n) : (Tb.get? s.work.groups h).isSome = true := by
  obtain ⟨e, he, rfl⟩ := List.mem_map.1 hh
  exact Tb.get?_isSome_of_mem (List.mem_of_mem_filter he)
theorem nodup_teamGroups {s : State} (hn : (s.work.groups.map (·.1)).Nodup) (k n : Nat) : (s.teamGroups k n).Nodup :=
  hn.sublist (List.filter_sublist.map _)

/-- One change of some groups, each once. -/
theorem foldl_modG_grp (f : Group → Group) {hs : List Nat} (hn : hs.Nodup) (s : State) {j : Nat} (hr : (Tb.get? s.work.groups j).isSome = true) :
    (hs.foldl (fun s h => s.modG h f) s).grp j = if j ∈ hs then f (s.grp j) else s.grp j := by
  induction hs generalizing s with
  | nil => rw [List.foldl_nil, if_neg List.not_mem_nil]
  | cons h hs ih =>
    obtain ⟨hh, hn⟩ := List.nodup_cons.1 hn
    rw [List.foldl_cons, ih hn _ (by rw [modG_resident]; exact hr)]
    by_cases hj : j = h
    · subst hj
      rw [if_neg hh, if_pos List.mem_cons_self, modG_grp_same, if_pos hr]
    · rw [modG_grp_other s f hj]
      simp only [List.mem_cons, hj, false_or]
/-- Changes of groups alone. -/
theorem foldl_modG_eq (f : Group → Group) (hs : List Nat) (s : State) :
    ∃ gs, hs.foldl (fun s h => s.modG h f) s = { s with work := { s.work with groups := gs } } := by
  induction hs generalizing s with
  | nil => exact ⟨s.work.groups, rfl⟩
  | cons h hs ih =>
    obtain ⟨gs, hg⟩ := ih (s.modG h f)
    exact ⟨gs, hg⟩

theorem team?_modTeam (s : State) (k n : Nat) {f : Team → Team} (hf : ∀ x, (f x).launch = x.launch ∧ (f x).id = x.id) :
    (s.modTeam k n f).team? k n = (s.team? k n).map f := by
  have hp : (fun x : Team => decide (x.launch = k) && decide (x.id = n)) ∘ (fun x => if x.launch = k ∧ x.id = n then f x else x) =
      fun x => decide (x.launch = k) && decide (x.id = n) := by
    funext x
    rw [Function.comp_apply]
    split
    · rw [(hf x).1, (hf x).2]
    · rfl
  unfold State.team? State.modTeam
  dsimp only
  rw [List.find?_map, hp]
  cases hx : s.work.teams.find? (fun x => decide (x.launch = k) && decide (x.id = n)) with
  | none => rfl
  | some x =>
    have hk := List.find?_some hx
    rw [Bool.and_eq_true, decide_eq_true_iff, decide_eq_true_iff] at hk
    exact congrArg some (if_pos hk)

/-! ### Requests, deadlines and slices (R36 to R38, R340, R389) -/

/-- A group that a request for its team reaches. -/
def requestedGroup (g : Group) : Group := if parked g || g.ctl.halted then { g with ctl := { g.ctl with saving := true } } else g
theorem requestedGroup_spec (g : Group) : (requestedGroup g).ctl.saving = (g.ctl.saving || parked g || g.ctl.halted) ∧
    (requestedGroup g).lanes = g.lanes ∧ (requestedGroup g).r = g.r := by
  unfold requestedGroup
  rw [Bool.or_assoc]
  split
  next h => exact ⟨by rw [h, Bool.or_true], rfl, rfl⟩
  next h => exact ⟨by rw [Bool.eq_false_iff.2 h, Bool.or_false], rfl, rfl⟩

theorem requestPreempt_eq {k n : Nat} {l : Launch} {tm : Team} {s : State} (hl : s.launch? k = some l) (ht : s.team? k n = some tm)
    (hp : tm.preq = false) (hd : tm.dead = false) (ho : (s.die (dieOf tm.core)).off = false) :
    requestPreempt s k n = (s.teamGroups k n).foldl (fun s h => s.modG h requestedGroup) (s.modTeam k n (fun x =>
      { x with preq := true, preqCnt := 0, preqLim := (s.func l.func).deadline, image := (placeImage s l tm).getD 0 })) := by
  rw [requestPreempt, hl, ht]
  dsimp only
  rw [hp, hd, ho]
  rfl

/-- A group without a partly performed operation does not stand within it. -/
theorem midway_of_none {g : Group} (h : g.rejected = none) : g.midway = false := by rw [Group.midway, h]

/-- The deadline of a pre-emption for one group, in each mode (R38). -/
theorem forcePreempt_spec {s : State} {h : Nat} (hr : (Tb.get? s.work.groups h).isSome = true) (hv : slotOf (vectorPc s 0x2F) ≠ 3)
    (hsaved : (s.grp h).ctl.saved = false) (hsaving : (s.grp h).ctl.saving = false) (hdead : (s.grp h).ctl.dead = false)
    (hrej : (s.grp h).rejected = none) (ho : (s.die (dieOf (s.grp h).core)).off = false) :
    let g := s.grp h
    let g' := (forcePreempt s h).grp h
    (g.sp.sv = true → g' = { g with ctl := { g.ctl with preemptPend := true } }) ∧
    (g.sp.sv = false → (g.ctl.halted = true ∨ ∀ x ∈ g.lanes, x.st = .done) → g' = { g with ctl := { g.ctl with saving := true } }) ∧
    (g.sp.sv = false → g.ctl.halted = false → (∃ x ∈ g.lanes, x.st ≠ .done) → EnteredAt (vectorPc s 0x2F) g g' 0x2F 0 false 0 none) := by
  intro g g'
  have hpass : (g.midway || (s.die (dieOf g.core)).off || g.ctl.saved || g.ctl.saving || g.ctl.dead) = false := by
    rw [midway_of_none hrej, ho, hsaved, hsaving, hdead]
    rfl
  have hg : g' = (forcePreempt s h).grp h := rfl
  rw [forcePreempt] at hg
  dsimp only at hg
  rw [if_neg (Bool.eq_false_iff.1 hpass)] at hg
  refine ⟨fun hsv => ?_, fun hsv hx => ?_, fun hsv hh hx => ?_⟩
  · rw [hg, if_pos hsv, modG_grp_same, if_pos hr]
  · have hc : (g.ctl.halted || g.lanes.all (fun x => decide (x.st = .done))) = true := by
      rw [Bool.or_eq_true, List.all_eq_true]
      simpa using hx
    rw [hg, if_neg (Bool.eq_false_iff.1 hsv), if_pos hc, modG_grp_same, if_pos hr]
  · have hc : (g.ctl.halted || g.lanes.all (fun x => decide (x.st = .done))) = false := by
      rw [hh, Bool.false_or, List.all_eq_false]
      simpa using hx
    rw [hg, if_neg (Bool.eq_false_iff.1 hsv), if_neg (Bool.eq_false_iff.1 hc)]
    obtain ⟨g'', ⟨n, he⟩, hent⟩ := enterSupervisor_spec s (s.free + 1) h 0x2F 0 0 false (Config.freePc s.free) hr hv
    rw [he, free_modG_grp s h n g'' hr]
    exact hent
theorem forcePreempt_mem (s : State) (h : Nat) (hv : slotOf (vectorPc s 0x2F) ≠ 3) : (forcePreempt s h).mem = s.mem := by
  unfold forcePreempt
  dsimp only
  split_ifs
  · rfl
  · rfl
  · rfl
  · unfold enterSupervisor
    dsimp only
    rw [vectorPc_free, if_pos hv]
    exact enterAt_mem ..

theorem stopForced_of_preq {s : State} {h : Nat} (hp : preqOf s (s.grp h) = true) : stopForced s h = s := by
  unfold stopForced
  simp only [hp, Bool.or_true, Bool.true_or, if_true]
theorem endStop_grp (s : State) (h : Nat) (hr : (Tb.get? s.work.groups h).isSome = true) : (endStop s h).grp h = { s.grp h with
    ctl := { (s.grp h).ctl with stopPend := false, stopForced := false, stopDue := false } } := (modG_grp_same s h _).trans (if_pos hr)

/-- The deadline of a stop for a group that takes it, in each mode (R340). -/
theorem stopForced_spec {s : State} {h : Nat} (hr : (Tb.get? s.work.groups h).isSome = true) (hpend : (s.grp h).ctl.stopPend = true)
    (hlim : (s.grp h).ctl.stopLim ≤ (s.grp h).ctl.stopCnt) (hsaved : (s.grp h).ctl.saved = false) (hsaving : (s.grp h).ctl.saving = false)
    (hdead : (s.grp h).ctl.dead = false) (hret : (s.grp h).retired = false) (hpreq : preqOf s (s.grp h) = false)
    (hv : slotOf (vectorPc s 0x2E) ≠ 3) (hrej : (s.grp h).rejected = none) (ho : (s.die (dieOf (s.grp h).core)).off = false) :
    let g := s.grp h
    let g' := (stopForced s h).grp h
    (stopForced s h).mem = s.mem ∧
    (g.sp.sv = true → g' = { g with ctl := { g.ctl with stopForced := true } }) ∧
    (g.sp.sv = false → ∃ w, EnteredAt (vectorPc s 0x2E) g w 0x2E 0 true 0 none ∧
      g' = { w with ctl := { w.ctl with stopPend := false, stopForced := false, stopDue := false } }) := by
  intro g g'
  have hpass : (!g.ctl.stopPend || decide (g.ctl.stopCnt < g.ctl.stopLim) || g.ctl.saved || g.ctl.saving || g.ctl.dead || g.retired ||
      preqOf s g || g.midway || (s.die (dieOf g.core)).off) = false := by
    rw [midway_of_none hrej, ho, hsaved, hsaving, hdead, hpend, hret, hpreq, decide_eq_false (Nat.not_lt.2 hlim)]
    rfl
  have he : stopForced s h = if g.sp.sv then s.modG h (fun g => { g with ctl := { g.ctl with stopForced := true } })
      else endStop (enterSupervisor { s with free := s.free + 1 } h 0x2E 0 0 true 0 0 (Config.freePc s.free) none none) h :=
    if_neg (Bool.eq_false_iff.1 hpass)
  obtain ⟨w, ⟨n, hx⟩, hent⟩ := enterSupervisor_spec s (s.free + 1) h 0x2E 0 0 true (Config.freePc s.free) hr hv
  have hg : g' = (stopForced s h).grp h := rfl
  rw [he] at hg ⊢
  refine ⟨?_, fun hsv => ?_, fun hsv => ?_⟩
  · split
    · rfl
    · rw [hx]; rfl
  · rw [hg, if_pos hsv, modG_grp_same, if_pos hr]
  · rw [if_neg (Bool.eq_false_iff.1 hsv), hx] at hg
    refine ⟨w, hent, hg.trans ?_⟩
    rw [endStop_grp _ _ (by rw [← hr]; exact modG_resident s h h _), free_modG_grp s h n w hr]

/-- Which launch is starved does not depend on the slice of a cluster. -/
theorem starved_modCluster (s : State) (c : Nat) (f : Cluster → Cluster) (fn cl : Nat) : starved (s.modCluster c f) fn cl = starved s fn cl := rfl
theorem slice_passes {s : State} {c : Nat}
    (hx : (s.cluster c).sliceStart + (s.func (s.cluster c).holder).slice ≤ s.now ∨ ∀ l ∈ candidates s c, l.func ≠ (s.cluster c).holder)
    (hs : starved s (nextHolder s c) c = none) : slice s c = s.modCluster c (fun x => { x with holder := nextHolder s c, sliceStart := s.now }) := by
  have hc : ¬ (s.now < (s.cluster c).sliceStart + (s.func (s.cluster c).holder).slice ∧
      (candidates s c).all (fun l => decide (l.func ≠ (s.cluster c).holder)) = false) := by
    rintro ⟨hlt, hall⟩
    rcases hx with hx | hx
    · exact absurd hlt (Nat.not_lt.2 hx)
    · rw [List.all_eq_true.2 (fun l hl => decide_eq_true (hx l hl))] at hall
      exact Bool.false_ne_true hall.symm
  rw [slice]
  dsimp only
  rw [if_neg hc, starved_modCluster, hs]

/-- Settles O42: requests by `requestPreempt_eq`, the deadlines by `forcePreempt_spec` and `stopForced_spec`, slices by `slice_passes`. -/
theorem preemptionAndStops : Obligations.PreemptionAndStops := by
  refine ⟨fun k n l tm s hl ht hp hd ho hn => ?_, fun k n h tm s ht hg hp hlim him hn hv => ?_, fun h s hr => ?_, fun c s => ?_⟩
  · let f := fun x : Team => { x with preq := true, preqCnt := 0, preqLim := (s.func l.func).deadline, image := (placeImage s l tm).getD 0 }
    have hx : exec (.preqRequest k n) s = .next (requestPreempt s k n) := rfl
    obtain ⟨gs, hgs⟩ := foldl_modG_eq requestedGroup (s.teamGroups k n) (s.modTeam k n f)
    refine ⟨_, hx, ?_, ?_, fun h hh => ?_⟩
    · rw [requestPreempt_eq hl ht hp hd ho, hgs]
      rfl
    · rw [requestPreempt_eq hl ht hp hd ho, hgs]
      exact (team?_modTeam s k n (f := f) (fun _ => ⟨rfl, rfl⟩)).trans (by rw [ht]; rfl)
    · have hgrp := foldl_modG_grp requestedGroup (nodup_teamGroups hn k n) (s.modTeam k n f) (resident_of_mem_teamGroups hh)
      rw [if_pos hh] at hgrp
      rw [requestPreempt_eq hl ht hp hd ho, hgrp]
      exact requestedGroup_spec (s.grp h)
  · intro g hsaved hsaving hdead hrej ho
    have hr : (Tb.get? s.work.groups h).isSome = true := resident_of_mem_teamGroups (by rw [hg]; exact List.mem_singleton_self h)
    have ha : assignImage s k n = s := by
      rw [assignImage, ht]
      split
      next hs =>
        cases hs
        rw [hp, decide_eq_false him]
        rfl
      next => rfl
    have hx : preemptDeadline s k n = forcePreempt s h := by
      rw [preemptDeadline, ha, ht]
      dsimp only
      rw [hp, decide_eq_true hlim, decide_eq_true him, hg]
      rfl
    obtain ⟨hsup, hsave, hent⟩ := forcePreempt_spec hr hv hsaved hsaving hdead hrej ho
    refine ⟨_, congrArg Host.Outcome.next hx, forcePreempt_mem s h hv, hsup, hsave, fun hsv hh hnd => ?_⟩
    obtain ⟨hsp, hcause, hlanes, houtst, hreplay, -⟩ := hent hsv hh hnd
    refine ⟨hsp, hcause, ?_, houtst, hreplay, fun l hl hst => ?_⟩
    · rw [hlanes, List.length_mapIdx]
    · exact enteredAt_lane hlanes hl hst
  · refine ⟨fun hp => congrArg Host.Outcome.next (stopForced_of_preq hp), fun hpend hlim hsaved hsaving hdead hret hpreq hv hrej ho => ?_⟩
    obtain ⟨hm, hsup, hent⟩ := stopForced_spec hr hpend hlim hsaved hsaving hdead hret hpreq hv hrej ho
    refine ⟨_, rfl, hm, hsup, fun hsv => ?_⟩
    obtain ⟨w, ⟨hsp, hcause, hlanes, houtst, -⟩, he⟩ := hent hsv
    rw [he]
    exact ⟨hsp, hcause, rfl, houtst, fun l hl hst => enteredAt_lane hlanes hl hst⟩
  · exact fun hx hs => congrArg Host.Outcome.next (slice_passes hx hs)

end Sys2Proof.Machine

namespace Sys2Proof.Machine

/-! ### A dispatch to a cluster that no die has -/

/-- A launch of the PF with one team to dispatch. -/
def farLaunch : Launch := { placedLaunch with func := 64, nextTeam := 0 }
/-- The distributor serves cluster 14336, and the first word of bounds of LPDDR6 (R346) holds a bound. -/
def farState : State :=
  { State.reset with
    mem := { MemSt.reset with cells := [(0x1F000000000, 1)] }
    dev := { DevSt.reset with nextCluster := 14336 }
    work := { WorkSt.reset with launches := [farLaunch], lines := [⟨1, 64, 0, 0, false, false, false, none, some 1, []⟩] } }

theorem farState_best : bestCand (noteCands farState 14336) 14336 = some farLaunch := by decide +kernel
theorem farState_place : candPlace (noteCands farState 14336) farLaunch 14336 [] = some 114688 := by decide +kernel
theorem farState_tiles : pickTiles farState farLaunch.rc 114688 farLaunch.rc.pair = [7340032] := by decide +kernel

/-- The bound of the first sector of LPDDR6 is read from memory's bytes. -/
theorem bound_lpddr (m : MemSt) : m.bound (pondPa (7340032 / 64) (7340032 % 64) (32 * 0)) = ebRead (BitVec.ofNat 16 (m.num 0x1F000000000 2)) := rfl

/-- Refutes O43: nothing bounds the cluster by the 32 that exist. A tile of cluster 14336 lies where LPDDR6 does, whose bounds are bytes of
memory: a dispatch that writes no byte leaves a bound there. -/
theorem not_dispatches : ¬ Obligations.Dispatches := by
  intro h
  obtain ⟨h1, -⟩ := h
  obtain ⟨t, -, -, -, hplace⟩ := h1 14336 farState rfl
  obtain ⟨hmem, ⟨tm, -, -, -, -, -, -, -, -, -, htiles, hclear⟩, -⟩ := hplace farLaunch 0 114688 farState_best (by decide +kernel) farState_place rfl
    (fun x hx => absurd hx List.not_mem_nil)
  have hx : 7340032 ∈ tm.tiles := by rw [htiles, farState_tiles]; exact List.mem_singleton_self _
  have hb : t.mem.bound (pondPa (7340032 / 64) (7340032 % 64) (32 * 0)) = 0 := (hclear _ hx).2 0 (by decide)
  have hn : t.mem.num 0x1F000000000 2 = farState.mem.num 0x1F000000000 2 := num_congr (congrArg MemSt.cells hmem) _ _
  rw [bound_lpddr, hn] at hb
  exact absurd hb (by decide +kernel)

end Sys2Proof.Machine

namespace Sys2Proof.Machine

/-! ### A save whose tiles lie in the image (R394) -/

theorem pad_length (n : Nat) (l : List Byte) : (pad n l).length = n := by
  rw [pad, List.length_take, List.length_append, List.length_replicate]
  omega
theorem teamHeader_length (s : State) (l : Launch) (t : Team) : (teamHeader s l t).length = 4096 := by
  unfold teamHeader
  simp only [List.length_append, toBytes_length, pad_length]

/-- A journal entry is 64 bytes of memory. -/
theorem byte_postJournal (s : State) (kind func status : Nat) (body : List Byte) {a : Nat}
    (ha : a < 0x8000100000 + 64 * (s.dev.jseq % 65536) ∨ 0x8000100000 + 64 * (s.dev.jseq % 65536) + 64 ≤ a) :
    (postJournal s kind func status body).mem.byte a = s.mem.byte a := by
  have hm : ∃ e : List Byte, e.length = 64 ∧
      (postJournal s kind func status body).mem = s.mem.setBytes (0x8000100000 + 64 * (s.dev.jseq % 65536)) e := by
    refine ⟨toBytes 8 s.dev.jseq ++ toBytes 8 s.now ++ toBytes 2 kind ++ toBytes 1 func ++ toBytes 1 status ++ toBytes 4 0 ++
      (body ++ toBytes 40 0).take 40, ?_, ?_⟩
    · simp only [List.length_append, toBytes_length, List.length_take]
      omega
    · unfold postJournal countClass
      dsimp only
      split
      · rfl
      · split
        · rfl
        · rfl
  obtain ⟨e, hl, hm⟩ := hm
  rw [hm, byte_setBytes, if_neg (by omega)]

/-- The first byte of a tile in the image is the first byte of its source. -/
theorem byte_saveTile_first (s : State) (image : Nat) (x : Nat × Nat) :
    (saveTile s image x).mem.byte (image + 0x1000 + 0x8800 * x.2) = s.mem.byte (pondPa (x.1 / 64) (x.1 % 64) 0) := by
  have hlen : (s.mem.bytes (pondPa (x.1 / 64) (x.1 % 64) 0) 0x8000).length = 0x8000 := by simp only [MemSt.bytes, List.length_map, List.length_range]
  unfold saveTile State.setBytes State.upMem
  dsimp only
  rw [byte_setBytes, if_pos ⟨le_rfl, by rw [List.length_append, hlen]; omega⟩, Nat.sub_self, List.getD_eq_getElem?_getD,
    List.getElem?_append_left (by rw [hlen]; decide)]
  simp [MemSt.bytes]

/-- A team of one group, saved, whose second tile would be a tile of core 256: its address is that of the first tile's place in the image. -/
def spillTeam : Team := { placedTeam with preq := true, image := 0x903FFFF000, tiles := [0, 16384] }
def spillLaunch : Launch := { placedLaunch with rc := { placedLaunch.rc with pond := 65536 } }
def spillGroup : Group := { placedGroup false with ctl := { (placedGroup false).ctl with saved := true } }
/-- The first byte of the first tile is 1. -/
def spillState : State :=
  { State.reset with
    mem := { MemSt.reset with cells := [(0x9000000000, 1)] }
    work := { WorkSt.reset with groups := [(0, spillGroup)], launches := [spillLaunch], teams := [spillTeam] } }

theorem spill_image {k : Nat} (hk : k < spillLaunch.rc.imageSize) (x : Nat) : pmem (spillTeam.image + k) ≠ .pond x := by
  have hs : spillLaunch.rc.imageSize = 0x22000 := by decide +kernel
  rw [hs] at hk
  have hi : spillTeam.image = 0x903FFFF000 := rfl
  have hp : pmem (0x903FFFF000 + k) = .none := by
    rw [pmem, if_neg (by omega), if_neg (by omega), if_neg (by omega)]
    by_cases h : k < 0x1000
    · rw [if_pos (by omega), if_neg (by omega)]
    · rw [if_neg (by omega), if_pos (by omega)]
  rw [hi, hp]
  exact PMem.noConfusion

/-- The save of the team, up to its last steps: the tiles, then the header. -/
theorem teamSave_spill : ∃ (u : State) (c : Nat) (bs : List (Nat × Byte)) (f : Launch → Launch) (body : List Byte),
    teamSave spillState 1 0 = postJournal ((removeTeam (putNote
      ((saveTile (saveTile spillState 0x903FFFF000 (0, 0)) 0x903FFFF000 (16384, 1)).setBytes 0x903FFFF000 (teamHeader u spillLaunch spillTeam))
      0x903FFFF000 c bs) spillTeam).modLaunch 1 f) 9 0 0 body := by
  have ha : assignImage spillState 1 0 = spillState := rfl
  have ht : spillState.team? 1 0 = some spillTeam := by decide +kernel
  have hl : spillState.launch? 1 = some spillLaunch := by decide +kernel
  have hx : ¬ ((spillState.die (dieOf spillTeam.core)).off = true ∨ spillTeam.image = 0 ∨
      (!spillTeam.preq && !(spillState.teamGroups 1 0).any (fun h => (spillState.grp h).ctl.saved)) = true ∨ spillTeam.dead = true ∨
      (spillState.teamGroups 1 0).all (fun h => groupRetired (spillState.grp h)) = true) := by decide +kernel
  have hr : (spillState.teamGroups 1 0).foldl saveReady spillState = spillState := rfl
  have hy : ¬ ((!(spillState.teamGroups 1 0).all (fun h => (spillState.grp h).ctl.saved)) = true ∨ openTasks spillState spillTeam ≠ []) := by
    decide +kernel
  have hc : spillState.count spillTeam.core spillLaunch.func 0x18 1 (some (1, 0)) = spillState := by
    have he : countersOf spillState spillTeam.core 0x18 = [] := by decide +kernel
    rw [State.count]
    dsimp only
    rw [he, if_pos rfl]
  have hb : storeBanks spillState spillTeam = spillState := rfl
  unfold teamSave
  rw [ha]
  dsimp only
  rw [ht, hl]
  dsimp only
  rw [if_neg hx, hr, if_neg hy, hc, ht, Option.getD_some, hb]
  exact ⟨_, _, _, _, _, rfl⟩

theorem putNote_setBytes_mem (s : State) (a : Nat) (l : List Byte) (pa c : Nat) (bs : List (Nat × Byte)) :
    (putNote (s.setBytes a l) pa c bs).mem = s.mem.setBytes a l := rfl
/-- The second tile is saved as its source is once the first tile stands there. -/
theorem byte_teamSave_spill : (teamSave spillState 1 0).mem.byte (0x903FFFF000 + 0x1000 + 0x8800 * 1) = 1 := by
  obtain ⟨u, c, bs, f, body, he⟩ := teamSave_spill
  have hlen := teamHeader_length u spillLaunch spillTeam
  rw [he, byte_postJournal _ _ _ _ _ (.inr (by omega)), modLaunch_mem, removeTeam_mem]
  rw [putNote_setBytes_mem, byte_setBytes, if_neg (by rw [hlen]; decide)]
  have h1 := byte_saveTile_first (saveTile spillState 0x903FFFF000 (0, 0)) 0x903FFFF000 (16384, 1)
  have h0 := byte_saveTile_first spillState 0x903FFFF000 (0, 0)
  exact h1.trans (h0.trans (by decide +kernel))

/-- Refutes O44: nothing keeps a team's tiles within the 256 cores. A tile of core 256 lies beyond the ponds, where an image may lie too: the
save of the first tile overwrites it before it is saved itself, and its place in the image holds the first tile's bytes. -/
theorem not_teamsLeave : ¬ Obligations.TeamsLeave := by
  intro h
  obtain ⟨-, hsave, -⟩ := h
  obtain ⟨t, hx, -, -, -, -, -, -, htile, -⟩ := hsave 1 0 spillTeam spillLaunch spillState (by decide +kernel) (by decide +kernel) (by decide) rfl rfl
    (by decide +kernel) (by decide +kernel) ⟨0, by decide +kernel⟩ (by decide +kernel) (fun c _ b hb => absurd hb List.not_mem_nil)
    (by decide +kernel) (by decide) (by decide +kernel) (by decide) (by decide +kernel) (.inl rfl) (by decide) (fun k hk x => spill_image hk x)
    (.inl (by decide +kernel))
  have ht : teamSave spillState 1 0 = t := Host.Outcome.next.inj hx
  have hb : t.mem.byte (0x903FFFF000 + 0x1000 + 0x8800 * 1 + 0) = spillState.mem.byte (pondPa (16384 / 64) (16384 % 64) 0) :=
    (htile 1 16384 rfl).1 0 (by decide)
  rw [← ht, Nat.add_zero, byte_teamSave_spill] at hb
  exact absurd hb (by decide +kernel)

end Sys2Proof.Machine

namespace Sys2Proof.Machine

/-! ### Changes that leave every group alone

Translation, the journal and the memory path write memory, cores, banks and counts; the groups and the issue record stay. -/

/-- `t` has the issue record and the groups of `s`. -/
structure KeepsGroups (s t : State) : Prop where
  cur : t.cur = s.cur
  groups : t.work.groups = s.work.groups

section
variable {s t u : State}

theorem KeepsGroups.refl (s : State) : KeepsGroups s s := ⟨rfl, rfl⟩
theorem KeepsGroups.trans (hst : KeepsGroups s t) (htu : KeepsGroups t u) : KeepsGroups s u :=
  ⟨htu.cur.trans hst.cur, htu.groups.trans hst.groups⟩
theorem SameGroups.keepsGroups (h : SameGroups s t) : KeepsGroups s t := ⟨h.cur, h.groups⟩
theorem KeepsGroups.grp (k : KeepsGroups s t) (j : Nat) : t.grp j = s.grp j := by rw [State.grp, k.groups, State.grp]
theorem KeepsGroups.curG (k : KeepsGroups s t) : t.curG = s.curG := by rw [State.curG, k.cur, k.grp, State.curG]
/-- A fold of such changes. -/
theorem KeepsGroups.foldl_fst {α β : Type} {f : State × β → α → State × β} (hf : ∀ r x, KeepsGroups r.1 (f r x).1) (r : State × β)
    (xs : List α) : KeepsGroups r.1 (xs.foldl f r).1 :=
  List.foldlRecOn xs f (motive := fun q => KeepsGroups r.1 q.1) (.refl r.1) (fun q k x _ => k.trans (hf q x))

theorem keepsGroups_touch (s : State) (bs : List Nat) : KeepsGroups s (touch s bs) := ⟨touch_cur .., by rw [touch_work]⟩
theorem keepsGroups_bump (s : State) (h ev n : Nat) : KeepsGroups s (s.bump h ev n) := (sameGroups_bump s h ev n).keepsGroups

/-! #### Translation (R353 to R356) -/

theorem keepsGroups_walkView (s : State) (core tag va : Nat) : KeepsGroups s (walkView s core tag va).1 := by
  unfold walkView
  refine KeepsGroups.foldl_fst (fun r n => ?_) (s, s.mem) _
  exact ⟨rfl, rfl⟩
theorem keepsGroups_walkPick (s : State) (m : MemSt) (tag va : Nat) : KeepsGroups s (walkPick s m tag va).1 := by
  unfold walkPick
  split
  · dsimp only
    split <;> exact ⟨rfl, rfl⟩
  · exact .refl s
theorem keepsGroups_postMalformed (s : State) (x : Ctx) (wr : Bool) (va level e : Nat) : KeepsGroups s (postMalformed s x wr va level e) := by
  unfold postMalformed
  split <;> exact ⟨rfl, rfl⟩
theorem keepsGroups_walkFresh (s : State) (x : Ctx) (va : Nat) (k : AccKind) : KeepsGroups s (walkFresh s x va k).1 := by
  have hpick : ∀ v : State × MemSt, KeepsGroups v.1 (walkPick (touch v.1 (walkBanks v.2 x.core x.tag va)) v.2 x.tag va).1 :=
    fun v => (keepsGroups_touch ..).trans (keepsGroups_walkPick ..)
  have hwalk := (keepsGroups_walkView s x.core x.tag va).trans (hpick _)
  unfold walkFresh
  dsimp only
  split
  next heq => rw [heq] at hwalk; exact hwalk.trans (keepsGroups_postMalformed ..)
  next heq => rw [heq] at hwalk; exact hwalk
  next heq =>
    rw [heq] at hwalk
    split
    · exact hwalk
    · exact hwalk.trans ⟨rfl, rfl⟩
theorem keepsGroups_choose_unless (s : State) (b : Bool) : KeepsGroups s (if b = true then (true, s) else s.choose).2 := by
  split <;> exact ⟨rfl, rfl⟩
theorem keepsGroups_ite_fst {α : Type} {c : Prop} [Decidable c] {a b : State × α} (ha : KeepsGroups s a.1) (hb : KeepsGroups s b.1) :
    KeepsGroups s (if c then a else b).1 := by split; exacts [ha, hb]
theorem keepsGroups_translate (s : State) (x : Ctx) (va : Nat) (k : AccKind) : KeepsGroups s (translate s x va k).1 := by
  unfold translate
  refine keepsGroups_ite_fst (.refl s) ?_
  split
  · exact keepsGroups_walkFresh ..
  next t0 rest _ =>
    dsimp only
    have hpick : KeepsGroups s (if rest = [] then (0, s) else s.pick (rest.length + 1)).2 := by split <;> exact ⟨rfl, rfl⟩
    generalize (if rest = [] then (0, s) else s.pick (rest.length + 1)) = p at hpick ⊢
    refine hpick.trans (keepsGroups_ite_fst ?_ (keepsGroups_ite_fst (keepsGroups_ite_fst ?_ ?_) ?_))
    · exact (keepsGroups_choose_unless ..).trans (keepsGroups_walkFresh ..)
    · exact KeepsGroups.trans (t := touch _ _) ((keepsGroups_choose_unless ..).trans (keepsGroups_touch ..)) ⟨rfl, rfl⟩
    · exact (keepsGroups_choose_unless ..).trans (keepsGroups_walkFresh ..)
    · exact keepsGroups_choose_unless ..

end

/-! ### Result words of an outstanding entry -/

/-- The place of a word in a fold of writes to successive places. -/
theorem Tb.get_foldl_put_words {α : Type} (d : α) (cs : List α) (m : List (Nat × α)) (a j : Nat) :
    Tb.get d ((cs.zip (List.range cs.length)).foldl (fun t c => Tb.put t (a + c.2) c.1) m) j =
      if a ≤ j ∧ j < a + cs.length then cs.getD (j - a) d else Tb.get d m j := by
  induction cs using List.reverseRecOn with
  | nil => simp
  | append_singleton cs c ih =>
    rw [List.length_append, List.length_singleton, List.range_succ, List.zip_append (by simp), List.foldl_append]
    simp only [List.zip_cons_cons, List.zip_nil_left, List.foldl_cons, List.foldl_nil, Tb.get_put, ih]
    by_cases hj : j = a + cs.length
    · subst hj
      simp
    · by_cases hin : a ≤ j ∧ j < a + cs.length
      · rw [if_neg hj, if_pos hin, if_pos ⟨hin.1, by omega⟩, List.getD_append _ _ _ _ (by omega)]
      · rw [if_neg hj, if_neg hin, if_neg (by omega)]
/-- The words of a lane after a write of result words, of any lane. -/
theorem get_setCells (e : Entry) (l : Nat) (cs : List VCell) (j : Nat) :
    Tb.get VCell.zero (e.setCells l cs).slots j =
      if 8 * l ≤ j ∧ j < 8 * l + cs.length then cs.getD (j - 8 * l) VCell.zero else Tb.get VCell.zero e.slots j :=
  Tb.get_foldl_put_words ..
theorem cells_setCells (e : Entry) (l : Nat) (cs : List VCell) : (e.setCells l cs).cells l 0 cs.length = cs := by
  refine List.ext_getElem (by simp [Entry.cells]) fun k h _ => ?_
  have hk : k < cs.length := by simpa [Entry.cells] using h
  simp [Entry.cells, get_setCells, hk]

/-! ### Base translation (R51, R232) -/

/-- The entry that BXLT leaves outstanding. -/
def bxltEntry (u : State) (d : Reg) (b : BitVec 3) (v : Nat) (r : TR) : Entry :=
  let e := (newEntry u (.bxlt d b) u.cur.mask (BitVec.ofNat 64 (v % 2 ^ 57)) [] []).setCells 0 (bxltCells v r)
  { e with performed := e.mask }
/-- BXLT translates and leaves its result words outstanding. -/
theorem bxlt_eq (d : Reg) (b : BitVec 3) (s : State) : exec (.bxlt d b) s = issue (.bxlt d b) s (fun s =>
    let r := translate s (issueCtx s) (s.os d).v .any
    addEntry r.1 r.1.cur.h (bxltEntry r.1 d b (s.os d).v r.2)) := rfl

/-- An issue whose effect ends in a new outstanding result, after a change that leaves the groups alone. -/
theorem exec_of_addEntry {i : Instr} {s u : State} {e : Entry} {body : State → State} (hx : exec i s = issue i s body) (hi : Issuing s i)
    (hu : KeepsGroups s u) (hb : body s = addEntry u u.cur.h e) (he : e.contested = []) :
    ∃ o, exec i s = .next { u.upG (fun _ => { s.curG with outst := o }) with ids := u.ids + 1 } ∧
      o.map Entry.plain = s.curG.outst.map Entry.plain ++ [e] := by
  have hr : (Tb.get? u.work.groups u.cur.h).isSome = true := by rw [hu.groups, hu.cur]; exact hi.resident
  obtain ⟨o, hset, ho⟩ := settle_outst s (addEntry u u.cur.h e) i
  have hg : (addEntry u u.cur.h e).curG = { s.curG with outst := s.curG.outst ++ [e] } := by
    rw [← hu.curG]
    exact upG_curG u (fun g => { g with outst := g.outst ++ [e] }) hr
  refine ⟨o, ?_, ?_⟩
  · rw [hx, issue_passes i s body hi.passes, hb, hset]
    have hup := (upG_upG u (fun g => { g with outst := g.outst ++ [e] }) (fun g => { g with outst := o })).trans (upG_const u _)
    rw [hu.curG] at hup
    exact congrArg (fun x : State => Host.Outcome.next { x with ids := u.ids + 1 }) hup
  · rw [ho, hg, List.map_append, List.map_singleton, Entry.plain, ← he]

/-- Settles O24: BXLT leaves outstanding the words of the translation made at issue, which leaves every group alone. -/
theorem baseTranslation : Obligations.BaseTranslation := by
  intro d b s hi va r
  have hr : KeepsGroups s r.1 := keepsGroups_translate ..
  obtain ⟨o, hx, ho⟩ := exec_of_addEntry (e := bxltEntry r.1 d b va r.2) (bxlt_eq d b s) hi hr rfl rfl
  have hcells : (bxltEntry r.1 d b va r.2).cells 0 0 (bxltCells va r.2).length = bxltCells va r.2 := cells_setCells ..
  have hres : (Tb.get? r.1.work.groups r.1.cur.h).isSome = true := by rw [hr.groups, hr.cur]; exact hi.resident
  refine ⟨_, bxltEntry r.1 d b va r.2, hx, rfl, ?_, rfl, ?_, rfl, fun pa attr h => ?_, fun h => ?_⟩
  · rw [← ho]
    exact congrArg (fun g : Group => g.outst.map Entry.plain) (upG_curG r.1 _ hres)
  · rw [Entry.ready, bxltEntry, BitVec.and_not_self, decide_eq_true rfl]
  · rw [h] at hcells ⊢
    exact hcells
  · have hz : bxltCells va r.2 = [VCell.zero, VCell.zero, VCell.zero, VCell.zero] := by
      cases ht : r.2 with
      | ok pa attr => exact absurd ht (h pa attr)
      | fault c => rfl
      | recov level epa e => rfl
    rw [hz] at hcells
    exact hcells

end Sys2Proof.Machine

namespace Sys2Proof.Machine

/-! ### One outstanding entry on the memory path

Operations of the memory path that are not of an entry leave it as it is. -/

section
variable {s t u : State} {h id : Nat}

/-! #### Changes that leave every group alone -/

theorem keepsGroups_postJournal (s : State) (kind func status : Nat) (body : List Byte) : KeepsGroups s (postJournal s kind func status body) := by
  unfold postJournal
  dsimp only
  split
  · exact ⟨rfl, rfl⟩
  · split <;> exact ⟨rfl, rfl⟩
theorem keepsGroups_reportErrors (s : State) (x : Accessor) (wr : Bool) (pc : PC) (told : List Nat) (as : List LaneAcc) :
    KeepsGroups s (reportErrors s x wr pc told as).1 := by
  unfold reportErrors
  refine KeepsGroups.foldl_fst (fun r a => ?_) (s, told) as
  split
  · split
    · exact keepsGroups_postJournal r.1 6 _ _ _
    · exact .refl r.1
  · exact .refl r.1
theorem keepsGroups_tellPend (s : State) (p : Pend) (as : List LaneAcc) : KeepsGroups s (tellPend s p as) := by
  have hr := keepsGroups_reportErrors s ⟨s.funcOf p.launch, p.tag.toNat, p.h⟩ true p.pc [] as
  unfold tellPend
  split
  · exact .refl s
  split
  next heq => rw [heq] at hr; exact hr
  next heq => rw [heq] at hr; exact hr.trans ⟨rfl, rfl⟩
theorem keepsGroups_applyPend (s : State) (id : Nat) : KeepsGroups s (applyPend s id) := by
  unfold applyPend
  split
  · exact .refl s
  next p _ =>
    dsimp only
    have hm (m : MemSt) : KeepsGroups s { dropL1 (touch s p.banks) p.core p.sectors with mem := m } :=
      (keepsGroups_touch s p.banks).trans ⟨rfl, rfl⟩
    split
    · exact (hm _).trans (KeepsGroups.trans ⟨rfl, rfl⟩ (keepsGroups_tellPend ..))
    · split
      · exact (hm _).trans (keepsGroups_tellPend ..)
      · exact (hm _).trans ⟨rfl, rfl⟩
theorem keepsGroups_putLimited {α : Type} (s : State) (limit : Nat) (m : List (Nat × α)) (k : Nat) (v : α) :
    KeepsGroups s (putLimited s limit m k v).1 := by
  unfold putLimited
  split <;> exact ⟨rfl, rfl⟩
theorem keepsGroups_readL1 (s : State) (core : Nat) (a : LaneAcc) (n : Nat) : KeepsGroups s (readL1 s core a n).1 := by
  unfold readL1
  refine keepsGroups_ite_fst (.refl s) ?_
  dsimp only
  generalize (Tb.get? (s.core core).l1 (sectorOf a.pa)).getD _ = old
  refine KeepsGroups.trans (t := (if old = (s.mem.bytes (32 * sectorOf a.pa) 32, s.mem.bound a.pa) then (false, s) else s.choose).2) ?_
    (keepsGroups_ite_fst (.refl _) ((keepsGroups_putLimited ..).trans ⟨rfl, rfl⟩))
  split <;> exact ⟨rfl, rfl⟩
theorem keepsGroups_countL1 (s : State) (h : Nat) (e : Entry) : KeepsGroups s (countL1 s h e) :=
  (keepsGroups_bump ..).trans (keepsGroups_bump ..)
theorem keepsGroups_nextLocation (s : State) (acc : List (Nat × LaneAcc)) (a : Nat × LaneAcc) : KeepsGroups s (nextLocation s acc a).1 := by
  unfold nextLocation
  split <;> exact ⟨rfl, rfl⟩
theorem keepsGroups_acquire (s : State) (h : Nat) (sc : Scope) : KeepsGroups s (acquire s h sc) := by
  obtain ⟨c, hc⟩ := acquire_eq s h sc
  rw [hc]
  exact ⟨rfl, rfl⟩

/-! #### An entry after a change of its group's entries -/

theorem KeepsGroups.findEntry (k : KeepsGroups s t) (h id : Nat) : findEntry t h id = findEntry s h id := by
  rw [Machine.findEntry, k.grp, Machine.findEntry]
theorem id_of_findEntry {e : Entry} (he : findEntry s h id = some e) : e.id = id :=
  of_decide_eq_true (List.find?_some (p := fun e : Entry => decide (e.id = id)) he)
/-- A change of each entry that keeps its number. -/
theorem findEntry_modG (s : State) (h id : Nat) {f : Group → Group} {k : Group → Entry → Entry} (hf : ∀ g, (f g).outst = g.outst.map (k g))
    (hk : ∀ g e, (k g e).id = e.id) : findEntry (s.modG h f) h id = (findEntry s h id).map (k (s.grp h)) := by
  have hmap : (f (s.grp h)).outst.find? (fun e => decide (e.id = id)) = (findEntry s h id).map (k (s.grp h)) := by
    rw [hf, List.find?_map, findEntry]
    simp only [Function.comp_def, hk]
  rw [findEntry, modG_grp_same]
  split
  · exact hmap
  next hr =>
    have hg : s.grp h = Group.empty := by rw [State.grp, Tb.get, Option.not_isSome_iff_eq_none.1 hr, Option.getD_none]
    rw [findEntry, hg]
    rfl
theorem findEntry_modEntry_same (s : State) (h id : Nat) {f : Entry → Entry} (hf : ∀ e, (f e).id = e.id) :
    findEntry (modEntry s h id f) h id = (findEntry s h id).map f := by
  rw [modEntry, findEntry_modG s h id (k := fun _ e => if e.id = id then f e else e) (fun _ => rfl) (fun _ e => by split; exacts [hf e, rfl])]
  cases he : findEntry s h id with
  | none => rfl
  | some e => exact congrArg some (if_pos (id_of_findEntry he))

/-- `t` holds entry `id` of group `h` as `s` does. -/
def KeepsEntry (h id : Nat) (s t : State) : Prop := findEntry t h id = findEntry s h id

theorem KeepsEntry.refl (s : State) : KeepsEntry h id s s := rfl
theorem KeepsEntry.trans (hst : KeepsEntry h id s t) (htu : KeepsEntry h id t u) : KeepsEntry h id s u := Eq.trans htu hst
theorem KeepsEntry.foldl {α : Type} {f : State → α → State} {xs : List α} (hf : ∀ s, ∀ x ∈ xs, KeepsEntry h id s (f s x)) (s : State) :
    KeepsEntry h id s (xs.foldl f s) :=
  List.foldlRecOn xs f (motive := KeepsEntry h id s) (.refl s) (fun t k x hx => k.trans (hf t x hx))
theorem KeepsGroups.keepsEntry (k : KeepsGroups s t) : KeepsEntry h id s t := k.findEntry h id
/-- A change of each entry that keeps its number, and this entry whole. -/
theorem keepsEntry_modG (s : State) {f : Group → Group} {k : Group → Entry → Entry} (hf : ∀ g, (f g).outst = g.outst.map (k g))
    (hk : ∀ g e, (k g e).id = e.id) (hid : ∀ g e, e.id = id → k g e = e) : KeepsEntry h id s (s.modG h f) := by
  rw [KeepsEntry, findEntry_modG s h id hf hk]
  cases he : findEntry s h id with
  | none => rfl
  | some e => exact congrArg some (hid _ e (id_of_findEntry he))
theorem keepsEntry_modEntry (s : State) {j : Nat} (hj : j ≠ id) {f : Entry → Entry} (hf : ∀ e, (f e).id = e.id) :
    KeepsEntry h id s (modEntry s h j f) :=
  keepsEntry_modG s (k := fun _ e => if e.id = j then f e else e) (fun _ => rfl) (fun _ e => by split; exacts [hf e, rfl])
    (fun _ _ he => if_neg (fun hc => hj (hc.symm.trans he)))

/-! #### Operations of other entries -/

theorem tellEntry_cases (s : State) (h : Nat) (e : Entry) (as : List LaneAcc) :
    KeepsGroups s (tellEntry s h e as) ∨
      ∃ u ls, KeepsGroups s u ∧ tellEntry s h e as = modEntry u h e.id (fun e => { e with told := ls }) := by
  have hr := keepsGroups_reportErrors s (whoOf s h) (isAtomic e.instr) e.pc e.told as
  unfold tellEntry
  split
  next heq =>
    rw [heq] at hr
    split
    · exact .inl hr
    · exact .inr ⟨_, _, hr, rfl⟩
/-- What a lane of a load reads: an LDT reads its pond, any other load goes through the first-level cache (R131). -/
def readLane (s : State) (h : Nat) (e : Entry) (a : LaneAcc) : State × Opd :=
  match e.instr with
  | .ldt .. => (s, readElem s.mem a.pa a.va (loadBytes e.instr) true)
  | _ => readL1 s (s.grp h).core a (loadBytes e.instr)
/-- The state after the read, with an error counted. -/
def readCounted (s : State) (h : Nat) (e : Entry) (a : LaneAcc) : State :=
  if ((readLane s h e a).1.mem.err a.pa).isSome then (readLane s h e a).1.bump h 0x13 1 else (readLane s h e a).1
theorem keepsGroups_readCounted (s : State) (h : Nat) (e : Entry) (a : LaneAcc) : KeepsGroups s (readCounted s h e a) := by
  have hread : KeepsGroups s (readLane s h e a).1 := by
    unfold readLane
    split
    · exact .refl s
    · exact keepsGroups_readL1 ..
  unfold readCounted
  split
  · exact hread.trans (keepsGroups_bump ..)
  · exact hread
/-- The uniform register that an element gives (R48, R231). -/
def uniformCell (o : Opd) : SCell :=
  match o.tok with
  | some t => SCell.tok t
  | none => ⟨BitVec.ofNat 64 o.v, o.eb⟩
/-- A load of a lane with an access: a race gives a token, otherwise the data are read (R142, R151). -/
theorem performLoad_eq (s : State) (h : Nat) (e : Entry) {l : Nat} {a : LaneAcc} (ha : Tb.get? e.acc l = some a) :
    performLoad s h e l =
      if raceOn (s.grp h) a.attr && raceTest s a.pa (s.grp h).writer false then
        tokenLane ((s.bump h 0x15 1).bump h 0x13 1) h e.id l (vaTok 6 a.va)
      else if isUniformLoad e.instr then
        modEntry (readCounted s h e a) h e.id (fun x => x.doneU (uniformCell (readLane s h e a).2))
      else modEntry (readCounted s h e a) h e.id
        (fun x => x.done l (withEarly a (readLane s h e a).2 (elemCells (loadBytes e.instr) (readLane s h e a).2))) := by
  unfold performLoad
  rw [ha]
  rfl
/-- A load of a lane with an access ends in a change of its entry: a vector load's lane is performed. -/
theorem performLoad_cases (s : State) (h : Nat) (e : Entry) {l : Nat} {a : LaneAcc} (ha : Tb.get? e.acc l = some a) :
    ∃ u f, KeepsGroups s u ∧ performLoad s h e l = modEntry u h e.id f ∧ (∀ x, (f x).id = x.id) ∧
      (isUniformLoad e.instr = false → isAtomic e.instr = false → ∃ cs, f e = e.done l cs) := by
  rw [performLoad_eq s h e ha]
  split
  · refine ⟨_, _, (keepsGroups_bump s h 0x15 1).trans (keepsGroups_bump _ h 0x13 1), rfl, fun x => ?_, fun hu hi => ?_⟩
    · split_ifs <;> rfl
    · exact ⟨_, by rw [if_neg (by rw [hu]; decide), if_neg (by rw [hi]; decide)]⟩
  split
  next hu => exact ⟨_, _, keepsGroups_readCounted s h e a, rfl, fun _ => rfl, fun hn => by rw [hn] at hu; cases hu⟩
  next => exact ⟨_, _, keepsGroups_readCounted s h e a, rfl, fun _ => rfl, fun _ _ => ⟨_, rfl⟩⟩

theorem keepsEntry_performLoad (s : State) {e : Entry} (he : e.id ≠ id) (l : Nat) : KeepsEntry h id s (performLoad s h e l) := by
  cases ha : Tb.get? e.acc l with
  | none =>
    unfold performLoad
    rw [ha]
    exact .refl s
  | some a =>
    obtain ⟨u, f, hu, hp, hf, -⟩ := performLoad_cases s h e ha
    rw [hp]
    exact hu.keepsEntry.trans (keepsEntry_modEntry u he hf)
theorem keepsEntry_performAtom (s : State) {e : Entry} (he : e.id ≠ id) (l : Nat) : KeepsEntry h id s (performAtom s h e l) := by
  have hcount (p : Prop) [Decidable p] : KeepsGroups s (if p then s.bump h 0x13 1 else s) := by
    split
    · exact keepsGroups_bump ..
    · exact .refl s
  unfold performAtom
  split
  · exact .refl s
  · refine KeepsEntry.trans (KeepsGroups.keepsEntry ?_) (keepsEntry_modEntry _ he ?_)
    · exact ⟨(hcount _).cur, (hcount _).groups⟩
    · exact fun _ => rfl
theorem keepsEntry_performLane (s : State) {j : Nat} (hj : j ≠ id) (l : Nat) : KeepsEntry h id s (performLane s h j l) := by
  unfold performLane
  split
  · exact .refl s
  next e he =>
    have hid : e.id ≠ id := id_of_findEntry he ▸ hj
    split
    · exact keepsEntry_performAtom s hid l
    · exact keepsEntry_performLoad s hid l
theorem keepsEntry_tellEntry (s : State) {e : Entry} (he : e.id ≠ id) (as : List LaneAcc) : KeepsEntry h id s (tellEntry s h e as) := by
  rcases tellEntry_cases s h e as with hk | ⟨u, ls, hu, ht⟩
  · exact hk.keepsEntry
  · rw [ht]
    exact hu.keepsEntry.trans (keepsEntry_modEntry u he fun _ => rfl)
theorem keepsEntry_performAt (s : State) {e : Entry} (he : e.id ≠ id) (pa : Nat) : KeepsEntry h id s (performAt s h e pa) :=
  (keepsEntry_tellEntry s he _).trans (.foldl (fun s l _ => keepsEntry_performLane s he l) _)
theorem keepsEntry_performLocation (s : State) {j : Nat} (hj : j ≠ id) : KeepsEntry h id s (performLocation s h j) := by
  unfold performLocation
  split
  · exact .refl s
  next e he =>
    split
    · exact .refl s
    · exact (keepsGroups_nextLocation ..).keepsEntry.trans (keepsEntry_performAt _ (id_of_findEntry he ▸ hj) _)
theorem keepsEntry_performAcc (s : State) {j : Nat} (hj : j ≠ id) : KeepsEntry h id s (performAcc s h j) := by
  unfold performAcc
  split
  · exact .refl s
  next e he =>
    have hid : e.id ≠ id := id_of_findEntry he ▸ hj
    split
    · exact .refl s
    refine (keepsGroups_touch s (entryBanks s h e)).keepsEntry.trans ?_
    split
    · exact .foldl (fun s _ _ => keepsEntry_performLocation s hj) _
    · exact ((keepsEntry_tellEntry _ hid _).trans (keepsGroups_countL1 ..).keepsEntry).trans
        (.foldl (fun s l _ => keepsEntry_performLane s hj l) _)
theorem keepsEntry_performOp (s : State) {o : Nat × Bool × List Nat} (ho : o.1 ≠ id) : KeepsEntry h id s (performOp s h o) := by
  unfold performOp
  split
  · exact keepsEntry_performAcc s ho
  · exact (keepsGroups_applyPend ..).keepsEntry
theorem mem_of_mem_needed {o : Nat × Bool × List Nat} {os : List (Nat × Bool × List Nat)} {ks : List Nat} (ho : o ∈ needed os ks) :
    o ∈ os := by
  induction os generalizing ks with
  | nil => exact ho
  | cons p os ih =>
    rw [needed] at ho
    split at ho
    · rcases List.mem_cons.1 ho with rfl | ho
      · exact List.mem_cons_self
      · exact List.mem_cons_of_mem _ (ih ho)
    · exact List.mem_cons_of_mem _ (ih ho)
/-- Coherence performs earlier operations alone (R143). -/
theorem keepsEntry_forceBefore (s : State) (h id : Nat) (ks : List Nat) : KeepsEntry h id s (forceBefore s h id ks) := by
  refine KeepsEntry.foldl (fun s o ho => keepsEntry_performOp s ?_) s
  have hlt := (List.mem_filter.1 (List.mem_reverse.1 (mem_of_mem_needed (List.mem_reverse.1 ho)))).2
  exact (of_decide_eq_true hlt).ne
/-- An outstanding result after an issue that writes the destinations `ks`: the results issued before number `n` are marked (R180). -/
def markOlder (n regs : Nat) (ks : List Nat) (e : Entry) : Entry :=
  if n ≤ e.id then e
  else { e with contested := e.contested ++ ks.filter (fun k => (destKeys regs e.instr e.mask).contains k) }
/-- The marks of R180 are made on earlier results alone. -/
theorem keepsEntry_settle (s r : State) (i : Instr) (h : Nat) (hid : s.ids ≤ id) : KeepsEntry h id r (settle s i r) := by
  unfold settle markContested
  split
  · exact .refl r
  split
  · exact .refl r
  by_cases hh : h = r.cur.h
  · subst hh
    exact keepsEntry_modG r (k := fun g => markOlder s.ids g.regs (destKeys g.regs i r.cur.mask)) (fun _ => rfl)
      (fun _ _ => by unfold markOlder; split <;> rfl) (fun _ _ he => if_pos (he ▸ hid))
  · exact congrArg (fun g : Group => g.outst.find? (fun e => decide (e.id = id))) (modG_grp_other r _ hh)

/-! ### A vector load is performed whole (R142) -/

/-- Every lane of an entry has been performed or has an access. -/
def Entry.covered (e : Entry) : Prop := ∀ l, e.mask.getLsbD l = true → e.performed.getLsbD l = true ∨ (Tb.get? e.acc l).isSome = true

/-- `e'` is the same instruction's entry, further on. -/
structure Advances (e e' : Entry) : Prop where
  instr : e'.instr = e.instr
  mask : e'.mask = e.mask
  performed : ∀ l, e.performed.getLsbD l = true → e'.performed.getLsbD l = true
  covered : e.covered → e'.covered

theorem Advances.refl (e : Entry) : Advances e e := ⟨rfl, rfl, fun _ hl => hl, fun hc => hc⟩
theorem Advances.trans {e e' e'' : Entry} (h1 : Advances e e') (h2 : Advances e' e'') : Advances e e'' :=
  ⟨h2.instr.trans h1.instr, h2.mask.trans h1.mask, fun l hl => h2.performed l (h1.performed l hl), fun hc => h2.covered (h1.covered hc)⟩

theorem getLsbD_done (e : Entry) (l : Nat) (cs : List VCell) (j : Nat) :
    (e.done l cs).performed.getLsbD j = (e.performed.getLsbD j || decide (j < 64 ∧ j = l)) := by
  simp only [Entry.done, BitVec.getLsbD_or, getLsbD_maskOf, List.mem_singleton]
theorem advances_done (e : Entry) (l : Nat) (cs : List VCell) : Advances e (e.done l cs) := by
  have hp : ∀ j, e.performed.getLsbD j = true → (e.done l cs).performed.getLsbD j = true := fun j hj => by
    rw [getLsbD_done, hj, Bool.true_or]
  refine ⟨rfl, rfl, hp, fun hc j hj => ?_⟩
  by_cases hl : j = l
  · refine .inl ?_
    rw [getLsbD_done, decide_eq_true ⟨BitVec.lt_of_getLsbD hj, hl⟩, Bool.or_true]
  · refine (hc j hj).imp (hp j) fun ha => ?_
    rw [Entry.done, Tb.get?_erase, if_neg hl]
    exact ha

/-- One lane of a vector load, which is then performed. -/
theorem performLane_load {e : Entry} (he : findEntry s h id = some e) (hu : isUniformLoad e.instr = false) (ha : isAtomic e.instr = false)
    (hc : e.covered) (l : Nat) :
    ∃ e', findEntry (performLane s h id l) h id = some e' ∧ Advances e e' ∧ (e.mask.getLsbD l = true → e'.performed.getLsbD l = true) := by
  have hlane : performLane s h id l = performLoad s h e l := by
    rw [performLane, he]
    exact if_neg (by rw [ha]; decide)
  rw [hlane]
  cases hacc : Tb.get? e.acc l with
  | none =>
    have hs : performLoad s h e l = s := by
      unfold performLoad
      rw [hacc]
    refine ⟨e, hs.symm ▸ he, .refl e, fun hm => (hc l hm).resolve_right ?_⟩
    rw [hacc]
    exact Bool.false_ne_true
  | some a =>
    obtain ⟨u, f, hk, hp, hf, hd⟩ := performLoad_cases s h e hacc
    obtain ⟨cs, hcs⟩ := hd hu ha
    refine ⟨e.done l cs, ?_, advances_done e l cs, fun hm => ?_⟩
    · rw [hp, id_of_findEntry he, findEntry_modEntry_same u h id hf, hk.findEntry, he, Option.map_some, hcs]
    · rw [getLsbD_done, decide_eq_true ⟨BitVec.lt_of_getLsbD hm, rfl⟩, Bool.or_true]
theorem foldl_performLane_load {e : Entry} (he : findEntry s h id = some e) (hu : isUniformLoad e.instr = false) (ha : isAtomic e.instr = false)
    (hc : e.covered) (ls : List Nat) :
    ∃ e', findEntry (ls.foldl (fun s l => performLane s h id l) s) h id = some e' ∧ Advances e e' ∧
      ∀ l ∈ ls, e.mask.getLsbD l = true → e'.performed.getLsbD l = true := by
  induction ls generalizing s e with
  | nil => exact ⟨e, he, .refl e, fun _ hl => absurd hl List.not_mem_nil⟩
  | cons l ls ih =>
    obtain ⟨e1, he1, h1, hl⟩ := performLane_load he hu ha hc l
    obtain ⟨e2, he2, h2, hls⟩ := ih he1 (h1.instr ▸ hu) (h1.instr ▸ ha) (h1.covered hc)
    refine ⟨e2, he2, h1.trans h2, fun j hj hm => ?_⟩
    rcases List.mem_cons.1 hj with rfl | hj
    · exact h2.performed _ (hl hm)
    · exact hls j hj (h1.mask ▸ hm)
theorem findEntry_tellEntry {e : Entry} (he : findEntry s h id = some e) (as : List LaneAcc) :
    ∃ e', findEntry (tellEntry s h e as) h id = some e' ∧ Advances e e' := by
  obtain rfl := id_of_findEntry he
  rcases tellEntry_cases s h e as with hk | ⟨u, ls, hk, ht⟩
  · exact ⟨e, (hk.findEntry h e.id).trans he, .refl e⟩
  · refine ⟨{ e with told := ls }, ?_, rfl, rfl, fun _ hl => hl, fun hc => hc⟩
    rw [ht, findEntry_modEntry_same u h e.id (f := fun e => { e with told := ls }) (fun _ => rfl), hk.findEntry, he, Option.map_some]
theorem ready_of_performed {e : Entry} (hp : ∀ l, e.mask.getLsbD l = true → e.performed.getLsbD l = true) : e.ready = true := by
  refine decide_eq_true (BitVec.eq_of_getLsbD_eq fun l hl => ?_)
  rw [BitVec.getLsbD_and, BitVec.getLsbD_not]
  cases hm : e.mask.getLsbD l with
  | false => simp
  | true => simp [hp l hm]
/-- A vector load whose lanes have been performed or have accesses is performed, and stays the entry that it is. -/
theorem perform_load {e : Entry} (he : findEntry s h id = some e) (hu : isUniformLoad e.instr = false) (ha : isAtomic e.instr = false)
    (hl : isLate e.instr = false) (hc : e.covered) :
    ∃ e', findEntry (perform s h id) h id = some e' ∧ e'.instr = e.instr ∧ e'.mask = e.mask ∧ e'.ready = true := by
  have hperform : perform s h id = performAcc (forceBefore s h id e.sectors) h id := by
    rw [perform, he]
    dsimp only
    rw [hl, if_neg Bool.false_ne_true, performEntry, he]
  have hf : findEntry (forceBefore s h id e.sectors) h id = some e := Eq.trans (keepsEntry_forceBefore s h id e.sectors) he
  rw [hperform, performAcc, hf]
  dsimp only
  split
  next hacc =>
    refine ⟨e, hf, rfl, rfl, ready_of_performed fun l hm => (hc l hm).resolve_right ?_⟩
    rw [hacc]
    exact Bool.false_ne_true
  rw [ha, if_neg Bool.false_ne_true]
  generalize htouch : touch (forceBefore s h id e.sectors) _ = u
  have hu' : findEntry u h id = some e := by
    rw [← htouch]
    exact ((keepsGroups_touch ..).findEntry h id).trans hf
  obtain ⟨e1, he1, h1⟩ := findEntry_tellEntry hu' (e.acc.map (·.2))
  obtain ⟨e2, he2, h2, hls⟩ := foldl_performLane_load (((keepsGroups_countL1 _ h e).findEntry h id).trans he1) (h1.instr ▸ hu) (h1.instr ▸ ha)
    (h1.covered hc) (e.acc.map (·.1))
  refine ⟨e2, he2, h2.instr.trans h1.instr, h2.mask.trans h1.mask, ready_of_performed fun l hm => ?_⟩
  rw [(h1.trans h2).mask] at hm
  rcases hc l hm with hp | hacc
  · exact (h1.trans h2).performed l hp
  · obtain ⟨a, hget⟩ := Option.isSome_iff_exists.1 hacc
    exact hls l (List.mem_map.2 ⟨_, Tb.mem_of_get? hget, rfl⟩) (h1.mask ▸ hm)

end

end Sys2Proof.Machine

namespace Sys2Proof.Machine

/-! ### Loads through the window of a b register (R51, R226, R231) -/

section
variable {s u : State} {n : BitVec 3} {e : Entry} {l j : Nat}

/-- An access in the window is made at its physical address, and changes nothing (R51). -/
theorem laneAccess_window {k : AccKind} {align va : Nat} (hw : InWindow s n k align va) (u : State) :
    laneAccess u (issueCtx s) (some (n.toNat, s.cur.rd.b n.toNat)) k align va = (u, .ok (windowAcc s n va)) := by
  have hd : (k.writes && !pteD (s.cur.rd.b n.toNat).attr.toNat) = false := by
    cases hk : k.writes with
    | false => rfl
    | true => rw [hw.dirty hk]; rfl
  have ht : translateB u (issueCtx s) n.toNat (s.cur.rd.b n.toNat) va k = (u, .ok (windowPa s n va) (s.cur.rd.b n.toNat).attr) := by
    unfold translateB
    have hp : permOk k (issueCtx s).sv (s.cur.rd.b n.toNat).attr.toNat = true := hw.perm
    rw [if_pos ⟨hw.low, hw.high, hw.canonical⟩, if_neg (by rw [hp]; decide), if_neg (by rw [hd]; decide)]
    rfl
  unfold laneAccess
  rw [if_neg (Nat.not_le.2 hw.canonical), if_neg (not_not.2 hw.aligned)]
  dsimp only
  rw [ht]
  rfl

/-! #### The entry of an issue -/

/-- Order numbers of a group's outstanding results are below the next. -/
theorem State.Numbered.outst_lt (hn : s.Numbered) {h : Nat} (he : e ∈ (s.grp h).outst) : e.id < s.ids := by
  obtain ⟨-, hlt⟩ := hn
  cases hg : Tb.get? s.work.groups h with
  | none =>
    rw [State.grp, Tb.get, hg] at he
    exact absurd he List.not_mem_nil
  | some g =>
    rw [State.grp, Tb.get, hg] at he
    exact hlt _ (List.mem_append_left _ (List.mem_flatMap.2 ⟨_, Tb.mem_of_get? hg, List.mem_map_of_mem he⟩))
theorem findEntry_addEntry (hn : s.Numbered) {h : Nat} (hr : (Tb.get? s.work.groups h).isSome = true) (he : e.id = s.ids) :
    findEntry (addEntry s h e) h s.ids = some e := by
  have hg : (addEntry s h e).grp h = { s.grp h with outst := (s.grp h).outst ++ [e] } := by
    refine (modG_grp s h h (fun g => { g with outst := g.outst ++ [e] }) hr).trans (if_pos rfl)
  have hnone : (s.grp h).outst.find? (fun x => decide (x.id = s.ids)) = none :=
    List.find?_eq_none.2 fun x hx => by rw [decide_eq_false (hn.outst_lt hx).ne]; exact Bool.false_ne_true
  rw [findEntry, hg]
  dsimp only
  rw [List.find?_append, hnone, Option.none_or, List.find?_singleton, he, decide_eq_true rfl]
  rfl
theorem modEntry_addEntry (hn : s.Numbered) (h : Nat) (he : e.id = s.ids) (f : Entry → Entry) :
    modEntry (addEntry s h e) h s.ids f = addEntry s h (f e) := by
  have hm : ((s.grp h).outst ++ [e]).map (fun x => if x.id = s.ids then f x else x) = (s.grp h).outst ++ [f e] := by
    have hold : (s.grp h).outst.map (fun x => if x.id = s.ids then f x else x) = (s.grp h).outst :=
      List.map_congr_left (g := id) (fun x hx => if_neg (hn.outst_lt hx).ne) |>.trans (List.map_id _)
    rw [List.map_append, List.map_singleton, if_pos he, hold]
  have hg := (modG_modG s h (fun g => { g with outst := g.outst ++ [e] })
    (fun g => { g with outst := g.outst.map (fun x => if x.id = s.ids then f x else x) })).trans
    (modG_congr s h (f' := fun g => { g with outst := g.outst ++ [f e] }) (congrArg (fun o => { s.grp h with outst := o }) hm))
  exact congrArg (fun x : State => { x with ids := s.ids + 1 }) hg

/-! #### The start of its lanes -/

/-- A lane of a vector load whose offset is poisoned (R226). -/
def Entry.tokened (e : Entry) (l : Nat) : Bool :=
  !isUniformLoad e.instr && decide ((Tb.get VCell.zero e.slots (8 * l)).eb = ebPoison)
/-- The result words of a lane whose offset is poisoned. -/
def Entry.tokenCells (e : Entry) (l : Nat) : List VCell :=
  elemCells (loadBytes e.instr) ⟨0, ebPoison, some (Tb.get VCell.zero e.slots (8 * l)).data⟩
/-- An entry of a load after a lane has started through the window: it has its offset's token, or its translated access. -/
def startedLane (s : State) (n : BitVec 3) (e : Entry) (l : Nat) : Entry :=
  if e.tokened l then e.done l (e.tokenCells l) else { e with acc := Tb.put e.acc l (windowAcc s n (entryVa e l)) }
/-- A lane can start: its offset is poisoned, or its address lies in the window. -/
def CanStart (s : State) (n : BitVec 3) (e : Entry) (l : Nat) : Prop :=
  e.tokened l = false → InWindow s n .read (alignOf e.instr) (entryVa e l)

theorem startLane_addEntry (hn : s.Numbered) (hr : (Tb.get? s.work.groups s.cur.h).isSome = true) (he : e.id = s.ids)
    (ha : isAtomic e.instr = false) (hw : CanStart s n e l) (ps : List PageAt) :
    startLane (issueCtx s) (some (n.toNat, s.cur.rd.b n.toNat)) s.ids (addEntry s s.cur.h e, ps) l =
      (addEntry s s.cur.h (startedLane s n e l), ps) := by
  have hf : findEntry (addEntry s s.cur.h e) (issueCtx s).h s.ids = some e := findEntry_addEntry hn hr he
  have hmod (f : Entry → Entry) : modEntry (addEntry s s.cur.h e) (issueCtx s).h s.ids f = addEntry s s.cur.h (f e) :=
    modEntry_addEntry hn s.cur.h he f
  unfold startLane
  dsimp only
  rw [hf]
  dsimp only
  cases ht : e.tokened l with
  | true =>
    have hu : isUniformLoad e.instr = false := by
      rw [Entry.tokened, Bool.and_eq_true, Bool.not_eq_true'] at ht
      exact ht.1
    rw [Entry.tokened] at ht
    rw [if_pos ht, tokenLane, hmod]
    rw [if_neg (by rw [hu]; decide), if_neg (by rw [ha]; decide), startedLane, Entry.tokened, if_pos ht]
    rfl
  | false =>
    have hacc := laneAccess_window (hw ht) (addEntry s s.cur.h e)
    rw [startedLane, ht]
    rw [Entry.tokened] at ht
    rw [if_neg (by rw [ht]; decide), ha, if_neg Bool.false_ne_true, hacc]
    dsimp only
    rw [hmod, if_neg Bool.false_ne_true]

/-- Two entries that hold the same of a lane. -/
structure SameLane (e e' : Entry) (j : Nat) : Prop where
  slots : ∀ k, k < 8 → Tb.get VCell.zero e'.slots (8 * j + k) = Tb.get VCell.zero e.slots (8 * j + k)
  performed : e'.performed.getLsbD j = e.performed.getLsbD j
  acc : Tb.get? e'.acc j = Tb.get? e.acc j
/-- Two entries that differ in their lanes alone. -/
def LanesOnly (e e' : Entry) : Prop := ∃ p sl ac, e' = { e with performed := p, slots := sl, acc := ac }

theorem LanesOnly.trans {e e' e'' : Entry} (h1 : LanesOnly e e') (h2 : LanesOnly e' e'') : LanesOnly e e'' := by
  obtain ⟨_, _, _, rfl⟩ := h1
  obtain ⟨p, sl, ac, rfl⟩ := h2
  exact ⟨p, sl, ac, rfl⟩
theorem SameLane.trans {e e' e'' : Entry} (h1 : SameLane e e' j) (h2 : SameLane e' e'' j) : SameLane e e'' j :=
  ⟨fun k hk => (h2.slots k hk).trans (h1.slots k hk), h2.performed.trans h1.performed, h2.acc.trans h1.acc⟩

theorem length_elemCells (n : Nat) (o : Opd) : (elemCells n o).length = if n ≤ 4 then 1 else n / 4 := by
  rw [elemCells, List.length_map, List.length_range]
theorem loadBytes_le (i : Instr) : loadBytes i ≤ 16 := by
  unfold loadBytes
  split
  · cases ‹Width› <;> decide
  · cases ‹Width› <;> decide
  · cases ‹Width› <;> decide
  · cases ‹Width› <;> decide
  · cases ‹Width› <;> decide
  · decide
theorem length_tokenCells (e : Entry) (l : Nat) : (e.tokenCells l).length ≤ 4 := by
  have := loadBytes_le e.instr
  rw [Entry.tokenCells, length_elemCells]
  split <;> omega

theorem lanesOnly_startedLane (s : State) (n : BitVec 3) (e : Entry) (l : Nat) : LanesOnly e (startedLane s n e l) := by
  unfold startedLane
  split
  · exact ⟨_, _, _, rfl⟩
  · exact ⟨_, _, _, rfl⟩
theorem sameLane_startedLane (s : State) (n : BitVec 3) (e : Entry) (h : j ≠ l) : SameLane e (startedLane s n e l) j := by
  have hlen := length_tokenCells e l
  unfold startedLane
  split
  · refine ⟨fun k hk => ?_, ?_, ?_⟩
    · exact (get_setCells e l _ _).trans (if_neg (by omega))
    · rw [getLsbD_done, decide_eq_false (fun hc => h hc.2), Bool.or_false]
    · rw [Entry.done, Tb.get?_erase, if_neg h]
  · exact ⟨fun _ _ => rfl, rfl, by rw [Tb.get?_put, if_neg h]⟩

/-- What a started lane holds, by its offset as captured in `e`. -/
structure LaneStarted (s : State) (n : BitVec 3) (e r : Entry) (l : Nat) : Prop where
  token : e.tokened l = true → r.performed.getLsbD l = true ∧ ∀ k, k < (if loadBytes e.instr ≤ 4 then 1 else loadBytes e.instr / 4) →
    Tb.get VCell.zero r.slots (8 * l + k) = VCell.tok (Tb.get VCell.zero e.slots (8 * l)).data
  access : e.tokened l = false → r.performed.getLsbD l = e.performed.getLsbD l ∧ Tb.get? r.acc l = some (windowAcc s n (entryVa e l))

theorem laneStarted_startedLane (s : State) (n : BitVec 3) (e : Entry) (hl : l < 64) : LaneStarted s n e (startedLane s n e l) l := by
  refine ⟨fun ht => ?_, fun ht => ?_⟩
  · rw [startedLane, if_pos ht]
    refine ⟨?_, fun k hk => ?_⟩
    · rw [getLsbD_done, decide_eq_true ⟨hl, rfl⟩, Bool.or_true]
    · have hlen : k < (e.tokenCells l).length := by rw [Entry.tokenCells, length_elemCells]; exact hk
      refine (get_setCells e l _ _).trans ?_
      rw [if_pos ⟨by omega, by omega⟩, Nat.add_sub_cancel_left, List.getD_eq_getElem _ _ hlen]
      simp only [Entry.tokenCells, elemCells, List.getElem_map]
  · rw [startedLane, if_neg (by rw [ht]; decide)]
    exact ⟨rfl, by rw [Tb.get?_put, if_pos rfl]⟩
/-- Lanes of an entry with the same captured offset start alike. -/
theorem tokened_congr {e e' : Entry} (ho : LanesOnly e e') (hs : SameLane e e' l) : e'.tokened l = e.tokened l := by
  have h0 := hs.slots 0 (by decide)
  obtain ⟨p, sl, ac, rfl⟩ := ho
  rw [Nat.add_zero] at h0
  rw [Entry.tokened, Entry.tokened, h0]
theorem entryVa_congr {e e' : Entry} (ho : LanesOnly e e') (hs : SameLane e e' l) : entryVa e' l = entryVa e l := by
  have h0 := hs.slots 0 (by decide)
  obtain ⟨p, sl, ac, rfl⟩ := ho
  rw [Nat.add_zero] at h0
  rw [entryVa, entryVa, h0]
theorem CanStart.congr {e e' : Entry} (hc : CanStart s n e l) (ho : LanesOnly e e') (hs : SameLane e e' l) : CanStart s n e' l := by
  intro ht
  have hi : e'.instr = e.instr := by obtain ⟨p, sl, ac, rfl⟩ := ho; rfl
  rw [entryVa_congr ho hs, hi]
  exact hc ((tokened_congr ho hs).symm.trans ht)
theorem LaneStarted.of_before {e e' r : Entry} (h : LaneStarted s n e' r l) (ho : LanesOnly e e') (hs : SameLane e e' l) :
    LaneStarted s n e r l := by
  obtain ⟨htok, hacc⟩ := h
  have hi : e'.instr = e.instr := by obtain ⟨p, sl, ac, rfl⟩ := ho; rfl
  have h0 := hs.slots 0 (by decide)
  rw [Nat.add_zero] at h0
  rw [tokened_congr ho hs] at htok hacc
  rw [hi, h0] at htok
  rw [entryVa_congr ho hs, hs.performed] at hacc
  exact ⟨htok, hacc⟩
theorem LaneStarted.of_after {e r r' : Entry} (h : LaneStarted s n e r l) (hs : SameLane r r' l) : LaneStarted s n e r' l := by
  have hw : (if loadBytes e.instr ≤ 4 then 1 else loadBytes e.instr / 4) ≤ 4 := by
    have := loadBytes_le e.instr
    split <;> omega
  refine ⟨fun ht => ?_, fun ht => ?_⟩
  · obtain ⟨hp, hk⟩ := h.token ht
    exact ⟨hs.performed.trans hp, fun k hlt => (hs.slots k (by omega)).trans (hk k hlt)⟩
  · obtain ⟨hp, ha⟩ := h.access ht
    exact ⟨hs.performed.trans hp, hs.acc.trans ha⟩

/-- Every lane of an issue starts, and no other lane changes. -/
theorem foldl_startedLane (s : State) (n : BitVec 3) (e : Entry) {ls : List Nat} (hn : ls.Nodup) (hl : ∀ l ∈ ls, l < 64) :
    LanesOnly e (ls.foldl (startedLane s n) e) ∧ (∀ l ∈ ls, LaneStarted s n e (ls.foldl (startedLane s n) e) l) ∧
      ∀ j, j ∉ ls → SameLane e (ls.foldl (startedLane s n) e) j := by
  induction ls generalizing e with
  | nil => exact ⟨⟨_, _, _, rfl⟩, fun l hl => absurd hl List.not_mem_nil, fun j _ => ⟨fun _ _ => rfl, rfl, rfl⟩⟩
  | cons x ls ih =>
    obtain ⟨hx, hn⟩ := List.nodup_cons.1 hn
    obtain ⟨ho, hs, hf⟩ := ih (startedLane s n e x) hn (fun l h => hl l (List.mem_cons_of_mem _ h))
    have ho1 := lanesOnly_startedLane s n e x
    refine ⟨ho1.trans ho, fun l h => ?_, fun j hj => ?_⟩
    · rcases List.mem_cons.1 h with rfl | h
      · exact (laneStarted_startedLane s n e (hl l List.mem_cons_self)).of_after (hf l hx)
      · exact (hs l h).of_before ho1 (sameLane_startedLane s n e (fun hc => hx (hc ▸ h)))
    · rw [List.mem_cons, not_or] at hj
      exact (sameLane_startedLane s n e hj.1).trans (hf j hj.2)
theorem foldl_startLane (hn : s.Numbered) (hr : (Tb.get? s.work.groups s.cur.h).isSome = true) {ls : List Nat} (hls : ls.Nodup)
    (he : e.id = s.ids) (ha : isAtomic e.instr = false) (hw : ∀ l ∈ ls, CanStart s n e l) (ps : List PageAt) :
    ls.foldl (startLane (issueCtx s) (some (n.toNat, s.cur.rd.b n.toNat)) s.ids) (addEntry s s.cur.h e, ps) =
      (addEntry s s.cur.h (ls.foldl (startedLane s n) e), ps) := by
  induction ls generalizing e with
  | nil => rfl
  | cons x ls ih =>
    obtain ⟨hx, hls⟩ := List.nodup_cons.1 hls
    have ho := lanesOnly_startedLane s n e x
    rw [List.foldl_cons, List.foldl_cons, startLane_addEntry hn hr he ha (hw x List.mem_cons_self)]
    refine ih hls ?_ ?_ (fun l h => (hw l (List.mem_cons_of_mem _ h)).congr ho (sameLane_startedLane s n e (fun hc => hx (hc ▸ h))))
    · obtain ⟨p, sl, ac, hst⟩ := ho
      rw [hst]
      exact he
    · obtain ⟨p, sl, ac, hst⟩ := ho
      rw [hst]
      exact ha

end

end Sys2Proof.Machine

namespace Sys2Proof.Machine

section
variable {s : State} {n : BitVec 3} {i : Instr}

/-! #### The issue of a load (R226, R231) -/

theorem Tb.get_foldl_put_lanes {α : Type} (d : α) (f : Nat → α) (ls : List Nat) (m : List (Nat × α)) (l : Nat) :
    Tb.get d (ls.foldl (fun t l => Tb.put t (8 * l) (f l)) m) (8 * l) = if l ∈ ls then f l else Tb.get d m (8 * l) := by
  induction ls generalizing m with
  | nil => simp
  | cons x ls ih =>
    rw [List.foldl_cons, ih, Tb.get_put]
    by_cases hl : l ∈ ls
    · simp [hl]
    · by_cases hx : l = x
      · simp [hx]
      · rw [if_neg hl, if_neg (by omega), if_neg (by simp [hl, hx])]

/-- The offsets that a vector load captures. -/
def offsetSlots (s : State) (o : Reg) : List (Nat × VCell) := (lanesOf s.cur.mask).foldl (fun t l => Tb.put t (8 * l) (s.rv o l)) []
/-- The entry of a load before its lanes start. -/
def capturedEntry (s : State) (i : Instr) (uop : DWord) (off : Option Reg) : Entry :=
  newEntry s i s.cur.mask uop ((off.map (offsetSlots s)).getD []) []
/-- The entry of a load after its lanes have started through the window. -/
def startedEntry (s : State) (n : BitVec 3) (i : Instr) (uop : DWord) (off : Option Reg) : Entry :=
  (accessLanes i s.cur.mask).foldl (startedLane s n) (capturedEntry s i uop off)

theorem accessLanes_sublist (i : Instr) (m : Mask) : (accessLanes i m).Sublist (lanesOf m) := by
  unfold accessLanes
  split
  · exact List.take_sublist _ _
  · exact List.Sublist.refl _
theorem startedEntry_spec (s : State) (n : BitVec 3) (i : Instr) (uop : DWord) (off : Option Reg) :
    LanesOnly (capturedEntry s i uop off) (startedEntry s n i uop off) ∧
      ∀ l ∈ accessLanes i s.cur.mask, LaneStarted s n (capturedEntry s i uop off) (startedEntry s n i uop off) l := by
  have hsub := accessLanes_sublist i s.cur.mask
  obtain ⟨ho, hs, -⟩ := foldl_startedLane s n (capturedEntry s i uop off) (hsub.nodup (nodup_lanesOf _))
    (fun l hl => lanesOf_lt _ l (hsub.subset hl))
  exact ⟨ho, hs⟩

theorem dataMatch_of_no_dbg (hd : (s.core s.cur.rd.core).dbg = []) (rd wr : Bool) (as : List (Mask × Nat)) : dataMatch s rd wr as = (0, 0) := by
  unfold dataMatch
  dsimp only
  rw [hd]
  rfl

/-- A load whose lanes can all start: each has its token or its access, and none is rejected. -/
theorem loadBody_window {uop : DWord} {off : Option Reg} (hn : s.Numbered) (hr : (Tb.get? s.work.groups s.cur.h).isSome = true) (hf : s.free_)
    (ha : isAtomic i = false) (hw : ∀ l ∈ accessLanes i s.cur.mask, CanStart s n (capturedEntry s i uop off) l) :
    loadBody i n uop off s =
      endStart (addEntry s s.cur.h (startedEntry s n i uop off)) (issueCtx s) s.ids 0 [] (fun u m k => askPage u m k s.ids) := by
  obtain ⟨hdbg, -, hroom⟩ := hf
  have hsub := accessLanes_sublist i s.cur.mask
  unfold loadBody
  extract_lets m x b slots e ls dm free acc rej
  have he : e = capturedEntry s i uop off := by cases off <;> rfl
  have hdm : dm = (0, 0) := dataMatch_of_no_dbg hdbg ..
  have hacc : acc = ls := List.take_of_length_le (hsub.length_le.trans hroom)
  have hrej : rej = 0 := by
    by_cases hu : isUniformLoad i = true
    · refine (if_pos hu).trans ?_
      split
      next hnil =>
        rw [hacc] at hnil
        have hm : (lanesOf m).take 1 = [] := (if_pos hu).symm.trans hnil
        have hz : lanesOf m = [] := (List.take_eq_nil_iff.1 hm).resolve_left (by decide)
        rw [← maskOf_lanesOf m, hz]
        rfl
      next => rfl
    · refine (if_neg hu).trans ?_
      have hdrop : ls.drop free = [] := List.drop_eq_nil_of_le (hsub.length_le.trans hroom)
      rw [hdrop]
      rfl
  rw [if_neg (by rw [hdm]; exact not_not.2 rfl), hacc, hrej, he]
  have hfold : ls.foldl (startLane x (some (n.toNat, b)) (capturedEntry s i uop off).id) (addEntry s x.h (capturedEntry s i uop off), []) =
      (addEntry s s.cur.h (startedEntry s n i uop off), []) := foldl_startLane hn hr (hsub.nodup (nodup_lanesOf _)) rfl ha hw []
  rw [hfold]
  exact if_neg (fun h => h.2 rfl)

/-- A load none of whose lanes faults waits with its accesses, or is performed as its acquire asks (R144). -/
theorem endStart_none {t : State} {x : Ctx} {id : Nat} {e : Entry} (he : findEntry t x.h id = some e) (ha : acqOf e.instr = none)
    (page : State → Mask → Nat → State) : endStart t x id 0 [] page = t := by
  unfold endStart
  rw [he]
  dsimp only
  rw [if_pos ⟨rfl, rfl⟩, ha]
theorem endStart_acquire {t : State} {x : Ctx} {id : Nat} {e : Entry} {sc : Scope} (he : findEntry t x.h id = some e)
    (ha : acqOf e.instr = some sc) (page : State → Mask → Nat → State) :
    endStart t x id 0 [] page = acquire (perform t x.h id) x.h sc := by
  unfold endStart
  rw [he]
  dsimp only
  rw [if_pos ⟨rfl, rfl⟩, ha]

/-- What a load through the window needs to issue. -/
structure Starts (s : State) (n : BitVec 3) (i : Instr) (uop : DWord) (off : Option Reg) : Prop where
  exec : exec i s = issue i s (fun t => loadBody i n uop off t)
  issuing : Issuing s i
  numbered : s.Numbered
  free : s.free_
  notAtomic : isAtomic i = false
  canStart : ∀ l ∈ accessLanes i s.cur.mask, CanStart s n (capturedEntry s i uop off) l

section
variable {uop : DWord} {off : Option Reg}

theorem Starts.findEntry (h : Starts s n i uop off) :
    findEntry (addEntry s s.cur.h (startedEntry s n i uop off)) s.cur.h s.ids = some (startedEntry s n i uop off) := by
  obtain ⟨⟨p, sl, ac, he⟩, -⟩ := startedEntry_spec s n i uop off
  exact findEntry_addEntry h.numbered h.issuing.resident (by rw [he]; rfl)
theorem startedEntry_instr (s : State) (n : BitVec 3) (i : Instr) (uop : DWord) (off : Option Reg) : (startedEntry s n i uop off).instr = i := by
  obtain ⟨⟨p, sl, ac, he⟩, -⟩ := startedEntry_spec s n i uop off
  rw [he]
  rfl
theorem startedEntry_mask (s : State) (n : BitVec 3) (i : Instr) (uop : DWord) (off : Option Reg) :
    (startedEntry s n i uop off).mask = s.cur.mask := by
  obtain ⟨⟨p, sl, ac, he⟩, -⟩ := startedEntry_spec s n i uop off
  rw [he]
  rfl
/-- A load without an acquire is left outstanding, and nothing else changes. -/
theorem Starts.defers (h : Starts s n i uop off) (ha : acqOf i = none) {p : Entry → Prop} (hp : p (startedEntry s n i uop off)) : Defers i s p := by
  have hb : loadBody i n uop off s = addEntry s s.cur.h (startedEntry s n i uop off) :=
    (loadBody_window h.numbered h.issuing.resident h.free h.notAtomic h.canStart).trans
      (endStart_none (x := issueCtx s) h.findEntry ((startedEntry_instr ..).symm ▸ ha) _)
  obtain ⟨⟨pf, sl, ac, he⟩, -⟩ := startedEntry_spec s n i uop off
  obtain ⟨o, hx, ho⟩ := exec_of_addEntry h.exec h.issuing (.refl s) hb (by rw [he]; rfl)
  refine ⟨_, startedEntry s n i uop off, hx, ⟨ho, o, rfl⟩, ?_, ?_, ?_, ?_, ?_, ?_, hp⟩ <;> rw [he] <;> rfl
/-- A vector load with an acquire has been performed when it has issued (R144). -/
theorem Starts.acquires (h : Starts s n i uop off) {sc : Scope} (ha : acqOf i = some sc) (hu : isUniformLoad i = false) (hl : isLate i = false) :
    ∃ t e, Machine.exec i s = .next t ∧ Machine.findEntry t s.cur.h s.ids = some e ∧ e.instr = i ∧ e.mask = s.cur.mask ∧ e.ready = true := by
  have hi := startedEntry_instr s n i uop off
  have hm := startedEntry_mask s n i uop off
  have hb : loadBody i n uop off s = acquire (perform (addEntry s s.cur.h (startedEntry s n i uop off)) s.cur.h s.ids) s.cur.h sc :=
    (loadBody_window h.numbered h.issuing.resident h.free h.notAtomic h.canStart).trans
      (endStart_acquire (x := issueCtx s) h.findEntry (hi.symm ▸ ha) _)
  have hc : (startedEntry s n i uop off).covered := fun l hlm => by
    obtain ⟨-, hs⟩ := startedEntry_spec s n i uop off
    rw [hm] at hlm
    have hl : l ∈ accessLanes i s.cur.mask := by
      rw [accessLanes, if_neg (by rw [hu]; decide)]
      exact (mem_lanesOf _ l).2 hlm
    obtain ⟨htok, hacc⟩ := hs l hl
    cases ht : (capturedEntry s i uop off).tokened l with
    | true => exact .inl (htok ht).1
    | false => exact .inr (by rw [(hacc ht).2]; rfl)
  obtain ⟨e, he, hei, hem, hready⟩ := perform_load h.findEntry (hi.symm ▸ hu) (hi.symm ▸ h.notAtomic) (hi.symm ▸ hl) hc
  refine ⟨_, e, (h.exec.trans (issue_passes i s _ h.issuing.passes)), ?_, hei.trans hi, hem.trans hm, hready⟩
  rw [hb]
  exact Eq.trans (keepsEntry_settle s _ i s.cur.h (le_refl s.ids)) (((keepsGroups_acquire ..).findEntry ..).trans he)

end

/-! #### Vector loads (R226, R227) -/

/-- A vector load, by what the model's tables say of it. -/
structure VectorLoad (i : Instr) (b : BitVec 3) (o : Reg) (wd : Width) : Prop where
  exec : ∀ s, exec i s = issue i s (fun s => loadBody i b (vbaseOf s b) (some o) s)
  vector : isUniformLoad i = false
  notAtomic : isAtomic i = false
  notLate : isLate i = false
  bytes : loadBytes i = widthBytes wd
  align : alignOf i = widthBytes wd
theorem vectorLoad_of_mem {d : Reg} {b : BitVec 3} {o : Reg} {wd : Width} {f : LoadForm} {i : Instr}
    (hi : i ∈ [Instr.ld d b o wd f, .lds d b o wd f, .gath d b o wd f, .gaths d b o wd f]) : VectorLoad i b o wd := by
  simp only [List.mem_cons, List.not_mem_nil, or_false] at hi
  rcases hi with rfl | rfl | rfl | rfl <;> exact ⟨fun _ => rfl, rfl, rfl, rfl, rfl, rfl⟩

theorem offset_captured (s : State) (i : Instr) (uop : DWord) (o : Reg) {l : Nat} (hl : s.cur.mask.getLsbD l = true) :
    Tb.get VCell.zero (capturedEntry s i uop (some o)).slots (8 * l) = s.rv o l :=
  (Tb.get_foldl_put_lanes ..).trans (if_pos ((mem_lanesOf _ l).2 hl))
/-- The address of a lane, from the operands that its load captured (R223). -/
theorem entryVa_captured {b : BitVec 3} {o : Reg} {wd : Width} (h : VectorLoad i b o wd) {l : Nat} (hl : s.cur.mask.getLsbD l = true) :
    entryVa (capturedEntry s i (vbaseOf s b) (some o)) l = offVa s b (offScale i) (s.rv o l).data.toNat := by
  have hv : (vbaseOf s b).toNat = (s.cur.rd.b b.toNat).vbase.toNat := by
    rw [vbaseOf, BitVec.toNat_setWidth]
    exact Nat.mod_eq_of_lt ((s.cur.rd.b b.toNat).vbase.isLt.trans (by decide))
  have hu : isUniformLoad (capturedEntry s i (vbaseOf s b) (some o)).instr = false := h.vector
  rw [entryVa, if_neg (by rw [hu]; decide), offset_captured s i _ o hl]
  exact congrArg (· + _) hv
theorem tokened_captured {b : BitVec 3} {o : Reg} {wd : Width} (h : VectorLoad i b o wd) {l : Nat} (hl : s.cur.mask.getLsbD l = true) (uop : DWord) :
    (capturedEntry s i uop (some o)).tokened l = decide ((s.rv o l).eb = ebPoison) := by
  have hu : isUniformLoad (capturedEntry s i uop (some o)).instr = false := h.vector
  rw [Entry.tokened, hu, offset_captured s i uop o hl]
  rfl
theorem VectorLoad.starts {b : BitVec 3} {o : Reg} {wd : Width} (h : VectorLoad i b o wd) (hi : Issuing s i) (hn : s.Numbered) (hf : s.free_)
    (hw : ∀ l, s.cur.mask.getLsbD l = true → (s.rv o l).eb ≠ ebPoison →
      InWindow s b .read (widthBytes wd) (offVa s b (offScale i) (s.rv o l).data.toNat)) : Starts s b i (vbaseOf s b) (some o) := by
  refine ⟨(h.exec s).trans ?_, hi, hn, hf, h.notAtomic, fun l hl ht => ?_⟩
  · rw [issue_passes i s _ hi.passes, issue_passes i s _ hi.passes]
  · have hm : s.cur.mask.getLsbD l = true := (mem_lanesOf _ l).1 ((accessLanes_sublist i _).subset hl)
    rw [tokened_captured h hm] at ht
    rw [entryVa_captured h hm]
    exact h.align ▸ hw l hm (of_decide_eq_false ht)
/-- What an outstanding vector load holds of a lane (R226). -/
theorem VectorLoad.lane {b : BitVec 3} {o : Reg} {wd : Width} (h : VectorLoad i b o wd) {l : Nat} (hl : s.cur.mask.getLsbD l = true) :
    let e := startedEntry s b i (vbaseOf s b) (some o)
    if (s.rv o l).eb = ebPoison
    then e.performed.getLsbD l = true ∧ ∀ k, k < wordsOf wd → Tb.get VCell.zero e.slots (8 * l + k) = VCell.tok (s.rv o l).data
    else e.performed.getLsbD l = false ∧ Tb.get? e.acc l = some (windowAcc s b (offVa s b (offScale i) (s.rv o l).data.toNat)) := by
  intro e
  obtain ⟨-, hs⟩ := startedEntry_spec s b i (vbaseOf s b) (some o)
  have hmem : l ∈ accessLanes i s.cur.mask := by
    rw [accessLanes, if_neg (by rw [h.vector]; decide)]
    exact (mem_lanesOf _ l).2 hl
  obtain ⟨htok, hacc⟩ := hs l hmem
  rw [tokened_captured h hl] at htok hacc
  rw [offset_captured s i _ o hl] at htok
  rw [entryVa_captured h hl] at hacc
  split
  next hp =>
    obtain ⟨hperf, hk⟩ := htok (decide_eq_true hp)
    refine ⟨hperf, fun k hlt => hk k ?_⟩
    rw [wordsOf, ← h.bytes] at hlt
    exact hlt
  next hp =>
    obtain ⟨hperf, ha⟩ := hacc (decide_eq_false hp)
    exact ⟨hperf.trans (BitVec.getLsbD_zero), ha⟩

/-! #### Uniform loads (R231) -/

theorem accessLanes_uniform (hu : isUniformLoad i = true) (hm : s.cur.mask ≠ 0) : accessLanes i s.cur.mask = [s.lowLane] := by
  obtain ⟨l, hl⟩ := head?_lanesOf_of_ne_zero hm
  obtain ⟨ls, hls⟩ := List.head?_eq_some_iff.1 hl
  rw [accessLanes, if_pos hu, State.lowLane, hls]
  rfl
/-- A uniform load, by what the model's tables say of it. -/
structure UniformLoad (i : Instr) (b : BitVec 3) (j : BitVec 13) : Prop where
  exec : ∀ s, exec i s = issue i s (fun s => loadBody i b (muAddr s b j) none s)
  uniform : isUniformLoad i = true
  notAtomic : isAtomic i = false
  plain : acqOf i = none
  align : alignOf i = 8
theorem uniformLoad_of_mem {d : Reg} {b : BitVec 3} {j : BitVec 13} {i : Instr} (hi : i ∈ [Instr.ldu d b j, .ldus d b j]) : UniformLoad i b j := by
  simp only [List.mem_cons, List.not_mem_nil, or_false] at hi
  rcases hi with rfl | rfl <;> exact ⟨fun _ => rfl, rfl, rfl, rfl, rfl⟩
/-- A uniform load has one access for the issuing lanes. -/
theorem UniformLoad.defers {b : BitVec 3} {j : BitVec 13} (h : UniformLoad i b j) (hi : Issuing s i) (hn : s.Numbered) (hf : s.free_)
    (hm : s.cur.mask ≠ 0) (hw : InWindow s b .read 8 (muAddr s b j).toNat) :
    Defers i s (fun e => e.performed = 0 ∧ e.acc = [(s.lowLane, windowAcc s b (muAddr s b j).toNat)]) := by
  have htok : (capturedEntry s i (muAddr s b j) none).tokened s.lowLane = false := by
    have hu : isUniformLoad (capturedEntry s i (muAddr s b j) none).instr = true := h.uniform
    rw [Entry.tokened, hu]
    rfl
  have hva : entryVa (capturedEntry s i (muAddr s b j) none) s.lowLane = (muAddr s b j).toNat := if_pos h.uniform
  have hls := accessLanes_uniform (s := s) h.uniform hm
  have hst : Starts s b i (muAddr s b j) none := by
    refine ⟨(h.exec s).trans ?_, hi, hn, hf, h.notAtomic, fun l hl _ => ?_⟩
    · rw [issue_passes i s _ hi.passes, issue_passes i s _ hi.passes]
    · rw [hls, List.mem_singleton] at hl
      rw [hl, hva]
      exact h.align ▸ hw
  refine hst.defers h.plain ?_
  rw [startedEntry, hls, List.foldl_cons, List.foldl_nil, startedLane, if_neg (by rw [htok]; decide), hva]
  exact ⟨rfl, rfl⟩

end

/-- Settles O19: every lane starts through the window, which changes the load's own entry alone; an acquire then performs the entry. -/
theorem memoryLoadsIssue : Obligations.MemoryLoadsIssue := by
  refine ⟨?_, ?_⟩
  · intro d b o wd f i s hm hi hn hf _ off va hw
    have hv := vectorLoad_of_mem hm
    have hst := hv.starts hi hn hf hw
    refine ⟨fun ha => hst.defers ha fun l hl => hv.lane hl, fun ha => ?_⟩
    obtain ⟨sc, hsc⟩ := Option.ne_none_iff_exists'.1 ha
    exact hst.acquires hsc hv.vector hv.notLate
  · intro d b j i s hm hi hn hf _ hmask va hw
    exact (uniformLoad_of_mem hm).defers hi hn hf hmask hw

end Sys2Proof.Machine

namespace Sys2Proof.Machine

/-! ### An atomic of no lane, where no request entry is free (R139, R150) -/

section
variable {s : State} {i : Instr}

theorem lanesOf_zero : lanesOf 0 = [] :=
  List.eq_nil_iff_forall_not_mem.2 fun l hl => by simpa using (mem_lanesOf 0 l).1 hl
/-- No access passes every check of R228. -/
theorem checkJobs_nil (hd : (s.core s.cur.rd.core).dbg = []) (k : StoreKind) : checkJobs s i k [] = .inr (s, []) := by
  have hm : dataMatch s (decide (k.acc ≠ .write)) true [] = (0, 0) := dataMatch_of_no_dbg hd ..
  unfold checkJobs
  simp only [translateJobs, List.filter_nil, List.filterMap_nil, List.map_nil, hm, racing, ite_self]
  rfl
theorem doneLanes_of_not_rejected (hr : s.cur.rd.rejected = none) : doneLanes s i = 0 := by
  rw [doneLanes, heldBefore, hr]
  rfl
/-- A release that leaves no request entry free holds its instruction whole. -/
theorem releaseOnce_full {sc : Scope} (hr : s.cur.rd.rejected = none)
    (hfull : requestsFree (release s s.cur.h sc) (release s s.cur.h sc).cur.rd.core (release s s.cur.h sc).cur.h = 0) (k : State → State) :
    releaseOnce s i (some sc) k = holdWhole s i 0 := by
  rw [releaseOnce, if_neg (not_not.2 (doneLanes_of_not_rejected hr))]
  exact if_pos hfull
theorem holdWhole_stalled (s : State) (i : Instr) (done : Mask) : (holdWhole s i done).cur.stalled = true := by
  rw [holdWhole, bump_cur]
  rfl

/-- Such an atomic, where it releases, issues nothing: the issue is held. -/
theorem atomicBody_held {n : BitVec 3} {o : Reg} {ops : Nat → List Opd} {data : List Nat} {sc : Scope} (hf : s.free_) (hm : s.cur.mask = 0)
    (hrel : relScope (atomForm i) = some sc)
    (hfull : requestsFree (release s s.cur.h sc) (release s s.cur.h sc).cur.rd.core (release s s.cur.h sc).cur.h = 0) :
    atomicBody i n o ops data s = holdWhole s i 0 := by
  obtain ⟨hd, hr, -⟩ := hf
  unfold atomicBody
  dsimp only
  rw [hm, lanesOf_zero, List.map_nil]
  have hjobs : newJobs s i [] = [] := rfl
  rw [hjobs, checkJobs_nil hd]
  dsimp only
  rw [List.any_nil, if_neg Bool.false_ne_true, applyAtomic, hrel]
  exact releaseOnce_full hr hfull _
/-- An issue that is held stalls. -/
theorem exec_aadd_stalls {d : Reg} {b : BitVec 3} {o : Reg} {wd : Width} {f : AtomForm} {sc : Scope} (hi : Issuing s (.aadd d b o wd f)) (hf : s.free_)
    (hm : s.cur.mask = 0) (hrel : relScope f = some sc)
    (hfull : requestsFree (release s s.cur.h sc) (release s s.cur.h sc).cur.rd.core (release s s.cur.h sc).cur.h = 0) :
    ∃ t, exec (.aadd d b o wd f) s = .next t ∧ t.cur.stalled = true := by
  have hst := holdWhole_stalled s (.aadd d b o wd f) 0
  have hself : settle s (.aadd d b o wd f) (holdWhole s (.aadd d b o wd f) 0) = holdWhole s (.aadd d b o wd f) 0 := by
    rw [settle, hst, Bool.or_true, if_pos rfl]
  have hexec : exec (.aadd d b o wd f) s = issue (.aadd d b o wd f) s
      (fun s => atomicBody (.aadd d b o wd f) b o (fun l => [s.odata d wd l]) (atomData d wd) s) := rfl
  refine ⟨_, ?_, hst⟩
  rw [hexec, issue_passes _ _ _ hi.passes, atomicBody_held (i := .aadd d b o wd f) hf hm hrel hfull, hself]

end

/-- Sixteen results of a group, of 64 lanes each, whose accesses take every request entry of core 0. -/
def waitingGroup : Group :=
  { placedGroup false with
    outst := (List.range 16).map (fun k =>
      { newEntry State.reset .nop (fullMask 64) 0 [] ((List.range 64).map (fun l => (l, ⟨0x400000, 0x1000, 0x7E00, none⟩))) with id := k }) }
/-- Another group of the core issues a releasing atomic with no lane. -/
def fullState : State :=
  { State.reset with
    ids := 16
    work := { WorkSt.reset with groups := [(0, placedGroup false), (1, waitingGroup)], launches := [placedLaunch], teams := [placedTeam] }
    cur := { Cur.none with mask := 0, rd := placedGroup false } }

theorem fullState_issuing : Issuing fullState (.aadd 4 1 2 .w (.rel .team)) := ⟨by decide +kernel, by decide +kernel, by decide +kernel⟩
theorem fullState_numbered : fullState.Numbered := ⟨by decide +kernel, by decide +kernel⟩
theorem fullState_free : fullState.free_ := ⟨by decide +kernel, by decide +kernel, by decide +kernel⟩
theorem fullState_unchecked : unchecked fullState 1 := by unfold unchecked; decide +kernel
theorem fullState_no_lane (l : Nat) : fullState.cur.mask.getLsbD l ≠ true := by
  have hm : fullState.cur.mask = 0 := rfl
  simp [hm]
theorem fullState_runs : (release fullState fullState.cur.h .team).cur.stalled = false := by decide +kernel
theorem fullState_release : requestsFree (release fullState 0 .team) (release fullState 0 .team).cur.rd.core (release fullState 0 .team).cur.h = 0 := by
  decide +kernel

/-- Refutes O26: nothing asks for an issuing lane. A releasing atomic of no lane meets every hypothesis where no request entry is free; its
release finds none, so the issue is held and stalls, where the statement has the atomic outstanding. -/
theorem not_atomicInstructionsIssue : ¬ Obligations.AtomicInstructionsIssue := by
  intro h
  obtain ⟨hatomic, -⟩ := h
  obtain ⟨hplain, -⟩ := hatomic 4 1 2 .w (.rel .team) _ fullState List.mem_cons_self fullState_issuing fullState_numbered fullState_free
    fullState_unchecked (fun l hl => absurd hl (fullState_no_lane l))
  obtain ⟨g', e, hx, -⟩ := hplain rfl
  obtain ⟨t, ht, hst⟩ := exec_aadd_stalls fullState_issuing fullState_free rfl rfl fullState_release
  have hcur : t.cur = (release fullState fullState.cur.h .team).cur := by
    rw [Host.Outcome.next.inj (ht.symm.trans hx)]
    rfl
  rw [hcur, fullState_runs] at hst
  exact Bool.noConfusion hst

end Sys2Proof.Machine

namespace Sys2Proof.Machine

/-! ### Changes that leave the task table alone

Translation and reports of errors leave all of the work alone; counts of a task change the views of its team. -/

section
variable {s : State}

theorem foldl_fst_work {α β : Type} {f : State × β → α → State × β} (hf : ∀ r x, (f r x).1.work = r.1.work) (r : State × β) (xs : List α) :
    (xs.foldl f r).1.work = r.1.work :=
  List.foldlRecOn xs f (motive := fun q => q.1.work = r.1.work) rfl (fun q hq x _ => (hf q x).trans hq)

/-! #### Translation (R353 to R356) -/

theorem walkView_work (s : State) (core tag va : Nat) : (walkView s core tag va).1.work = s.work :=
  by
  unfold walkView
  refine foldl_fst_work (fun r n => ?_) (s, s.mem) _
  rfl
theorem walkPick_work (s : State) (m : MemSt) (tag va : Nat) : (walkPick s m tag va).1.work = s.work := by
  unfold walkPick
  split
  · dsimp only
    split <;> rfl
  · rfl
theorem postMalformed_work (s : State) (x : Ctx) (wr : Bool) (va level e : Nat) : (postMalformed s x wr va level e).work = s.work := by
  unfold postMalformed
  split <;> rfl
theorem walkFresh_work (s : State) (x : Ctx) (va : Nat) (k : AccKind) : (walkFresh s x va k).1.work = s.work := by
  have hpick (v : State × MemSt) : (walkPick (touch v.1 (walkBanks v.2 x.core x.tag va)) v.2 x.tag va).1.work = v.1.work := by
    rw [walkPick_work, touch_work]
  have hwalk := (hpick (walkView s x.core x.tag va)).trans (walkView_work s x.core x.tag va)
  unfold walkFresh
  dsimp only
  split
  next heq => rw [heq] at hwalk; exact (postMalformed_work ..).trans hwalk
  next heq => rw [heq] at hwalk; exact hwalk
  next heq =>
    rw [heq] at hwalk
    split <;> exact hwalk
theorem ite_fst_work {α : Type} {c : Prop} [Decidable c] {a b : State × α} {w : WorkSt} (ha : a.1.work = w) (hb : b.1.work = w) :
    (if c then a else b).1.work = w := by split; exacts [ha, hb]
theorem choose_unless_work (s : State) (b : Bool) : (if b = true then (true, s) else s.choose).2.work = s.work := by split <;> rfl
theorem translate_work (s : State) (x : Ctx) (va : Nat) (k : AccKind) : (translate s x va k).1.work = s.work := by
  unfold translate
  refine ite_fst_work rfl ?_
  split
  · exact walkFresh_work ..
  next t0 rest _ =>
    dsimp only
    have hpick : (if rest = [] then (0, s) else s.pick (rest.length + 1)).2.work = s.work := by split <;> rfl
    generalize (if rest = [] then (0, s) else s.pick (rest.length + 1)) = p at hpick ⊢
    refine Eq.trans (ite_fst_work ?_ (ite_fst_work (ite_fst_work ?_ ?_) ?_)) hpick
    · exact (walkFresh_work ..).trans (choose_unless_work ..)
    · exact (touch_work ..).trans (choose_unless_work ..)
    · exact (walkFresh_work ..).trans (choose_unless_work ..)
    · exact choose_unless_work ..

/-! #### Reports of errors (R431) -/

theorem postJournal_work (s : State) (kind func status : Nat) (body : List Byte) : (postJournal s kind func status body).work = s.work := by
  unfold postJournal
  dsimp only
  split
  · rfl
  · split <;> rfl
theorem reportErrors_work (s : State) (x : Accessor) (wr : Bool) (pc : PC) (told : List Nat) (as : List LaneAcc) :
    (reportErrors s x wr pc told as).1.work = s.work := by
  unfold reportErrors
  refine foldl_fst_work (fun r a => ?_) (s, told) as
  split
  · exact ite_fst_work (postJournal_work r.1 6 _ _ _) rfl
  · rfl
/-- Where no access meets an error, none is reported. -/
theorem reportErrors_none {as : List LaneAcc} (h : ∀ a ∈ as, s.mem.err a.pa = none) (x : Accessor) (wr : Bool) (pc : PC) (told : List Nat) :
    reportErrors s x wr pc told as = (s, told) :=
  List.foldlRecOn as _ (motive := fun r => r = (s, told)) rfl fun r hr a ha => by rw [hr]; dsimp only; rw [h a ha]

/-! #### Counts of a task (R424, R425) -/

theorem view_tasks (s : State) (core ev n k t : Nat) : (s.view core ev n k t).work.tasks = s.work.tasks := by
  unfold State.view
  dsimp only
  split <;> rfl
theorem count_tasks (s : State) (core f ev n : Nat) (team : Option (Nat × Nat)) : (s.count core f ev n team).work.tasks = s.work.tasks := by
  unfold State.count
  dsimp only
  split
  · rfl
  · split
    · rfl
    · exact view_tasks ..
theorem taskCount_tasks (s : State) (t : Task) (ev n : Nat) : (taskCount s t ev n).work.tasks = s.work.tasks := by
  unfold taskCount
  split
  · rfl
  · exact count_tasks ..
theorem meetErrors_tasks (s : State) (t : Task) (wr : Bool) (met : List Nat) (as : List LaneAcc) :
    (meetErrors s t wr met as).1.work.tasks = s.work.tasks := by
  refine (congrArg WorkSt.tasks (reportErrors_work ..)).trans ?_
  split
  · rfl
  · exact taskCount_tasks ..
theorem meetErrors_none {as : List LaneAcc} (h : ∀ a ∈ as, s.mem.err a.pa = none) (t : Task) (wr : Bool) (met : List Nat) :
    meetErrors s t wr met as = (s, met) := by
  have hn : (as.filter (fun a => (s.mem.err a.pa).isSome)).length = 0 := by
    rw [List.length_eq_zero_iff, List.filter_eq_nil_iff]
    intro a ha
    rw [h a ha]
    exact Bool.false_ne_true
  have hs : (if wr then s else taskCount s t 0x13 0) = s := by split <;> rfl
  unfold meetErrors
  dsimp only
  rw [hn, hs, reportErrors_none h]

/-! #### Reads of a copy (R259, R365) -/

theorem acceptRead_tasks (s : State) (t : Task) (a : Nat) : (acceptRead s t a).1.work.tasks = s.work.tasks := by
  have h := congrArg WorkSt.tasks (translate_work s (taskCtx t) a .read)
  unfold acceptRead
  split
  next heq => rw [heq] at h; exact h
  next heq => rw [heq] at h; exact h
  next heq => rw [heq] at h; exact h
theorem readAccepted_tasks (s : State) (t : Task) (p : LaneAcc) : (readAccepted s t p).1.work.tasks = s.work.tasks := by
  unfold readAccepted
  split
  · exact (taskCount_tasks ..).trans (taskCount_tasks ..)
  · rfl
theorem copySector_tasks (s : State) (t : Task) (a c : BitVec 128) (md : CopyMode) (k : Nat × Nat) (x : SecIn) :
    (copySector s t a c md k x).1.work.tasks = s.work.tasks := by
  have h := congrArg WorkSt.tasks (translate_work s (taskCtx t) (rowAddr c k.1 + 32 * k.2) .write)
  unfold copySector
  dsimp only
  split
  · rfl
  split
  · rfl
  split
  next heq => rw [heq] at h; exact h
  next heq => rw [heq] at h; exact h
  next heq =>
    rw [heq] at h
    split
    · exact h
    · split <;> exact h

end

end Sys2Proof.Machine

namespace Sys2Proof.Machine

/-! ### A task starts (R251, R257) -/

section
variable {s u v : State} {t : Task} {tm : Team}

/-- Banks that all serve is reached (R140). -/
theorem reachBanks_fst_of_active {bs : List Nat} (h : ∀ b ∈ bs, (bankSt s b).1 = .active) : (reachBanks s bs).1 = true :=
  List.all_eq_true.2 fun b hb => decide_eq_true (h b hb)

/-- A task that is not yet started, and that nothing keeps from starting but the banks that it reads. -/
structure Startable (s : State) (t : Task) (tm : Team) : Prop where
  find : s.work.tasks.find? (fun x => decide (x.id = t.id)) = some t
  out : t.out = none
  power : (s.die (dieOf t.core)).off = false
  first : ∀ x ∈ s.work.tasks, taskWaits t x = false
  bank : bankTaken s t = false
  team : s.team? t.launch t.team = some tm

theorem Startable.free (h : Startable s t tm) :
    ¬ (t.out.isSome || (s.die (dieOf t.core)).off || s.work.tasks.any (taskWaits t) || bankTaken s t) = true := by
  have hfirst : s.work.tasks.any (taskWaits t) = false := List.any_eq_false.2 fun x hx => by rw [h.first x hx]; exact Bool.false_ne_true
  rw [h.out, h.power, hfirst, h.bank]
  exact Bool.false_ne_true
/-- A task that has to wait, or whose die has no power, does not start. -/
theorem startTask_waits (hfind : s.work.tasks.find? (fun x => decide (x.id = t.id)) = some t)
    (h : (s.die (dieOf t.core)).off = true ∨ bankTaken s t = true ∨ ∃ x ∈ s.work.tasks, taskWaits t x = true) : startTask s t.id = s := by
  have hc : (t.out.isSome || (s.die (dieOf t.core)).off || s.work.tasks.any (taskWaits t) || bankTaken s t) = true := by
    rw [Bool.or_eq_true, Bool.or_eq_true, Bool.or_eq_true, List.any_eq_true]
    rcases h with h | h | h
    · exact .inl (.inl (.inr h))
    · exact .inr h
    · exact .inl (.inr h)
  unfold startTask
  rw [hfind]
  exact if_pos hc
/-- Nor does one of which some bank does not serve. -/
theorem Startable.start_banks (h : Startable s t tm) (hr : reachBanks s (tileBanks tm t.rset) = (false, u)) : startTask s t.id = u := by
  unfold startTask
  rw [h.find]
  dsimp only
  rw [if_neg h.free, h.team]
  dsimp only
  rw [hr]
/-- The results of a task are kept in the table as it starts. -/
def recordOut (s : State) (t : Task) (o : TaskOut) : State :=
  setTasks s (fun l => l.map (fun x => if x.id = t.id then { x with out := some o } else x))
theorem recordOut_core (s : State) (t : Task) (o : TaskOut) (c : Nat) : (recordOut s t o).core c = s.core c := rfl
theorem Startable.start (h : Startable s t tm) (hr : reachBanks s (tileBanks tm t.rset) = (true, v)) (hg : isTgive t.op = false) :
    let m := meetErrors v t false [] (pondReads t tm)
    let r := runTask m.1 t tm m.2
    startTask s t.id = recordOut r.1 t r.2 := by
  unfold startTask
  rw [h.find]
  dsimp only
  rw [if_neg h.free, h.team]
  dsimp only
  rw [hr]
  dsimp only
  split
  next heq => rw [heq] at hg; exact Bool.noConfusion hg
  next => rfl
/-- Only a residency waits for a bank, and not where it holds it (R258). -/
theorem bankTaken_of_not_tgive (hg : isTgive t.op = false) : bankTaken s t = false := by rw [bankTaken, awaitsBank, hg]; rfl
theorem bankTaken_of_own {b : ResBank} (hb : Tb.get? (s.core t.core).banks t.half = some b) (ht : b.task = t.id) : bankTaken s t = false := by
  rw [bankTaken, awaitsBank, hb]
  simp [ht]
/-- A residency that meets no error loads its bank (R257). -/
theorem Startable.start_tgive {d : BitVec 128} {b : ResBank} (h : Startable s t tm) (hr : reachBanks s (tileBanks tm t.rset) = (true, v))
    (hop : t.op = .tgive d) (hb : Tb.get? (v.core t.core).banks t.half = some b) (herr : ∀ x ∈ pondReads t tm, v.mem.err x.pa = none) :
    ∃ o, startTask s t.id = recordOut
      (v.modCore t.core (fun c => { c with banks := Tb.put c.banks t.half { b with cells := loadBank v.mem tm d } })) t o := by
  have hrun : ∃ o, runTask v t tm [] = (v, o) ∧ o.bank = some (loadBank v.mem tm d) := by
    unfold runTask
    rw [hop]
    exact ⟨_, rfl, rfl⟩
  obtain ⟨o, hrun, hbank⟩ := hrun
  refine ⟨o, ?_⟩
  unfold startTask
  rw [h.find]
  dsimp only
  rw [if_neg h.free, h.team]
  dsimp only
  rw [hr]
  dsimp only
  rw [meetErrors_none herr]
  dsimp only
  rw [hrun, hop]
  dsimp only
  rw [hbank]
  have hcore : ∀ x : Core, x = v.core t.core → 
      { x with banks := Tb.put x.banks t.half { (Tb.get? x.banks t.half).getD ⟨t.launch, t.team, t.id, d, [], false⟩ with cells := loadBank v.mem tm d } } =
      { x with banks := Tb.put x.banks t.half { b with cells := loadBank v.mem tm d } } := fun x hx => by rw [hx, hb]; rfl
  exact congrArg (fun c => recordOut { v with cores := Tb.set Core.reset v.cores t.core c } t o) (hcore _ rfl)

theorem recordOut_isSome (l : List Task) (id : Nat) (o : TaskOut) :
    (l.map (fun x => if x.id = id then { x with out := some o } else x)).map (fun x => (x.id, x.out.isSome)) =
      l.map (fun x => (x.id, x.out.isSome || decide (x.id = id))) := by
  rw [List.map_map]
  refine List.map_congr_left fun x _ => ?_
  by_cases hx : x.id = id <;> simp [hx]

theorem starts_tgive {d : BitVec 128} {b : ResBank} (h : Startable s t tm) (hop : t.op = .tgive d)
    (hb : Tb.get? (s.core t.core).banks t.half = some b) (hact : ∀ k ∈ tileBanks tm t.rset, (bankSt s k).1 = .active)
    (herr : ∀ x ∈ pondReads t tm, s.mem.err x.pa = none) :
    ∃ u, exec (.taskStart t.id) s = .next u ∧ u.mem = s.mem ∧
      Tb.get? (u.core t.core).banks t.half = some { b with cells := loadBank s.mem tm d } ∧
      u.work.tasks.map (fun x => (x.id, x.out.isSome)) = s.work.tasks.map (fun x => (x.id, x.out.isSome || decide (x.id = t.id))) := by
  obtain ⟨bs, hbs⟩ := reachBanks_eq s (tileBanks tm t.rset)
  have hr : reachBanks s (tileBanks tm t.rset) = (true, { s with banks := bs }) := Prod.ext (reachBanks_fst_of_active hact) hbs
  obtain ⟨o, hs⟩ := h.start_tgive hr hop hb herr
  refine ⟨_, congrArg Host.Outcome.next hs, rfl, ?_, recordOut_isSome ..⟩
  rw [recordOut_core, modCore_core, if_pos rfl, Tb.get?_put, if_pos rfl]

end

end Sys2Proof.Machine

namespace Sys2Proof.Machine

/-! ### A task finishes (R80, R253, R257) -/

/-- `t` is `s` but for counts, charge, first-level copies, and the cells of banks. -/
structure Accounts (s t : State) : Prop where
  mem : t.mem = s.mem
  groups : t.work.groups = s.work.groups
  tasks : t.work.tasks = s.work.tasks
  banks : ∀ c k, (Tb.get? (t.core c).banks k).map ResBank.task = (Tb.get? (s.core c).banks k).map ResBank.task

section
variable {s u v : State} {t : Task} {tm : Team} {o : TaskOut}

theorem Accounts.refl (s : State) : Accounts s s := ⟨rfl, rfl, rfl, fun _ _ => rfl⟩
theorem Accounts.trans (h : Accounts s u) (h' : Accounts u v) : Accounts s v :=
  ⟨h'.mem.trans h.mem, h'.groups.trans h.groups, h'.tasks.trans h.tasks, fun c k => (h'.banks c k).trans (h.banks c k)⟩
theorem Accounts.foldl {α : Type} {f : State → α → State} (hf : ∀ s x, Accounts s (f s x)) (s : State) (xs : List α) :
    Accounts s (xs.foldl f s) :=
  List.foldlRecOn xs f (motive := fun u => Accounts s u) (.refl s) fun u hu x _ => hu.trans (hf u x)
theorem Accounts.modG (h : Accounts s u) (k : Nat) (f : Group → Group) : Accounts (s.modG k f) (u.modG k f) :=
  ⟨h.mem, congrArg (fun g => Tb.modify g k f) h.groups, h.tasks, h.banks⟩
theorem accounts_modCore (s : State) (c : Nat) {f : Core → Core}
    (hf : ∀ k, (Tb.get? (f (s.core c)).banks k).map ResBank.task = (Tb.get? (s.core c).banks k).map ResBank.task) : Accounts s (s.modCore c f) := by
  refine ⟨rfl, rfl, rfl, fun x k => ?_⟩
  rw [modCore_core]
  split
  next hx => rw [hf, hx]
  next => rfl
theorem accounts_view (s : State) (core ev n k t : Nat) : Accounts s (s.view core ev n k t) := by
  unfold State.view
  dsimp only
  split
  · exact .refl s
  · exact ⟨rfl, rfl, rfl, fun _ _ => rfl⟩
theorem accounts_count (s : State) (core f ev n : Nat) (team : Option (Nat × Nat)) : Accounts s (s.count core f ev n team) := by
  unfold State.count
  dsimp only
  split
  · exact .refl s
  · split
    · exact accounts_modCore _ _ fun _ => rfl
    · exact (accounts_modCore _ _ fun _ => rfl).trans (accounts_view ..)
theorem accounts_taskCount (s : State) (t : Task) (ev n : Nat) : Accounts s (taskCount s t ev n) := by
  unfold taskCount
  split
  · exact .refl s
  · exact accounts_count ..
theorem accounts_charge (s : State) (core f q core' f' q' k t : Nat) : Accounts s (countCharge (addCharge s core f q) core' f' q' k t) := by
  refine Accounts.trans (u := addCharge s core f q) ⟨rfl, rfl, rfl, fun _ _ => rfl⟩ ?_
  unfold countCharge
  exact (accounts_modCore _ _ fun _ => rfl).trans (accounts_count ..)
theorem accounts_dropTeamL1 (s : State) (tm : Team) (ks : List Nat) : Accounts s (dropTeamL1 s tm ks) :=
  .foldl (fun s c => accounts_modCore s c fun _ => rfl) s _
theorem accounts_setBank (s : State) (core half : Nat) (cells : List (Nat × VCell)) :
    Accounts s (setBank s core half (fun b => { b with cells := cells })) := by
  refine accounts_modCore s core fun k => ?_
  dsimp only
  rw [Tb.get?_modify]
  split
  next hk =>
    rw [hk, Option.map_map]
    rfl
  next => rfl

/-- The task's writes and race records enter memory, and its flags and failure its group. -/
def taskWritten (s : State) (t : Task) (o : TaskOut) : State :=
  (s.upMem (fun m => o.races.foldl (fun m pa => raceNote m pa (taskWriter s t) none false none) (o.ws.foldl applySector m))).modG t.h (taskToGroup t o)
/-- A finished task leaves the table, a TTAKE with its TGIVE, of which the bank is free then (R257). -/
def taskGone (u : State) (t : Task) : State :=
  if isTtake t.op then
    setTasks (u.modCore t.core (fun c => { c with banks := Tb.erase c.banks t.half })) (fun l => l.filter (fun x =>
      decide (x.id ≠ t.id) && decide (x.id ≠ ((Tb.get? (u.core t.core).banks t.half).map (·.task)).getD t.id)))
  else setTasks u (fun l => l.filter (fun x => decide (x.id ≠ t.id)))
theorem endTask_spec (s : State) (t : Task) (tm : Team) (o : TaskOut) :
    ∃ u, Accounts (taskWritten (finishOut s t tm o).1 t (finishOut s t tm o).2) u ∧ endTask s t tm o = taskGone u t := by
  unfold endTask
  split
  next r o' heq =>
  rw [heq]
  extract_lets w s1 s2 s3 s4 q s5 s6
  have h3 : Accounts (taskWritten r t o') s3 := (accounts_dropTeamL1 s1 tm _).modG t.h (taskToGroup t o')
  have h4 : Accounts s3 s4 := .foldl (fun s x => accounts_taskCount s t _ _) s3 _
  have h5 : Accounts s4 s5 := by
    unfold s5
    split
    · exact .refl s4
    · exact accounts_charge ..
  have h6 : Accounts s5 s6 := by
    unfold s6
    split
    · exact accounts_setBank ..
    · exact .refl s5
  refine ⟨s6, h3.trans (h4.trans (h5.trans h6)), ?_⟩
  unfold taskGone
  split
  next hop => rw [hop]; exact (if_pos rfl).symm
  next hop =>
    have ht : isTtake t.op = false := by
      unfold isTtake
      split
      next c hc => exact absurd hc (hop c)
      next => rfl
    rw [ht]
    exact (if_neg Bool.false_ne_true).symm

theorem taskWritten_mem (s : State) (t : Task) (h : o.races = []) : (taskWritten s t o).mem = o.ws.foldl applySector s.mem := by
  refine (modG_mem ..).trans ((upMem_mem ..).trans ?_)
  rw [h, List.foldl_nil]
theorem taskWritten_grp (s : State) (t : Task) (o : TaskOut) (hr : (Tb.get? s.work.groups t.h).isSome = true) :
    (taskWritten s t o).grp t.h = taskToGroup t o (s.grp t.h) := (modG_grp _ t.h t.h _ hr).trans (if_pos rfl)
/-- Flags of a finished task reach its group unless that has retired; so does a failure, with its record (R80, R138, R253). -/
structure ToGroup (t : Task) (o : TaskOut) (g g' : Group) : Prop where
  sp : g'.sp = if g.retired then g.sp else { g.sp with flags := g.sp.flags ||| o.flags }
  regs : g'.r = g.r
  kept : o.fail = none → g'.ctl.fails = g.ctl.fails
  failed : ∀ f b, o.fail = some f → t.batch = some b → g'.ctl.fails = addFail ⟨b, b, f.1, f.2.1, f.2.2, b, t.id⟩ g.ctl.fails
theorem taskToGroup_spec {g : Group} (hl : g.launch = t.launch) (ht : g.team = t.team) (hg : g.gid = t.gid) :
    ToGroup t o g (taskToGroup t o g) := by
  have hown : ¬ (g.launch ≠ t.launch ∨ g.team ≠ t.team ∨ g.gid ≠ t.gid) := by
    rintro (h | h | h)
    exacts [h hl, h ht, h hg]
  have hflags : ToGroup t { o with fail := none } g (if g.retired then g else g.orFlags o.flags) := by
    split
    next hr => exact ⟨(if_pos hr).symm, rfl, fun _ => rfl, fun _ _ hf => nomatch hf⟩
    next hr => exact ⟨(if_neg hr).symm, rfl, fun _ => rfl, fun _ _ hf => nomatch hf⟩
  obtain ⟨hsp, hregs, hkept, -⟩ := hflags
  have hfails := hkept rfl
  unfold taskToGroup
  rw [if_neg hown]
  dsimp only
  generalize (if g.retired then g else g.orFlags o.flags) = x at hsp hregs hfails ⊢
  split
  next f b hf hb =>
    refine ⟨hsp, hregs, fun hn => absurd (hf.symm.trans hn) (Option.some_ne_none f), fun f' b' hf' hb' => ?_⟩
    obtain rfl := Option.some.inj (hf.symm.trans hf')
    obtain rfl := Option.some.inj (hb.symm.trans hb')
    exact congrArg (addFail _) hfails
  next hno => exact ⟨hsp, hregs, fun _ => hfails, fun f b hf hb => absurd hb (hno f b hf)⟩

theorem setTasks_core (s : State) (f : List Task → List Task) (c : Nat) : (setTasks s f).core c = s.core c := rfl
theorem taskGone_mem (u : State) (t : Task) : (taskGone u t).mem = u.mem := by unfold taskGone; split <;> rfl
theorem taskGone_grp (u : State) (t : Task) (h : Nat) : (taskGone u t).grp h = u.grp h := by unfold taskGone; split <;> rfl
theorem taskGone_tasks (u : State) (ht : isTtake t.op = false) : (taskGone u t).work.tasks = u.work.tasks.filter (fun x => decide (x.id ≠ t.id)) := by
  rw [taskGone, if_neg (by rw [ht]; exact Bool.false_ne_true)]
  rfl
theorem taskGone_ttake {b : ResBank} (ht : isTtake t.op = true)
    (hb : (Tb.get? (u.core t.core).banks t.half).map ResBank.task = some b.task) :
    Tb.get? ((taskGone u t).core t.core).banks t.half = none ∧
      (taskGone u t).work.tasks = u.work.tasks.filter (fun x => decide (x.id ≠ t.id) && decide (x.id ≠ b.task)) := by
  rw [taskGone, if_pos ht, hb]
  refine ⟨?_, rfl⟩
  rw [setTasks_core, modCore_core, if_pos rfl, Tb.get?_erase, if_pos rfl]

/-- A task that has started, and that nothing keeps from making progress but the banks that it writes. -/
structure Finishable (s : State) (t : Task) (tm : Team) (o : TaskOut) : Prop where
  find : s.work.tasks.find? (fun x => decide (x.id = t.id)) = some t
  out : t.out = some o
  team : s.team? t.launch t.team = some tm
  power : (s.die (dieOf t.core)).off = false
  notTgive : isTgive t.op = false
  first : ∀ x ∈ s.work.tasks, finishWaits t x = false

theorem Finishable.free (h : Finishable s t tm o) :
    ¬ (isTgive t.op || (s.die (dieOf t.core)).off || s.work.tasks.any (finishWaits t)) = true := by
  have hfirst : s.work.tasks.any (finishWaits t) = false := List.any_eq_false.2 fun x hx => by rw [h.first x hx]; exact Bool.false_ne_true
  rw [h.notTgive, h.power, hfirst]
  exact Bool.false_ne_true
/-- With nothing left to request or to read, it ends. -/
theorem Finishable.finish (h : Finishable s t tm o) (hlate : o.late = []) (hreqs : o.reqs = [])
    (hr : reachBanks s (finishBanks t tm o) = (true, v)) : finishTask s t.id = endTask v t tm o := by
  unfold finishTask
  rw [h.find]
  dsimp only
  rw [h.out, h.team]
  dsimp only
  rw [if_neg h.free, hlate, hreqs, hr]
  split
  next hm => exact absurd hm (by decide)
  next => rfl
/-- A copy with more to do moves on. -/
theorem Finishable.move {a c : BitVec 128} {md : CopyMode} (h : Finishable s t tm o) (hop : t.op = .tcopy a c md) (hmore : o.late ≠ [] ∨ o.reqs ≠ []) :
    finishTask s t.id = recordOut (copyMove s t tm a c md o).1 t (copyMove s t tm a c md o).2 := by
  have hm : (decide (o.late = []) && decide (o.reqs = [])) = false := by
    rw [Bool.and_eq_false_iff, decide_eq_false_iff_not, decide_eq_false_iff_not]
    exact hmore
  unfold finishTask
  rw [h.find]
  dsimp only
  rw [h.out, h.team]
  dsimp only
  rw [if_neg h.free, hop, hm]
  rfl

/-- What a finishing task leaves, whose writes the race detector does not check: its sectors in memory, its flags and failure with its group,
the table without it (R80, R253, R257). -/
theorem Finishable.finishes (h : Finishable s t tm o) (hlate : o.late = []) (hreqs : o.reqs = [])
    (hr : reachBanks s (finishBanks t tm o) = (true, v)) :
    let r := finishOut v t tm o
    let g := r.1.grp t.h
    r.2.races = [] → ∃ u, exec (.taskFinish t.id) s = .next u ∧ u.mem = r.2.ws.foldl applySector r.1.mem ∧
      (isTtake t.op = false → u.work.tasks = r.1.work.tasks.filter (fun x => decide (x.id ≠ t.id))) ∧
      (∀ b, isTtake t.op = true → Tb.get? (r.1.core t.core).banks t.half = some b → Tb.get? (u.core t.core).banks t.half = none ∧
        u.work.tasks = r.1.work.tasks.filter (fun x => decide (x.id ≠ t.id) && decide (x.id ≠ b.task))) ∧
      ((Tb.get? r.1.work.groups t.h).isSome = true → g.launch = t.launch → g.team = t.team → g.gid = t.gid → ToGroup t r.2 g (u.grp t.h)) := by
  intro r g hraces
  obtain ⟨u, ⟨hmem, hgroups, htasks, hbanks⟩, hend⟩ := endTask_spec v t tm o
  refine ⟨taskGone u t, congrArg Host.Outcome.next ((h.finish hlate hreqs hr).trans hend), ?_, fun ht => ?_, fun b ht hb => ?_, fun hres hl hteam hgid => ?_⟩
  · rw [taskGone_mem, hmem, taskWritten_mem _ _ hraces]
  · rw [taskGone_tasks u ht, htasks]
    rfl
  · have hbank : (Tb.get? (u.core t.core).banks t.half).map ResBank.task = some b.task :=
      (hbanks t.core t.half).trans (congrArg (Option.map ResBank.task) hb)
    have hgone := taskGone_ttake ht hbank
    rw [htasks] at hgone
    exact hgone
  · have hgrp : (taskGone u t).grp t.h = taskToGroup t r.2 g := by
      rw [taskGone_grp, State.grp, hgroups]
      exact taskWritten_grp r.1 t r.2 hres
    rw [hgrp]
    exact taskToGroup_spec hl hteam hgid

end

end Sys2Proof.Machine

namespace Sys2Proof.Machine

/-! ### Copies (R251, R252, R259, R260, R409) -/

section
variable {s : State} {t : Task} {tm : Team} {o : TaskOut} {a c : BitVec 128} {md : CopyMode}

/-! #### The start -/

/-- Sectors in the pond are read at once, with no effect but reports of errors. -/
theorem readEach_pond (t : Task) (tm : Team) (s : State) (as : List Nat) :
    readEach t tm false s as = (s, as.map (pondSector s.mem tm), as.map (pondAcc tm)) := by
  induction as with
  | nil => rfl
  | cons a as ih =>
    unfold readEach readSector
    dsimp only
    rw [if_pos (by decide)]
    dsimp only
    rw [ih]
    rfl
theorem runTask_copy_from_memory (hop : t.op = .tcopy a c md) (ha : dKind a = true) (met : List Nat) :
    let o := (runTask s t tm met).2
    o.ws = [] ∧ o.reqs = [] ∧ o.copy = [] ∧ o.late.map (·.1) = copySecs a c := by
  unfold runTask
  rw [hop]
  dsimp only
  rw [if_pos ha]
  refine ⟨rfl, rfl, rfl, ?_⟩
  dsimp only
  rw [List.map_map]
  exact List.map_id _
/-- A source in the pond without errors is read whole (R251). -/
theorem runTask_copy_from_pond (hop : t.op = .tcopy a c md) (ha : dKind a = false)
    (herr : ∀ k ∈ copySecs a c, s.mem.err (pondAcc tm (srcAt a k)).pa = none) (met : List Nat) :
    let o := (runTask s t tm met).2
    let q := fun (k : Nat × Nat) => pondSector s.mem tm (srcAt a k)
    o.reqs = [] ∧ o.copy = [] ∧
      (dKind c = true → o.ws = [] ∧ o.late = (copySecs a c).map (fun k => (k, ((q k).v, (q k).eb, (q k).tok)))) ∧
      (dKind c = false → o.late = [] ∧ o.ws = (copySecs a c).flatMap (fun k => copyWrite s.mem tm a c k (q k))) := by
  have hnone : ∀ x ∈ ((copySecs a c).map (srcAt a)).map (pondAcc tm), s.mem.err x.pa = none := by
    intro x hx
    obtain ⟨n, hn, rfl⟩ := List.mem_map.1 hx
    obtain ⟨k, hk, rfl⟩ := List.mem_map.1 hn
    exact herr k hk
  have hread : readSectors t tm false met s ((copySecs a c).map (srcAt a)) =
      (s, ((copySecs a c).map (srcAt a)).map (pondSector s.mem tm), met, ((copySecs a c).map (srcAt a)).map (pondAcc tm)) := by
    unfold readSectors
    rw [readEach_pond]
    dsimp only
    rw [meetErrors_none hnone]
  have hzip : (copySecs a c).zip (((copySecs a c).map (srcAt a)).map (pondSector s.mem tm)) =
      (copySecs a c).map (fun k => (k, pondSector s.mem tm (srcAt a k))) := by
    rw [List.map_map]
    exact List.map_prod_left_eq_zip.symm
  unfold runTask
  rw [hop]
  dsimp only
  rw [if_neg (by rw [ha]; exact Bool.false_ne_true), hread]
  dsimp only
  rw [hzip]
  cases hc : dKind c with
  | true =>
    rw [if_pos rfl, List.map_map]
    exact ⟨rfl, rfl, fun _ => ⟨rfl, rfl⟩, fun h => Bool.noConfusion h⟩
  | false =>
    rw [if_neg Bool.false_ne_true, List.flatMap_map]
    exact ⟨rfl, rfl, fun h => Bool.noConfusion h, fun _ => ⟨rfl, rfl⟩⟩

/-! #### The end -/

/-- A task that is no copy writes what it computed. -/
theorem finishOut_of_no_copy (h : ∀ a c md, t.op ≠ .tcopy a c md) (s : State) (tm : Team) (o : TaskOut) : (finishOut s t tm o).2 = o := by
  unfold finishOut
  split
  next a c md hop _ => exact absurd hop (h a c md)
  next => rfl
theorem finishOut_to_memory (hop : t.op = .tcopy a c md) (hc : dKind c = true) (s : State) (tm : Team) (o : TaskOut) :
    (finishOut s t tm o).2 = copyEnd (copyRaces t s o.copy).1.mem (dWidth a) o (copyRaces t s o.copy).2 := by
  have hm : t.toMemory = true := by
    rw [Task.toMemory, hop]
    exact hc
  unfold finishOut
  rw [hop, hm]
theorem copyRaces_fail (t : Task) {ca p va : Nat} {rs : List CopyRes} (h : CopyRes.fail ca p va ∈ rs) (s : State) :
    CopyRes.fail ca p va ∈ (copyRaces t s rs).2 := by
  induction rs generalizing s with
  | nil => exact absurd h List.not_mem_nil
  | cons r rs ih =>
    unfold copyRaces
    rcases List.mem_cons.1 h with rfl | h
    · exact List.mem_cons_self
    · exact List.mem_cons_of_mem _ (ih h _)
/-- Sectors that the race detector does not check are not tested. -/
theorem copyRaces_unchecked (t : Task) {rs : List CopyRes} (h : ∀ r ∈ rs, ∃ va pa bnd w, r = CopyRes.ok va pa bnd w false) (s : State) :
    copyRaces t s rs = (s, rs) := by
  induction rs with
  | nil => rfl
  | cons r rs ih =>
    obtain ⟨va, pa, bnd, w, rfl⟩ := h r List.mem_cons_self
    have hr : copyRace t s (CopyRes.ok va pa bnd w false) = (s, CopyRes.ok va pa bnd w false) := rfl
    unfold copyRaces
    rw [hr]
    dsimp only
    rw [ih fun r hr => h r (List.mem_cons_of_mem _ hr)]
/-- A fold whose every step gives a value gives one for a list that is not empty. -/
theorem foldl_isSome {α β : Type} {f : Option β → α → Option β} (hf : ∀ b x, (f b x).isSome = true) {xs : List α} (h : xs ≠ []) (b : Option β) :
    (xs.foldl f b).isSome = true := by
  obtain ⟨x, xs, rfl⟩ := List.exists_cons_of_ne_nil h
  exact List.foldlRecOn xs f (motive := fun b => b.isSome = true) (hf b x) fun b _ y _ => hf b y
/-- A sector that fails makes a copy write nothing (R260). -/
theorem copyEnd_of_fail {m : MemSt} {w : Nat} {rs : List CopyRes} {ca p va : Nat} (h : CopyRes.fail ca p va ∈ rs) :
    (copyEnd m w o rs).fail ≠ none ∧ (copyEnd m w o rs).ws = o.ws := by
  unfold copyEnd
  extract_lets fails first
  have hne : fails ≠ [] := List.ne_nil_of_mem (List.mem_filterMap.2 ⟨_, h, rfl⟩)
  have hsome : first.isSome = true := foldl_isSome (fun b f => by
    cases b with
    | none => rfl
    | some g => dsimp only; split <;> rfl) hne none
  obtain ⟨f, hf⟩ := Option.isSome_iff_exists.1 hsome
  rw [hf]
  exact ⟨Option.some_ne_none _, rfl⟩
theorem copyEnd_of_ok {m : MemSt} {w : Nat} {rs : List CopyRes} (h : ∀ r ∈ rs, ∃ va pa bnd w, r = CopyRes.ok va pa bnd w false) :
    (copyEnd m w o rs).fail = o.fail ∧ (copyEnd m w o rs).ws = rs.flatMap (fun r => r.writes m w) := by
  unfold copyEnd
  extract_lets fails first
  have hnil : fails = [] := List.filterMap_eq_nil_iff.2 fun r hr => by
    obtain ⟨va, pa, bnd, w, rfl⟩ := h r hr
    rfl
  have hfirst : first = none := congrArg (fun l => List.foldl _ none l) hnil
  rw [hfirst]
  exact ⟨rfl, rfl⟩

end

end Sys2Proof.Machine

namespace Sys2Proof.Machine

/-! #### Between start and finish: one sector in a step (R252, R409) -/

section
variable {s : State} {t : Task} {tm : Team} {o : TaskOut} {a c : BitVec 128} {md : CopyMode}

theorem pick_lt (s : State) {n : Nat} (h : 0 < n) : (s.pick n).1 < n := Nat.mod_lt _ h
/-- The sector that a step of a copy takes, counting those to request first. -/
def copyPick (s : State) (o : TaskOut) : Nat := (s.pick (o.late.length + o.reqs.length)).1

/-- A sector of a copy to memory is translated and checked. -/
theorem copyMove_store {x : (Nat × Nat) × (Nat × EB × Option Word)} (hx : o.late[copyPick s o]? = some x) (hc : dKind c = true) :
    ∃ u r, u.work.tasks = s.work.tasks ∧
      copyMove s t tm a c md o = (u, { o with late := o.late.eraseIdx (copyPick s o), copy := o.copy ++ [r] }) := by
  unfold copyMove
  dsimp only
  rw [copyPick] at hx
  rw [hx]
  dsimp only
  rw [if_pos hc]
  have htasks := copySector_tasks (s.pick (o.late.length + o.reqs.length)).2 t a c md x.1 ⟨x.2.1, x.2.2.1, x.2.2.2⟩
  generalize copySector (s.pick (o.late.length + o.reqs.length)).2 t a c md x.1 ⟨x.2.1, x.2.2.1, x.2.2.2⟩ = r at htasks ⊢
  exact ⟨r.1, r.2, htasks, rfl⟩
/-- A sector of a source in memory is requested, or gives its token at once. -/
theorem copyMove_request {x : (Nat × Nat) × (Nat × EB × Option Word)} (hx : o.late[copyPick s o]? = some x) (hc : dKind c = false) :
    ∃ u, u.work.tasks = s.work.tasks ∧
      ((∃ p, p.sec = x.1 ∧ copyMove s t tm a c md o = (u, { o with late := o.late.eraseIdx (copyPick s o), reqs := o.reqs ++ [p] })) ∨
       ∃ (m : MemSt) (v : Opd), v.tok ≠ none ∧
        copyMove s t tm a c md o = (u, { o with late := o.late.eraseIdx (copyPick s o), ws := o.ws ++ copyWrite m tm a c x.1 v })) := by
  have htasks := acceptRead_tasks (s.pick (o.late.length + o.reqs.length)).2 t (srcAt a x.1)
  unfold copyMove
  dsimp only
  rw [copyPick] at hx
  rw [hx]
  dsimp only
  rw [if_neg (by rw [hc]; exact Bool.false_ne_true)]
  split
  next u e heq =>
    rw [heq] at htasks
    exact ⟨_, (taskCount_tasks u t 0x13 1).trans htasks, .inr ⟨_, _, Option.some_ne_none _, rfl⟩⟩
  next u p heq =>
    rw [heq] at htasks
    exact ⟨u.newId.2, htasks, .inl ⟨⟨u.newId.1, x.1, p⟩, rfl, rfl⟩⟩
/-- A requested sector is read, once its banks serve (R140). -/
theorem copyMove_read {q : CopyReq} (hx : o.late[copyPick s o]? = none) (hq : o.reqs[copyPick s o - o.late.length]? = some q) :
    ∃ u, u.work.tasks = s.work.tasks ∧
      ((copyMove s t tm a c md o = (u, o) ∧ ∃ k ∈ banksAt t.core false q.acc.pa, (bankSt s k).1 ≠ .active) ∨
       ∃ (m : MemSt) (v : Opd) (met read : List Nat), copyMove s t tm a c md o =
        (u, { o with reqs := o.reqs.eraseIdx (copyPick s o - o.late.length), ws := o.ws ++ copyWrite m tm a c q.sec v, met := met, read := read })) := by
  have hwork := reachBanks_work (s.pick (o.late.length + o.reqs.length)).2 (banksAt t.core false q.acc.pa)
  unfold copyMove
  dsimp only
  rw [copyPick] at hx hq
  rw [hx, hq]
  dsimp only
  split
  next u heq =>
    have hidle : (banksAt t.core false q.acc.pa).all (fun k => decide ((bankSt s k).1 = .active)) = false := congrArg Prod.fst heq
    obtain ⟨k, hk, hne⟩ := List.all_eq_false.1 hidle
    rw [heq] at hwork
    exact ⟨{ u with free := s.free }, congrArg WorkSt.tasks hwork, .inl ⟨rfl, k, hk, fun h => hne (decide_eq_true h)⟩⟩
  next u heq =>
    rw [heq] at hwork
    exact ⟨_, (meetErrors_tasks ..).trans ((readAccepted_tasks u t q.acc).trans (congrArg WorkSt.tasks hwork)), .inr ⟨_, _, _, _, rfl⟩⟩
/-- A copy with more to do takes one of the sectors that it has to request or to read. -/
theorem copyPick_cases (s : State) (h : o.late ≠ [] ∨ o.reqs ≠ []) :
    (∃ x, o.late[copyPick s o]? = some x ∧ copyPick s o < o.late.length) ∨
      o.late[copyPick s o]? = none ∧ ∃ q, o.reqs[copyPick s o - o.late.length]? = some q := by
  have hpos : 0 < o.late.length + o.reqs.length := by
    rcases h with h | h
    · exact Nat.add_pos_left (List.length_pos_iff.2 h) _
    · exact Nat.add_pos_right _ (List.length_pos_iff.2 h)
  have hlt : copyPick s o < o.late.length + o.reqs.length := pick_lt s hpos
  by_cases hl : copyPick s o < o.late.length
  · exact .inl ⟨_, List.getElem?_eq_getElem hl, hl⟩
  · exact .inr ⟨List.getElem?_eq_none (Nat.not_lt.1 hl), _, List.getElem?_eq_getElem (by omega)⟩

end

end Sys2Proof.Machine

namespace Sys2Proof.Machine

section
variable {s : State} {t : Task} {tm : Team} {o : TaskOut} {a c : BitVec 128} {md : CopyMode}

/-- A step of a copy with more to do takes one sector: to memory, it is translated and checked; from memory, it is requested, gives its token, is
read, or waits for its banks. -/
theorem Finishable.copyMoves (h : Finishable s t tm o) (hop : t.op = .tcopy a c md) (hmore : o.late ≠ [] ∨ o.reqs ≠ []) :
    ∃ u o', exec (.taskFinish t.id) s = .next u ∧
      u.work.tasks = s.work.tasks.map (fun x => if x.id = t.id then { x with out := some o' } else x) ∧
      (dKind c = true → o.reqs = [] → o'.ws = o.ws ∧ o'.reqs = [] ∧ ∃ i r, i < o.late.length ∧ o'.late = o.late.eraseIdx i ∧
        o'.copy = o.copy ++ [r]) ∧
      (dKind c = false → o'.copy = o.copy ∧
        ((∃ i x p, o.late[i]? = some x ∧ o'.late = o.late.eraseIdx i ∧ o'.ws = o.ws ∧ o'.reqs = o.reqs ++ [p] ∧ p.sec = x.1) ∨
         (∃ (i : Nat) (x : (Nat × Nat) × (Nat × EB × Option Word)) (m : MemSt) (v : Opd), o.late[i]? = some x ∧ o'.late = o.late.eraseIdx i ∧
           o'.reqs = o.reqs ∧ v.tok ≠ none ∧ o'.ws = o.ws ++ copyWrite m tm a c x.1 v) ∨
         (∃ (i : Nat) (p : CopyReq) (m : MemSt) (v : Opd), o.reqs[i]? = some p ∧ o'.late = o.late ∧ o'.reqs = o.reqs.eraseIdx i ∧
           o'.ws = o.ws ++ copyWrite m tm a c p.sec v) ∨
         o' = o ∧ (∃ p ∈ o.reqs, ∃ k ∈ banksAt t.core false p.acc.pa, (bankSt s k).1 ≠ .active))) := by
  have hexec (u : State) (o' : TaskOut) (hm : copyMove s t tm a c md o = (u, o')) (ht : u.work.tasks = s.work.tasks) :
      exec (.taskFinish t.id) s = .next (recordOut u t o') ∧
        (recordOut u t o').work.tasks = s.work.tasks.map (fun x => if x.id = t.id then { x with out := some o' } else x) :=
    ⟨congrArg Host.Outcome.next ((h.move hop hmore).trans (by rw [hm])), congrArg (List.map _) ht⟩
  rcases copyPick_cases s hmore with ⟨x, hx, hlt⟩ | ⟨hx, q, hq⟩
  · cases hc : dKind c with
    | true =>
      obtain ⟨u, r, ht, hm⟩ := copyMove_store (t := t) (tm := tm) (a := a) (md := md) hx hc
      obtain ⟨he, htasks⟩ := hexec u _ hm ht
      exact ⟨_, _, he, htasks, fun _ hr => ⟨rfl, hr, _, r, hlt, rfl, rfl⟩, fun hf => Bool.noConfusion hf⟩
    | false =>
      obtain ⟨u, ht, ⟨p, hp, hm⟩ | ⟨m, v, hv, hm⟩⟩ := copyMove_request (t := t) (tm := tm) (a := a) (md := md) hx hc
      · obtain ⟨he, htasks⟩ := hexec u _ hm ht
        exact ⟨_, _, he, htasks, fun hf => Bool.noConfusion hf, fun _ => ⟨rfl, .inl ⟨_, x, p, hx, rfl, rfl, rfl, hp⟩⟩⟩
      · obtain ⟨he, htasks⟩ := hexec u _ hm ht
        exact ⟨_, _, he, htasks, fun hf => Bool.noConfusion hf, fun _ => ⟨rfl, .inr (.inl ⟨_, x, m, v, hx, rfl, rfl, hv, rfl⟩)⟩⟩
  · have hne : o.reqs ≠ [] := fun hr => by
      rw [hr, List.getElem?_nil] at hq
      exact Option.some_ne_none q hq.symm
    obtain ⟨u, ht, ⟨hm, k, hk, hidle⟩ | ⟨m, v, met, read, hm⟩⟩ := copyMove_read (t := t) (tm := tm) (a := a) (c := c) (md := md) hx hq
    · obtain ⟨he, htasks⟩ := hexec u _ hm ht
      exact ⟨_, _, he, htasks, fun _ hr => absurd hr hne,
        fun _ => ⟨rfl, .inr (.inr (.inr ⟨rfl, q, List.mem_of_getElem? hq, k, hk, hidle⟩))⟩⟩
    · obtain ⟨he, htasks⟩ := hexec u _ hm ht
      exact ⟨_, _, he, htasks, fun _ hr => absurd hr hne, fun _ => ⟨rfl, .inr (.inr (.inl ⟨_, q, m, v, hq, rfl, rfl, rfl⟩))⟩⟩

/-! ### Integer blocks (R85) -/

/-- A 32-bit word is the integer that it was taken from where that is in range, and only there. -/
theorem signed_wrap_iff (z : Int) : signed 32 (wrap 32 z) = z ↔ -(2 : Int) ^ 31 ≤ z ∧ z ≤ (2 : Int) ^ 31 - 1 := by
  unfold signed wrap
  norm_num
  split <;> omega
theorem intBlock_spec (f g : Fmt) (xs : List (Nat × Nat)) (acc : Nat) :
    let t := signed 32 acc + (xs.map (fun x => intElem f x.1 * intElem g x.2)).sum
    let o := intBlock f g xs acc
    (o.bits : Int) % 2 ^ 32 = t % 2 ^ 32 ∧ o.bits < 2 ^ 32 ∧ o.flags = 0 ∧
      (o.big = false ↔ signed 32 o.bits = t) ∧ (o.big = false → o.inc = 0) ∧ (o.big = true → o.inc = ebInf) := by
  intro t o
  have hbits : o.bits = wrap 32 t := rfl
  have hinc : o.inc = if o.big then ebInf else 0 := rfl
  have hbig : o.big = (decide (t < -(2 : Int) ^ 31) || decide ((2 : Int) ^ 31 - 1 < t)) := rfl
  refine ⟨?_, wrap_lt 32 t, rfl, ?_, fun h => ?_, fun h => ?_⟩
  · rw [hbits, wrap, Int.toNat_of_nonneg (Int.emod_nonneg t (by decide)), Int.emod_emod_of_dvd t (dvd_refl _)]
  · rw [hbits, signed_wrap_iff, hbig, Bool.or_eq_false_iff, decide_eq_false_iff_not, decide_eq_false_iff_not, not_lt, not_lt]
  · rw [hinc, h]; rfl
  · rw [hinc, h]; rfl

/-- A copy to memory of which a sector failed writes nothing; one whose sectors are all sound, and not checked for races, writes each (R260). -/
theorem copyEnds (hop : t.op = .tcopy a c md) (o : TaskOut) (hc : dKind c = true) (hf : o.fail = none) :
    ((∃ ca p va, CopyRes.fail ca p va ∈ o.copy) → (finishOut s t tm o).2.fail ≠ none ∧ (finishOut s t tm o).2.ws = o.ws) ∧
      ((∀ r ∈ o.copy, ∃ va pa bnd w, r = CopyRes.ok va pa bnd w false) → (finishOut s t tm o).2.fail = none ∧
        (finishOut s t tm o).2.ws = o.copy.flatMap (fun r => r.writes s.mem (dWidth a))) := by
  rw [finishOut_to_memory hop hc]
  refine ⟨fun ⟨ca, p, va, h⟩ => copyEnd_of_fail (copyRaces_fail t h s), fun h => ?_⟩
  rw [copyRaces_unchecked t h]
  obtain ⟨hfail, hws⟩ := copyEnd_of_ok (o := o) (m := s.mem) (w := dWidth a) h
  exact ⟨hfail.trans hf, hws⟩

end

/-- Settles O34: each step of a task is one branch of its start, of its end, or of a copy's progress, of which the copy's source and its sectors
follow by its descriptors; what else the end of a task does reaches counts, charge, caches and the cells of a bank. -/
theorem taskExecution : Obligations.TaskExecution := by
  refine ⟨fun s t tm hfind => ⟨fun hout hpow hfirst hteam hg => ?_, fun d b hout hpow hfirst hteam hop hb hown hact herr => ?_, fun h => ?_,
    fun o v hout hteam hpow hg hfirst hlate hreqs hr => ?_⟩, fun s t tm met => ⟨fun h o => finishOut_of_no_copy h s tm o, fun a c md hop => ?_,
    fun a c md o hfind hop hout hteam hpow hfirst hmore => ?_⟩, fun f g xs acc _ => intBlock_spec f g xs acc⟩
  · have hs : Startable s t tm := ⟨hfind, hout, hpow, hfirst, bankTaken_of_not_tgive hg, hteam⟩
    exact ⟨fun u hu => congrArg Host.Outcome.next (hs.start_banks hu), fun v hv => congrArg Host.Outcome.next (hs.start hv hg)⟩
  · exact starts_tgive ⟨hfind, hout, hpow, hfirst, bankTaken_of_own hb hown, hteam⟩ hop hb hact herr
  · exact congrArg Host.Outcome.next (startTask_waits hfind h)
  · intro r g bank hraces
    obtain ⟨u, hx, hmem, hother, htake, hgroup⟩ := Finishable.finishes ⟨hfind, hout, hteam, hpow, hg, hfirst⟩ hlate hreqs hr hraces
    refine ⟨u, hx, hmem, hother, htake, fun hres hl ht hgid => ?_⟩
    obtain ⟨hsp, hregs, hkept, hfailed⟩ := hgroup hres hl ht hgid
    exact ⟨hsp, hregs, hkept, hfailed⟩
  · exact ⟨fun ha => runTask_copy_from_memory hop ha met, fun ha herr => runTask_copy_from_pond hop ha herr met, fun o hc hf => copyEnds hop o hc hf⟩
  · have hg : isTgive t.op = false := by rw [hop]; rfl
    exact Finishable.copyMoves ⟨hfind, hout, hteam, hpow, hg, hfirst⟩ hop hmore

end Sys2Proof.Machine

namespace Sys2Proof.Machine

/-! ### Comparisons and ambiguity (R105, R188, R204) -/

/-! #### Predicate lanes (Table 2-2) -/

theorem pVal_mkPred (v a : Bool) : pVal (mkPred v a) = v := by cases v <;> cases a <;> rfl
theorem pAmb_mkPred (v a : Bool) : pAmb (mkPred v a) = a := by cases v <;> cases a <;> rfl
theorem pPois_mkPred (v a : Bool) : pPois (mkPred v a) = false := by cases v <;> cases a <;> rfl
/-- The fields of a poisoned predicate lane, code by code. -/
theorem predPois_fields {c : Nat} (hc : c < 32) :
    pPois (predPois c) = true ∧ pVal (predPois c) = false ∧ pAmb (predPois c) = false ∧ pCode (predPois c) = c := by
  have h : ∀ c < 32, pPois (predPois c) = true ∧ pVal (predPois c) = false ∧ pAmb (predPois c) = false ∧ pCode (predPois c) = c := by decide
  exact h c hc
theorem tokCode_lt (t : Word) : tokCode t < 32 := by
  have := t.isLt
  rw [tokCode, Nat.div_lt_iff_lt_mul (by decide)]
  exact this

/-! #### The relations (R105) -/

theorem Rel.holds_iff_on (r : Rel) (d : Int) : r.holds d = true ↔ r.on (d : ℝ) := by
  cases r <;> simp [Rel.holds, Rel.on]
/-- Only the sign of a difference counts. -/
theorem Rel.holds_of_sign (r : Rel) {d e : Int} (h0 : d = 0 ↔ e = 0) (hneg : d < 0 ↔ e < 0) : r.holds d = r.holds e := by
  cases r <;> simp only [Rel.holds, decide_eq_decide] <;> omega
theorem Rel.holds_scale (r : Rel) (x y : Int) {m : Int} (hm : 0 < m) : r.holds (x * m - y * m) = r.holds (x - y) := by
  rw [← sub_mul]
  exact r.holds_of_sign (by simp [hm.ne']) ⟨fun h => by nlinarith, fun h => by nlinarith⟩

/-- Some difference within `w` of `d` has the other outcome. -/
def Rel.mayDiffer (r : Rel) (d w : ℝ) : Prop := ∃ z : ℝ, |z - d| ≤ w ∧ ¬(r.on z ↔ r.on d)

theorem Rel.mayDiffer_eq (d : ℝ) {w : ℝ} (hw : 0 ≤ w) : Rel.eq.mayDiffer d w ↔ if d = 0 then 0 < w else -w ≤ d ∧ d ≤ w := by
  simp only [Rel.mayDiffer, Rel.on]
  split
  next h =>
    subst h
    refine ⟨fun ⟨z, hz, hne⟩ => ?_, fun h => ⟨w, by rw [sub_zero, abs_of_nonneg hw], by simp [h.ne']⟩⟩
    have hz0 : z ≠ 0 := fun h0 => hne (by simp [h0])
    exact (abs_pos.2 hz0).trans_le (by rwa [sub_zero] at hz)
  next h =>
    refine ⟨fun ⟨z, hz, hne⟩ => ?_, fun hd => ⟨0, by rw [zero_sub, abs_neg, abs_le]; exact hd, by simp [h]⟩⟩
    have hz0 : z = 0 := by by_contra h0; exact hne (by simp [h0, h])
    rwa [hz0, zero_sub, abs_neg, abs_le] at hz
theorem Rel.mayDiffer_lt (d : ℝ) {w : ℝ} (hw : 0 ≤ w) : Rel.lt.mayDiffer d w ↔ if d < 0 then 0 ≤ d + w else d - w < 0 := by
  simp only [Rel.mayDiffer, Rel.on]
  split
  next h =>
    refine ⟨fun ⟨z, hz, hne⟩ => ?_, fun hd => ⟨d + w, by simp [abs_of_nonneg hw], by simp [h, hd]⟩⟩
    have hz0 : 0 ≤ z := by by_contra h0; exact hne (by simp [not_le.1 h0, h])
    linarith [(abs_le.1 hz).2]
  next h =>
    refine ⟨fun ⟨z, hz, hne⟩ => ?_, fun hd => ⟨d - w, by simp [abs_of_nonneg hw], fun hiff => h (hiff.1 hd)⟩⟩
    have hz0 : z < 0 := by by_contra h0; exact hne (iff_of_false h0 h)
    linarith [(abs_le.1 hz).1]
theorem Rel.mayDiffer_le (d : ℝ) {w : ℝ} (hw : 0 ≤ w) : Rel.le.mayDiffer d w ↔ if d ≤ 0 then 0 < d + w else d - w ≤ 0 := by
  simp only [Rel.mayDiffer, Rel.on]
  split
  next h =>
    refine ⟨fun ⟨z, hz, hne⟩ => ?_, fun hd => ⟨d + w, by simp [abs_of_nonneg hw], by simp [h, hd]⟩⟩
    have hz0 : 0 < z := by by_contra h0; exact hne (by simp [not_lt.1 h0, h])
    linarith [(abs_le.1 hz).2]
  next h =>
    refine ⟨fun ⟨z, hz, hne⟩ => ?_, fun hd => ⟨d - w, by simp [abs_of_nonneg hw], fun hiff => h (hiff.1 hd)⟩⟩
    have hz0 : z ≤ 0 := by by_contra h0; exact hne (iff_of_false h0 h)
    linarith [(abs_le.1 hz).1]
/-- A relation and its negation differ at the same pairs. -/
theorem Rel.mayDiffer_congr {r q : Rel} (h : ∀ z, r.on z ↔ ¬ q.on z) (d w : ℝ) : r.mayDiffer d w ↔ q.mayDiffer d w := by
  simp only [Rel.mayDiffer, h, not_iff_not]

/-- A is set exactly where a difference within the bounds has the other outcome. -/
theorem Rel.amb_iff (r : Rel) (d : Int) (w : Nat) : r.amb d w = true ↔ r.mayDiffer d w := by
  have hw : (0 : ℝ) ≤ w := Nat.cast_nonneg w
  have heq : Rel.eq.amb d w = true ↔ Rel.eq.mayDiffer d w := by
    rw [Rel.mayDiffer_eq _ hw, Rel.amb]
    norm_cast
    split <;> simp
  have hlt : Rel.lt.amb d w = true ↔ Rel.lt.mayDiffer d w := by
    rw [Rel.mayDiffer_lt _ hw, Rel.amb]
    norm_cast
    split <;> simp
  have hle : Rel.le.amb d w = true ↔ Rel.le.mayDiffer d w := by
    rw [Rel.mayDiffer_le _ hw, Rel.amb]
    norm_cast
    split <;> simp
  cases r with
  | eq => exact heq
  | lt => exact hlt
  | le => exact hle
  | ne => exact heq.trans (Rel.mayDiffer_congr (fun _ => Iff.rfl) _ _).symm
  | ge => exact hlt.trans (Rel.mayDiffer_congr (fun _ => not_lt.symm) _ _).symm
  | gt => exact hle.trans (Rel.mayDiffer_congr (fun _ => not_le.symm) _ _).symm

/-- The differences of two numbers within their bounds. -/
theorem exists_sub_within {P : ℝ → Prop} {a b u v : ℝ} (hu : 0 ≤ u) (hv : 0 ≤ v) :
    (∃ x y : ℝ, |x - a| ≤ u ∧ |y - b| ≤ v ∧ P (x - y)) ↔ ∃ z : ℝ, |z - (a - b)| ≤ u + v ∧ P z := by
  refine ⟨fun ⟨x, y, hx, hy, hp⟩ => ⟨x - y, ?_, hp⟩, fun ⟨z, hz, hp⟩ => ?_⟩
  · rw [abs_le] at hx hy ⊢
    constructor <;> linarith [hx.1, hx.2, hy.1, hy.2]
  · obtain ⟨hlo, hhi⟩ := abs_le.1 hz
    have hx : |max (-u) (min u (z - (a - b)))| ≤ u :=
      abs_le.2 ⟨le_max_left _ _, max_le (by linarith) (min_le_left _ _)⟩
    refine ⟨a + max (-u) (min u (z - (a - b))), a + max (-u) (min u (z - (a - b))) - z, ?_, ?_, ?_⟩
    · rwa [add_sub_cancel_left]
    · rw [abs_le]
      rcases max_cases (-u) (min u (z - (a - b))) with ⟨h, _⟩ | ⟨h, _⟩ <;>
        rcases min_cases u (z - (a - b)) with ⟨h', _⟩ | ⟨h', _⟩ <;> constructor <;> linarith
    · rwa [sub_sub_cancel]

theorem pAmb_compareFx (r : Rel) (a b : Int) (ea eb : EB) : pAmb (compareFx r a b ea eb) = true ↔
    ebBig ea = true ∨ ebBig eb = true ∨
      ∃ x y : ℝ, |x - a| ≤ ebNat ea ∧ |y - b| ≤ ebNat eb ∧ ¬ (r.on (x - y) ↔ r.on ((a : ℝ) - b)) := by
  have h := r.amb_iff (a - b) (ebNat ea + ebNat eb)
  push_cast at h
  rw [compareFx, pAmb_mkPred, Bool.or_eq_true, Bool.or_eq_true, or_assoc, h, Rel.mayDiffer,
    exists_sub_within (P := fun z => ¬ (r.on z ↔ r.on ((a : ℝ) - b))) (Nat.cast_nonneg _) (Nat.cast_nonneg _)]
theorem pVal_compareFx (r : Rel) (a b : Int) (ea eb : EB) : pVal (compareFx r a b ea eb) = r.holds (a - b) := by rw [compareFx, pVal_mkPred]

/-! #### Integer comparisons (R188) -/

theorem compareInt_plain {x y : Opd} (h : firstTok [x, y] = none) (w : Nat) (k : ICond) :
    compareInt w k x y = compareFx (icond k).1 ((if (icond k).2 then signed w x.v else (x.v : Int)) * 2 ^ 157)
      ((if (icond k).2 then signed w y.v else (y.v : Int)) * 2 ^ 157) x.eb y.eb := by
  rw [compareInt, h]
/-- VAL is the relation of Table 7-2. -/
theorem compareInt_eq_mkPred {w : Nat} (hw : 0 < w) {x y : Opd} (h : firstTok [x, y] = none) {u v : BitVec w} (hx : x.v = u.toNat)
    (hy : y.v = v.toNat) (k : ICond) : compareInt w k x y = mkPred (holdsInt k u v) (pAmb (compareInt w k x y)) := by
  have hv : (icond k).1.holds ((if (icond k).2 then signed w x.v else (x.v : Int)) - (if (icond k).2 then signed w y.v else (y.v : Int))) =
      holdsInt k u v := by
    rw [hx, hy, signed_toNat u hw, signed_toNat v hw, Bool.eq_iff_iff]
    cases k <;>
      simp [icond, Rel.holds, holdsInt, BitVec.sle_iff_toInt_le, BitVec.slt_iff_toInt_lt, BitVec.ule_iff_toNat_le, BitVec.ult_iff_toNat_lt,
        sub_eq_zero, ← BitVec.toInt_inj]
  rw [compareInt_plain h, ← hv, ← Rel.holds_scale _ _ _ (m := 2 ^ 157) (by positivity), compareFx, pAmb_mkPred]
theorem compareInt_of_tok {x y : Opd} {t : Word} (h : firstTok [x, y] = some t) (w : Nat) (k : ICond) :
    compareInt w k x y = predPois (tokCode t) := by
  rw [compareInt, h]
/-- One lane of SCMP and VCMP. -/
theorem compareInt_lane {w : Nat} (hw : 0 < w) {x y : Opd} {u v : BitVec w} (hx : x.v = u.toNat) (hy : y.v = v.toNat) (k : ICond) :
    compareInt w k x y = match firstTok [x, y] with
      | some t => predPois (tokCode t)
      | none => mkPred (holdsInt k u v) (pAmb (compareInt w k x y)) := by
  cases h : firstTok [x, y] with
  | some t => exact compareInt_of_tok h w k
  | none => exact compareInt_eq_mkPred hw h hx hy k

/-! #### Floating-point comparisons (R204) -/

/-- A floating-point operand in units of 2^-157: an infinity lies beyond every finite value. -/
def FV.units : FV → Int
  | .fin e => fx157 e
  | .inf n => if n then -(2 : Int) ^ 300 else (2 : Int) ^ 300
  | .nan => 0
/-- The relations among the conditions of FCMP (Table 7-8). -/
def fcondRels : List (FCond × Rel) := [(.eq, .eq), (.ne, .ne), (.lt, .lt), (.le, .le), (.gt, .gt), (.ge, .ge)]

theorem ebBig_srcEb (v : FV) (e : EB) : ebBig (v.srcEb e) = (!v.isFin || ebBig e) := by
  rw [FV.srcEb]
  cases v.isFin with
  | true => rfl
  | false => rfl

section
variable {x y : Opd}

theorem compareFp_rel (h : firstTok [x, y] = none) (hx : fvOf .f32 x.v ≠ .nan) (hy : fvOf .f32 y.v ≠ .nan) {p : FCond × Rel} (hp : p ∈ fcondRels) :
    compareFp p.1 x y = compareFx p.2 (fvOf .f32 x.v).units (fvOf .f32 y.v).units ((fvOf .f32 x.v).srcEb x.eb) ((fvOf .f32 y.v).srcEb y.eb) := by
  rw [compareFp, h]
  dsimp only
  rw [if_neg (by simp [hx, hy])]
  simp only [fcondRels, List.mem_cons, List.not_mem_nil, or_false] at hp
  rcases hp with rfl | rfl | rfl | rfl | rfl | rfl <;> rfl
theorem compareFp_fin (h : firstTok [x, y] = none) {p : FCond × Rel} (hp : p ∈ fcondRels) {a b : Ex} (hx : fvOf .f32 x.v = .fin a)
    (hy : fvOf .f32 y.v = .fin b) : compareFp p.1 x y = compareFx p.2 (fx157 a) (fx157 b) x.eb y.eb := by
  rw [compareFp_rel h (by rw [hx]; nofun) (by rw [hy]; nofun) hp, hx, hy]
  rfl
theorem compareFp_nan (h : firstTok [x, y] = none) (hn : fvOf .f32 x.v = .nan ∨ fvOf .f32 y.v = .nan) (k : FCond) :
    compareFp k x y = mkPred (decide (k = .ne) || decide (k = .uno)) true := by
  rw [compareFp, h]
  exact if_pos hn
theorem compareFp_ord_uno (h : firstTok [x, y] = none) (hx : fvOf .f32 x.v ≠ .nan) (hy : fvOf .f32 y.v ≠ .nan) :
    compareFp .ord x y = mkPred true (ebBig ((fvOf .f32 x.v).srcEb x.eb) || ebBig ((fvOf .f32 y.v).srcEb y.eb)) ∧
      compareFp .uno x y = mkPred false (ebBig ((fvOf .f32 x.v).srcEb x.eb) || ebBig ((fvOf .f32 y.v).srcEb y.eb)) := by
  have hn : ¬ (fvOf .f32 x.v = .nan ∨ fvOf .f32 y.v = .nan) := by simp [hx, hy]
  constructor
  · rw [compareFp, h]
    exact if_neg hn
  · rw [compareFp, h]
    exact if_neg hn
theorem compareFp_of_tok {t : Word} (h : firstTok [x, y] = some t) (k : FCond) : compareFp k x y = predPois (tokCode t) := by
  rw [compareFp, h]

end

/-- A finite FP32 value lies within the range of the format. -/
theorem abs_fx157_lt {n : Nat} {e : Ex} (h : fvOf .f32 n = .fin e) {k : Nat} (hk : 286 ≤ k) : |fx157 e| < (2 : Int) ^ k := by
  have he : fpDecode .f32 n = e := by
    unfold fvOf at h
    split at h
    · cases h
    split at h
    · cases h
    · exact FV.fin.inj h
  have hx : fExp .f32 n < 2 ^ 8 := Nat.mod_lt _ (by decide)
  have hf : fFrac .f32 n < 2 ^ 23 := Nat.mod_lt _ (by decide)
  have hn : e.n < 2 ^ 24 ∧ (e.e - -157).toNat ≤ 262 := by
    rw [← he, fpDecode]
    simp only [Fmt.bias, Fmt.m]
    split
    · refine ⟨?_, ?_⟩ <;> dsimp only <;> omega
    · refine ⟨?_, ?_⟩ <;> dsimp only <;> omega
  have hm : e.n <<< (e.e - -157).toNat < 2 ^ k := by
    rw [Nat.shiftLeft_eq]
    refine (Nat.mul_lt_mul_of_pos_right hn.1 (Nat.two_pow_pos _)).trans_le ?_
    rw [← pow_add]
    exact Nat.pow_le_pow_right (by decide) (by omega)
  have habs : |fx157 e| = ((e.n <<< (e.e - -157).toNat : Nat) : Int) := by
    rw [fx157, Ex.toInt]
    split
    · rw [abs_neg, Nat.abs_cast]
    · rw [Nat.abs_cast]
  rw [habs]
  exact_mod_cast hm

/-- The place of an operand among the infinities: below, between or above. -/
def FV.rank : FV → Int
  | .inf n => if n then -1 else 1
  | _ => 0
/-- Where one of two numbers is infinite, their order is that of their ranks. -/
theorem Rel.holds_units (r : Rel) {m n : Nat} (hx : fvOf .f32 m ≠ .nan) (hy : fvOf .f32 n ≠ .nan)
    (hi : (fvOf .f32 m).isFin = false ∨ (fvOf .f32 n).isFin = false) :
    r.holds ((fvOf .f32 m).units - (fvOf .f32 n).units) = r.holds ((fvOf .f32 m).rank - (fvOf .f32 n).rank) := by
  have hpos : (0 : Int) < 2 ^ 300 := by positivity
  cases hm : fvOf .f32 m with
  | nan => exact absurd hm hx
  | inf a =>
    cases hn : fvOf .f32 n with
    | nan => exact absurd hn hy
    | inf b =>
      cases a <;> cases b <;> simp only [FV.units, FV.rank, if_true, Bool.false_eq_true, if_false] <;>
        generalize (2 : Int) ^ 300 = top at hpos <;> exact r.holds_of_sign (by omega) (by omega)
    | fin e =>
      obtain ⟨hlo, hhi⟩ := abs_lt.1 (abs_fx157_lt hn (k := 300) (by decide))
      cases a <;> simp only [FV.units, FV.rank, if_true, Bool.false_eq_true, if_false] <;>
        generalize (2 : Int) ^ 300 = top at hpos hlo hhi <;> exact r.holds_of_sign (by omega) (by omega)
  | fin d =>
    cases hn : fvOf .f32 n with
    | nan => exact absurd hn hy
    | inf b =>
      obtain ⟨hlo, hhi⟩ := abs_lt.1 (abs_fx157_lt hm (k := 300) (by decide))
      cases b <;> simp only [FV.units, FV.rank, if_true, Bool.false_eq_true, if_false] <;>
        generalize (2 : Int) ^ 300 = top at hpos hlo hhi <;> exact r.holds_of_sign (by omega) (by omega)
    | fin e =>
      rw [hm, hn] at hi
      rcases hi with hi | hi <;> cases hi

/-- Settles O3: the set of differences within the bounds is an interval, and A asks whether it holds one with the other outcome. -/
theorem comparisonsAndAmbiguity : Obligations.ComparisonsAndAmbiguity := by
  refine ⟨fun p a b k => ⟨?_, ?_⟩, ⟨fun r a b ea eb => ⟨?_, pAmb_compareFx r a b ea eb, pPois_mkPred _ _⟩, fun w x y h => ?_, fun x y t h => ?_⟩⟩
  · exact givesP_of_issue _ _ _ _ (fun _ => rfl) (fun s _ => compareInt_lane (by decide) rfl rfl k)
  · exact givesP_of_issue _ _ _ _ (fun _ => rfl) (fun s _ => compareInt_lane (by decide) rfl rfl k)
  · rw [pVal_compareFx, r.holds_iff_on, Int.cast_sub]
  · refine ⟨fun p hp => ?_, fun p hp => ?_, fun p hp a b => compareFp_fin h hp, fun k hn => compareFp_nan h hn k, fun hx hy => ?_⟩
    · simp only [List.mem_cons, List.not_mem_nil, or_false] at hp
      rcases hp with rfl | rfl | rfl | rfl | rfl | rfl <;> exact compareInt_plain h w _
    · simp only [List.mem_cons, List.not_mem_nil, or_false] at hp
      rcases hp with rfl | rfl | rfl | rfl <;> exact compareInt_plain h w _
    · obtain ⟨hord, huno⟩ := compareFp_ord_uno h hx hy
      rw [ebBig_srcEb, ebBig_srcEb] at hord huno
      refine ⟨hord, huno, fun hi => ?_⟩
      intro rank p hp
      rw [compareFp_rel h hx hy hp]
      refine ⟨(pAmb_compareFx ..).2 ?_, ?_⟩
      · rw [ebBig_srcEb, ebBig_srcEb]
        rcases hi with hi | hi <;> simp [hi]
      · rw [pVal_compareFx, Rel.holds_units _ hx hy hi]
        exact Rel.holds_iff_on _ _
  · obtain ⟨hp, hv, ha, hc⟩ := predPois_fields (tokCode_lt t)
    exact ⟨compareInt_of_tok h, compareFp_of_tok h, hp, hv, ha, hc⟩

end Sys2Proof.Machine

namespace Sys2Proof.Machine

/-! ### What a load returns for a lane (R118 to R120, R226) -/

section
variable {s : State} {h : Nat} {e : Entry} {l : Nat} {a : LaneAcc}

/-- Whether a load takes the bound of the sector that it reads (R118). -/
def loadBnd (i : Instr) (a : LaneAcc) : Bool := match i with | .ldt .. => true | _ => keepsBnd a.pa a.attr

theorem readL1_uncached (s : State) (core n : Nat) (hc : pteHome a.attr.toNat ≠ 0) :
    readL1 s core a n = (s, readElem s.mem a.pa a.va n (keepsBnd a.pa a.attr)) := by
  have hu : usesL1 s.mem a = false := by rw [usesL1, decide_eq_false hc, Bool.false_and]
  rw [readL1, hu]
  rfl
/-- A lane whose page is not cached reads memory. -/
theorem loadBnd_ldt (d x y : Reg) (wd : Width) (a : LaneAcc) : loadBnd (.ldt d x y wd) a = true := rfl
theorem loadBnd_of_not_ldt {i : Instr} (h : ∀ d x y wd, i ≠ .ldt d x y wd) (a : LaneAcc) : loadBnd i a = keepsBnd a.pa a.attr := by
  unfold loadBnd
  split
  next => exact absurd rfl (h _ _ _ _)
  next => rfl
theorem readLane_uncached (s : State) (h : Nat) (e : Entry) (a : LaneAcc)
    (hc : (∃ d x y wd, e.instr = .ldt d x y wd) ∨ pteHome a.attr.toNat ≠ 0) :
    (readLane s h e a).2 = readElem s.mem a.pa a.va (loadBytes e.instr) (loadBnd e.instr a) := by
  unfold readLane
  split
  next hi => rw [hi, loadBnd_ldt]
  next hne => rw [readL1_uncached s _ _ (hc.resolve_left fun ⟨d, x, y, wd, hi⟩ => hne d x y wd hi), loadBnd_of_not_ldt hne]
/-- A result word of an element: its token, or 32 of its bits with the sector's bound (R119, R120). -/
theorem getD_elemCells_readElem (m : MemSt) (pa va n : Nat) (bnd : Bool) {k : Nat} (hk : k < if n ≤ 4 then 1 else n / 4) :
    (elemCells n (readElem m pa va n bnd)).getD k VCell.zero =
      match m.err pa with
      | some c => VCell.tok (vaTok c va)
      | none =>
        if bnd = true ∧ m.bound pa = ebPoison then VCell.tok (BitVec.ofNat 32 (m.num (pa / 32 * 32) 4))
        else ⟨BitVec.ofNat 32 (m.num pa n / 2 ^ (32 * k)), if bnd then m.bound pa else 0⟩ := by
  rw [List.getD_eq_getElem _ _ (by rw [length_elemCells]; exact hk)]
  simp only [elemCells, List.getElem_map, List.getElem_range, readElem]
  cases m.err pa with
  | some c => rfl
  | none =>
    cases bnd with
    | false => rfl
    | true => by_cases hp : m.bound pa = ebPoison <;> simp [hp]

end

/-- Settles O22: a lane that neither the race detector nor the cache serves is performed with the element that memory holds. -/
theorem loadReadsMemory : Obligations.LoadReadsMemory := by
  intro s h e l a _ he hacc hearly hu hrace hc n bnd t
  have hf (x : Entry) : (x.done l (withEarly a (readLane s h e a).2 (elemCells n (readLane s h e a).2))).id = x.id := rfl
  have ht : t = modEntry (readCounted s h e a) h e.id (fun x => x.done l (withEarly a (readLane s h e a).2 (elemCells n (readLane s h e a).2))) := by
    refine (performLoad_eq s h e hacc).trans ?_
    rw [hrace, hu]
    rfl
  refine ⟨e.done l (withEarly a (readLane s h e a).2 (elemCells n (readLane s h e a).2)), ?_, performLoad_mem .., rfl, fun k hk => ?_⟩
  · rw [ht, findEntry_modEntry_same _ h e.id hf, (keepsGroups_readCounted s h e a).findEntry, he, Option.map_some]
  · have hlen : (elemCells n (readElem s.mem a.pa a.va n bnd)).length = if n ≤ 4 then 1 else n / 4 := length_elemCells ..
    have hread : (readLane s h e a).2 = readElem s.mem a.pa a.va n bnd := readLane_uncached s h e a hc
    have hw : withEarly a (readLane s h e a).2 (elemCells n (readLane s h e a).2) = elemCells n (readElem s.mem a.pa a.va n bnd) := by
      rw [withEarly, hearly, hread]
    refine (get_setCells e l _ _).trans ?_
    rw [hw, if_pos ⟨by omega, by omega⟩, Nat.add_sub_cancel_left]
    exact getD_elemCells_readElem s.mem a.pa a.va n bnd hk

end Sys2Proof.Machine

namespace Sys2Proof.Machine

/-! ### A store that reaches its home (R118 to R121, R142) -/

section
variable {m : MemSt} {w : SectorW}

/-! #### The bytes of a sector -/

/-- Memory after the bytes of a sector at `pa` have been written. -/
def putBytes (m : MemSt) (pa : Nat) (bs : List (Nat × Byte)) : MemSt := bs.foldl (fun m b => m.setByte (pa + b.1) b.2) m

theorem Tb.get?_none_of_above {α : Type} {t : List (Nat × α)} {k : Nat} (h : Tb.above k t) : Tb.get? t k = none := by
  cases hg : Tb.get? t k with
  | none => rfl
  | some v => exact absurd (h _ (Tb.mem_of_get? hg)) (lt_irrefl k)
theorem byte_putBytes (m : MemSt) (pa : Nat) {bs : List (Nat × Byte)} (hs : Tb.sorted bs = true) (a : Nat) :
    (putBytes m pa bs).byte a = if pa ≤ a then (Tb.get? bs (a - pa)).getD (m.byte a) else m.byte a := by
  induction bs generalizing m with
  | nil => exact (ite_self _).symm
  | cons b bs ih =>
    obtain ⟨j, v⟩ := b
    obtain ⟨habove, hs⟩ := (Tb.sorted_cons j v bs).1 hs
    refine (ih (m.setByte (pa + j) v) hs).trans ?_
    rw [byte_setByte, Tb.get?]
    by_cases hj : j = a - pa
    · subst hj
      rw [if_pos rfl, Tb.get?_none_of_above habove]
      split
      next h => exact if_pos (by omega)
      next h => exact if_neg (by omega)
    · rw [if_neg hj]
      split
      next h => rw [if_neg (by omega)]
      next h => exact if_neg (by omega)
theorem putBytes_eq (m : MemSt) (pa : Nat) (bs : List (Nat × Byte)) : ∃ c, putBytes m pa bs = { m with cells := c } :=
  List.foldlRecOn bs _ (motive := fun u => ∃ c, u = { m with cells := c }) ⟨_, rfl⟩ fun u ⟨c, hu⟩ b _ => ⟨_, by rw [hu]; rfl⟩
theorem setBound_eq (m : MemSt) (pa : Nat) (e : EB) : ∃ c b, m.setBound pa e = { m with cells := c, bounds := b } := by
  unfold MemSt.setBound
  split
  next x _ => exact ⟨_, m.bounds, setBytes_eq m x _⟩
  next => exact ⟨m.cells, _, rfl⟩
  next => exact ⟨m.cells, m.bounds, rfl⟩

/-! #### A sector filled with a token (R120) -/

theorem num_setBytes_copies (m : MemSt) (pa x n : Nat) {j : Nat} (hj : j < n) :
    (m.setBytes pa ((List.range n).flatMap (fun _ => toBytes 4 x))).num (pa + 4 * j) 4 = x % 256 ^ 4 := by
  induction n with
  | zero => exact absurd hj (Nat.not_lt_zero j)
  | succ n ih =>
    have hlen : ((List.range n).flatMap (fun _ => toBytes 4 x)).length = 4 * n := by simp [List.length_flatMap, Nat.mul_comm]
    rw [List.range_succ, List.flatMap_append, List.flatMap_singleton, setBytes_append, hlen]
    rcases Nat.lt_succ_iff_lt_or_eq.1 hj with hj | rfl
    · exact (num_setNum_other _ _ _ _ _ _ (.inl (by omega))).trans (ih hj)
    · exact num_setNum_same _ _ _ _
theorem num_poisonSector (m : MemSt) (pa : Nat) (k : Word) (hw : ∀ x, bndHome pa = .word x → x + 2 ≤ pa ∨ pa + 32 ≤ x) {j : Nat} (hj : j < 8) :
    (m.poisonSector pa k).num (pa + 4 * j) 4 = k.toNat := by
  rw [MemSt.poisonSector, num_setBound _ (fun x hx => by have := hw x hx; omega), num_setBytes_copies m pa k.toNat 8 hj]
  exact Nat.mod_eq_of_lt k.isLt

/-! #### One sector of a store (R119 to R121) -/

theorem applySector_of_no_err (he : m.err w.pa = none) : applySector m w =
    if w.bnd = false then putBytes m w.pa w.bytes
    else if m.bound w.pa = ebPoison ∧ decide (32 ≤ w.bytes.length) = false then m
    else match w.token with
      | some t => m.poisonSector w.pa t
      | none => (putBytes m w.pa w.bytes).setBound w.pa (if decide (32 ≤ w.bytes.length) then w.maxEb else ebMax (m.bound w.pa) w.maxEb) := by
  have hup : ¬ m.peerDown.contains (w.pa / 32) = true := fun h => by
    unfold MemSt.err at he
    split_ifs at he
  rw [applySector, if_neg hup]
  simp only [Bool.not_eq_true']
  rfl
/-- A sector changes bytes and bounds alone. -/
theorem applySector_eq (m : MemSt) (w : SectorW) : ∃ c b, applySector m w = { m with cells := c, bounds := b } := by
  obtain ⟨c, hc⟩ := putBytes_eq m w.pa w.bytes
  unfold applySector
  split
  · exact ⟨_, _, rfl⟩
  dsimp only
  split
  · exact ⟨c, m.bounds, hc⟩
  split
  · exact ⟨_, _, rfl⟩
  split
  next t _ =>
    obtain ⟨c', b, h⟩ := setBound_eq (m.setBytes w.pa ((List.range 8).flatMap (fun _ => toBytes 4 t.toNat))) w.pa ebPoison
    exact ⟨c', b, by rw [MemSt.poisonSector, h, setBytes_eq]⟩
  next =>
    obtain ⟨c', b, h⟩ := setBound_eq { m with cells := c } w.pa (if decide (32 ≤ w.bytes.length) then w.maxEb else ebMax (m.bound w.pa) w.maxEb)
    exact ⟨c', b, by rw [← hc] at h; exact h.trans (by rw [hc])⟩

/-- What R119 to R121 say of a sector that a store writes, by its bytes before (`m`) and after (`u`). -/
structure SectorStored (m u : MemSt) (w : SectorW) : Prop where
  bare : w.bnd = false → ∀ a, u.byte a = (putBytes m w.pa w.bytes).byte a
  kept : w.bnd = true → m.bound w.pa = ebPoison → decide (32 ≤ w.bytes.length) = false → u.cells = m.cells ∧ u.bounds = m.bounds
  plain : w.bnd = true → (m.bound w.pa ≠ ebPoison ∨ decide (32 ≤ w.bytes.length) = true) → w.token = none →
    (bndHome w.pa ≠ .none → u.bound w.pa = ebRead (if decide (32 ≤ w.bytes.length) then w.maxEb else ebMax (m.bound w.pa) w.maxEb)) ∧
    ∀ a, (∀ k, bndHome w.pa = .word k → a < k ∨ k + 2 ≤ a) → u.byte a = (putBytes m w.pa w.bytes).byte a
  token : ∀ k, w.bnd = true → (m.bound w.pa ≠ ebPoison ∨ decide (32 ≤ w.bytes.length) = true) → w.token = some k → bndHome w.pa ≠ .none →
    u.bound w.pa = ebRead ebPoison ∧
    ((∀ x, bndHome w.pa = .word x → x + 2 ≤ w.pa ∨ w.pa + 32 ≤ x) → ∀ j, j < 8 → u.num (w.pa + 4 * j) 4 = k.toNat)

theorem sectorStored (he : m.err w.pa = none) : SectorStored m (applySector m w) w := by
  have hserve (hb : w.bnd = true) (h : m.bound w.pa ≠ ebPoison ∨ decide (32 ≤ w.bytes.length) = true) :
      applySector m w = match w.token with
        | some t => m.poisonSector w.pa t
        | none => (putBytes m w.pa w.bytes).setBound w.pa (if decide (32 ≤ w.bytes.length) then w.maxEb else ebMax (m.bound w.pa) w.maxEb) := by
    rw [applySector_of_no_err he, if_neg (by rw [hb]; decide), if_neg (fun ⟨hp, hf⟩ => h.elim (fun h => h hp) (fun h => by rw [hf] at h; cases h))]
  refine ⟨fun hb a => ?_, fun hb hp hf => ?_, fun hb h ht => ?_, fun k hb h ht hn => ?_⟩
  · rw [applySector_of_no_err he, if_pos hb]
  · rw [applySector_of_no_err he, if_neg (by rw [hb]; decide), if_pos ⟨hp, hf⟩]
    exact ⟨rfl, rfl⟩
  · rw [hserve hb h, ht]
    exact ⟨fun hn => bound_setBound _ hn, fun a ha => byte_setBound _ ha⟩
  · rw [hserve hb h, ht]
    exact ⟨bound_setBound _ hn, fun hw j hj => num_poisonSector m w.pa k hw hj⟩

end

section
variable {s : State} {p : Pend} {w : SectorW} {id : Nat}

/-! #### The step (R142, log entry 8) -/

/-- The step of a store that no earlier operation of its group holds up, and that does not tear. -/
theorem exec_storeReachesHome_of_disjoint (hp : s.mem.pend.find? (fun q => decide (q.id = id)) = some p)
    (hops : ∀ o ∈ groupOps s p.h, o.1 < id → ∀ k ∈ o.2.2, k ∉ p.sectors) (hd : (s.die (dieOf p.core)).off = false) (ht : p.tears = false)
    (hb : ∀ b, (bankSt s b).1 = .active) : ∃ bk, exec (.storeReachesHome id) s = .next (applyPend { s with banks := bk } id) := by
  obtain ⟨bk, hh⟩ := homeStep_of_active hp hd hb ht
  have hf : forceBefore { s with banks := bk } p.h id p.sectors = { s with banks := bk } := forceBefore_of_disjoint hops
  refine ⟨bk, congrArg Host.Outcome.next (hh.trans ?_)⟩
  unfold storeHome
  simp only [hp, hf]
/-- Memory after a store of one sector has gone home. -/
def storedHome (m : MemSt) (id : Nat) (w : SectorW) : MemSt := applySector { m with pend := m.pend.filter (fun q => decide (q.id ≠ id)) } w
theorem applyPend_store (hp : s.mem.pend.find? (fun q => decide (q.id = id)) = some p) (hk : p.kind = .store [w]) (he : s.mem.err w.pa = none) :
    ∃ bk cs, applyPend s id = { s with banks := bk, cores := cs, mem := storedHome s.mem id w } := by
  obtain ⟨bk, ht⟩ := touch_eq s p.banks
  have herr : (storedHome s.mem id w).err w.pa = none := by
    obtain ⟨c, b, hm⟩ := applySector_eq { s.mem with pend := s.mem.pend.filter (fun q => decide (q.id ≠ id)) } w
    rw [storedHome, hm]
    exact he
  have htell (u : State) (a : LaneAcc) (hu : u.mem = storedHome s.mem id w) (ha : a.pa = w.pa) : tellPend u p [a] = u :=
    tellPend_of_no_err (by rw [hu, ha]; exact herr)
  refine ⟨bk, (dropL1 { s with banks := bk } p.core p.sectors).cores, ?_⟩
  unfold applyPend
  rw [hp]
  dsimp only
  rw [hk, ht]
  exact htell _ _ rfl rfl

end

/-- Settles O25: no operation goes before the store, so the step is the write of its sector. -/
theorem storeReachesHome : Obligations.StoreReachesHome := by
  intro s p w hp hk hops _ hs he hd ht hb full old byte
  have hsec : p.sectors = [sectorOf w.pa] := by rw [Pend.sectors, hk]; rfl
  obtain ⟨bk, hx⟩ := exec_storeReachesHome_of_disjoint hp (fun o ho hlt k hko hks => by
    rw [hsec, List.mem_singleton] at hks
    exact hops o ho hlt (hks ▸ hko)) hd ht hb
  obtain ⟨bk', cs, ha⟩ := applyPend_store (s := { s with banks := bk }) hp hk he
  obtain ⟨c, b, hm⟩ := applySector_eq { s.mem with pend := s.mem.pend.filter (fun q => decide (q.id ≠ p.id)) } w
  obtain ⟨hbare, hkept, hplain, htoken⟩ :=
    sectorStored (m := { s.mem with pend := s.mem.pend.filter (fun q => decide (q.id ≠ p.id)) }) (w := w) he
  have hbyte (a : Nat) := byte_putBytes { s.mem with pend := s.mem.pend.filter (fun q => decide (q.id ≠ p.id)) } w.pa hs a
  refine ⟨_, hx.trans (congrArg Host.Outcome.next ha), congrArg MemSt.pend hm, rfl, fun h a => (hbare h a).trans (hbyte a), hkept, fun h hold htok => ?_,
    htoken⟩
  obtain ⟨hbound, hbytes⟩ := hplain h hold htok
  exact ⟨hbound, fun a hw => (hbytes a hw).trans (hbyte a)⟩

end Sys2Proof.Machine

namespace Sys2Proof.Machine

/-! ### Commit points that fail (R115, R116) -/

section
variable {s t u : State} {i : Instr}

/-! #### What counts leave alone -/

theorem view_dev (s : State) (core ev n k t : Nat) : (s.view core ev n k t).dev = s.dev := by
  unfold State.view
  dsimp only
  split <;> rfl
theorem count_dev (s : State) (core f ev n : Nat) (team : Option (Nat × Nat)) : (s.count core f ev n team).dev = s.dev := by
  unfold State.count
  dsimp only
  split
  · rfl
  · split
    · rfl
    · exact view_dev ..

/-- `t` is `s` for a word that issues, and for its traps: groups, memory, tasks and the device are the same. -/
structure SameIssue (s t : State) : Prop extends SameGroups s t where
  tasks : t.work.tasks = s.work.tasks
  dev : t.dev = s.dev

theorem SameIssue.refl (s : State) : SameIssue s s := ⟨.refl s, rfl, rfl⟩
theorem SameIssue.trans (hst : SameIssue s t) (htu : SameIssue t u) : SameIssue s u :=
  ⟨hst.toSameGroups.trans htu.toSameGroups, htu.tasks.trans hst.tasks, htu.dev.trans hst.dev⟩
theorem sameIssue_bump (s : State) (h ev n : Nat) : SameIssue s (s.bump h ev n) :=
  ⟨sameGroups_bump s h ev n, (accounts_count ..).tasks, count_dev ..⟩
theorem SameIssue.curG (k : SameIssue s t) : t.curG = s.curG := k.keepsGroups.curG
theorem SameIssue.vectorPc (k : SameIssue s t) (cause : Nat) : vectorPc t cause = vectorPc s cause := by
  rw [Machine.vectorPc, State.num, k.mem, k.dev, Machine.vectorPc, State.num]

/-! #### A trap keeps memory and tasks (R45, R325) -/

theorem enterAt_tasks (v : PC) (s : State) (h cause payload slot : Nat) (forced : Bool) (m pcm : Mask) (tpc : PC) (epc : Option PC) :
    (enterAt v s h cause payload slot forced m pcm tpc epc none).work.tasks = s.work.tasks := by
  obtain ⟨r, soft, q, n, hc, -⟩ := capture_spec s h
  have ht : (capture s h none).work.tasks = s.work.tasks := by rw [hc]; rfl
  exact ht
/-- An entry at a vector of its own, or at that of MISPC (R61). -/
theorem enterSupervisor_keeps {h cause payload slot : Nat} {forced : Bool} {m pcm : Mask} {tpc : PC} {epc : Option PC}
    (hv : slotOf (vectorPc s 0x25) ≠ 3) :
    (enterSupervisor s h cause payload slot forced m pcm tpc epc none).mem = s.mem ∧
      (enterSupervisor s h cause payload slot forced m pcm tpc epc none).work.tasks = s.work.tasks := by
  unfold enterSupervisor
  dsimp only
  split
  · exact ⟨enterAt_mem .., enterAt_tasks ..⟩
  · exact ⟨enterAt_mem .., enterAt_tasks ..⟩
theorem trap_keeps {cause payload : Nat} {m : Mask} {own : Bool} (hsv : s.curG.sp.sv = false) (hv : slotOf (vectorPc s 0x25) ≠ 3) :
    (trap s cause payload m own).mem = s.mem ∧ (trap s cause payload m own).work.tasks = s.work.tasks := by
  unfold trap
  rw [hsv, if_neg Bool.false_ne_true]
  dsimp only
  exact enterSupervisor_keeps (s := unissue s) hv

/-! #### The deferred fault (R115 to R117) -/

/-- What a fault of user mode leaves: memory and tasks as they were, and an issue that has trapped. -/
structure Faulted (s t : State) : Prop where
  mem : t.mem = s.mem
  tasks : t.work.tasks = s.work.tasks
  trapped : t.cur.trapped = true

theorem SameIssue.faulted (k : SameIssue s t) (h : Faulted t u) : Faulted s u := ⟨h.mem.trans k.mem, h.tasks.trans k.tasks, h.trapped⟩
theorem faulted_trap (hsv : s.curG.sp.sv = false) (hv : slotOf (vectorPc s 0x25) ≠ 3) (cause payload : Nat) (m : Mask) (own : Bool) :
    Faulted s (trap s cause payload m own) := by
  obtain ⟨hm, ht⟩ := trap_keeps (cause := cause) (payload := payload) (m := m) (own := own) hsv hv
  exact ⟨hm, ht, trap_trapped ..⟩
theorem faulted_deliver (hsv : s.curG.sp.sv = false) (hv : slotOf (vectorPc s 0x25) ≠ 3) (cause payload s62 : Nat) :
    Faulted s (deliver s cause payload s62) := by
  have hb := sameIssue_bump (unissue s) s.cur.h 0x11 1
  unfold deliver
  split
  · exact faulted_trap hsv hv ..
  · exact ⟨hb.mem, hb.tasks, rfl⟩
theorem faulted_deferredTrap (hsv : s.curG.sp.sv = false) (hv : slotOf (vectorPc s 0x25) ≠ 3) (cause payload : Nat) (m : Mask) (s62 : Nat) :
    Faulted s (deferredTrap s cause payload m s62) := by
  have hk : SameIssue s (if cause = 0x20 ∨ cause = 0x21 then s.bump s.cur.h 0x14 1 else s) := by
    split
    · exact sameIssue_bump ..
    · exact .refl s
  unfold deferredTrap
  generalize (if cause = 0x20 ∨ cause = 0x21 then s.bump s.cur.h 0x14 1 else s) = u at hk
  refine hk.faulted ?_
  rw [← hk.curG] at hsv
  rw [← hk.vectorPc] at hv
  dsimp only
  split
  · exact faulted_deliver hsv hv ..
  · have hb := sameIssue_bump u u.cur.h 0x12 1
    exact hb.faulted (faulted_trap (by rw [hb.curG]; exact hsv) (by rw [hb.vectorPc]; exact hv) ..)

/-! #### Words with commit points -/

/-- A word with a commit point issues by the checks of R177. -/
theorem exec_of_commitOf {l : Nat} (h : commitOf s i l ≠ Commit.none) : ∃ body, exec i s = issue i s body := by
  unfold commitOf at h
  dsimp only at h
  split at h
  case h_50 => exact absurd rfl h
  all_goals
    unfold exec
    exact ⟨_, rfl⟩
theorem laneFail_none (s : State) (l : Nat) : laneFail s Commit.none l = none := by
  simp [laneFail, Commit.none]
theorem exec_of_commitFails (h : commitFails s i ≠ []) : ∃ body, exec i s = issue i s body := by
  obtain ⟨f, hf⟩ := List.exists_mem_of_ne_nil _ h
  obtain ⟨l, -, hl⟩ := List.mem_filterMap.1 hf
  refine exec_of_commitOf (l := l) fun hn => ?_
  rw [hn, laneFail_none] at hl
  cases hl
/-- A failing commit point goes before every other fault but those of decoding (R116). -/
theorem issue_of_commitFails (h : commitFails s i ≠ []) (hp : privFails s i = false) (hf : fieldFails s i = false) (body : State → State) :
    issue i s body = .next (deferred s (commitFails s i)) := by
  unfold issue
  rw [hp, if_neg Bool.false_ne_true, hf, if_neg Bool.false_ne_true]
  split
  next hc => exact absurd hc h
  next => rfl

end

/-! ### The containment handler (R125, R126) -/

section
variable {s : State}

/-- The lanes that go to the handler: its PC is not among what changes. -/
theorem foldl_setLane_chandler (ls : List Nat) (g : Group) :
    ls.foldl (fun g l => g.setLane l (fun x => { x with pc := g.sp.chandler })) g =
      ls.foldl (fun h l => h.setLane l (fun x => { x with pc := g.sp.chandler })) g := by
  induction ls generalizing g with
  | nil => rfl
  | cons l ls ih => exact ih (g.setLane l (fun x => { x with pc := g.sp.chandler }))

/-- The scalar registers that a delivery writes. -/
def deliveredS (g : Group) (pc : PC) (cause payload s62 : Nat) : Group :=
  (((g.setS 60 (SCell.exact cause)).setS 61 (SCell.exact payload)).setS 62 (SCell.exact s62)).setS 63 (SCell.exact pc.toNat)
theorem deliveredS_eq (g : Group) (pc : PC) (cause payload s62 : Nat) :
    ∃ rs soft, deliveredS g pc cause payload s62 = { g with r := { g.r with s := rs }, soft := soft } ∧
      ∀ n, Tb.get SCell.zero rs n = if n = 60 then SCell.exact cause else if n = 61 then SCell.exact payload else if n = 62 then SCell.exact s62
        else if n = 63 then SCell.exact pc.toNat else g.sAt n := by
  obtain ⟨rs, soft, heq, hrs⟩ :=
    foldl_setS_eq (fun i => SCell.exact ([cause, payload, s62, pc.toNat].getD i 0)) 60 [0, 1, 2, 3] g
  refine ⟨rs, soft, heq, fun n => (hrs n).trans ?_⟩
  simp only [List.mem_cons, List.not_mem_nil, or_false]
  split
  next h =>
    obtain ⟨hn, h⟩ := h
    obtain h | h | h | h := h
    all_goals
      obtain ⟨k, rfl⟩ := Nat.exists_eq_add_of_le hn
      obtain rfl : k = _ := by simpa using h
      rfl
  next h =>
    rw [if_neg (by omega), if_neg (by omega), if_neg (by omega), if_neg (by omega)]

/-- The group after delivery to its handler (R126). -/
def deliveredGroup (g : Group) (m : Mask) (pc : PC) (cause payload s62 : Nat) : Group :=
  (lanesOf m).foldl (fun g l => g.setLane l (fun x => { x with pc := g.sp.chandler }))
    (deliveredS { g with sp := { g.sp with hnd := true, hndMask := m } } pc cause payload s62)
theorem deliveredGroup_eq (g : Group) (m : Mask) (pc : PC) (cause payload s62 : Nat) :
    ∃ rs soft, deliveredGroup g m pc cause payload s62 =
        (lanesOf m).foldl (fun h l => h.setLane l (fun x => { x with pc := g.sp.chandler }))
          { g with sp := { g.sp with hnd := true, hndMask := m }, r := { g.r with s := rs }, soft := soft } ∧
      ∀ n, Tb.get SCell.zero rs n = if n = 60 then SCell.exact cause else if n = 61 then SCell.exact payload else if n = 62 then SCell.exact s62
        else if n = 63 then SCell.exact pc.toNat else g.sAt n := by
  obtain ⟨rs, soft, heq, hrs⟩ := deliveredS_eq { g with sp := { g.sp with hnd := true, hndMask := m } } pc cause payload s62
  refine ⟨rs, soft, ?_, hrs⟩
  rw [deliveredGroup, heq, foldl_setLane_chandler]
theorem deliveredGroup_lane (g : Group) (m : Mask) (pc : PC) (cause payload s62 : Nat) {l : Nat} (hl : l < g.lanes.length) :
    (deliveredGroup g m pc cause payload s62).lane l = if m.getLsbD l then { g.lane l with pc := g.sp.chandler } else g.lane l := by
  obtain ⟨rs, soft, heq, -⟩ := deliveredGroup_eq g m pc cause payload s62
  rw [heq]
  refine (foldl_setLane_lane (fun _ x => { x with pc := g.sp.chandler }) (nodup_lanesOf m) _ (by exact hl)).trans ?_
  simp only [mem_lanesOf]
  rfl

/-- Delivery sends the issuing lanes to the handler (R126), where its PC can be entered (R61). -/
theorem deliver_eq (s : State) (cause payload s62 : Nat) (hslot : slotOf s.curG.sp.chandler ≠ 3) :
    let b := (unissue s).bump s.cur.h 0x11 1
    deliver s cause payload s62 =
      { b.upG (fun g => deliveredGroup g b.cur.mask b.cur.pc cause payload s62) with cur := { b.cur with trapped := true } } := by
  unfold deliver
  rw [if_neg hslot]
  rfl
theorem deliver_curG (hr : (Tb.get? s.work.groups s.cur.h).isSome = true) (cause payload s62 : Nat) (hslot : slotOf s.curG.sp.chandler ≠ 3) :
    (deliver s cause payload s62).curG = deliveredGroup (unissue s).curG s.cur.mask s.cur.pc cause payload s62 := by
  have hb := sameIssue_bump (unissue s) s.cur.h 0x11 1
  have hres : (Tb.get? ((unissue s).bump s.cur.h 0x11 1).work.groups ((unissue s).bump s.cur.h 0x11 1).cur.h).isSome = true := by
    rw [hb.groups, hb.cur]
    exact (upG_resident s _ _).trans hr
  have hcur : ((unissue s).bump s.cur.h 0x11 1).cur = s.cur := hb.cur
  rw [deliver_eq s cause payload s62 hslot]
  refine (upG_curG ((unissue s).bump s.cur.h 0x11 1) _ hres).trans ?_
  rw [hb.curG, hcur]

/-- A deferred fault of a containable cause goes to a handler that is set and not running (R125). -/
theorem deferredTrap_delivers {cause : Nat} (hc : cause ∈ [1, 6, 7, 0x20]) (hsv : s.curG.sp.sv = false) (hnd : s.curG.sp.hnd = false)
    (hch : s.curG.sp.chandler ≠ 0) (payload : Nat) (m : Mask) (s62 : Nat) :
    ∃ u, SameIssue s u ∧ deferredTrap s cause payload m s62 = deliver u cause payload s62 := by
  have hk : SameIssue s (if cause = 0x20 ∨ cause = 0x21 then s.bump s.cur.h 0x14 1 else s) := by
    split
    · exact sameIssue_bump ..
    · exact .refl s
  have hcont : (containable cause || decide (cause = 0x20)) = true := by
    simp only [List.mem_cons, List.not_mem_nil, or_false] at hc
    rcases hc with rfl | rfl | rfl | rfl <;> rfl
  refine ⟨_, hk, ?_⟩
  unfold deferredTrap
  dsimp only
  rw [hk.curG, hsv, hnd, hcont, decide_eq_true hch]
  rfl

end

/-- Settles O15: a failed commit point goes before every effect of its word, and its fault, handled or trapped, keeps memory and tasks. -/
theorem commitFailures : Obligations.CommitFailures := by
  refine ⟨fun i s h hu hp hf _ hv => ?_, fun s cause payload m s62 hr hsv hnd hch hslot hcause => ?_⟩
  · obtain ⟨body, hx⟩ := exec_of_commitFails h
    obtain ⟨hmem, htasks, htrapped⟩ := faulted_deferredTrap hu.2 hv (chooseFail (commitFails s i)).1 (chooseFail (commitFails s i)).2
      (maskOf ((commitFails s i).map (·.lane))) (maskOf ((commitFails s i).map (·.lane))).toNat
    exact ⟨hx.trans (issue_of_commitFails h hp hf body), hmem, htasks, htrapped⟩
  · intro g g'
    obtain ⟨u, hu, hd⟩ := deferredTrap_delivers hcause hsv hnd hch payload m s62
    have hru : (Tb.get? u.work.groups u.cur.h).isSome = true := by rw [hu.groups, hu.cur]; exact hr
    have hslotu : slotOf u.curG.sp.chandler ≠ 3 := by rw [hu.curG]; exact hslot
    have hg' : g' = deliveredGroup (unissue u).curG u.cur.mask u.cur.pc cause payload s62 :=
      (congrArg State.curG hd).trans (deliver_curG hru cause payload s62 hslotu)
    obtain ⟨rs, soft, heq, hrs⟩ := deliveredGroup_eq (unissue u).curG u.cur.mask u.cur.pc cause payload s62
    refine ⟨?_, ?_, ?_, ?_, ?_, fun n => ?_, fun l hl => ?_⟩
    · rw [hd, deliver_eq u cause payload s62 hslotu]
      exact (bump_mem ..).trans hu.mem
    · rw [hg', heq, foldl_setLane_eq, unissue_curG u hru, hu.curG, hu.cur]
    · rw [hg', heq, foldl_setLane_eq, unissue_curG u hru, hu.curG]
    · rw [hg', heq, foldl_setLane_eq, unissue_curG u hru, hu.curG]
    · rw [hg', heq, foldl_setLane_eq, unissue_curG u hru, hu.curG]
    · rw [hg', heq, foldl_setLane_eq]
      refine (hrs n).trans ?_
      rw [unissue_curG u hru, hu.curG, hu.cur]
      rfl
    · have hlu : l < u.curG.lanes.length := by rw [hu.curG]; exact hl
      rw [hg', deliveredGroup_lane _ _ _ _ _ _ (by rw [unissue_length u hru]; exact hlu), unissue_lane u hru hlu, unissue_curG u hru, hu.curG, hu.cur]
      split
      · rfl
      · rfl

end Sys2Proof.Machine

namespace Sys2Proof.Machine

/-! ### Loads whose addresses fail (R225, Table 8-3) -/

section
variable {s t : State} {e : Entry} {l j : Nat}

/-! #### Lanes that have their results -/

/-- A lane that is done holds its result words, and every other lane is as it was. -/
theorem sameLane_done (e : Entry) {cs : List VCell} (hc : cs.length ≤ 8) (h : j ≠ l) : SameLane e (e.done l cs) j := by
  refine ⟨fun k hk => ?_, ?_, ?_⟩
  · exact (get_setCells e l _ _).trans (if_neg (by omega))
  · rw [getLsbD_done, decide_eq_false (fun hc => h hc.2), Bool.or_false]
  · rw [Entry.done, Tb.get?_erase, if_neg h]
theorem foldl_done (cs : Nat → List VCell) (hc : ∀ l, (cs l).length ≤ 8) {ls : List Nat} (hn : ls.Nodup) (hl : ∀ l ∈ ls, l < 64) (e : Entry) :
    let r := ls.foldl (fun e l => e.done l (cs l)) e
    LanesOnly e r ∧
      (∀ l ∈ ls, r.performed.getLsbD l = true ∧ ∀ k, k < (cs l).length → Tb.get VCell.zero r.slots (8 * l + k) = (cs l).getD k VCell.zero) ∧
      ∀ j, j ∉ ls → SameLane e r j := by
  induction ls generalizing e with
  | nil => exact ⟨⟨_, _, _, rfl⟩, fun l hl => absurd hl List.not_mem_nil, fun j _ => ⟨fun _ _ => rfl, rfl, rfl⟩⟩
  | cons x ls ih =>
    obtain ⟨hx, hn⟩ := List.nodup_cons.1 hn
    obtain ⟨ho, hs, hf⟩ := ih hn (fun l h => hl l (List.mem_cons_of_mem _ h)) (e.done x (cs x))
    have ho1 : LanesOnly e (e.done x (cs x)) := ⟨_, _, _, rfl⟩
    refine ⟨ho1.trans ho, fun l h => ?_, fun j hj => ?_⟩
    · rcases List.mem_cons.1 h with rfl | h
      · have hsame := hf l hx
        have hlen := hc l
        refine ⟨hsame.performed.trans ?_, fun k hk => (hsame.slots k (by omega)).trans ?_⟩
        · rw [getLsbD_done, decide_eq_true ⟨hl l List.mem_cons_self, rfl⟩, Bool.or_true]
        · refine (get_setCells e l _ _).trans ?_
          rw [if_pos ⟨by omega, by omega⟩, Nat.add_sub_cancel_left]
      · exact hs l h
    · rw [List.mem_cons, not_or] at hj
      exact (sameLane_done e (hc x) hj.1).trans (hf j hj.2)

/-! #### A lane whose address fails -/

/-- The token of an address that fails (Table 8-3). -/
def failTok (va : Nat) : Word := vaTok (if 2 ^ 57 ≤ va then 5 else 4) va
/-- The result words of a lane whose address fails. -/
def failCells (n va : Nat) : List VCell := elemCells n ⟨0, ebPoison, some (failTok va)⟩
theorem length_failCells (n va : Nat) : (failCells n va).length = if n ≤ 4 then 1 else n / 4 := length_elemCells ..
theorem length_failCells_le (i : Instr) (va : Nat) : (failCells (loadBytes i) va).length ≤ 8 := by
  have := loadBytes_le i
  rw [length_failCells]
  split <;> omega
theorem getD_failCells (n va : Nat) {k : Nat} (hk : k < if n ≤ 4 then 1 else n / 4) : (failCells n va).getD k VCell.zero = VCell.tok (failTok va) := by
  have hlen : k < (failCells n va).length := (length_failCells n va).symm ▸ hk
  rw [List.getD_eq_getElem _ _ hlen]
  simp only [failCells, elemCells, List.getElem_map]
/-- A lane whose offset is not poisoned, and whose address is too high or not aligned. -/
structure AddressFails (e : Entry) (l : Nat) : Prop where
  offset : (Tb.get VCell.zero e.slots (8 * l)).eb ≠ ebPoison
  address : 2 ^ 57 ≤ entryVa e l ∨ entryVa e l % alignOf e.instr ≠ 0

theorem AddressFails.congr {e e' : Entry} (h : AddressFails e l) (ho : LanesOnly e e') (hs : SameLane e e' l) : AddressFails e' l := by
  have hva := entryVa_congr ho hs
  have h0 := hs.slots 0 (by decide)
  rw [Nat.add_zero] at h0
  have hi : e'.instr = e.instr := by obtain ⟨p, sl, ac, rfl⟩ := ho; rfl
  exact ⟨h0 ▸ h.offset, by rw [hva, hi]; exact h.address⟩
/-- Table 8-3 checks the address before any translation. -/
theorem laneAccess_fails (x : Ctx) (via : Option (Nat × BReg)) (k : AccKind) {align va : Nat} (h : 2 ^ 57 ≤ va ∨ va % align ≠ 0) :
    laneAccess s x via k align va = (s, .fail (if 2 ^ 57 ≤ va then 5 else 4)) := by
  unfold laneAccess
  split
  next hv => rfl
  next hv => rw [if_pos (h.resolve_left hv)]
/-- `t` is `s` with a new outstanding result, but for counts. -/
structure HasEntry (s : State) (e : Entry) (t : State) : Prop where
  groups : KeepsGroups (addEntry s s.cur.h e) t
  mem : t.mem = s.mem

theorem HasEntry.bump (ht : HasEntry s e t) (h ev n : Nat) : HasEntry s e (t.bump h ev n) :=
  ⟨ht.groups.trans (keepsGroups_bump ..), (bump_mem ..).trans ht.mem⟩
theorem HasEntry.findEntry (ht : HasEntry s e t) (hn : s.Numbered) (hr : (Tb.get? s.work.groups s.cur.h).isSome = true) (he : e.id = s.ids) :
    findEntry t s.cur.h s.ids = some e :=
  (ht.groups.findEntry ..).trans (findEntry_addEntry hn hr he)
theorem HasEntry.modEntry (ht : HasEntry s e t) (hn : s.Numbered) (he : e.id = s.ids) (f : Entry → Entry) :
    HasEntry s (f e) (modEntry t s.cur.h s.ids f) := by
  refine ⟨?_, ht.mem⟩
  rw [← modEntry_addEntry hn s.cur.h he f]
  let mark : Group → Group := fun g => { g with outst := g.outst.map (fun y => if y.id = s.ids then f y else y) }
  exact ⟨ht.groups.cur, congrArg (fun gs => Tb.modify gs s.cur.h mark) ht.groups.groups⟩
theorem HasEntry.tokenLane (ht : HasEntry s e t) (hn : s.Numbered) (he : e.id = s.ids) (hu : isUniformLoad e.instr = false)
    (ha : isAtomic e.instr = false) (l : Nat) (w : Word) :
    HasEntry s (e.done l (elemCells (loadBytes e.instr) ⟨0, ebPoison, some w⟩)) (tokenLane t s.cur.h s.ids l w) := by
  have h := ht.modEntry hn he (fun e =>
    if isUniformLoad e.instr then e.doneU (SCell.tok w)
    else if isAtomic e.instr then e.done l ((List.range (atomWords e.instr)).map (fun _ => VCell.tok w))
    else e.done l (elemCells (loadBytes e.instr) ⟨0, ebPoison, some w⟩))
  rw [hu, if_neg Bool.false_ne_true, ha, if_neg Bool.false_ne_true] at h
  exact h

/-- A lane whose address fails has its token, at once. -/
theorem startLane_fails (via : Option (Nat × BReg)) (hn : s.Numbered) (hr : (Tb.get? s.work.groups s.cur.h).isSome = true)
    (he : e.id = s.ids) (hu : isUniformLoad e.instr = false) (ha : isAtomic e.instr = false) (hf : AddressFails e l) (ht : HasEntry s e t)
    (ps : List PageAt) :
    ∃ u, HasEntry s (e.done l (failCells (loadBytes e.instr) (entryVa e l))) u ∧ startLane (issueCtx s) via s.ids (t, ps) l = (u, ps) := by
  have hfind : findEntry t (issueCtx s).h s.ids = some e := ht.findEntry hn hr he
  refine ⟨_, (ht.bump s.cur.h 0x13 1).tokenLane hn he hu ha l (failTok (entryVa e l)), ?_⟩
  unfold startLane
  dsimp only
  rw [hfind]
  dsimp only
  rw [hu, Bool.not_false, Bool.true_and, decide_eq_false hf.offset, if_neg Bool.false_ne_true, laneAccess_fails _ via _ hf.address]
  rfl
theorem foldl_startLane_fails (via : Option (Nat × BReg)) (hn : s.Numbered) (hr : (Tb.get? s.work.groups s.cur.h).isSome = true)
    {ls : List Nat} (hls : ls.Nodup) (he : e.id = s.ids) (hu : isUniformLoad e.instr = false) (ha : isAtomic e.instr = false)
    (hf : ∀ l ∈ ls, AddressFails e l) (ht : HasEntry s e t) (ps : List PageAt) :
    ∃ u, HasEntry s (ls.foldl (fun r l => r.done l (failCells (loadBytes e.instr) (entryVa e l))) e) u ∧
      ls.foldl (startLane (issueCtx s) via s.ids) (t, ps) = (u, ps) := by
  have key : ∀ r, LanesOnly e r → (∀ l ∈ ls, SameLane e r l) → ∀ t, HasEntry s r t →
      ∃ u, HasEntry s (ls.foldl (fun r l => r.done l (failCells (loadBytes e.instr) (entryVa e l))) r) u ∧
        ls.foldl (startLane (issueCtx s) via s.ids) (t, ps) = (u, ps) := by
    induction ls with
    | nil => exact fun r _ _ t ht => ⟨t, ht, rfl⟩
    | cons x ls ih =>
      intro r ho hs t ht
      obtain ⟨hx, hls⟩ := List.nodup_cons.1 hls
      have hi : r.instr = e.instr := by obtain ⟨p, sl, ac, rfl⟩ := ho; rfl
      have hid : r.id = s.ids := by obtain ⟨p, sl, ac, rfl⟩ := ho; exact he
      have hsx := hs x List.mem_cons_self
      obtain ⟨u, hu1, hstart⟩ := startLane_fails via hn hr hid (hi ▸ hu) (hi ▸ ha) ((hf x List.mem_cons_self).congr ho hsx) ht ps
      rw [List.foldl_cons, List.foldl_cons, hstart]
      rw [hi, entryVa_congr ho hsx] at hu1
      exact ih hls (fun l hl => hf l (List.mem_cons_of_mem _ hl)) _ (ho.trans ⟨_, _, _, rfl⟩)
        (fun l hl => (hs l (List.mem_cons_of_mem _ hl)).trans (sameLane_done r (length_failCells_le ..) (ne_of_mem_of_not_mem hl hx))) u hu1
  exact key e ⟨_, _, _, rfl⟩ (fun _ _ => ⟨fun _ _ => rfl, rfl, rfl⟩) t ht

end

section
variable {s : State} {i : Instr}

/-! #### The issue of a load -/

/-- The entry of a load after the addresses of all its lanes have failed. -/
def failedEntry (s : State) (i : Instr) (uop : DWord) (off : Option Reg) : Entry :=
  (accessLanes i s.cur.mask).foldl (fun r l => r.done l (failCells (loadBytes i) (entryVa (capturedEntry s i uop off) l)))
    (capturedEntry s i uop off)
theorem failedEntry_spec (s : State) (i : Instr) (uop : DWord) (off : Option Reg) :
    LanesOnly (capturedEntry s i uop off) (failedEntry s i uop off) ∧ ∀ l ∈ accessLanes i s.cur.mask,
      (failedEntry s i uop off).performed.getLsbD l = true ∧ ∀ k, k < (if loadBytes i ≤ 4 then 1 else loadBytes i / 4) →
        Tb.get VCell.zero (failedEntry s i uop off).slots (8 * l + k) = VCell.tok (failTok (entryVa (capturedEntry s i uop off) l)) := by
  have hsub := accessLanes_sublist i s.cur.mask
  obtain ⟨ho, hs, -⟩ := foldl_done (fun l => failCells (loadBytes i) (entryVa (capturedEntry s i uop off) l))
    (fun l => length_failCells_le ..) (hsub.nodup (nodup_lanesOf _)) (fun l hl => lanesOf_lt _ l (hsub.subset hl)) (capturedEntry s i uop off)
  refine ⟨ho, fun l hl => ?_⟩
  obtain ⟨hp, hk⟩ := hs l hl
  refine ⟨hp, fun k hlt => (hk k ?_).trans ?_⟩
  · rw [failCells, length_elemCells]
    exact hlt
  · exact getD_failCells _ _ hlt
theorem failedEntry_id (s : State) (i : Instr) (uop : DWord) (off : Option Reg) : (failedEntry s i uop off).id = s.ids := by
  obtain ⟨⟨p, sl, ac, he⟩, -⟩ := failedEntry_spec s i uop off
  rw [he]
  rfl

/-- A load whose lanes all fail their address checks is performed at its issue: no lane is rejected, and none asks for a page. -/
theorem loadBody_fails {n : BitVec 3} {uop : DWord} {off : Option Reg} (hn : s.Numbered) (hr : (Tb.get? s.work.groups s.cur.h).isSome = true)
    (hf : s.free_) (hu : isUniformLoad i = false) (ha : isAtomic i = false) (hq : acqOf i = none)
    (hb : ∀ l ∈ accessLanes i s.cur.mask, AddressFails (capturedEntry s i uop off) l) :
    HasEntry s (failedEntry s i uop off) (loadBody i n uop off s) := by
  obtain ⟨hdbg, -, hroom⟩ := hf
  have hsub := accessLanes_sublist i s.cur.mask
  obtain ⟨t, ht, hfold⟩ := foldl_startLane_fails (some (n.toNat, s.cur.rd.b n.toNat)) hn hr (hsub.nodup (nodup_lanesOf _))
    (e := capturedEntry s i uop off) rfl hu ha hb ⟨.refl _, rfl⟩ []
  have hfind := ht.findEntry hn hr (failedEntry_id ..)
  have hinstr : acqOf (failedEntry s i uop off).instr = none := by
    obtain ⟨⟨p, sl, ac, he⟩, -⟩ := failedEntry_spec s i uop off
    rw [he]
    exact hq
  have heq : loadBody i n uop off s = t := by
    unfold loadBody
    extract_lets m x b slots e ls dm free acc rej
    have he : e = capturedEntry s i uop off := by cases off <;> rfl
    have hdm : dm = (0, 0) := dataMatch_of_no_dbg hdbg ..
    have hacc : acc = ls := List.take_of_length_le (hsub.length_le.trans hroom)
    have hrej : rej = 0 := by
      have hdrop : ls.drop free = [] := List.drop_eq_nil_of_le (hsub.length_le.trans hroom)
      refine (if_neg (by rw [hu]; decide)).trans ?_
      rw [hdrop]
      rfl
    have hrun : ls.foldl (startLane x (some (n.toNat, b)) (capturedEntry s i uop off).id) (addEntry s x.h (capturedEntry s i uop off), []) =
        (t, []) := hfold
    rw [if_neg (by rw [hdm]; exact not_not.2 rfl), hacc, hrej, he, hrun]
    dsimp only
    rw [if_neg (fun h => h.2 rfl)]
    exact endStart_none (x := issueCtx s) hfind hinstr _
  rw [heq]
  exact ht

/-- What an issue shows of a result that its body has put outstanding. -/
theorem HasEntry.settled {e : Entry} {t : State} (ht : HasEntry s e t) (hr : (Tb.get? s.work.groups s.cur.h).isSome = true) (he : e.contested = []) :
    (settle s i t).mem = s.mem ∧ (settle s i t).curG.outst.map Entry.plain = s.curG.outst.map Entry.plain ++ [e] := by
  obtain ⟨o, hg, ho⟩ := settle_curG (s := s) t i
  have hadd : (addEntry s s.cur.h e).curG = { s.curG with outst := s.curG.outst ++ [e] } := upG_curG s (fun g => { g with outst := g.outst ++ [e] }) hr
  refine ⟨(settle_mem ..).trans ht.mem, ?_⟩
  rw [hg, ho, ht.groups.curG, hadd, List.map_append, List.map_singleton, Entry.plain, ← he]
/-- A vector load whose addresses all fail: its entry has every result, and memory keeps its value. -/
theorem VectorLoad.fails {b : BitVec 3} {o : Reg} {wd : Width} (h : VectorLoad i b o wd) (hq : acqOf i = none) (hi : Issuing s i) (hn : s.Numbered)
    (hf : s.free_)
    (hva : ∀ l, s.cur.mask.getLsbD l = true → (s.rv o l).eb ≠ ebPoison ∧
      (2 ^ 57 ≤ offVa s b (offScale i) (s.rv o l).data.toNat ∨ offVa s b (offScale i) (s.rv o l).data.toNat % widthBytes wd ≠ 0)) :
    ∃ t e, Machine.exec i s = .next t ∧ t.mem = s.mem ∧ t.curG.outst.map Entry.plain = s.curG.outst.map Entry.plain ++ [e] ∧ e.ready = true ∧
      ∀ l k, s.cur.mask.getLsbD l = true → k < wordsOf wd →
        Tb.get VCell.zero e.slots (8 * l + k) = VCell.tok (failTok (offVa s b (offScale i) (s.rv o l).data.toNat)) := by
  have hls : accessLanes i s.cur.mask = lanesOf s.cur.mask := by rw [accessLanes, if_neg (by rw [h.vector]; decide)]
  have hbad : ∀ l ∈ accessLanes i s.cur.mask, AddressFails (capturedEntry s i (vbaseOf s b) (some o)) l := fun l hl => by
    have hm : s.cur.mask.getLsbD l = true := (mem_lanesOf _ l).1 (hls ▸ hl)
    obtain ⟨hoff, haddr⟩ := hva l hm
    have halign : alignOf (capturedEntry s i (vbaseOf s b) (some o)).instr = widthBytes wd := h.align
    refine ⟨?_, ?_⟩
    · rw [offset_captured s i _ o hm]
      exact hoff
    · rw [entryVa_captured h hm, halign]
      exact haddr
  have hbody := loadBody_fails (n := b) hn hi.resident hf h.vector h.notAtomic hq hbad
  obtain ⟨⟨p, sl, ac, he⟩, hlanes⟩ := failedEntry_spec s i (vbaseOf s b) (some o)
  obtain ⟨hmem, hout⟩ := hbody.settled (i := i) hi.resident (by rw [he]; rfl)
  refine ⟨_, failedEntry s i (vbaseOf s b) (some o), (h.exec s).trans (issue_passes i s _ hi.passes), hmem, hout, ?_, fun l k hm hk => ?_⟩
  · refine ready_of_performed fun l hl => (hlanes l ?_).1
    rw [he] at hl
    exact hls ▸ (mem_lanesOf _ l).2 hl
  · rw [wordsOf, ← h.bytes] at hk
    rw [(hlanes l (hls ▸ (mem_lanesOf _ l).2 hm)).2 k hk, entryVa_captured h hm]

end
end Sys2Proof.Machine

namespace Sys2Proof.Machine

/-! ### Stores that would lose a bound (R119, R121, R228) -/

section
variable {s : State} {i : Instr}

/-! #### What a trap of user mode shows (R325) -/

theorem swapIn_frame (area : Nat) (g : Group) : (swapIn area g).frame = g.frame := by
  obtain ⟨⟨rs, rp, rb, bank, soft, hrest⟩, -⟩ := bankIn_swapIn area g
  rw [hrest]
theorem enterAt_tpayload (v : PC) (s : State) (h cause payload slot : Nat) (forced : Bool) (m pcm : Mask) (tpc : PC) (epc : Option PC)
    (hr : (Tb.get? s.work.groups h).isSome = true) :
    ((enterAt v s h cause payload slot forced m pcm tpc epc none).grp h).frame.tpayload = BitVec.ofNat 64 payload := by
  obtain ⟨r, soft, q, n, hc, -⟩ := capture_spec s h
  have hres : (Tb.get? (capture s h none).work.groups h).isSome = true := by
    rw [hc]
    exact (modG_resident s h h _).trans hr
  unfold enterAt
  dsimp only
  rw [modG_grp _ h h _ hres, if_pos rfl, swapIn_frame]

/-- A trap of user mode, at a vector that can be entered. -/
structure TrapEntered (s t : State) (cause payload : Nat) : Prop where
  mem : t.mem = s.mem
  trapped : t.cur.trapped = true
  sv : t.curG.sp.sv = true
  tcause : t.curG.frame.tcause = BitVec.ofNat 11 (chainSlot s s.cur.wpc * 256 + cause)
  tpayload : t.curG.frame.tpayload = BitVec.ofNat 64 payload

theorem trap_entered {cause payload : Nat} {m : Mask} {own : Bool} (hr : (Tb.get? s.work.groups s.cur.h).isSome = true)
    (hsv : s.curG.sp.sv = false) (hv : slotOf (vectorPc s cause) ≠ 3) : TrapEntered s (trap s cause payload m own) cause payload := by
  have hres : (Tb.get? (unissue s).work.groups s.cur.h).isSome = true := (upG_resident s _ _).trans hr
  have hvec : slotOf (vectorPc (unissue s) cause) ≠ 3 := hv
  let q := if own then s.cur.wpc else s.cur.pc
  obtain ⟨g', n, heq, hent⟩ := enterAt_spec (vectorPc (unissue s) cause) (unissue s) s.cur.h cause payload (chainSlot s s.cur.wpc) false m 0 q (some q)
    hres
  have hpay := enterAt_tpayload (vectorPc (unissue s) cause) (unissue s) s.cur.h cause payload (chainSlot s s.cur.wpc) false m 0 q (some q) hres
  have hg : State.curG { (unissue s).modG s.cur.h (fun _ => g') with free := n } = g' := free_modG_grp (unissue s) s.cur.h n g' hres
  have htrap : trap s cause payload m own = { { (unissue s).modG s.cur.h (fun _ => g') with free := n } with
      cur := { s.cur with trapped := true } } := by
    unfold trap enterSupervisor
    dsimp only
    rw [if_neg (by rw [hsv]; exact Bool.false_ne_true), if_pos hvec, heq]
    rfl
  have hcurG : (trap s cause payload m own).curG = g' := by rw [htrap]; exact hg
  rw [heq, free_modG_grp (unissue s) s.cur.h n g' hres] at hpay
  refine ⟨?_, trap_trapped .., ?_, ?_, ?_⟩
  · rw [htrap]; rfl
  · rw [hcurG, hent.sp]
  · rw [hcurG, hent.tcause, b2n, if_neg Bool.false_ne_true, Nat.zero_mul, Nat.zero_add]
  · rw [hcurG, hpay]

theorem SameIssue.trapEntered {u t : State} {cause payload : Nat} (k : SameIssue s u) (h : TrapEntered u t cause payload) :
    TrapEntered s t cause payload := by
  obtain ⟨hm, ht, hsv, htc, htp⟩ := h
  rw [chainSlot, k.cur] at htc
  exact ⟨hm.trans k.mem, ht, hsv, htc, htp⟩
/-- BNDLOSS is not a cause that the containment handler takes (R125). -/
theorem deferredTrap_bndLoss {payload s62 : Nat} {m : Mask} (hr : (Tb.get? s.work.groups s.cur.h).isSome = true) (hsv : s.curG.sp.sv = false)
    (hv : slotOf (vectorPc s 0x21) ≠ 3) : TrapEntered s (deferredTrap s 0x21 payload m s62) 0x21 payload := by
  have hk : SameIssue s ((s.bump s.cur.h 0x14 1).bump s.cur.h 0x12 1) := (sameIssue_bump ..).trans (sameIssue_bump ..)
  have hcont : (containable 0x21 || decide ((0x21 : Nat) = 0x20)) = false := rfl
  have heq : deferredTrap s 0x21 payload m s62 = trap ((s.bump s.cur.h 0x14 1).bump s.cur.h 0x12 1) 0x21 payload m false := by
    have hcur : (s.bump s.cur.h 0x14 1).cur = s.cur := bump_cur ..
    unfold deferredTrap
    dsimp only
    rw [hcont, Bool.and_false, Bool.false_and, Bool.false_and, if_neg Bool.false_ne_true, if_pos (.inr rfl), hcur]
  rw [heq]
  refine hk.trapEntered (trap_entered ?_ ?_ ?_)
  · rw [hk.groups, hk.cur]
    exact hr
  · rw [hk.curG]
    exact hsv
  · rw [hk.vectorPc]
    exact hv

/-! #### The checks of a store through the window (R228) -/

/-- Translations through the window leave the state as it is. -/
theorem translateJobs_window {k : StoreKind} {js : List MemJob} (hw : ∀ j ∈ js, InWindow s k.breg k.acc k.align j.va) :
    translateJobs (issueCtx s) k (s.cur.rd.b k.breg.toNat) s js = (s, js.map (fun j => (j, .ok (windowAcc s k.breg j.va)))) := by
  induction js with
  | nil => rfl
  | cons j js ih =>
    rw [translateJobs, laneAccess_window (hw j List.mem_cons_self)]
    dsimp only
    rw [ih (fun j' hj => hw j' (List.mem_cons_of_mem _ hj))]
    rfl
theorem ebMax_zero_left (e : EB) : ebMax 0 e = e := by
  rw [ebMax]
  split
  next => rfl
  next h => exact (BitVec.eq_of_toNat_eq (Nat.eq_zero_of_not_pos h)).symm
theorem jobEb_single (l : Nat) (m : Mask) (va : Nat) (o : Opd) : jobEb ⟨l, m, va, [o]⟩ = if o.tok.isNone then o.eb else 0 := by
  rw [jobEb, List.filter_singleton]
  cases o.tok.isNone with
  | false => rfl
  | true => exact ebMax_zero_left o.eb
theorem sameIssue_keepRecords (s : State) (core : Nat) : SameIssue s (keepRecords s s core) := ⟨⟨rfl, rfl, rfl⟩, rfl, rfl⟩
/-- Bounds other than zero that reach a page without BND (R119): the first of them is BNDLOSS's. -/
theorem checkJobs_bndLoss {k : StoreKind} {js js' : List MemJob} {j : MemJob} (hcarry : k.carry = false) (hdrop : k.drop = false)
    (hsv : s.cur.rd.sp.sv = false) (hw : ∀ j ∈ js, InWindow s k.breg k.acc k.align j.va)
    (hbnd : ∀ j ∈ js, keepsBnd (windowPa s k.breg j.va) (s.cur.rd.b k.breg.toNat).attr = false)
    (hloss : js.filter (fun j => decide (jobEb j ≠ 0)) = j :: js') :
    ∃ u m, SameIssue s u ∧ checkJobs s i k js = .inl (deferredTrap u 0x21 (jobEb j).toNat m 0) := by
  have hbare : (js.map (fun j => (j, LaneRes.ok (windowAcc s k.breg j.va)))).filter (jobBare s k) =
      js.map (fun j => (j, LaneRes.ok (windowAcc s k.breg j.va))) := by
    refine List.filter_eq_self.2 fun r hr => ?_
    obtain ⟨j, hj, rfl⟩ := List.mem_map.1 hr
    exact congrArg (!·) (hbnd j hj)
  have hpois : (js.map (fun j => (j, LaneRes.ok (windowAcc s k.breg j.va)))).filter
      (fun r => false && r.1.ops.any (fun o => o.tok.isSome)) = [] := List.filter_eq_nil_iff.2 fun _ _ => Bool.false_ne_true
  have hlost : (js.map (fun j => (j, LaneRes.ok (windowAcc s k.breg j.va)))).filter (fun r => decide (jobEb r.1 ≠ 0)) =
      (j :: js').map (fun j => (j, LaneRes.ok (windowAcc s k.breg j.va))) := by
    rw [← hloss, List.filter_map]
    rfl
  refine ⟨keepRecords s s (issueCtx s).core, jobMask (((j :: js').map (fun j => (j, LaneRes.ok (windowAcc s k.breg j.va)))).map (·.1)),
    sameIssue_keepRecords .., ?_⟩
  unfold checkJobs
  dsimp only
  rw [translateJobs_window hw]
  dsimp only
  rw [hbare, hcarry, hdrop, hsv, hpois, if_neg (not_not.2 rfl), Bool.or_false, if_neg Bool.false_ne_true, hlost]
  rfl

/-! #### The store -/

theorem tok_of_laneFail_none {c : Commit} {l : Nat} (h : laneFail s c l = none) {o : Opd} (ho : o ∈ c.ops) : o.tok = none := by
  unfold laneFail at h
  extract_lets sv ptok toks over' amb breach at h
  split at h
  next hc =>
    obtain ⟨htoks, -⟩ := hc
    exact List.filterMap_eq_nil_iff.1 (List.append_eq_nil_iff.1 htoks).1 o ho
  next => cases h
/-- A store that issues has no poisoned data, unless its form carries the tokens (R115). -/
theorem odata_tok_of_passes {d : Reg} {b : BitVec 3} {o : Reg} {wd : Width} {l : Nat} (h : passes s (.st d b o wd .plain) = true)
    (hl : s.cur.mask.getLsbD l = true) : (s.odata d wd l).tok = none := by
  have hnone : commitFails s (.st d b o wd .plain) = [] := by
    simp only [passes, Bool.and_eq_true, decide_eq_true_eq] at h
    exact h.1.2
  have hlane : laneFail s (commitOf s (.st d b o wd .plain) l) l = none :=
    List.filterMap_eq_nil_iff.1 hnone l ((mem_lanesOf _ l).2 hl)
  exact tok_of_laneFail_none hlane (List.mem_cons_of_mem _ List.mem_cons_self)
/-- The one access of a lane of a store. -/
def storeJob (s : State) (d : Reg) (b : BitVec 3) (o : Reg) (wd : Width) (l : Nat) : MemJob := ⟨l, maskOf [l], offVa s b 1 (s.ov o l).v, [s.odata d wd l]⟩
theorem storeJobs_eq (s : State) (d : Reg) (b : BitVec 3) (o : Reg) (wd : Width) :
    storeJobs s d b o wd 1 = (lanesOf s.cur.mask).map (storeJob s d b o wd) := rfl
theorem newJobs_of_not_rejected (hr : s.cur.rd.rejected = none) (js : List MemJob) : newJobs s i js = js :=
  List.filter_eq_self.2 fun x _ => by
    rw [doneLanes_of_not_rejected hr]
    exact decide_eq_true BitVec.and_zero
/-- The first lane that brings a bound. -/
theorem head?_lossy {d : Reg} {b : BitVec 3} {o : Reg} {wd : Width} {l : Nat} (hl : s.cur.mask.getLsbD l = true)
    (hlow : ∀ j, s.cur.mask.getLsbD j = true → j < l → (s.odata d wd j).eb = 0) (hne : jobEb (storeJob s d b o wd l) ≠ 0) :
    ((storeJobs s d b o wd 1).filter (fun j => decide (jobEb j ≠ 0))).head? = some (storeJob s d b o wd l) := by
  rw [storeJobs_eq, lanesOf, List.filter_map, List.filter_filter, List.head?_map, List.head?_filter]
  refine congrArg (Option.map (storeJob s d b o wd)) (List.find?_range_eq_some.2 ⟨?_, ?_, fun j hj => ?_⟩)
  · rw [hl, Bool.and_true]
    exact decide_eq_true hne
  · exact List.mem_range.2 (lanesOf_lt _ l ((mem_lanesOf _ l).2 hl))
  · cases hm : s.cur.mask.getLsbD j with
    | false => rw [Bool.and_false]; rfl
    | true =>
      have hz : jobEb (storeJob s d b o wd j) = 0 := by rw [storeJob, jobEb_single, hlow j hm hj, ite_self]
      rw [Function.comp_apply, decide_eq_false (not_not.2 hz)]
      rfl
/-- A store whose lanes bring a bound to a page without BND traps before it stores a byte (R119, R228). -/
theorem exec_st_bndLoss {d : Reg} {b : BitVec 3} {o : Reg} {wd : Width} {l : Nat} (hi : Issuing s (.st d b o wd .plain)) (hu : s.user)
    (hl : s.cur.mask.getLsbD l = true) (hv : slotOf (vectorPc s 0x21) ≠ 3) (hrej : s.cur.rd.rejected = none)
    (hw : ∀ j, s.cur.mask.getLsbD j = true → InWindow s b .write (widthBytes wd) (offVa s b 1 (s.ov o j).v))
    (hlow : ∀ j, s.cur.mask.getLsbD j = true → j < l → (s.odata d wd j).eb = 0) (hne : (s.odata d wd l).eb ≠ 0)
    (hbnd : ∀ j, s.cur.mask.getLsbD j = true → keepsBnd (windowPa s b (offVa s b 1 (s.ov o j).v)) (s.cur.rd.b b.toNat).attr = false) :
    ∃ t, exec (.st d b o wd .plain) s = .next t ∧ TrapEntered s t 0x21 (s.odata d wd l).eb.toNat := by
  obtain ⟨hsv0, hsv⟩ := hu
  have hmem : ∀ x ∈ storeJobs s d b o wd 1, ∃ j, s.cur.mask.getLsbD j = true ∧ x = storeJob s d b o wd j := fun x hx => by
    obtain ⟨j, hj, rfl⟩ := List.mem_map.1 hx
    exact ⟨j, (mem_lanesOf _ j).1 hj, rfl⟩
  have hjl : jobEb (storeJob s d b o wd l) = (s.odata d wd l).eb := by
    rw [storeJob, jobEb_single, odata_tok_of_passes hi.passes hl]
    rfl
  obtain ⟨js', hloss⟩ := List.head?_eq_some_iff.1 (head?_lossy (b := b) (o := o) hl hlow (hjl ▸ hne))
  obtain ⟨u, m, hsame, hcheck⟩ := checkJobs_bndLoss (i := .st d b o wd .plain) (k := storeKind b (widthBytes wd) .plain) rfl rfl hsv0
    (fun x hx => by obtain ⟨j, hj, rfl⟩ := hmem x hx; exact hw j hj) (fun x hx => by obtain ⟨j, hj, rfl⟩ := hmem x hx; exact hbnd j hj) hloss
  rw [hjl] at hcheck
  have htrap : TrapEntered u (deferredTrap u 0x21 (s.odata d wd l).eb.toNat m 0) 0x21 (s.odata d wd l).eb.toNat := by
    refine deferredTrap_bndLoss ?_ ?_ ?_
    · rw [hsame.groups, hsame.cur]
      exact hi.resident
    · rw [hsame.curG]
      exact hsv
    · rw [hsame.vectorPc]
      exact hv
  have hbody : storeBody (.st d b o wd .plain) (storeKind b (widthBytes wd) .plain) (widthBytes wd) (relOfStore .plain) (storeJobs s d b o wd 1) s =
      deferredTrap u 0x21 (s.odata d wd l).eb.toNat m 0 := by
    rw [storeBody, newJobs_of_not_rejected hrej, hcheck]
  have hexec : exec (.st d b o wd .plain) s = execSt d b o wd .plain s := rfl
  refine ⟨_, ?_, hsame.trapEntered htrap⟩
  rw [hexec, execSt, issue_passes _ _ _ hi.passes, hbody, settle_trapped _ _ htrap.trapped]

end

/-- Settles O20: a lane whose address fails has its token at issue, and a bound that a page would lose is found before any byte is stored. -/
theorem accessFaults : Obligations.AccessFaults := by
  constructor
  · intro d b o wd f i s hm hq hi hn hf va hva
    exact (vectorLoad_of_mem hm).fails hq hi hn hf hva
  · intro d b o wd s l hi hu hl hv hrej va hw hlow hne hbnd
    obtain ⟨hslot, -⟩ := hv
    obtain ⟨t, hx, ht⟩ := exec_st_bndLoss hi hu hl hslot hrej hw hlow hne hbnd
    exact ⟨t, hx, ht.trapped, ht.mem, ht.sv, ht.tcause, ht.tpayload⟩

end Sys2Proof.Machine

namespace Sys2Proof.Machine

/-! ### A releasing store of no lane, where no request entry is free (R139, R150) -/

section
variable {s : State} {i : Instr}

/-- The store issues nothing: the issue is held. -/
theorem storeBody_held {k : StoreKind} {n : Nat} {sc : Scope} (hd : (s.core s.cur.rd.core).dbg = []) (hr : s.cur.rd.rejected = none)
    (hfull : requestsFree (release s s.cur.h sc) (release s s.cur.h sc).cur.rd.core (release s s.cur.h sc).cur.h = 0) :
    storeBody i k n (some sc) [] s = holdWhole s i 0 := by
  have hjobs : newJobs s i [] = [] := rfl
  rw [storeBody, hjobs, checkJobs_nil hd]
  exact releaseOnce_full hr hfull _
theorem exec_st_stalls {d : Reg} {b : BitVec 3} {o : Reg} {wd : Width} {sc : Scope} (hi : Issuing s (.st d b o wd (.rel sc))) (hf : s.free_)
    (hm : s.cur.mask = 0)
    (hfull : requestsFree (release s s.cur.h sc) (release s s.cur.h sc).cur.rd.core (release s s.cur.h sc).cur.h = 0) :
    ∃ t, exec (.st d b o wd (.rel sc)) s = .next t ∧ t.cur.stalled = true := by
  obtain ⟨hd, hr, -⟩ := hf
  have hst := holdWhole_stalled s (.st d b o wd (.rel sc)) 0
  have hself : settle s (.st d b o wd (.rel sc)) (holdWhole s (.st d b o wd (.rel sc)) 0) = holdWhole s (.st d b o wd (.rel sc)) 0 := by
    rw [settle, hst, Bool.or_true, if_pos rfl]
  have hexec : exec (.st d b o wd (.rel sc)) s = execSt d b o wd (.rel sc) s := rfl
  have hjobs : storeJobs s d b o wd 1 = [] := by rw [storeJobs, hm, lanesOf_zero, List.map_nil]
  have hrel : relOfStore (.rel sc) = some sc := rfl
  refine ⟨_, ?_, hst⟩
  rw [hexec, execSt, issue_passes _ _ _ hi.passes, hjobs, hrel, storeBody_held hd hr hfull, hself]

end

theorem fullState_issuing_store : Issuing fullState (.st 4 1 2 .w (.rel .team)) := ⟨by decide +kernel, by decide +kernel, by decide +kernel⟩

/-- Refutes O21: nothing asks for an issuing lane. A releasing store of no lane meets every hypothesis where no request entry is free; its
release finds none, so the issue is held and stalls, where the statement has it done with no store on its way. -/
theorem not_storesAndTiles : ¬ Obligations.StoresAndTiles := by
  intro h
  obtain ⟨⟨hvector, -⟩, -⟩ := h
  obtain ⟨ps, hx, -⟩ := hvector 4 1 2 .w (.rel .team) _ fullState List.mem_cons_self fullState_issuing_store fullState_free
    fullState_unchecked (fun l hl => absurd hl (fullState_no_lane l)) (.inr (.inr fun l hl => absurd hl (fullState_no_lane l)))
  obtain ⟨t, ht, hst⟩ := exec_st_stalls fullState_issuing_store fullState_free rfl fullState_release
  have hcur : t.cur = (release fullState fullState.cur.h .team).cur := by
    rw [Host.Outcome.next.inj (ht.symm.trans hx)]
  rw [hcur, fullState_runs] at hst
  exact Bool.noConfusion hst

end Sys2Proof.Machine


namespace Sys2Proof.Machine

/-! ### Operations of the memory path, by what they leave of groups, stores and tasks

An operation of the memory path changes of a group only what its outstanding results hold, adds no store, and leaves the engine's tasks and
banks alone; each has one lemma here, which cites those of the operations that it calls. -/

/-- A group without its outstanding results, and their order numbers. -/
def Group.bare (x : Nat × Group) : Nat × Group × List Nat := (x.1, { x.2 with outst := [] }, x.2.outst.map (·.id))
/-- Whose a store on its way is, with its order number. -/
def Pend.owner (p : Pend) : Nat × Nat × Nat := (p.id, p.h, p.core)

/-- The part of a core that its engine uses: the resident banks, and the function that has the other half. -/
def Core.engine (c : Core) : List (Nat × ResBank) × Option (Nat × Nat) := (c.banks, c.split)

/-- `t` is `s` after operations of the memory path: of groups only what their outstanding results hold has changed, stores may have
reached their homes, and tasks and resident banks are as they were. -/
def OnPath (s t : State) : Prop :=
  t.cur = s.cur ∧ t.ids = s.ids ∧ t.work.groups.map Group.bare = s.work.groups.map Group.bare ∧
    (t.mem.pend.map Pend.owner).Sublist (s.mem.pend.map Pend.owner) ∧ t.work.tasks = s.work.tasks ∧
    ∀ c, (t.core c).engine = (s.core c).engine

variable {s t u : State} {m : MemSt}

theorem OnPath.refl (s : State) : OnPath s s := ⟨rfl, rfl, rfl, .refl _, rfl, fun _ => rfl⟩
theorem OnPath.trans (h : OnPath s t) (k : OnPath t u) : OnPath s u := by
  obtain ⟨hc, hi, hg, hp, ht, hb⟩ := h
  obtain ⟨hc', hi', hg', hp', ht', hb'⟩ := k
  exact ⟨hc'.trans hc, hi'.trans hi, hg'.trans hg, hp'.trans hp, ht'.trans ht, fun c => (hb' c).trans (hb c)⟩

/-- A property that each step of a fold keeps. -/
theorem foldl_keeps {α : Type} {P : State → Prop} {f : State → α → State} (hf : ∀ s x, P s → P (f s x)) (l : List α) (h : P s) :
    P (l.foldl f s) :=
  List.foldlRecOn l f h (fun s h x _ => hf s x h)
theorem foldl_keeps_fst {α β : Type} {P : State → Prop} {f : State × β → α → State × β} (hf : ∀ r x, P r.1 → P (f r x).1) (l : List α)
    {b : β} (h : P s) : P (l.foldl f (s, b)).1 :=
  List.foldlRecOn l f (motive := fun r : State × β => P r.1) h (fun r h x _ => hf r x h)

/-! #### Bytes and bounds: the stores on their way stay -/

theorem foldl_pend {α : Type} {f : MemSt → α → MemSt} (hf : ∀ m x, (f m x).pend = m.pend) (l : List α) : (l.foldl f m).pend = m.pend :=
  List.foldlRecOn l f (motive := fun n => n.pend = m.pend) rfl (fun n h x _ => (hf n x).trans h)
theorem setBytes_pend (m : MemSt) (a : Nat) (l : List Byte) : (m.setBytes a l).pend = m.pend := by rw [setBytes_eq]
theorem setNum_pend (m : MemSt) (a n x : Nat) : (m.setNum a n x).pend = m.pend := setBytes_pend ..
theorem setBound_pend (m : MemSt) (a : Nat) (e : EB) : (m.setBound a e).pend = m.pend := by
  obtain ⟨c, b, h⟩ := setBound_eq m a e
  rw [h]
theorem applySector_pend (m : MemSt) (w : SectorW) : (applySector m w).pend = m.pend := by
  obtain ⟨c, b, h⟩ := applySector_eq m w
  rw [h]
theorem exactStore_pend (m : MemSt) (pa : Nat) (attr : BitVec 16) (bs : List Byte) : (exactStore m pa attr bs).pend = m.pend :=
  applySector_pend ..
theorem xa128Add_pend (m : MemSt) (pa : Nat) (isInt : Bool) (x : VCell) : (xa128Add m pa isInt x).pend = m.pend := by rw [xa128Add_keeps]
theorem atomLane_pend (m : MemSt) (i : Instr) (a : LaneAcc) (c : List VCell) : (atomLane m i a c).1.pend = m.pend := by
  unfold atomLane; grind [setNum_pend, setBound_pend, xa128Add_pend]
theorem raceNote_pend (m : MemSt) (pa : Nat) (w : Writer) (sc : Option Scope) (a : Bool) (asc : Option Scope) :
    (raceNote m pa w sc a asc).pend = m.pend := rfl
theorem setAD_pend (m : MemSt) (epa e : Nat) (a d : Bool) : (setAD m epa e a d).2.pend = m.pend := by unfold setAD; grind [setNum_pend]

/-- Memory may change in all but the stores on their way. -/
theorem onPath_of_pend {m : MemSt} (hm : m.pend = s.mem.pend) (h : OnPath u s) : OnPath u { s with mem := m } := by
  obtain ⟨hc, hi, hg, hp, ht⟩ := h
  exact ⟨hc, hi, hg, by rw [hm]; exact hp, ht⟩
theorem setNum_onPath (a n x : Nat) (h : OnPath u s) : OnPath u (s.setNum a n x) := onPath_of_pend (setNum_pend ..) h
theorem setBytes_onPath (a : Nat) (l : List Byte) (h : OnPath u s) : OnPath u (s.setBytes a l) := onPath_of_pend (setBytes_pend ..) h

/-! #### Choices, counts, records and banks -/

theorem choose_onPath (h : OnPath u s) : OnPath u s.choose.2 := h
theorem pick_onPath (k : Nat) (h : OnPath u s) : OnPath u (s.pick k).2 := h
theorem modTeam_onPath (k t : Nat) (f : Team → Team) (h : OnPath u s) : OnPath u (s.modTeam k t f) := h
/-- A core may change in all but what its engine uses. -/
theorem modCore_onPath (c : Nat) {f : Core → Core} (hf : ∀ x, (f x).engine = x.engine) (h : OnPath u s) : OnPath u (s.modCore c f) := by
  obtain ⟨hc, hi, hg, hp, ht, hb⟩ := h
  refine ⟨hc, hi, hg, hp, ht, fun j => ?_⟩
  rw [modCore_core]
  split
  next e => rw [hf, ← e, hb]
  next => exact hb j
theorem modLaunch_onPath (k : Nat) (f : Launch → Launch) (h : OnPath u s) : OnPath u (s.modLaunch k f) := h
theorem touch_onPath (bs : List Nat) (h : OnPath u s) : OnPath u (touch s bs) := by
  obtain ⟨b, hb⟩ := touch_eq s bs
  rw [hb]
  exact h
theorem reachBanks_onPath (bs : List Nat) (h : OnPath u s) : OnPath u (reachBanks s bs).2 := by
  obtain ⟨b, hb⟩ := reachBanks_eq s bs
  rw [hb]
  exact h
theorem view_onPath (core ev n k t : Nat) (h : OnPath u s) : OnPath u (s.view core ev n k t) := by
  unfold State.view; grind [modTeam_onPath]
theorem count_onPath (core f ev n : Nat) (team : Option (Nat × Nat)) (h : OnPath u s) : OnPath u (s.count core f ev n team) := by
  have hm (g : Core → List (Nat × Nat)) : OnPath u (s.modCore core (fun c => { c with counts := g c })) := modCore_onPath core (fun _ => rfl) h
  unfold State.count
  dsimp only
  split
  · exact h
  · split
    · exact hm _
    · exact view_onPath _ _ _ _ _ (hm _)
theorem bump_onPath (h ev n : Nat) (hs : OnPath u s) : OnPath u (s.bump h ev n) := count_onPath _ _ _ _ _ hs
theorem postRec_onPath (core : Nat) (r : FaultRec) (h : OnPath u s) : OnPath u (postRec s core r) :=
  modCore_onPath core (fun x => by split <;> rfl) h
theorem postMalformed_onPath (x : Ctx) (wr : Bool) (va level e : Nat) (h : OnPath u s) : OnPath u (postMalformed s x wr va level e) := by
  unfold postMalformed; grind [postRec_onPath]
theorem raceRecord_onPath (x : Ctx) (wr : Bool) (va pa : Nat) (w : Writer) (h : OnPath u s) : OnPath u (raceRecord s x wr va pa w) := by
  unfold raceRecord; grind [postRec_onPath]

/-! #### Translation (R353 to R356) -/

theorem walkView_onPath (core tag va : Nat) (h : OnPath u s) : OnPath u (walkView s core tag va).1 :=
  List.foldlRecOn (motive := fun r : State × MemSt => OnPath u r.1) _ _ h (fun _ h _ _ => h)
theorem walkPick_onPath (m : MemSt) (tag va : Nat) (h : OnPath u s) : OnPath u (walkPick s m tag va).1 := by
  unfold walkPick; grind [pick_onPath]
theorem cacheNodes_onPath (core tag va : Nat) (m : MemSt) (h : OnPath u s) : OnPath u (cacheNodes s core tag va m) :=
  modCore_onPath core (fun _ => rfl) h
theorem setAD_onPath (epa e : Nat) (a d : Bool) (h : OnPath u s) : OnPath u { s with mem := (setAD s.mem epa e a d).2 } :=
  onPath_of_pend (setAD_pend ..) h
theorem onPath_ite_fst {α : Type} {c : Prop} [Decidable c] {a b : State × α} (ha : OnPath u a.1) (hb : OnPath u b.1) :
    OnPath u (if c then a else b).1 := by split; exacts [ha, hb]
theorem walkFresh_onPath (x : Ctx) (va : Nat) (k : AccKind) (h : OnPath u s) : OnPath u (walkFresh s x va k).1 := by
  have hp := walkPick_onPath (walkView s x.core x.tag va).2 x.tag va
    (touch_onPath (walkBanks (walkView s x.core x.tag va).2 x.core x.tag va) (walkView_onPath x.core x.tag va h))
  unfold walkFresh
  dsimp only
  split
  next heq => rw [heq] at hp; exact postMalformed_onPath _ _ _ _ _ hp
  next heq => rw [heq] at hp; exact hp
  next heq =>
    rw [heq] at hp
    exact onPath_ite_fst hp (modCore_onPath _ (fun _ => rfl) (cacheNodes_onPath _ _ _ _ (setAD_onPath _ _ _ _ hp)))
theorem chooseUnless_onPath (b : Bool) (h : OnPath u s) : OnPath u (if b = true then (true, s) else s.choose).2 := by split <;> exact h
theorem translate_onPath (x : Ctx) (va : Nat) (k : AccKind) (h : OnPath u s) : OnPath u (translate s x va k).1 := by
  unfold translate
  refine onPath_ite_fst h ?_
  split
  · exact walkFresh_onPath _ _ _ h
  next t0 rest _ =>
    dsimp only
    have hpick : OnPath u (if rest = [] then (0, s) else s.pick (rest.length + 1)).2 := by split <;> exact h
    generalize (if rest = [] then (0, s) else s.pick (rest.length + 1)) = p at hpick ⊢
    refine onPath_ite_fst ?_ (onPath_ite_fst (onPath_ite_fst ?_ ?_) ?_)
    · exact walkFresh_onPath _ _ _ (chooseUnless_onPath _ hpick)
    · exact modCore_onPath _ (fun _ => rfl) (onPath_of_pend ((setAD_pend ..).trans (by rw [touch_mem])) (touch_onPath _ (chooseUnless_onPath _ hpick)))
    · exact walkFresh_onPath _ _ _ (chooseUnless_onPath _ hpick)
    · exact chooseUnless_onPath _ hpick

/-! #### The journal and reports of errors (R385, R431) -/

theorem postJournal_onPath (kind func status : Nat) (body : List Byte) (h : OnPath u s) : OnPath u (postJournal s kind func status body) := by
  have hb (a : Nat) (l : List Byte) : OnPath u (s.setBytes a l) := setBytes_onPath _ _ h
  unfold postJournal
  dsimp only
  split
  · exact hb _ _
  · split
    · exact hb _ _
    · exact hb _ _
theorem rasReport_onPath (source sev code : Nat) (wr : Bool) (pa va pc : Nat) (x : Accessor) (h : OnPath u s) :
    OnPath u (rasReport s source sev code wr pa va pc x) := postJournal_onPath _ _ _ _ h
theorem reportErrors_onPath (x : Accessor) (wr : Bool) (pc : PC) (told : List Nat) (as : List LaneAcc) (h : OnPath u s) :
    OnPath u (reportErrors s x wr pc told as).1 :=
  foldl_keeps_fst (fun r a hr => by grind [rasReport_onPath]) as h

/-! #### An outstanding result -/

/-- A change of one entry of a table. -/
theorem Tb.map_modify {α β : Type} (F : Nat × α → β) (xs : List (Nat × α)) (k : Nat) (f : α → α) (hf : ∀ v, F (k, f v) = F (k, v)) :
    (Tb.modify xs k f).map F = xs.map F := by
  induction xs with
  | nil => rfl
  | cons e es ih =>
    obtain ⟨i, v⟩ := e
    unfold Tb.modify
    split
    next hi => rw [List.map_cons, List.map_cons, hi, hf]
    next => rw [List.map_cons, List.map_cons, ih]
/-- A change of outstanding results that keeps their order numbers. -/
theorem modG_outst_onPath (h : Nat) {f : Group → List Entry} (hf : ∀ g, (f g).map (·.id) = g.outst.map (·.id)) (hs : OnPath u s) :
    OnPath u (s.modG h (fun g => { g with outst := f g })) := by
  obtain ⟨hc, hi, hg, hp, ht⟩ := hs
  refine ⟨hc, hi, Eq.trans (Tb.map_modify Group.bare _ h _ fun g => ?_) hg, hp, ht⟩
  exact congrArg (fun ids => (h, { g with outst := [] }, ids)) (hf g)
theorem map_id_of_keeps {f : Entry → Entry} (hf : ∀ e, (f e).id = e.id) (es : List Entry) : (es.map f).map (·.id) = es.map (·.id) := by
  rw [List.map_map]
  exact List.map_congr_left fun e _ => hf e
theorem modEntry_onPath (h id : Nat) {f : Entry → Entry} (hf : ∀ e, (f e).id = e.id) (hs : OnPath u s) : OnPath u (modEntry s h id f) :=
  modG_outst_onPath h (fun g => map_id_of_keeps (f := fun e => if e.id = id then f e else e) (fun e => by split; exacts [hf e, rfl]) g.outst) hs
theorem tokenLane_onPath (h id l : Nat) (t : Word) (hs : OnPath u s) : OnPath u (tokenLane s h id l t) :=
  modEntry_onPath h id (fun e => by split_ifs <;> rfl) hs
theorem tellEntry_onPath (h : Nat) (e : Entry) (as : List LaneAcc) (hs : OnPath u s) : OnPath u (tellEntry s h e as) := by
  have hr := reportErrors_onPath (whoOf s h) (isAtomic e.instr) e.pc e.told as hs
  unfold tellEntry
  split
  next heq =>
    rw [heq] at hr
    split
    · exact hr
    · exact modEntry_onPath h e.id (fun _ => rfl) hr

/-! #### Loads and atomics (R142, R156) -/

theorem putLimited_onPath {α : Type} (limit : Nat) (t : List (Nat × α)) (k : Nat) (v : α) (h : OnPath u s) :
    OnPath u (putLimited s limit t k v).1 := by unfold putLimited; grind [pick_onPath]
theorem dropL1_onPath (core : Nat) (ks : List Nat) (h : OnPath u s) : OnPath u (dropL1 s core ks) :=
  modCore_onPath core (fun _ => rfl) h
theorem readL1_onPath (core : Nat) (a : LaneAcc) (n : Nat) (h : OnPath u s) : OnPath u (readL1 s core a n).1 := by
  have hc (c : Prop) [Decidable c] : OnPath u (if c then (false, s) else s.choose).2 := by split; exacts [h, choose_onPath h]
  unfold readL1
  dsimp only
  refine onPath_ite_fst h (onPath_ite_fst (hc _) ?_)
  exact modCore_onPath _ (fun _ => rfl) (putLimited_onPath _ _ _ _ (hc _))
theorem readCounted_onPath (h : Nat) (e : Entry) (a : LaneAcc) (hs : OnPath u s) : OnPath u (readCounted s h e a) := by
  unfold readCounted readLane; grind [readL1_onPath, bump_onPath]
theorem performLoad_onPath (h : Nat) (e : Entry) (l : Nat) (hs : OnPath u s) : OnPath u (performLoad s h e l) := by
  cases ha : Tb.get? e.acc l with
  | none =>
    unfold performLoad
    rw [ha]
    exact hs
  | some a =>
    rw [performLoad_eq s h e ha]
    split
    · exact tokenLane_onPath _ _ _ _ (bump_onPath _ _ _ (bump_onPath _ _ _ hs))
    · split <;> exact modEntry_onPath h e.id (fun _ => rfl) (readCounted_onPath _ _ _ hs)
theorem performAtom_onPath (h : Nat) (e : Entry) (l : Nat) (hs : OnPath u s) : OnPath u (performAtom s h e l) := by
  unfold performAtom
  split
  · exact hs
  next a _ =>
    refine modEntry_onPath h e.id (fun _ => rfl) (dropL1_onPath _ _ ?_)
    have hc : OnPath u (if (s.mem.err a.pa).isSome then s.bump h 0x13 1 else s) := by split; exacts [bump_onPath _ _ _ hs, hs]
    have hm : (if (s.mem.err a.pa).isSome then s.bump h 0x13 1 else s).mem = s.mem := by split; exacts [bump_mem .., rfl]
    have hp := (atomLane_pend s.mem e.instr a (e.cells l 1 4)).trans (congrArg MemSt.pend hm.symm)
    exact onPath_of_pend (Eq.trans ((apply_ite MemSt.pend _ _ _).trans (ite_self _)) hp) hc
theorem performLane_onPath (h id l : Nat) (hs : OnPath u s) : OnPath u (performLane s h id l) := by
  unfold performLane; grind [performAtom_onPath, performLoad_onPath]
theorem nextLocation_onPath (acc : List (Nat × LaneAcc)) (a : Nat × LaneAcc) (h : OnPath u s) : OnPath u (nextLocation s acc a).1 := by
  unfold nextLocation; grind [pick_onPath]
theorem performAt_onPath (h : Nat) (e : Entry) (pa : Nat) (hs : OnPath u s) : OnPath u (performAt s h e pa) :=
  foldl_keeps (fun _ _ => performLane_onPath _ _ _) _ (tellEntry_onPath _ _ _ hs)
theorem performLocation_onPath (h id : Nat) (hs : OnPath u s) : OnPath u (performLocation s h id) := by
  unfold performLocation; grind [nextLocation_onPath, performAt_onPath]
theorem countL1_onPath (h : Nat) (e : Entry) (hs : OnPath u s) : OnPath u (countL1 s h e) := bump_onPath _ _ _ (bump_onPath _ _ _ hs)
theorem performAcc_onPath (h id : Nat) (hs : OnPath u s) : OnPath u (performAcc s h id) := by
  unfold performAcc
  split
  · exact hs
  next e _ =>
    have ht := touch_onPath (entryBanks s h e) hs
    split
    · exact hs
    · dsimp only
      split
      · exact foldl_keeps (fun _ _ => performLocation_onPath _ _) _ ht
      · exact foldl_keeps (fun _ _ => performLane_onPath _ _ _) _ (countL1_onPath _ _ (tellEntry_onPath _ _ _ ht))

/-! #### Stores (R142, R228) -/

/-- Stores on their way may change in all but whose they are. -/
theorem onPath_of_owner {m : MemSt} (hm : (m.pend.map Pend.owner).Sublist (s.mem.pend.map Pend.owner)) (h : OnPath u s) :
    OnPath u { s with mem := m } := by
  obtain ⟨hc, hi, hg, hp, ht⟩ := h
  exact ⟨hc, hi, hg, hm.trans hp, ht⟩
theorem owner_map {f : Pend → Pend} (hf : ∀ p, (f p).owner = p.owner) (ps : List Pend) :
    ((ps.map f).map Pend.owner).Sublist (ps.map Pend.owner) := by
  rw [List.map_map]
  exact (List.map_congr_left fun p _ => hf p) ▸ .refl _
theorem tellPend_onPath (p : Pend) (as : List LaneAcc) (h : OnPath u s) : OnPath u (tellPend s p as) := by
  have hr := reportErrors_onPath ⟨s.funcOf p.launch, p.tag.toNat, p.h⟩ true p.pc [] as h
  unfold tellPend
  split
  · exact h
  split
  next heq => rw [heq] at hr; exact hr
  next ls _ heq =>
    rw [heq] at hr
    exact onPath_of_owner (owner_map (fun q => by split <;> rfl) _) hr
theorem applyPend_onPath (id : Nat) (h : OnPath u s) : OnPath u (applyPend s id) := by
  unfold applyPend
  split
  · exact h
  next p _ =>
    dsimp only
    have hs : OnPath u { dropL1 (touch s p.banks) p.core p.sectors with
        mem := { s.mem with pend := s.mem.pend.filter (fun p => decide (p.id ≠ id)) } } :=
      onPath_of_owner (by rw [show (dropL1 (touch s p.banks) p.core p.sectors).mem = s.mem from touch_mem ..]; exact List.filter_sublist.map _)
        (dropL1_onPath _ _ (touch_onPath _ h))
    split
    · exact tellPend_onPath _ _ (onPath_of_pend (foldl_pend applySector_pend _) hs)
    · split
      · exact tellPend_onPath _ _ hs
      · exact onPath_of_pend (foldl_pend (fun m x => xa128Add_pend m _ _ _) _) hs
theorem tearStore_onPath (p : Pend) (h : OnPath u s) : OnPath u (tearStore s p) := by
  unfold tearStore
  split
  · exact onPath_of_owner (owner_map (fun q => by split <;> rfl) _) (dropL1_onPath _ _ (choose_onPath h))
  · exact h
theorem performOp_onPath (h : Nat) (o : Nat × Bool × List Nat) (hs : OnPath u s) : OnPath u (performOp s h o) := by
  unfold performOp; grind [performAcc_onPath, applyPend_onPath]
theorem forceBefore_onPath (h id : Nat) (ks : List Nat) (hs : OnPath u s) : OnPath u (forceBefore s h id ks) :=
  foldl_keeps (fun _ _ => performOp_onPath _ _) _ hs
theorem tearLoad_onPath (h : Nat) (e : Entry) (hs : OnPath u s) : OnPath u (tearLoad s h e) := by
  unfold tearLoad
  split
  · refine foldl_keeps (fun s a hs => ?_) _ hs
    dsimp only
    split
    · exact choose_onPath hs
    · exact modEntry_onPath h e.id (fun _ => rfl)
        (readL1_onPath _ _ _ (forceBefore_onPath h e.id [sectorOf a.2.pa] (choose_onPath (choose_onPath hs))))
  · exact hs
theorem performEntry_onPath (h id : Nat) (hs : OnPath u s) : OnPath u (performEntry s h id) := by
  unfold performEntry; grind [performAcc_onPath, forceBefore_onPath]
theorem storeHome_onPath (id : Nat) (h : OnPath u s) : OnPath u (storeHome s id) := by
  unfold storeHome; grind [applyPend_onPath, forceBefore_onPath]
theorem acquire_onPath (h : Nat) (sc : Scope) (hs : OnPath u s) : OnPath u (acquire s h sc) := by
  have key (c : Prop) [Decidable c] : OnPath u (if c then s else s.modCore (s.grp h).core (fun c => { c with l1 := [] })) := by
    split
    · exact hs
    · exact modCore_onPath _ (fun _ => rfl) hs
  exact key _

/-! #### Engines and firmware: translation, deques, bound cells -/

theorem engineAccess_onPath (tag va : Nat) (k : AccKind) (h : OnPath u s) : OnPath u (engineAccess s tag va k).1 := by
  unfold engineAccess; grind [translate_onPath]
theorem engineTranslate_onPath (tag va : Nat) (k : AccKind) (h : OnPath u s) : OnPath u (engineTranslate s tag va k).1 := by
  unfold engineTranslate; grind [engineAccess_onPath]
theorem setDeque_onPath (k core : Nat) (items : List (DWord × DqPlace)) (h : OnPath u s) : OnPath u (setDeque s k core items) := h
theorem freeSlot_onPath (k : Nat) (h : OnPath u s) : OnPath u (freeSlot s k).1 := by
  unfold freeSlot; grind [engineTranslate_onPath, modLaunch_onPath]
theorem evict_onPath (fuel core pusher : Nat) (ex : List Nat) (h : OnPath u s) : OnPath u (evict fuel s core pusher ex).1 := by
  induction fuel generalizing s ex with
  | zero => exact h
  | succ fuel ih =>
    unfold evict
    dsimp only
    split
    · exact h
    · split
      · exact h
      next d _ =>
        have hf := freeSlot_onPath d.launch h
        split
        · exact ih _ hf
        · exact setDeque_onPath _ _ _ (setNum_onPath _ _ _ hf)
theorem placeItem_onPath (k core : Nat) (h : OnPath u s) : OnPath u (placeItem s k core).1 := by unfold placeItem; grind [evict_onPath]
theorem pushItem_onPath (k core : Nat) (x : DWord) (h : OnPath u s) : OnPath u (pushItem s k core x).1 := by
  unfold pushItem; grind [placeItem_onPath, touch_onPath, setDeque_onPath]
theorem popItem_onPath (k core : Nat) (h : OnPath u s) : OnPath u (popItem s k core).1 := by unfold popItem; grind [touch_onPath, setDeque_onPath]
theorem stealItem_onPath (k core : Nat) (h : OnPath u s) : OnPath u (stealItem s k core).1 := by
  unfold stealItem; grind [touch_onPath, setDeque_onPath]
theorem takeItem_onPath (k core : Nat) (h : OnPath u s) : OnPath u (takeItem s k core).1 := by
  unfold takeItem; grind [popItem_onPath, stealItem_onPath]
theorem readWatch_onPath (core pa : Nat) (h : OnPath u s) : OnPath u (readWatch s core pa).1 := touch_onPath _ (modCore_onPath _ (fun _ => rfl) h)
theorem applyMin_onPath (core pa : Nat) (dev : Bool) (x : Nat) (h : OnPath u s) : OnPath u (applyMin s core pa dev x) := by
  unfold applyMin
  dsimp only
  split
  · exact onPath_of_pend rfl (setNum_onPath _ _ _ (touch_onPath _ h))
  · exact touch_onPath _ h
theorem updateWatch_onPath (core pa : Nat) (h : OnPath u s) : OnPath u (updateWatch s core pa) := by
  unfold updateWatch
  split
  · exact h
  · exact modCore_onPath _ (fun _ => rfl) (onPath_of_pend rfl h)

/-! #### Operations performed after issue, drains (R143, R146, R240) -/

theorem wallLane_onPath (h : Nat) (e : Entry) (l : Nat) (hs : OnPath u s) : OnPath u (wallLane h e s l) := by
  unfold wallLane
  dsimp only
  split
  · exact modEntry_onPath h e.id (fun _ => rfl) hs
  · exact modEntry_onPath h e.id (fun _ => rfl) hs
  · exact hs
theorem wallsBefore_onPath (h id : Nat) (hs : OnPath u s) : OnPath u (wallsBefore s h id) :=
  foldl_keeps (fun _ _ hs => foldl_keeps (fun _ _ => wallLane_onPath _ _ _) _ hs) _ hs
theorem takeLane_onPath (h : Nat) (e : Entry) (l : Nat) (hs : OnPath u s) : OnPath u (takeLane h e s l) := by
  have hcount {s : State} (x : Option DWord) (ev : Nat) (hs : OnPath u s) : OnPath u (if x.isSome then s.bump h ev 1 else s) := by
    split
    · exact bump_onPath _ _ _ hs
    · exact hs
  unfold takeLane
  dsimp only
  split
  · exact modEntry_onPath h e.id (fun _ => rfl) (hcount _ _ (popItem_onPath _ _ hs))
  · exact modEntry_onPath h e.id (fun _ => rfl) (hcount _ _ (stealItem_onPath _ _ hs))
  · exact hs
theorem takesBefore_onPath (h id : Nat) (t : Nat → Bool) (hs : OnPath u s) : OnPath u (takesBefore s h id t) :=
  foldl_keeps (fun _ _ hs => foldl_keeps (fun _ _ => takeLane_onPath _ _ _) _ hs) _ hs
theorem readCell_onPath (h : Nat) (e : Entry) (hs : OnPath u s) : OnPath u (readCell s h e).1 := by
  unfold readCell; grind [forceBefore_onPath, tellEntry_onPath, readWatch_onPath]
theorem performLateLane_onPath (h : Nat) (e : Entry) (l : Nat) (hs : OnPath u s) : OnPath u (performLateLane h e s l) := by
  have hread := readCell_onPath h e hs
  unfold performLateLane
  dsimp only
  split
  · exact takeLane_onPath _ _ _ (takesBefore_onPath _ _ _ hs)
  · exact takeLane_onPath _ _ _ (takesBefore_onPath _ _ _ hs)
  · split
    · exact hs
    · exact modEntry_onPath h e.id (fun _ => rfl) hread
  · exact wallLane_onPath _ _ _ (wallsBefore_onPath _ _ hs)
  · exact wallLane_onPath _ _ _ (wallsBefore_onPath _ _ hs)
  · exact hs
theorem perform_onPath (h id : Nat) (hs : OnPath u s) : OnPath u (perform s h id) := by
  unfold perform
  split
  · exact hs
  · split
    · exact foldl_keeps (fun _ _ => performLateLane_onPath _ _ _) _ hs
    · exact performEntry_onPath _ _ hs
theorem drainGroup_onPath (h : Nat) (hs : OnPath u s) : OnPath u (drainGroup s h) :=
  foldl_keeps (fun s o hs => by split; exacts [perform_onPath _ _ hs, applyPend_onPath _ hs]) _ hs
theorem drainCore_onPath (core : Nat) (h : OnPath u s) : OnPath u (drainCore s core) := foldl_keeps (fun _ _ => storeHome_onPath _) _ h

end Sys2Proof.Machine

namespace Sys2Proof.Machine

/-! ### Order numbers, operation by operation

The operations of the memory path add no order number; the rest either leave the results of every group outstanding, let some go, or take the
next number for a new one. -/

variable {s t u : State} {m : MemSt} {e : Entry}

/-- The order numbers of groups and stores. -/
def orders (gs : List (Nat × Group)) (ps : List Pend) : List Nat := gs.flatMap (fun x => x.2.outst.map (·.id)) ++ ps.map (·.id)
/-- Numbers differ and are below `n`. -/
def InOrder (l : List Nat) (n : Nat) : Prop := l.Nodup ∧ ∀ k ∈ l, k < n

theorem InOrder.subperm {l l' : List Nat} {n n' : Nat} (hs : l'.Subperm l) (hi : n ≤ n') (h : InOrder l n) : InOrder l' n' := by
  obtain ⟨hd, hb⟩ := h
  obtain ⟨k, hp, hl⟩ := hs
  exact ⟨hp.nodup_iff.1 (hd.sublist hl), fun x hx => (hb x (hl.subset (hp.mem_iff.2 hx))).trans_le hi⟩
theorem InOrder.next {l : List Nat} {n : Nat} (h : InOrder l n) : InOrder (n :: l) (n + 1) := by
  obtain ⟨hd, hb⟩ := h
  exact ⟨List.nodup_cons.2 ⟨fun hn => (hb n hn).false, hd⟩, List.forall_mem_cons.2 ⟨n.lt_succ_self, fun k hk => (hb k hk).trans n.lt_succ_self⟩⟩

/-- Only groups, stores on their way and the next number matter. -/
theorem numbered_eq (s : State) : s.Numbered = InOrder (orders s.work.groups s.mem.pend) s.ids := rfl
theorem numbered_of_eq {α : Type} {r : State × α} {a : α} (e : r = (u, a)) (h : r.1.Numbered) : u.Numbered := by rw [e] at h; exact h

/-! #### Groups and stores -/

theorem orders_sublist {gs gs' : List (Nat × Group)} {ps ps' : List Pend}
    (hg : (gs'.flatMap (fun x => x.2.outst.map (·.id))).Sublist (gs.flatMap (fun x => x.2.outst.map (·.id))))
    (hp : (ps'.map (·.id)).Sublist (ps.map (·.id))) : (orders gs' ps').Subperm (orders gs ps) := (hg.append hp).subperm

/-- The memory path takes no order number. -/
theorem OnPath.numbered (h : OnPath s t) (hn : s.Numbered) : t.Numbered := by
  obtain ⟨-, hi, hg, hp, -⟩ := h
  have hid (gs : List (Nat × Group)) : (gs.map Group.bare).flatMap (fun x => x.2.2) = gs.flatMap (fun x => x.2.outst.map (·.id)) :=
    List.flatMap_map ..
  refine InOrder.subperm (orders_sublist ?_ ?_) hi.ge hn
  · rw [← hid, ← hid, hg]
  · have := hp.map Prod.fst
    rwa [List.map_map, List.map_map] at this

theorem flatMap_modify_sublist {α β : Type} {F : α → List β} (xs : List (Nat × α)) (k : Nat) {f : α → α} (hf : ∀ v, (F (f v)).Sublist (F v)) :
    ((Tb.modify xs k f).flatMap (fun x => F x.2)).Sublist (xs.flatMap (fun x => F x.2)) := by
  induction xs with
  | nil => exact .refl _
  | cons x xs ih =>
    obtain ⟨j, v⟩ := x
    unfold Tb.modify
    split
    · exact (hf v).append (.refl _)
    · exact List.Sublist.append (.refl _) ih
/-- A group may let outstanding results go. -/
theorem modG_numbered_of_sublist (k : Nat) {f : Group → Group} (hf : ∀ g, ((f g).outst.map (·.id)).Sublist (g.outst.map (·.id))) (h :
    s.Numbered) :
    (s.modG k f).Numbered :=
  InOrder.subperm (orders_sublist (flatMap_modify_sublist (F := fun g : Group => g.outst.map (·.id)) _ k hf) (.refl _)) le_rfl h
/-- A group may change in all but its outstanding results. -/
theorem modG_numbered (k : Nat) {f : Group → Group} (hf : ∀ g, (f g).outst = g.outst) (h : s.Numbered) : (s.modG k f).Numbered :=
  modG_numbered_of_sublist k (fun g => by rw [hf]) h
theorem upG_numbered {f : Group → Group} (hf : ∀ g, (f g).outst = g.outst) (h : s.Numbered) : (s.upG f).Numbered := modG_numbered _ hf h

theorem flatMap_modify_perm {α β : Type} {F : α → List β} (xs : List (Nat × α)) (k : Nat) {f : α → α} {b : β} (hf : ∀ v, F (f v) = F v ++ [b]) :
    ((Tb.modify xs k f).flatMap (fun x => F x.2)).Subperm (b :: xs.flatMap (fun x => F x.2)) := by
  induction xs with
  | nil => exact List.nil_subperm
  | cons x xs ih =>
    obtain ⟨j, v⟩ := x
    unfold Tb.modify
    split
    · rw [List.flatMap_cons, List.flatMap_cons, hf, List.append_assoc]
      exact List.perm_middle.subperm
    · exact ((List.subperm_append_left _).2 ih).trans List.perm_middle.subperm
/-- A result that takes the next order number. -/
theorem addEntry_numbered (k : Nat) (he : e.id = s.ids) (h : s.Numbered) : (addEntry s k e).Numbered := by
  refine InOrder.subperm ?_ le_rfl (InOrder.next h)
  have hg :=
    flatMap_modify_perm s.work.groups k (F := fun g : Group => g.outst.map (·.id)) (f := fun g => { g with outst := g.outst ++ [e] }) (b := s.ids)
    (fun g => by rw [List.map_append, List.map_singleton, he])
  exact (List.subperm_append_right _).2 hg
/-- A store that takes the next order number. -/
theorem pushPend_numbered (k n : Nat) (pc : PC) (va : Nat) (m : Mask) (x : PendKind) (h : s.Numbered) : (pushPend s k n pc va m x).Numbered := by
  refine InOrder.subperm ?_ le_rfl (InOrder.next h)
  have hp (p : Pend) : (orders s.work.groups (s.mem.pend ++ [p])).Perm (p.id :: orders s.work.groups s.mem.pend) := by
    rw [orders, orders, List.map_append, List.map_singleton, ← List.append_assoc]
    exact List.perm_append_singleton ..
  exact (hp _).subperm
theorem newId_numbered (h : s.Numbered) : s.newId.2.Numbered := InOrder.subperm (.refl _) (Nat.le_succ _) h

end Sys2Proof.Machine

namespace Sys2Proof.Machine

variable {s t u : State} {m : MemSt}

/-! #### The operations of the memory path -/

theorem foldl_numbered {α : Type} {f : State → α → State} (hf : ∀ s x, s.Numbered → (f s x).Numbered) (l : List α) (h : s.Numbered) :
    (l.foldl f s).Numbered := foldl_keeps hf l h
theorem foldl_snd_keeps {α β : Type} {P : State → Prop} {f : β × State → α → β × State} (hf : ∀ r x, P r.2 → P (f r x).2) (l : List α)
    {b : β} (h : P s) : P (l.foldl f (b, s)).2 :=
  List.foldlRecOn l f (motive := fun r : β × State => P r.2) h (fun r h x _ => hf r x h)
theorem setNum_numbered (a n x : Nat) (h : s.Numbered) : (s.setNum a n x).Numbered := (setNum_onPath a n x (.refl s)).numbered h
theorem setBytes_numbered (a : Nat) (l : List Byte) (h : s.Numbered) : (s.setBytes a l).Numbered := (setBytes_onPath a l (.refl s)).numbered h
theorem choose_numbered (h : s.Numbered) : s.choose.2.Numbered := h
theorem pick_numbered (k : Nat) (h : s.Numbered) : (s.pick k).2.Numbered := h
theorem modTeam_numbered (k t : Nat) (f : Team → Team) (h : s.Numbered) : (s.modTeam k t f).Numbered := h
theorem modCore_numbered (c : Nat) (f : Core → Core) (h : s.Numbered) : (s.modCore c f).Numbered := h
theorem modLaunch_numbered (k : Nat) (f : Launch → Launch) (h : s.Numbered) : (s.modLaunch k f).Numbered := h
theorem touch_numbered (bs : List Nat) (h : s.Numbered) : (touch s bs).Numbered := (touch_onPath bs (.refl s)).numbered h
theorem reachBanks_numbered (bs : List Nat) (h : s.Numbered) : (reachBanks s bs).2.Numbered := (reachBanks_onPath bs (.refl s)).numbered h
theorem view_numbered (core ev n k t : Nat) (h : s.Numbered) : (s.view core ev n k t).Numbered := (view_onPath core ev n k t (.refl s)).numbered h
theorem count_numbered (core f ev n : Nat) (team : Option (Nat × Nat)) (h : s.Numbered) : (s.count core f ev n team).Numbered :=
  (count_onPath core f ev n team (.refl s)).numbered h
theorem bump_numbered (k ev n : Nat) (h : s.Numbered) : (s.bump k ev n).Numbered := count_numbered _ _ _ _ _ h
theorem raceRecord_numbered (x : Ctx) (wr : Bool) (va pa : Nat) (w : Writer) (h : s.Numbered) : (raceRecord s x wr va pa w).Numbered :=
  (raceRecord_onPath x wr va pa w (.refl s)).numbered h
theorem walkFresh_numbered (x : Ctx) (va : Nat) (k : AccKind) (h : s.Numbered) : (walkFresh s x va k).1.Numbered :=
  (walkFresh_onPath x va k (.refl s)).numbered h
theorem translate_numbered (x : Ctx) (va : Nat) (k : AccKind) (h : s.Numbered) : (translate s x va k).1.Numbered :=
  (translate_onPath x va k (.refl s)).numbered h
theorem postJournal_numbered (kind func status : Nat) (body : List Byte) (h : s.Numbered) : (postJournal s kind func status body).Numbered :=
  (postJournal_onPath kind func status body (.refl s)).numbered h
theorem rasReport_numbered (source sev code : Nat) (wr : Bool) (pa va pc : Nat) (x : Accessor) (h : s.Numbered) :
    (rasReport s source sev code wr pa va pc x).Numbered := postJournal_numbered _ _ _ _ h
theorem reportErrors_numbered (x : Accessor) (wr : Bool) (pc : PC) (told : List Nat) (as : List LaneAcc) (h : s.Numbered) :
    (reportErrors s x wr pc told as).1.Numbered := (reportErrors_onPath x wr pc told as (.refl s)).numbered h
theorem modEntry_numbered (k id : Nat) {f : Entry → Entry} (hf : ∀ e, (f e).id = e.id) (h : s.Numbered) : (modEntry s k id f).Numbered :=
  (modEntry_onPath k id hf (.refl s)).numbered h
theorem tokenLane_numbered (k id l : Nat) (w : Word) (h : s.Numbered) : (tokenLane s k id l w).Numbered :=
  (tokenLane_onPath k id l w (.refl s)).numbered h
theorem performAt_numbered (k : Nat) (e : Entry) (pa : Nat) (h : s.Numbered) : (performAt s k e pa).Numbered :=
  (performAt_onPath k e pa (.refl s)).numbered h
theorem performLocation_numbered (k id : Nat) (h : s.Numbered) : (performLocation s k id).Numbered :=
  (performLocation_onPath k id (.refl s)).numbered h
theorem tearStore_numbered (p : Pend) (h : s.Numbered) : (tearStore s p).Numbered := (tearStore_onPath p (.refl s)).numbered h
theorem forceBefore_numbered (k id : Nat) (ks : List Nat) (h : s.Numbered) : (forceBefore s k id ks).Numbered :=
  (forceBefore_onPath k id ks (.refl s)).numbered h
theorem tearLoad_numbered (k : Nat) (e : Entry) (h : s.Numbered) : (tearLoad s k e).Numbered := (tearLoad_onPath k e (.refl s)).numbered h
theorem performEntry_numbered (k id : Nat) (h : s.Numbered) : (performEntry s k id).Numbered := (performEntry_onPath k id (.refl s)).numbered h
theorem storeHome_numbered (id : Nat) (h : s.Numbered) : (storeHome s id).Numbered := (storeHome_onPath id (.refl s)).numbered h
theorem acquire_numbered (k : Nat) (sc : Scope) (h : s.Numbered) : (acquire s k sc).Numbered := (acquire_onPath k sc (.refl s)).numbered h
theorem engineAccess_numbered (tag va : Nat) (k : AccKind) (h : s.Numbered) : (engineAccess s tag va k).1.Numbered :=
  (engineAccess_onPath tag va k (.refl s)).numbered h
theorem engineTranslate_numbered (tag va : Nat) (k : AccKind) (h : s.Numbered) : (engineTranslate s tag va k).1.Numbered :=
  (engineTranslate_onPath tag va k (.refl s)).numbered h
theorem pushItem_numbered (k core : Nat) (x : DWord) (h : s.Numbered) : (pushItem s k core x).1.Numbered :=
  (pushItem_onPath k core x (.refl s)).numbered h
theorem takeItem_numbered (k core : Nat) (h : s.Numbered) : (takeItem s k core).1.Numbered := (takeItem_onPath k core (.refl s)).numbered h
theorem applyMin_numbered (core pa : Nat) (dev : Bool) (x : Nat) (h : s.Numbered) : (applyMin s core pa dev x).Numbered :=
  (applyMin_onPath core pa dev x (.refl s)).numbered h
theorem updateWatch_numbered (core pa : Nat) (h : s.Numbered) : (updateWatch s core pa).Numbered :=
  (updateWatch_onPath core pa (.refl s)).numbered h
theorem takesBefore_numbered (k id : Nat) (f : Nat → Bool) (h : s.Numbered) : (takesBefore s k id f).Numbered :=
  (takesBefore_onPath k id f (.refl s)).numbered h
theorem perform_numbered (k id : Nat) (h : s.Numbered) : (perform s k id).Numbered := (perform_onPath k id (.refl s)).numbered h
theorem drainGroup_numbered (k : Nat) (h : s.Numbered) : (drainGroup s k).Numbered := (drainGroup_onPath k (.refl s)).numbered h
theorem drainCore_numbered (core : Nat) (h : s.Numbered) : (drainCore s core).Numbered := (drainCore_onPath core (.refl s)).numbered h

end Sys2Proof.Machine

namespace Sys2Proof.Machine

variable {s t u : State} {m : MemSt} {e : Entry}

/-! #### Changes of a group that leave its outstanding results -/

theorem foldl_outst {α : Type} {f : Group → α → Group} {l : List α} {g : Group} (hf : ∀ g x, (f g x).outst = g.outst) : (l.foldl f g).outst = g.outst :=
  List.foldlRecOn l f (motive := fun x : Group => x.outst = g.outst) rfl (fun x h y _ => (hf x y).trans h)
theorem setP_outst (g : Group) (n l : Nat) (b : Byte) : (g.setP n l b).outst = g.outst := by unfold Group.setP; split <;> rfl
theorem setVs_outst (g : Group) (n : Nat) (l : List (Nat × VCell)) : (g.setVs n l).outst = g.outst := foldl_outst fun _ _ => rfl
theorem setPs_outst (g : Group) (n : Nat) (l : List (Nat × Byte)) : (g.setPs n l).outst = g.outst := foldl_outst fun _ _ => setP_outst ..
theorem releaseKnot_outst (g : Group) (k : Nat) : (releaseKnot g k).outst = g.outst := by
  unfold releaseKnot; exact foldl_outst fun _ _ => rfl
theorem settleKnot_outst (g : Group) (k : Nat) : (settleKnot g k).outst = g.outst := by
  unfold settleKnot; split; exacts [releaseKnot_outst .., rfl]
theorem strikeKnot_outst (g : Group) (k : Nat) (m : Mask) : (strikeKnot g k m).outst = g.outst := by
  unfold strikeKnot; dsimp only; split; exacts [rfl, settleKnot_outst ..]
theorem strikeAll_outst (g : Group) (m : Mask) : (strikeAll g m).outst = g.outst := foldl_outst fun _ _ => strikeKnot_outst ..
theorem endHandler_outst (g : Group) : (endHandler g).outst = g.outst := by unfold endHandler; split <;> rfl
theorem rejoinKnot_outst (g : Group) (k : Nat) (m : Mask) (q : PC) : (rejoinKnot g k m q).outst = g.outst := by
  unfold rejoinKnot; exact (settleKnot_outst ..).trans (foldl_outst (by intros; rfl))
theorem writeDest_outst (g : Group) (e : Entry) (l : Nat) (r : Ref) (k : Nat) : (writeDest g e l r k).outst = g.outst := by
  unfold writeDest; dsimp only; split; exacts [rfl, setP_outst .., rfl, rfl, rfl]
theorem popWords_outst (g : Group) (d : Nat) (e : Entry) (ks : List Nat) : (popWords g d e ks).outst = g.outst := foldl_outst fun _ _ => rfl
theorem swapIn_outst (a : Nat) (g : Group) : (swapIn a g).outst = g.outst := by
  unfold swapIn; exact (foldl_outst fun _ _ => setP_outst ..).trans (foldl_outst (by intros; rfl))
theorem swapOut_outst (g : Group) : (swapOut g).outst = g.outst := by
  unfold swapOut; exact (foldl_outst fun _ _ => setP_outst ..).trans (foldl_outst (by intros; rfl))
theorem fireTimer_outst (g : Group) (t : TimerSel) : (fireTimer g t).outst = g.outst := by cases t <;> rfl
theorem releaseTimers_outst (g : Group) : (releaseTimers g).outst = g.outst := foldl_outst fun g t => by split; exacts [fireTimer_outst g t, rfl]

/-! #### Barriers, lanes that pass to DONE -/

theorem numbered_ite {c : Prop} [Decidable c] {a b : State} (ha : a.Numbered) (hb : b.Numbered) : (if c then a else b).Numbered := by
  split; exacts [ha, hb]
theorem writeBar_numbered (pa : Nat) (b : BarObj) (h : s.Numbered) : (writeBar s pa b).Numbered := setNum_numbered _ _ _ h
theorem releaseBar_numbered (k t : Nat) (i : BitVec 3) (phase : Nat) (h : s.Numbered) : (releaseBar s k t i phase).Numbered := by
  exact foldl_numbered (fun _ k hs => by exact acquire_numbered k .team (modG_numbered k (fun _ => rfl) hs)) _ h
theorem arriveLane_numbered (h : Nat) (i : BitVec 3) (l : Nat) (hs : s.Numbered) : (arriveLane s h i l).Numbered := by
  unfold arriveLane
  dsimp only
  split
  · exact hs
  next pa _ =>
    have ht := touch_numbered (barBanks (s.grp h).core pa) hs
    split_ifs
    · exact ht
    · exact releaseBar_numbered _ _ _ _ (writeBar_numbered _ _ (modG_numbered h (fun _ => rfl) ht))
    · exact writeBar_numbered _ _ (modG_numbered h (fun _ => rfl) ht)
theorem dropLane_numbered (h : Nat) (i : BitVec 3) (l : Nat) (hs : s.Numbered) : (dropLane s h i l).Numbered := by
  unfold dropLane
  dsimp only
  split
  · exact hs
  next pa _ =>
    have ht := touch_numbered (barBanks (s.grp h).core pa) hs
    generalize touch s (barBanks (s.grp h).core pa) = u at ht ⊢
    have hm (a : Arrival) : (u.modG h (fun g => setArr g i.toNat l a)).Numbered := modG_numbered h (fun _ => rfl) ht
    exact numbered_ite ht (numbered_ite (hm _) (numbered_ite (releaseBar_numbered _ _ _ _ (writeBar_numbered _ _ (hm _))) (writeBar_numbered _ _ (hm _))))
theorem dropLanes_numbered (h : Nat) (ls : List Nat) (hs : s.Numbered) : (dropLanes s h ls).Numbered :=
  foldl_numbered (fun _ _ hs => foldl_numbered (fun _ _ => dropLane_numbered _ _ _) _ hs) _ hs
theorem lanesDone_numbered (h : Nat) (m : Mask) (hs : s.Numbered) : (lanesDone s h m).Numbered :=
  modG_numbered h endHandler_outst (dropLanes_numbered h _ (modG_numbered h (fun g => strikeAll_outst g _)
    (modG_numbered h (fun _ => foldl_outst (by intros; rfl)) hs)))

theorem release_numbered (h : Nat) (sc : Scope) (hs : s.Numbered) : (release s h sc).Numbered :=
  modG_numbered h (fun _ => rfl) (drainCore_numbered _ (drainGroup_numbered _ hs))

/-! #### Core dumps and kills -/

theorem freeLocks_numbered (h : Nat) (hs : s.Numbered) : (freeLocks s h).Numbered :=
  foldl_numbered (fun s c hs => by grind [setNum_numbered]) _ hs
theorem killNow_numbered (h : Nat) (atEpc : Bool) (hs : s.Numbered) : (killNow s h atEpc).Numbered :=
  freeLocks_numbered _ (lanesDone_numbered _ _ (modG_numbered_of_sublist _ (fun _ => List.nil_sublist _)
    (foldl_numbered (fun _ _ => performEntry_numbered _ _) _ hs)))
theorem killGroup_numbered (h : Nat) (atEpc : Bool) (hs : s.Numbered) : (killGroup s h atEpc).Numbered := by
  unfold killGroup; grind [killNow_numbered, modG_numbered]
theorem killDue_numbered (h : Nat) (hs : s.Numbered) : (killDue s h).Numbered := by unfold killDue; grind [killNow_numbered]
theorem dumpTeam_numbered (l : Launch) (t : Team) (cause : Nat) (payload : DWord) (self : Option Nat) (h : s.Numbered) :
    (dumpTeam s l t cause payload self).Numbered := by
  have hb (a : Nat) (l : List Byte) : (s.setBytes a l).Numbered := setBytes_numbered _ _ h
  unfold dumpTeam; grind [numbered_eq]
theorem killTeam_numbered (l : Launch) (t : Team) (cause : Nat) (payload : DWord) (dump : Bool) (self : Option Nat) (h : s.Numbered) :
    (killTeam s l t cause payload dump self).Numbered :=
  foldl_numbered (fun _ _ => killGroup_numbered _ _) _ (numbered_ite (dumpTeam_numbered _ _ _ _ _ h) h)
theorem killLaunch_numbered (key cause team : Nat) (tpc : PC) (payload : DWord) (dump : Bool) (self : Option Nat) (restFail : Bool)
    (h : s.Numbered) : (killLaunch s key cause team tpc payload dump self restFail).Numbered := by
  have hf {s : State} (l : Launch) (ts : List Team) (h : s.Numbered) :
      (ts.foldl (fun s t => killTeam s l t cause payload dump self) s).Numbered := foldl_numbered (fun _ _ => killTeam_numbered _ _ _ _ _ _) _ h
  unfold killLaunch
  split
  · exact h
  · dsimp only
    split
    · exact h
    · exact hf _ _ (by split; exacts [postJournal_numbered _ _ _ _ h, h])

end Sys2Proof.Machine

namespace Sys2Proof.Machine

variable {s t : State} {m : MemSt}

/-! #### Late results, capture, trap entry -/

theorem writeResults_numbered (h : Nat) (e : Entry) (m : Mask) (hs : s.Numbered) : (writeResults s h e m).Numbered := by
  unfold writeResults
  split
  · generalize hc : List.foldl _ ([], s) _ = c
    have h2 : c.2.Numbered := by
      rw [← hc]
      refine foldl_snd_keeps ?_ _ hs
      intro r k hr
      split <;> exact hr
    exact modG_numbered h (fun g => popWords_outst ..) h2
  · refine foldl_numbered (fun s j hs => ?_) _ hs
    have hc (b : Bool) : (if b = true then s.choose else (false, s)).2.Numbered := by split <;> exact hs
    exact numbered_ite (hc _) (modG_numbered h (fun g => writeDest_outst ..) (hc _))
theorem returnEntry_numbered (h id : Nat) (hs : s.Numbered) : (returnEntry s h id).Numbered := by
  unfold returnEntry
  split
  · exact hs
  · exact modG_numbered_of_sublist h (fun _ => List.filter_sublist.map _) (writeResults_numbered _ _ _ hs)
theorem finishEntry_numbered (h id : Nat) (hs : s.Numbered) : (finishEntry s h id).Numbered := by
  unfold finishEntry; grind [perform_numbered, returnEntry_numbered]
theorem finishAll_numbered (h : Nat) (hs : s.Numbered) : (finishAll s h).Numbered := foldl_numbered (fun _ _ => finishEntry_numbered _ _) _ hs
theorem captureEntry_numbered (h : Nat) (e : Entry) (hs : s.Numbered) : (captureEntry s h e).1.Numbered := by
  unfold captureEntry; grind [writeResults_numbered]
theorem capture_numbered (h : Nat) (last : Option Nat) (hs : s.Numbered) : (capture s h last).Numbered :=
  modG_numbered_of_sublist h (fun _ => List.nil_sublist _) (foldl_keeps_fst (fun _ _ hr => by exact captureEntry_numbered _ _ hr) _ hs)
theorem doubleAt_numbered (h cause : Nat) (pc : PC) (hs : s.Numbered) : (doubleAt s h cause pc).Numbered :=
  killLaunch_numbered _ _ _ _ _ _ _ _ (modG_numbered h (fun _ => rfl) hs)
theorem enterAt_numbered (v : PC) (h cause payload slot : Nat) (forced : Bool) (tmask pcm : Mask) (tpc : PC) (epc : Option PC)
    (last : Option Nat) (hs : s.Numbered) : (enterAt v s h cause payload slot forced tmask pcm tpc epc last).Numbered :=
  modG_numbered h (fun _ => swapIn_outst ..) (capture_numbered _ _ hs)
theorem enterSupervisor_numbered (h cause payload slot : Nat) (forced : Bool) (tmask pcm : Mask) (tpc : PC) (epc : Option PC)
    (last : Option Nat) (hs : s.Numbered) : (enterSupervisor s h cause payload slot forced tmask pcm tpc epc last).Numbered := by
  unfold enterSupervisor; grind [enterAt_numbered, doubleAt_numbered, numbered_eq]
theorem unissue_numbered (h : s.Numbered) : (unissue s).Numbered := upG_numbered (fun _ => foldl_outst (by intros; rfl)) h
theorem doubleTrap_numbered (cause : Nat) (h : s.Numbered) : (doubleTrap s cause).Numbered := doubleAt_numbered _ _ _ (unissue_numbered h)
theorem trap_numbered (cause payload : Nat) (m : Mask) (own : Bool) (h : s.Numbered) : (trap s cause payload m own).Numbered := by
  unfold trap; grind [doubleTrap_numbered, enterSupervisor_numbered, unissue_numbered, numbered_eq]
theorem illegal_numbered (h : s.Numbered) : (illegal s).Numbered := trap_numbered _ _ _ _ h
theorem mispc_numbered (ts : List (Nat × PC)) (h : s.Numbered) : (mispc s ts).Numbered := trap_numbered _ _ _ _ h
theorem debugTrap_numbered (hit : Nat) (m : Mask) (h : s.Numbered) : (debugTrap s hit m).Numbered := trap_numbered _ _ _ _ h
theorem stall_numbered (why : Nat) (h : s.Numbered) : (stall s why).Numbered := upG_numbered (fun _ => rfl) (unissue_numbered h)

/-! #### Deferred faults, issue of a word -/

theorem deliveredGroup_outst (g : Group) (m : Mask) (pc : PC) (cause payload s62 : Nat) :
    (deliveredGroup g m pc cause payload s62).outst = g.outst := by
  obtain ⟨rs, soft, heq, -⟩ := deliveredGroup_eq g m pc cause payload s62
  rw [heq]
  exact foldl_outst fun _ _ => rfl
theorem deliver_numbered (cause payload s62 : Nat) (h : s.Numbered) : (deliver s cause payload s62).Numbered := by
  by_cases hslot : slotOf s.curG.sp.chandler = 3
  · unfold deliver
    rw [if_pos hslot]
    exact mispc_numbered _ h
  · rw [deliver_eq s cause payload s62 hslot]
    exact upG_numbered (fun g => deliveredGroup_outst ..) (bump_numbered s.cur.h 0x11 1 (unissue_numbered h))
theorem deferredTrap_numbered (cause payload : Nat) (m : Mask) (s62 : Nat) (h : s.Numbered) : (deferredTrap s cause payload m s62).Numbered := by
  unfold deferredTrap; grind [deliver_numbered, trap_numbered, bump_numbered]
theorem deferred_numbered (fs : List LaneFail) (h : s.Numbered) : (deferred s fs).Numbered := deferredTrap_numbered _ _ _ _ h
theorem markContested_numbered (i : Instr) (n : Nat) (h : s.Numbered) : (markContested s i n).Numbered := by
  unfold markContested
  split
  · exact h
  · exact modG_numbered_of_sublist _ (fun g => by rw [map_id_of_keeps fun e => by split <;> rfl]) h
theorem settle_numbered {r : State} (i : Instr) (h : r.Numbered) : (settle s i r).Numbered := by
  unfold settle; grind [markContested_numbered, numbered_eq]

/-- Where an outcome is a next state, its order numbers are in order. -/
def Ordered (r : Res) : Prop := ∀ t, r = .next t → t.Numbered

theorem ordered_next (h : s.Numbered) : Ordered (.next s) := fun _ e => (Host.Outcome.next.inj e) ▸ h

/-- A word that issues keeps them in order where its effect does. -/
theorem issue_ordered (i : Instr) {body : State → State} (hb : (body s).Numbered) (h : s.Numbered) : Ordered (issue i s body) := by
  unfold issue
  split_ifs
  · exact ordered_next (trap_numbered _ _ _ _ h)
  · exact ordered_next (illegal_numbered h)
  · split
    · split
      · exact ordered_next (settle_numbered _ hb)
      · dsimp only
        exact ordered_next (by split; exacts [hb, trap_numbered _ _ _ _ h])
    · exact ordered_next (deferred_numbered _ h)
/-! #### PAGE, stops at a region edge, return from a trap, rings -/

theorem pageLoad_numbered (m : Mask) (n id : Nat) (wpc : PC) (h : s.Numbered) : (pageLoad s m n id wpc).Numbered := by
  unfold pageLoad; grind [enterSupervisor_numbered, bump_numbered, perform_numbered]
theorem askPage_numbered (m : Mask) (n id : Nat) (h : s.Numbered) : (askPage s m n id).Numbered := by
  have hp (c : Cur) : (pageLoad { s with cur := c } m n id s.cur.wpc).Numbered := pageLoad_numbered _ _ _ _ h
  unfold askPage; grind [numbered_eq]
theorem stopAtEdge_numbered (h : Nat) (hs : s.Numbered) : (stopAtEdge s h).Numbered := by
  unfold stopAtEdge endStop; grind [enterSupervisor_numbered, modG_numbered]
theorem regionEdge_numbered (h : s.Numbered) : (regionEdge s).Numbered := by
  have hp (c : Cur) : (stopAtEdge { s with cur := c } s.cur.h).Numbered := stopAtEdge_numbered _ h
  unfold regionEdge; grind [numbered_eq]
theorem reinject_numbered (h : Nat) (e : Entry) (hs : s.Numbered) : (reinject s h e).Numbered := by
  unfold reinject
  split
  · exact hs
  · exact addEntry_numbered h rfl hs
theorem releaseLate_numbered (h : Nat) (hs : s.Numbered) : (releaseLate s h).Numbered := by
  refine foldl_numbered (fun s i hs => ?_) _ hs
  split
  · exact hs
  · dsimp only
    split
    · exact acquire_numbered _ _ (modG_numbered h (fun _ => rfl) hs)
    · exact modG_numbered h (fun _ => rfl) hs
theorem takePending_numbered (h : Nat) (hs : s.Numbered) : (takePending s h).Numbered := by
  have he (n c : Nat) (f : Bool) (p : PC) : (enterSupervisor { s with free := n } h c 0 0 f 0 0 p none none).Numbered :=
    enterSupervisor_numbered _ _ _ _ _ _ _ _ _ _ hs
  unfold takePending endStop; grind [modG_numbered]
theorem returnFromTrap_numbered {resume : State → Nat → State} (hr : ∀ s h, s.Numbered → (resume s h).Numbered) (h : Nat) (hs : s.Numbered) :
    (returnFromTrap resume s h).Numbered := by
  unfold returnFromTrap
  extract_lets s1 km q s2 s3 s4
  have h1 : s1.Numbered := finishAll_numbered h hs
  have h2 : s2.Numbered := modG_numbered h (fun g => swapOut_outst g) h1
  have h3 : s3.Numbered := modG_numbered h releaseTimers_outst (releaseLate_numbered h (lanesDone_numbered h km h2))
  have h4 : s4.Numbered := hr _ h (foldl_numbered (fun _ _ => reinject_numbered h _) _ h3)
  split
  · exact h4
  · exact takePending_numbered h h4
theorem ringPut_numbered (ring : Option Nat) (size : Nat) (b : List Byte) (h : s.Numbered) : (ringPut s ring size b).Numbered := by
  unfold ringPut; grind [setNum_numbered, setBytes_numbered]
theorem traceRegion_numbered (h kind : Nat) (pc : PC) (hs : s.Numbered) : (traceRegion s h kind pc).Numbered := by
  unfold traceRegion; grind [ringPut_numbered]

end Sys2Proof.Machine

namespace Sys2Proof.Machine

variable {s t u : State} {m : MemSt} {e : Entry}

/-! #### Vector, uniform and control instructions

The effect of most of them changes the issuing group alone, in other fields than its outstanding results. -/

theorem uniOp_numbered (d : Reg) (srcs : List Opd) (c : SCell) (h : s.Numbered) : (uniOp s d srcs c).Numbered := upG_numbered (fun _ => rfl) h
theorem uni1_numbered (d a : Reg) (f : Nat → Nat) (e : Opd → EB) (h : s.Numbered) : (uni1 s d a f e).Numbered := uniOp_numbered _ _ _ h
theorem vecOp_numbered (d : Reg) (f : Nat → LaneOut) (h : s.Numbered) : (vecOp s d f).Numbered := upG_numbered (fun g => setVs_outst g _ _) h
theorem vecOp64_numbered (d : Reg) (f : Nat → Opd) (h : s.Numbered) : (vecOp64 s d f).Numbered :=
  upG_numbered (fun _ => (setVs_outst ..).trans (setVs_outst ..)) h
theorem predOp_numbered (p : BitVec 3) (f : Nat → Byte) (h : s.Numbered) : (predOp s p f).Numbered := upG_numbered (fun g => setPs_outst g _ _) h

theorem execSsel_ordered (d a b : Reg) (n : BitVec 3) (sense : Bool) (h : s.Numbered) : Ordered (execSsel d a b n sense s) :=
  issue_ordered _ (by grind [uniOp_numbered, uni1_numbered]) h
theorem execSlane_ordered (d a b : Reg) (sx : Bool) (h : s.Numbered) : Ordered (execSlane d a b sx s) :=
  issue_ordered _ (by grind [uniOp_numbered]) h
theorem execSrsr_ordered (n : BitVec 10) (r : Reg) (h : s.Numbered) : Ordered (execSrsr n r s) :=
  issue_ordered _ (by grind [uniOp_numbered, illegal_numbered, numbered_eq]) h
theorem execSwsr_ordered (n : BitVec 10) (r : Reg) (h : s.Numbered) : Ordered (execSwsr n r s) :=
  issue_ordered _ (by grind [upG_numbered, illegal_numbered]) h
theorem execVmad_ordered (d a b : Reg) (wide : Bool) (h : s.Numbered) : Ordered (execVmad d a b wide s) :=
  issue_ordered _ (by dsimp only; split; exacts [vecOp64_numbered _ _ h, vecOp_numbered _ _ h]) h
theorem execFclrb_ordered (d a : Reg) (h : s.Numbered) : Ordered (execFclrb d a s) :=
  issue_ordered _ (by grind [vecOp_numbered, illegal_numbered, numbered_eq]) h
theorem execPcode_ordered (d a : Reg) (m : PcMode) (h : s.Numbered) : Ordered (execPcode d a m s) :=
  issue_ordered _ (by cases m; exacts [vecOp_numbered _ _ h, vecOp_numbered _ _ h, uniOp_numbered _ _ _ h]) h

theorem transfer_numbered (ts : List (Nat × PC)) (h : s.Numbered) : (transfer s ts).Numbered :=
  numbered_ite (upG_numbered (fun _ => foldl_outst (by intros; rfl)) h) (mispc_numbered _ h)
theorem transferAll_numbered (q : PC) (h : s.Numbered) : (transferAll s q).Numbered := transfer_numbered _ h
theorem serveItems_numbered (k core : Nat) (ls : List Nat) (h : s.Numbered) : (serveItems s k core ls).1.Numbered := by
  induction ls generalizing s with
  | nil => exact h
  | cons l t ih => unfold serveItems; grind [takeItem_numbered]
theorem execCall_ordered (o : BitVec 20) (s' : BitVec 2) (h : s.Numbered) : Ordered (execCall o s' s) :=
  issue_ordered _ (numbered_ite (transferAll_numbered _ h)
    (transferAll_numbered _ (upG_numbered (fun _ => (setVs_outst ..).trans (setVs_outst ..)) h))) h
theorem execRet_ordered (r : Reg) (h : s.Numbered) : Ordered (execRet r s) :=
  issue_ordered _ (by grind [transferAll_numbered, transfer_numbered, upG_numbered]) h
theorem execRejoin_ordered (k : BitVec 3) (h : s.Numbered) : Ordered (execRejoin k s) :=
  issue_ordered _ (numbered_ite (trap_numbered _ _ _ _ h) (upG_numbered (fun _ => rejoinKnot_outst ..) h)) h
theorem foldl_id {α : Type} {f : Entry → α → Entry} (hf : ∀ e x, (f e x).id = e.id) (l : List α) (e : Entry) : (l.foldl f e).id = e.id :=
  List.foldlRecOn l f (motive := fun x : Entry => x.id = e.id) rfl (fun x h y _ => (hf x y).trans h)
/-- ITEM after its takes: what the lanes `got` have obtained is outstanding, the lanes `miss` leave at the exit target. -/
def servedItem (k : BitVec 3) (r : Reg) (o : BitVec 10) (s' : BitVec 2) (q : PC) (miss : Mask) (s : State) (got : List (Nat × DWord)) : State :=
  let s := (transfer s ((lanesOf miss).map (fun l => (l, q)))).upG (fun g =>
    let en := miss &&& (g.k k.toNat).enrolled
    if en = 0 then g else strikeKnot g k.toNat en)
  if got = [] then s
  else
    (addEntry s s.cur.h (got.foldl (fun e x => e.done x.1 (pairCells x.2)) (newEntry s (.item k r o s') (maskOf (got.map (·.1))) 0 [] []))).bump
      s.cur.h 0x16 got.length
theorem servedItem_numbered (k : BitVec 3) (r : Reg) (o : BitVec 10) (s' : BitVec 2) (q : PC) (miss : Mask) (got : List (Nat × DWord))
    (h : s.Numbered) : (servedItem k r o s' q miss s got).Numbered := by
  unfold servedItem
  extract_lets u
  have hu : u.Numbered := upG_numbered (fun g => by dsimp only; split; exacts [rfl, strikeKnot_outst ..]) (transfer_numbered _ h)
  clear_value u
  exact numbered_ite hu (bump_numbered _ _ _ (addEntry_numbered _ (foldl_id (by intros; rfl) _ _) hu))
theorem execItem_ordered (k : BitVec 3) (r : Reg) (o : BitVec 10) (s' : BitVec 2) (h : s.Numbered) : Ordered (execItem k r o s' s) := by
  refine issue_ordered _ (numbered_ite (transferAll_numbered _ h) ?_) h
  have hm := serveItems_numbered s.cur.rd.launch s.cur.rd.core (lanesOf s.cur.mask) (takesBefore_numbered s.cur.h s.ids (fun _ => true) h)
  exact servedItem_numbered k r o s' _ _ _ hm
theorem execYield_ordered (h : s.Numbered) : Ordered (execYield s) := issue_ordered _ (by grind [upG_numbered]) h

/-! #### Requests: loads, stores, atomics -/

theorem translateB_numbered (x : Ctx) (n : Nat) (b : BReg) (va : Nat) (k : AccKind) (h : s.Numbered) : (translateB s x n b va k).1.Numbered := by
  have hf := walkFresh_numbered x va k h
  unfold translateB
  dsimp only
  split
  · split
    · exact hf
    · split
      · split
        next epa e _ =>
          split
          · have hm (m : MemSt) (hm : m.pend = s.mem.pend) : ({ touch s (banksAt x.core false epa) with mem := m } : State).Numbered :=
              (onPath_of_pend (hm.trans (by rw [touch_mem])) (touch_onPath (banksAt x.core false epa) (.refl s))).numbered h
            exact modG_numbered _ (fun _ => rfl) (hm _ (setAD_pend ..))
          · exact hf
        next => exact hf
      · exact h
  · exact translate_numbered x va k h
theorem laneAccess_numbered (x : Ctx) (via : Option (Nat × BReg)) (k : AccKind) (align va : Nat) (h : s.Numbered) :
    (laneAccess s x via k align va).1.Numbered := by
  unfold laneAccess; grind [translateB_numbered, translate_numbered]
theorem postPages_numbered (core : Nat) (rs : List FaultRec) (h : s.Numbered) : (postPages s core rs).Numbered :=
  foldl_numbered (fun _ _ h => by exact h) rs h
theorem keepRecords_numbered (t : State) (core : Nat) (h : s.Numbered) : (keepRecords s t core).Numbered := h
theorem holdLanes_numbered (h : Nat) (e : Entry) (m : Mask) (hs : s.Numbered) : (holdLanes s h e m).Numbered := modG_numbered h (fun _ => rfl) hs
theorem holdWhole_numbered (i : Instr) (done : Mask) (h : s.Numbered) : (holdWhole s i done).Numbered :=
  bump_numbered _ _ _ (upG_numbered (fun _ => rfl) (stall_numbered 4 h))
theorem acceptJobs_numbered (i : Instr) {note : Mask → State → State} (hn : ∀ m s, s.Numbered → (note m s).Numbered)
    (js : List (PendKind × Mask × DWord)) (h : s.Numbered) : (acceptJobs s i note js).Numbered := by
  have hf (m : Mask) (now : List (PendKind × Mask × DWord)) :
      (now.foldl (fun t j => pushPend t t.cur.h s.ids t.cur.wpc j.2.2.toNat j.2.1 j.1) (note m s)).Numbered :=
    foldl_numbered (fun _ _ h => pushPend_numbered _ _ _ _ _ _ h) _ (hn m s h)
  unfold acceptJobs
  dsimp only
  split
  · exact hf _ _
  · exact holdWhole_numbered _ _ (hf _ _)
theorem startLane_numbered (x : Ctx) (via : Option (Nat × BReg)) (id l : Nat) (r : State × List PageAt) (h : r.1.Numbered) :
    (startLane x via id r l).1.Numbered := by
  unfold startLane; grind [tokenLane_numbered, bump_numbered, laneAccess_numbered, modEntry_numbered, numbered_eq]
theorem endStart_numbered (x : Ctx) (id : Nat) (rej : Mask) (ps : List PageAt) {page : State → Mask → Nat → State}
    (hp : ∀ s m n, s.Numbered → (page s m n).Numbered) (h : s.Numbered) : (endStart s x id rej ps page).Numbered := by
  unfold endStart; grind [acquire_numbered, perform_numbered, bump_numbered, holdLanes_numbered, postPages_numbered, numbered_eq]
theorem loadBody_numbered (i : Instr) (n : BitVec 3) (uop : DWord) (off : Option Reg) (h : s.Numbered) : (loadBody i n uop off s).Numbered := by
  unfold loadBody
  extract_lets m x b slots e ls dm free acc rej
  have ht : (acc.foldl (startLane x (some (n.toNat, b)) e.id) (addEntry s x.h e, [])).1.Numbered :=
    foldl_keeps_fst (fun r l => startLane_numbered _ _ _ l r) _ (addEntry_numbered _ rfl h)
  split
  · exact debugTrap_numbered _ _ h
  · split
    next t ps hr =>
      split
      · exact doubleTrap_numbered _ (keepRecords_numbered _ _ h)
      · exact endStart_numbered _ _ _ _ (fun _ _ _ => askPage_numbered _ _ _) (numbered_of_eq hr ht)

theorem translateJobs_numbered (x : Ctx) (k : StoreKind) (b : BReg) (js : List MemJob) (h : s.Numbered) :
    (translateJobs x k b s js).1.Numbered := by
  induction js generalizing s with
  | nil => exact h
  | cons j t ih =>
    have hl := laneAccess_numbered x (some (k.breg.toNat, b)) k.acc k.align j.va h
    unfold translateJobs
    exact ih hl
theorem raceLog_numbered (x : Ctx) (rs : List (MemJob × LaneAcc)) (h : s.Numbered) : (raceLog s x rs).Numbered := by
  refine foldl_keeps_fst (fun r a hr => ?_) rs h
  dsimp only
  split
  · exact hr
  · exact raceRecord_numbered _ _ _ _ _ (bump_numbered _ _ _ hr)
/-- Of an answer that is a final state, or a state with a result to go on with. -/
def OrderedSum {α : Type} (r : State ⊕ (State × α)) : Prop := Sum.elim State.Numbered (fun p => p.1.Numbered) r

theorem orderedSum_ite {α : Type} {c : Prop} [Decidable c] {a b : State ⊕ (State × α)} (ha : OrderedSum a) (hb : OrderedSum b) :
    OrderedSum (if c then a else b) := by split; exacts [ha, hb]

theorem checkJobs_numbered (i : Instr) (k : StoreKind) (js : List MemJob) (h : s.Numbered) : OrderedSum (checkJobs s i k js) := by
  have ht := translateJobs_numbered (issueCtx s) k (s.cur.rd.b k.breg.toNat) js h
  have hu := keepRecords_numbered (translateJobs (issueCtx s) k (s.cur.rd.b k.breg.toNat) s js).1 (issueCtx s).core h
  unfold checkJobs
  dsimp only
  split
  · exact deferred_numbered _ hu
  · split
    · exact deferredTrap_numbered _ _ _ _ hu
    · split
      · exact debugTrap_numbered _ _ hu
      · split
        · exact deferredTrap_numbered _ _ _ _ hu
        · split
          · split_ifs
            · exact doubleTrap_numbered _ hu
            · exact holdWhole_numbered _ _ hu
            · exact trap_numbered _ _ _ _ (bump_numbered _ _ _ (postPages_numbered _ _ hu))
          · split
            · exact ht
            · split
              · exact ht
              · exact trap_numbered _ _ _ _ (bump_numbered _ _ _ hu)
theorem noteRaces_numbered (h : Nat) (rel : Option Scope) (atm : Bool) (asc : Option Scope) (as : List (MemJob × LaneAcc)) (hs : s.Numbered) :
    (noteRaces s h rel atm asc as).Numbered := foldl_numbered (fun s a hs => by split; exacts [hs, hs]) _ hs
theorem enterRaces_numbered (rel : Option Scope) (atm : Bool) (asc : Option Scope) (as : List (MemJob × LaneAcc)) (m : Mask) (h : s.Numbered) :
    (enterRaces rel atm asc as m s).Numbered := noteRaces_numbered _ _ _ _ _ (raceLog_numbered _ _ h)
theorem writeJobs_numbered (i : Instr) (n : Nat) (rel : Option Scope) (as : List (MemJob × LaneAcc)) (h : s.Numbered) :
    (writeJobs s i n rel as).Numbered := acceptJobs_numbered _ (fun _ _ => enterRaces_numbered _ _ _ _ _) _ h
theorem releaseOnce_numbered (i : Instr) (rel : Option Scope) {k : State → State} (hk : ∀ s, s.Numbered → (k s).Numbered) (h : s.Numbered) :
    (releaseOnce s i rel k).Numbered := by
  unfold releaseOnce; grind [release_numbered, holdWhole_numbered]
theorem storeBody_numbered (i : Instr) (k : StoreKind) (n : Nat) (rel : Option Scope) (js : List MemJob) (h : s.Numbered) :
    (storeBody i k n rel js s).Numbered := by
  have hc := checkJobs_numbered i k (newJobs s i js) h
  unfold storeBody
  split
  · next e => rw [e] at hc; exact hc
  · next e => rw [e] at hc; exact releaseOnce_numbered _ _ (fun _ => writeJobs_numbered _ _ _ _) hc
theorem applyAtomic_numbered (i : Instr) (n : BitVec 3) (o : Reg) (data : List Nat) (as : List (MemJob × LaneAcc)) (h : s.Numbered) :
    (applyAtomic s i n o data as).Numbered := by
  refine releaseOnce_numbered _ _ (fun v hv => ?_) h
  dsimp only
  split
  · have ha (i : Instr) (js : List (PendKind × Mask × DWord)) (rel asc : Option Scope) :=
      acceptJobs_numbered i (fun m _ => enterRaces_numbered rel true asc as m) js hv
    split
    · exact numbered_ite (ha ..) (acquire_numbered _ _ (drainGroup_numbered _ (ha ..)))
    · exact ha ..
  · have hr := raceLog_numbered (issueCtx v) (racing v s.cur.h true as) hv
    generalize raceLog v (issueCtx v) (racing v s.cur.h true as) = u at hr ⊢
    have ha (e : Entry) (he : e.id = u.ids) := addEntry_numbered s.cur.h he hr
    refine numbered_ite (bump_numbered _ _ _ (holdLanes_numbered _ _ _ (ha _ rfl))) ?_
    split
    · exact acquire_numbered _ _ (perform_numbered _ _ (ha _ rfl))
    · exact numbered_ite (perform_numbered _ _ (ha _ rfl)) (ha _ rfl)
theorem atomicBody_numbered (i : Instr) (n : BitVec 3) (o : Reg) (ops : Nat → List Opd) (data : List Nat) (h : s.Numbered) :
    (atomicBody i n o ops data s).Numbered := by
  unfold atomicBody
  dsimp only
  split
  · next e => have hc := e ▸ checkJobs_numbered i _ _ h; exact hc
  · next e =>
    have hc := e ▸ checkJobs_numbered i _ _ h
    split
    · exact trap_numbered _ _ _ _ (keepRecords_numbered _ _ h)
    · exact applyAtomic_numbered _ _ _ _ _ hc

/-! #### Tile access, base translation -/

theorem execBxlt_ordered (d : Reg) (b : BitVec 3) (h : s.Numbered) : Ordered (execBxlt d b s) :=
  issue_ordered _ (addEntry_numbered _ rfl (translate_numbered _ _ .any h)) h
theorem tileCheck_numbered (as : List Nat) {ok : Team → State} (hok : ∀ t, (ok t).Numbered) (h : s.Numbered) : (tileCheck s as ok).Numbered := by
  unfold tileCheck; grind [illegal_numbered, stall_numbered]
theorem startTile_numbered (t : Team) (h : Nat) (e : Entry) (ls : List Nat) (sb : Opd) (off : Nat → Opd) (n : Nat) (hs : s.Numbered) :
    (startTile s t h e ls sb off n).Numbered := by
  have hbad (e : Entry) (l : Nat) :
      (match firstTok [off l, sb] with | some k => e.done l (elemCells n ⟨0, ebPoison, some k⟩) | none => e).id = e.id := by split <;> rfl
  unfold startTile
  extract_lets bad good free u
  have hu : u.Numbered := modEntry_numbered h e.id (fun e => (foldl_id (by intros; rfl) _ _).trans (foldl_id hbad _ e)) hs
  clear_value u good
  split
  · exact hu
  · exact bump_numbered _ _ _ (holdLanes_numbered _ _ _ hu)
theorem execLdt_ordered (d a b : Reg) (wd : Width) (h : s.Numbered) : Ordered (execLdt d a b wd s) :=
  issue_ordered _ (tileCheck_numbered _ (fun _ => startTile_numbered _ _ _ _ _ _ _ (addEntry_numbered _ rfl h)) h) h
theorem execStt_ordered (d a b : Reg) (wd : Width) (h : s.Numbered) : Ordered (execStt d a b wd s) :=
  issue_ordered _ (tileCheck_numbered _ (fun _ => writeJobs_numbered _ _ _ _ h) h) h

/-! #### Barriers, deques, bound cells, batches and fences -/

theorem withBarrier_numbered (i : BitVec 3) {f : Nat → State} (hf : ∀ pa, (f pa).Numbered) (h : s.Numbered) : (withBarrier s i f).Numbered := by
  unfold withBarrier; grind [illegal_numbered]
theorem execBari_ordered (a : Reg) (i : BitVec 3) (h : s.Numbered) : Ordered (execBari a i s) :=
  issue_ordered _ (withBarrier_numbered _ (fun pa => by
    dsimp only
    split
    · exact illegal_numbered h
    · exact releaseBar_numbered _ _ _ _ (writeBar_numbered _ _ (touch_numbered _ h))) h) h
theorem waitLane_numbered (i : BitVec 3) (pa l v : Nat) (h : s.Numbered) : (waitLane s i pa l v).Numbered :=
  numbered_ite h (upG_numbered (fun _ => rfl) h)
theorem execBarw_ordered (a : Reg) (i : BitVec 3) (h : s.Numbered) : Ordered (execBarw a i s) :=
  issue_ordered _ (withBarrier_numbered _ (fun _ => acquire_numbered _ _
    (foldl_numbered (fun _ _ => waitLane_numbered _ _ _ _) _ (touch_numbered _ h))) h) h
theorem arriveWith_numbered (d : Reg) (i : BitVec 3) (pa : Nat) (wait : Bool) (s : State) (l : Nat) (h : s.Numbered) :
    (arriveWith d i pa wait s l).Numbered := by
  have hu :=
    upG_numbered (f := fun g => g.setV d.toNat l (VCell.exact (((readBar s pa).phase + 1) % 2 ^ 16))) (fun _ => rfl) (arriveLane_numbered s.cur.h i l h)
  exact numbered_ite (waitLane_numbered _ _ _ _ hu) hu
theorem execBaraw_ordered (d : Reg) (i : BitVec 3) (h : s.Numbered) : Ordered (execBaraw d i s) :=
  issue_ordered _ (withBarrier_numbered _ (fun _ => acquire_numbered _ _ (foldl_numbered (arriveWith_numbered _ _ _ _) _ (release_numbered _ _ h))) h) h
theorem execBard_ordered (d : Reg) (i : BitVec 3) (h : s.Numbered) : Ordered (execBard d i s) :=
  issue_ordered _ (withBarrier_numbered _ (fun _ => foldl_numbered (arriveWith_numbered _ _ _ _) _ (release_numbered _ _ h)) h) h
theorem execBardDrop_ordered (i : BitVec 3) (h : s.Numbered) : Ordered (execBardDrop i s) :=
  issue_ordered _ (withBarrier_numbered _ (fun _ => foldl_numbered (fun _ _ => dropLane_numbered _ _ _) _ h) h) h
theorem lossTrap_numbered (ls : List (Nat × EB)) (h : s.Numbered) : (lossTrap s ls).Numbered := deferredTrap_numbered _ _ _ _ h
theorem pushLane_numbered (p : BitVec 3) (a : Reg) (s : State) (l : Nat) (h : s.Numbered) : (pushLane p a s l).Numbered :=
  upG_numbered (fun _ => setP_outst ..) (pushItem_numbered _ _ _ h)
theorem execDqpush_ordered (p : BitVec 3) (a : Reg) (h : s.Numbered) : Ordered (execDqpush p a s) := by
  refine issue_ordered _ ?_ h
  split
  · exact foldl_numbered (pushLane_numbered _ _) _ (takesBefore_numbered _ _ _ h)
  · exact lossTrap_numbered _ h
theorem cellAt_numbered (va : Nat) (k : AccKind) (h : s.Numbered) : OrderedSum (cellAt s va k) := by
  have ht := laneAccess_numbered (issueCtx s) none k 8 va h
  have hfail (c p : Nat) (m : Mask) (n : Nat) :=
    deferredTrap_numbered c p m n (keepRecords_numbered (laneAccess s (issueCtx s) none k 8 va).1 (issueCtx s).core h)
  unfold cellAt
  dsimp only
  split
  · exact debugTrap_numbered _ _ h
  · split
    · exact hfail _ _ _ _
    · exact hfail _ _ _ _
    · exact orderedSum_ite ht (hfail _ _ _ _)
theorem minBody_numbered (a b : Reg) (dev : Bool) (h : s.Numbered) : (minBody a b dev s).Numbered := by
  have hc := cellAt_numbered (s.os a).v .rw h
  unfold minBody
  split
  · split
    · next e => rw [e] at hc; exact hc
    · next t pa e =>
      rw [e] at hc
      have hu := reportErrors_numbered (whoOf s s.cur.h) true s.cur.wpc [] [⟨pa, (s.os a).v, 0, none⟩]
        (forceBefore_numbered t.cur.h t.ids [sectorOf pa] hc)
      have hf := foldl_numbered (fun u l hu => applyMin_numbered s.cur.rd.core pa dev (s.opair b l).v hu) (lanesOf s.cur.mask) hu
      exact modCore_numbered _ _ hf
  · exact lossTrap_numbered _ h
theorem execBndrd_ordered (d a : Reg) (h : s.Numbered) : Ordered (execBndrd d a s) := by
  have hc := cellAt_numbered (s.os a).v .read h
  refine issue_ordered _ ?_ h
  dsimp only
  split
  · next e => rw [e] at hc; exact hc
  · next e => rw [e] at hc; exact addEntry_numbered _ rfl hc
theorem execWaitb_ordered (a : Reg) (h : s.Numbered) : Ordered (execWaitb a s) :=
  issue_ordered _ (by grind [stall_numbered, acquire_numbered, illegal_numbered, deferredTrap_numbered, upG_numbered]) h
theorem execFence_ordered (sc : Scope) (h : s.Numbered) : Ordered (execFence sc s) :=
  issue_ordered _ (acquire_numbered _ _ (release_numbered _ _ h)) h

/-! #### Checks, regions, time -/

theorem execPset_ordered (d : Reg) (n : BitVec 3) (sense : Bool) (h : s.Numbered) : Ordered (execPset d n sense s) :=
  issue_ordered _ (bump_numbered _ _ _ (upG_numbered (fun _ => setVs_outst ..) h)) h
theorem execEnter_ordered (i : BitVec 12) (h : s.Numbered) : Ordered (execEnter i s) :=
  issue_ordered _ (by grind [illegal_numbered, regionEdge_numbered, traceRegion_numbered, upG_numbered]) h
theorem execLeave_ordered (i : BitVec 16) (h : s.Numbered) : Ordered (execLeave i s) :=
  issue_ordered _ (by grind [illegal_numbered, regionEdge_numbered, traceRegion_numbered, upG_numbered]) h
theorem settleTimer_numbered (t : TimerSel) (h : s.Numbered) : (settleTimer s t).Numbered :=
  upG_numbered (fun g => by split; exacts [fireTimer_outst g t, rfl]) h
theorem setTimer_outst (g : Group) (t : TimerSel) (x : Timer) : (setTimer g t x).outst = g.outst := by cases t <;> rfl
theorem execTimer_ordered (a : Reg) (t : TimerSel) (h : s.Numbered) : Ordered (execTimer a t s) :=
  issue_ordered _ (upG_numbered (fun _ => setTimer_outst ..) (settleTimer_numbered t h)) h
theorem execTimerPoll_ordered (p : BitVec 3) (t : TimerSel) (h : s.Numbered) : Ordered (execTimerPoll p t s) :=
  issue_ordered _ (upG_numbered (fun _ => setTimer_outst ..) (predOp_numbered _ _ (settleTimer_numbered t h))) h
theorem execTimerWait_ordered (t : TimerSel) (h : s.Numbered) : Ordered (execTimerWait t s) := by
  have hs := settleTimer_numbered t h
  exact issue_ordered _ (numbered_ite (upG_numbered (fun _ => setTimer_outst ..) hs)
    (numbered_ite (upG_numbered (fun _ => foldl_outst (by intros; rfl)) hs) hs)) h

end Sys2Proof.Machine

namespace Sys2Proof.Machine

variable {s t u : State} {m : MemSt} {e : Entry}

theorem numbered_of_reachBanks {bs : List Nat} {b : Bool} (e : reachBanks s bs = (b, u)) (h : s.Numbered) : u.Numbered := by
  have := reachBanks_numbered bs h; rwa [e] at this

/-! #### Engine tasks -/

theorem taskCount_numbered (t : Task) (ev n : Nat) (h : s.Numbered) : (taskCount s t ev n).Numbered := by unfold taskCount; grind [count_numbered]
theorem meetErrors_numbered (t : Task) (wr : Bool) (met : List Nat) (as : List LaneAcc) (h : s.Numbered) : (meetErrors s t wr met as).1.Numbered :=
  reportErrors_numbered _ _ _ _ _ (by split; exacts [h, taskCount_numbered _ _ _ h])
theorem acceptRead_numbered (t : Task) (a : Nat) (h : s.Numbered) : (acceptRead s t a).1.Numbered := by
  unfold acceptRead; grind [translate_numbered]
theorem tokenSector_numbered (t : Task) (c a : Nat) (h : s.Numbered) : (tokenSector s t c a).1.Numbered := taskCount_numbered _ _ _ h
theorem readAccepted_numbered (t : Task) (p : LaneAcc) (h : s.Numbered) : (readAccepted s t p).1.Numbered := by
  unfold readAccepted; grind [tokenSector_numbered, taskCount_numbered]
theorem readSector_numbered (t : Task) (tm : Team) (kind : Bool) (a : Nat) (h : s.Numbered) : (readSector s t tm kind a).1.Numbered := by
  unfold readSector; grind [acceptRead_numbered, tokenSector_numbered, readAccepted_numbered, touch_numbered]
theorem readEach_numbered (t : Task) (tm : Team) (kind : Bool) (as : List Nat) (h : s.Numbered) : (readEach t tm kind s as).1.Numbered := by
  induction as generalizing s with
  | nil => exact h
  | cons a as ih => unfold readEach; exact ih (readSector_numbered _ _ _ _ h)
theorem readSectors_numbered (t : Task) (tm : Team) (kind : Bool) (met as : List Nat) (h : s.Numbered) :
    (readSectors t tm kind met s as).1.Numbered := meetErrors_numbered _ _ _ _ (readEach_numbered _ _ _ _ h)
theorem readRow_numbered (t : Task) (tm : Team) (met : List Nat) (d : BitVec 128) (r n : Nat) (h : s.Numbered) :
    (readRow s t tm met d r n).1.Numbered := readSectors_numbered _ _ _ _ _ h
theorem copySector_numbered (t : Task) (a c : BitVec 128) (md : CopyMode) (k : Nat × Nat) (x : SecIn) (h : s.Numbered) :
    (copySector s t a c md k x).1.Numbered := by unfold copySector; grind [translate_numbered]
theorem copyRace_numbered (t : Task) (r : CopyRes) (h : s.Numbered) : (copyRace t s r).1.Numbered := by
  unfold copyRace; grind [taskCount_numbered, raceRecord_numbered, numbered_eq]
theorem copyRaces_numbered (t : Task) (rs : List CopyRes) (h : s.Numbered) : (copyRaces t s rs).1.Numbered := by
  induction rs generalizing s with
  | nil => exact h
  | cons r rs ih => unfold copyRaces; exact ih (copyRace_numbered _ _ h)
theorem copyMove_numbered (t : Task) (tm : Team) (a c : BitVec 128) (md : CopyMode) (o : TaskOut) (h : s.Numbered) :
    (copyMove s t tm a c md o).1.Numbered := by
  unfold copyMove
  grind [pick_numbered, copySector_numbered, acceptRead_numbered, tokenSector_numbered, newId_numbered, reachBanks_numbered,
    readAccepted_numbered, meetErrors_numbered, numbered_eq]
theorem scaleTask_numbered (t : Task) (tm : Team) (met : List Nat) (form : Nat) (a b c : BitVec 128) (k : Cls) (x : SCell) (h : s.Numbered) :
    (scaleTask s t tm met form a b c k x).1.Numbered := by
  have hr := readRow_numbered t tm met b 0 (dCols b) h
  unfold scaleTask
  dsimp only
  split
  · exact h
  · exact hr
theorem runTask_numbered (t : Task) (tm : Team) (met : List Nat) (h : s.Numbered) : (runTask s t tm met).1.Numbered := by
  unfold runTask; grind [readSectors_numbered, scaleTask_numbered, numbered_eq]
theorem setTasks_numbered (f : List Task → List Task) (h : s.Numbered) : (setTasks s f).Numbered := h
theorem setBank_numbered (core half : Nat) (f : ResBank → ResBank) (h : s.Numbered) : (setBank s core half f).Numbered := h
theorem startTask_numbered (id : Nat) (h : s.Numbered) : (startTask s id).Numbered := by
  unfold startTask
  split
  · exact h
  · next t _ =>
    split
    · exact h
    · split
      · exact h
      · next tm _ =>
        split
        · next e => exact numbered_of_reachBanks e h
        · next u e =>
          have hm := meetErrors_numbered t false [] (pondReads t tm) (numbered_of_reachBanks e h)
          have hr := runTask_numbered t tm (meetErrors u t false [] (pondReads t tm)).2 hm
          refine setTasks_numbered _ ?_
          split
          · exact modCore_numbered _ _ hr
          · exact hr
theorem finishOut_numbered (t : Task) (tm : Team) (o : TaskOut) (h : s.Numbered) : (finishOut s t tm o).1.Numbered := by
  unfold finishOut
  split
  · exact meetErrors_numbered t true o.met _ (copyRaces_numbered t o.copy h)
  · exact meetErrors_numbered _ _ _ _ h
theorem dropTeamL1_numbered (tm : Team) (ks : List Nat) (h : s.Numbered) : (dropTeamL1 s tm ks).Numbered := by
  unfold dropTeamL1; exact foldl_numbered (fun _ _ h => modCore_numbered _ _ h) _ h
theorem taskToGroup_outst (t : Task) (o : TaskOut) (g : Group) : (taskToGroup t o g).outst = g.outst := by
  unfold taskToGroup
  dsimp only
  split
  · rfl
  · split <;> split <;> rfl
theorem endTask_numbered (t : Task) (tm : Team) (o : TaskOut) (h : s.Numbered) : (endTask s t tm o).Numbered := by
  unfold endTask
  split
  next u o e =>
  have hu : u.Numbered := numbered_of_eq e (finishOut_numbered _ _ _ h)
  extract_lets w s1 s2 s3 s4 q s5 s6
  have h1 : s1.Numbered :=
    (onPath_of_pend ((foldl_pend (fun m pa => raceNote_pend m pa w none false none) _).trans (foldl_pend applySector_pend _)) (.refl u)).numbered hu
  have h4 : s4.Numbered :=
    foldl_numbered (fun _ _ => taskCount_numbered _ _ _) _ (modG_numbered t.h (taskToGroup_outst t o) (dropTeamL1_numbered tm _ h1))
  have h5 : s5.Numbered := by
    unfold s5; split
    · exact h4
    · exact count_numbered _ _ _ _ _ h4
  have h6 : s6.Numbered := by
    unfold s6; split
    · exact setBank_numbered _ _ _ h5
    · exact h5
  split
  · exact h6
  · exact h6
theorem finishTask_numbered (id : Nat) (h : s.Numbered) : (finishTask s id).Numbered := by
  unfold finishTask; grind [copyMove_numbered, setTasks_numbered, reachBanks_numbered, endTask_numbered]
theorem arrayError_numbered (core half : Nat) (h : s.Numbered) : (arrayError s core half).Numbered := by
  unfold arrayError; grind [pick_numbered, taskCount_numbered, setTasks_numbered, numbered_eq]

/-! #### Issue of engine instructions -/

theorem tileDrain_numbered (h : s.Numbered) : (tileDrain s).Numbered :=
  foldl_numbered (fun s k h => by split; exacts [drainGroup_numbered _ h, forceBefore_numbered _ _ _ h]) _ h
theorem issueTask_numbered (ok : Team → Bool) (x : TaskShape) (h : s.Numbered) : (issueTask s ok x).Numbered := by
  have hs (why : Nat) : (stall s why).Numbered := stall_numbered why h
  unfold issueTask
  split
  · exact illegal_numbered h
  · dsimp only
    exact numbered_ite (illegal_numbered h) (numbered_ite (hs _) (numbered_ite (hs _) (numbered_ite (hs _) (newId_numbered (tileDrain_numbered h)))))
theorem execTgive_ordered (e : BitVec 4) (h : s.Numbered) : Ordered (execTgive e s) :=
  issue_ordered _ (by grind [illegal_numbered, stall_numbered, issueTask_numbered, modCore_numbered]) h
theorem execTtake_ordered (e : BitVec 4) (h : s.Numbered) : Ordered (execTtake e s) :=
  issue_ordered _ (by grind [issueTask_numbered, setBank_numbered]) h
theorem execTdesc_ordered (e : BitVec 4) (v : Reg) (h : s.Numbered) : Ordered (execTdesc e v s) :=
  issue_ordered _ (numbered_ite (illegal_numbered h) (upG_numbered (fun _ => rfl) h)) h
theorem execTsetd_ordered (e : BitVec 4) (v : Reg) (f : TField) (h : s.Numbered) : Ordered (execTsetd e v f s) :=
  issue_ordered _ (numbered_ite (upG_numbered (fun _ => rfl) h) (numbered_ite (illegal_numbered h) (upG_numbered (fun _ => rfl) h))) h

/-! #### Operations performed again -/

theorem pageResume_numbered (h : Nat) (e : Entry) (slot : Nat) (m : Mask) (n : Nat) (hs : s.Numbered) : (pageResume h e slot s m n).Numbered := by
  unfold pageResume; grind [doubleAt_numbered, enterSupervisor_numbered, bump_numbered, perform_numbered]
theorem resumeAccess_numbered (h : Nat) (e : Entry) (slot : Nat) (hs : s.Numbered) : (resumeAccess s h e slot).Numbered := by
  have hl (ls : List Nat) (x : Ctx) : (ls.foldl (startLane x none e.id) (s, [])).1.Numbered :=
    foldl_keeps_fst (fun r l => startLane_numbered _ _ _ l r) _ hs
  have he {t : State} (x : Ctx) (id : Nat) (rej : Mask) (ps : List PageAt) (ht : t.Numbered) :
      (endStart t x id rej ps (pageResume h e slot)).Numbered := endStart_numbered _ _ _ _ (fun _ _ _ => pageResume_numbered _ _ _ _ _) ht
  unfold resumeAccess
  dsimp only
  split
  · exact he _ _ _ _ (modEntry_numbered h e.id (fun _ => rfl) (hl _ _))
  · exact he _ _ _ _ (hl _ _)
theorem resumeTile_numbered (h : Nat) (e : Entry) (hs : s.Numbered) : (resumeTile s h e).Numbered := by
  unfold resumeTile; grind [holdLanes_numbered, startTile_numbered]
theorem resumeCell_numbered (h : Nat) (e : Entry) (hs : s.Numbered) : (resumeCell s h e).Numbered := by
  have hl := laneAccess_numbered (entryCtx s h e) none .read 8 e.uop.toNat hs
  unfold resumeCell
  dsimp only
  split
  next heq => exact modEntry_numbered h e.id (fun _ => rfl) (numbered_of_eq heq hl)
  next heq => exact modEntry_numbered h e.id (fun e => foldl_id (by intros; rfl) _ e) (bump_numbered _ _ _ (numbered_of_eq heq hl))
theorem resumeEntry_numbered (h id slot : Nat) (hs : s.Numbered) : (resumeEntry s h id slot).Numbered := by
  unfold resumeEntry
  split
  · exact hs
  next e _ =>
    refine numbered_ite hs ?_
    split
    · exact resumeTile_numbered _ _ hs
    · exact modEntry_numbered h id (fun _ => rfl) (translate_numbered _ _ _ hs)
    · exact numbered_ite hs (resumeCell_numbered _ _ hs)
    · exact numbered_ite hs (numbered_ite hs (resumeAccess_numbered _ _ _ hs))
theorem resumeAll_numbered (h : Nat) (hs : s.Numbered) : (resumeAll s h).Numbered := foldl_numbered (fun _ _ => resumeEntry_numbered _ _ _) _ hs
theorem retryAccess_numbered (h : Nat) (r : Held) (hs : s.Numbered) : (retryAccess s h r).Numbered := by
  unfold retryAccess
  extract_lets pc u
  have hu : u.Numbered := resumeEntry_numbered _ _ _ (modG_numbered h (fun _ => rfl) hs)
  split
  · exact modG_numbered h (fun _ => rfl) hu
  · exact resumeAll_numbered _ hu
theorem retryRequest_numbered (h : Nat) (hs : s.Numbered) : (retryRequest s h).Numbered := by
  unfold retryRequest; grind [retryAccess_numbered, killDue_numbered, modG_numbered]

/-! #### The supervisor -/

theorem execSret_ordered (h : s.Numbered) : Ordered (execSret s) :=
  issue_ordered _ (by split; exacts [returnFromTrap_numbered (fun _ => resumeAll_numbered) _ h, mispc_numbered _ h]) h
theorem execRqrd_ordered (d a : Reg) (w : BitVec 2) (h : s.Numbered) : Ordered (execRqrd d a w s) :=
  issue_ordered _ (numbered_ite (illegal_numbered h) (addEntry_numbered _ rfl h)) h
theorem execRqrdV_ordered (d a : Reg) (w : BitVec 2) (h : s.Numbered) : Ordered (execRqrdV d a w s) :=
  issue_ordered _ (numbered_ite (illegal_numbered h) (addEntry_numbered _ (foldl_id (by intros; rfl) _ _) h)) h
theorem setReplay_numbered (i : Nat) (f : Entry → Entry) (h : s.Numbered) : (setReplay s i f).Numbered := upG_numbered (fun _ => rfl) h
theorem execRqwr_ordered (a b : Reg) (w : BitVec 2) (h : s.Numbered) : Ordered (execRqwr a b w s) :=
  issue_ordered _ (by grind [illegal_numbered, setReplay_numbered]) h
theorem execRqwrV_ordered (a b : Reg) (n : BitVec 2) (h : s.Numbered) : Ordered (execRqwrV a b n s) :=
  issue_ordered _ (by grind [illegal_numbered, setReplay_numbered]) h
theorem sendInval_numbered (by_ : Option Nat) (tag base pages : Nat) (mode : BitVec 2) (h : s.Numbered) :
    (sendInval s by_ tag base pages mode).1.Numbered := newId_numbered h
theorem tlbinvBody_numbered (tag base pages : Nat) (mode : BitVec 2) (h : s.Numbered) : (tlbinvBody tag base pages mode s).Numbered := by
  unfold tlbinvBody; grind [stall_numbered, release_numbered, sendInval_numbered, upG_numbered]
theorem execTlbwait_ordered (h : s.Numbered) : Ordered (execTlbwait s) := issue_ordered _ (by grind [acquire_numbered, stall_numbered]) h
theorem killmDone_outst (g : Group) : (killmDone g).outst = g.outst := (endHandler_outst _).trans (strikeAll_outst ..)
theorem saveKillm_numbered (h : Nat) (hs : s.Numbered) : (saveKillm s h).Numbered := by
  unfold saveKillm
  split
  · exact hs
  · exact dropLanes_numbered _ _ (modG_numbered h killmDone_outst hs)
theorem captureHalted_numbered (h : Nat) (hs : s.Numbered) : (captureHalted s h).Numbered := by
  unfold captureHalted; grind [capture_numbered, numbered_eq]
theorem putNote_numbered (pa check : Nat) (bs : List (Nat × Byte)) (h : s.Numbered) : (putNote s pa check bs).Numbered := h
theorem moveNotes_numbered (src size dst : Nat) (h : s.Numbered) : (moveNotes s src size dst).Numbered := h
theorem saveGroup_numbered (h pa : Nat) (hs : s.Numbered) : (saveGroup s h pa).Numbered := by
  unfold saveGroup
  extract_lets s1 s2 g r img s3
  have h1 : s1.Numbered := by
    unfold s1; split
    · exact hs
    · exact bump_numbered _ _ _ hs
  have h2 : s2.Numbered := captureHalted_numbered _ (saveKillm_numbered _ (release_numbered _ _ (finishAll_numbered _ h1)))
  exact modG_numbered _ (fun _ => rfl) (putNote_numbered _ _ _ (setBytes_numbered pa img h2))
theorem execCtxsv_ordered (a : Reg) (h : s.Numbered) : Ordered (execCtxsv a s) :=
  issue_ordered _ (by grind [illegal_numbered, stall_numbered, saveGroup_numbered]) h
theorem restFail_numbered (h : Nat) (hs : s.Numbered) : (restFail s h).Numbered := by unfold restFail; grind [postJournal_numbered, modG_numbered]
theorem loadRegs_outst (s : State) (pa : Nat) (g : Group) : (loadRegs s pa g).outst = g.outst := by
  have hs (f : Nat → SCell) (l : List Nat) (g : Group) : (l.foldl (fun g i => g.setS i (f i)) g).outst = g.outst := foldl_outst fun _ _ => rfl
  have hp (f : Nat → Nat → Byte) (l : List Nat) (g : Group) :
      (l.foldl (fun g k => (List.range g.width).foldl (fun g i => g.setP k i (f k i)) g) g).outst = g.outst :=
    foldl_outst fun _ _ => foldl_outst fun _ _ => setP_outst ..
  have hb (f : Nat → BReg) (l : List Nat) (g : Group) : (l.foldl (fun g i => g.setB i (f i)) g).outst = g.outst := foldl_outst fun _ _ => rfl
  have hd (f : Nat → BitVec 128) (l : List Nat) (g : Group) : (l.foldl (fun g i => g.setD i (f i)) g).outst = g.outst :=
    foldl_outst fun _ _ => rfl
  have hk (f : Nat → Knot) (l : List Nat) (g : Group) : (l.foldl (fun g i => g.setK i (f i)) g).outst = g.outst := foldl_outst fun _ _ => rfl
  have hv (f : Nat → VCell) (l : List Nat) (g : Group) :
      (l.foldl (fun g i => g.setV (i / g.width) (i % g.width) (f i)) g).outst = g.outst := foldl_outst fun _ _ => rfl
  unfold loadRegs
  exact (hv ..).trans ((hk ..).trans ((hd ..).trans ((hb ..).trans ((hp ..).trans (hs ..)))))
theorem loadImage_numbered (h pa : Nat) (hs : s.Numbered) : (loadImage s h pa).Numbered := modG_numbered h (fun g => loadRegs_outst s pa g) hs
theorem execCtxrs_ordered (a : Reg) (h : s.Numbered) : Ordered (execCtxrs a s) :=
  issue_ordered _ (numbered_ite (illegal_numbered h)
    (upG_numbered (fun _ => setPs_outst ..) (numbered_ite (loadImage_numbered _ _ h) (restFail_numbered _ h)))) h
theorem execDbgset_ordered (d a b : Reg) (n : BitVec 3) (h : s.Numbered) : Ordered (execDbgset d a b n s) :=
  issue_ordered _ (by grind [illegal_numbered, modCore_numbered]) h
theorem execSsr_ordered (n : BitVec 10) (r : Reg) (h : s.Numbered) : Ordered (execSsr n r s) :=
  issue_ordered _ (by split; exacts [uniOp_numbered _ _ _ h, illegal_numbered h]) h
theorem execSsrV_ordered (n : BitVec 10) (r : Reg) (h : s.Numbered) : Ordered (execSsrV n r s) :=
  issue_ordered _ (by split; exacts [illegal_numbered h, vecOp64_numbered _ _ h]) h
theorem execSsrP_ordered (n : BitVec 10) (r : Reg) (h : s.Numbered) : Ordered (execSsrP n r s) :=
  issue_ordered _ (by split; exacts [predOp_numbered _ _ h, illegal_numbered h]) h
theorem execSsw_ordered (n : BitVec 10) (r : Reg) (h : s.Numbered) : Ordered (execSsw n r s) :=
  issue_ordered _ (by grind [illegal_numbered, upG_numbered, modCore_numbered, numbered_eq]) h
theorem execSswV_ordered (n : BitVec 10) (r : Reg) (h : s.Numbered) : Ordered (execSswV n r s) :=
  issue_ordered _ (numbered_ite (illegal_numbered h) (upG_numbered (fun _ => foldl_outst (by intros; rfl)) h)) h
theorem killOwn_numbered (h : Nat) (dump : Bool) (hs : s.Numbered) : (killOwn s h dump).Numbered := killLaunch_numbered _ _ _ _ _ _ _ _ hs

/-! #### Steps of the memory path and of the groups -/

theorem returnResult_numbered (h id : Nat) (hs : s.Numbered) : (returnResult s h id).Numbered := by
  unfold returnResult; grind [reachBanks_numbered, tearLoad_numbered, finishEntry_numbered]
theorem homeStep_numbered (id : Nat) (h : s.Numbered) : (homeStep s id).Numbered := by
  unfold homeStep; grind [reachBanks_numbered, choose_numbered, tearStore_numbered, forceBefore_numbered, storeHome_numbered]
theorem applyAtomicAt_numbered (h id : Nat) (hs : s.Numbered) : (applyAtomicAt s h id).Numbered := by
  unfold applyAtomicAt; grind [homeStep_numbered, reachBanks_numbered, performLocation_numbered, forceBefore_numbered]
theorem requestPreempt_numbered (k t : Nat) (h : s.Numbered) : (requestPreempt s k t).Numbered := by
  unfold requestPreempt
  split
  · split
    · exact h
    · exact foldl_numbered (fun s k hs => modG_numbered k (fun g => by dsimp only; split <;> rfl) hs) _ (modTeam_numbered _ _ _ h)
  · exact h
theorem assignImage_numbered (k t : Nat) (h : s.Numbered) : (assignImage s k t).Numbered := by unfold assignImage; grind [modTeam_numbered]
theorem forcePreempt_numbered (h : Nat) (hs : s.Numbered) : (forcePreempt s h).Numbered := by
  have he (n : Nat) (p : PC) : (enterSupervisor { s with free := n } h 0x2F 0 0 false 0 0 p none none).Numbered :=
    enterSupervisor_numbered _ _ _ _ _ _ _ _ _ _ hs
  unfold forcePreempt; grind [modG_numbered]
theorem preemptDeadline_numbered (k t : Nat) (h : s.Numbered) : (preemptDeadline s k t).Numbered := by
  have ha := assignImage_numbered k t h
  unfold preemptDeadline
  dsimp only
  split
  · exact ha
  · split
    · exact foldl_numbered (fun _ _ => forcePreempt_numbered _) _ ha
    · exact ha
theorem stopForced_numbered (h : Nat) (hs : s.Numbered) : (stopForced s h).Numbered := by
  have he (n : Nat) (p : PC) : (enterSupervisor { s with free := n } h 0x2E 0 0 true 0 0 p none none).Numbered :=
    enterSupervisor_numbered _ _ _ _ _ _ _ _ _ _ hs
  unfold stopForced endStop; grind [modG_numbered]
theorem setBankSt_numbered (b : Nat) (x : BankSt) (h : s.Numbered) : (setBankSt s b x).Numbered := h
theorem clearEntry_id (v : Inval) (tag : BitVec 16) (e : Entry) : (v.clearEntry tag e).id = e.id := by
  unfold Inval.clearEntry
  split
  · split <;> rfl
  · rfl
theorem clearGroup_outst (v : Inval) (g : Group) : (v.clearGroup g).outst.map (·.id) = g.outst.map (·.id) := map_id_of_keeps (clearEntry_id v _) _
/-- All groups may change in all but the order numbers of their outstanding results. -/
theorem mapGroups_numbered {f : Nat × Group → Nat × Group} (hf : ∀ x, (f x).2.outst.map (·.id) = x.2.outst.map (·.id)) (h : s.Numbered) :
    ({ s with work := { s.work with groups := s.work.groups.map f } } : State).Numbered := by
  have hg : (s.work.groups.map f).flatMap (fun x => x.2.outst.map (·.id)) = s.work.groups.flatMap (fun x => x.2.outst.map (·.id)) := by
    rw [List.flatMap_map]
    exact congrArg (fun k => s.work.groups.flatMap k) (funext hf)
  exact InOrder.subperm (orders_sublist (hg ▸ .refl _) (.refl _)) le_rfl h
theorem receiveInval_numbered (core id : Nat) (h : s.Numbered) : (receiveInval s core id).Numbered := by
  unfold receiveInval
  split
  · exact h
  · exact numbered_ite h (mapGroups_numbered (fun x => by split; exacts [clearGroup_outst .., rfl]) (modCore_numbered core _ h))
theorem ackInval_numbered (core id : Nat) (h : s.Numbered) : (ackInval s core id).Numbered := by
  unfold ackInval modInval; grind [modCore_numbered, modG_numbered, numbered_eq]

end Sys2Proof.Machine

namespace Sys2Proof.Machine

variable {s t u : State} {m : MemSt} {e : Entry}

/-! #### Launch lines, admission and the end of a launch -/

theorem modLine_numbered (cb : Nat) (f : Line → Line) (h : s.Numbered) : (s.modLine cb f).Numbered := h
theorem modFunc_numbered (f : Nat) (u : Func → Func) (h : s.Numbered) : (s.modFunc f u).Numbered := h
theorem modCluster_numbered (c : Nat) (u : Cluster → Cluster) (h : s.Numbered) : (s.modCluster c u).Numbered := h
theorem physSet_numbered (pa n x : Nat) (h : s.Numbered) : (physSet s pa n x).Numbered := by unfold physSet; grind [setNum_numbered]
theorem lineRead_numbered (cb pa : Nat) (h : s.Numbered) : (lineRead s cb pa).Numbered := physSet_numbered _ _ _ (physSet_numbered _ _ _ h)
theorem watchNext_numbered (cb : Nat) (h : s.Numbered) : (watchNext s cb).Numbered := by
  unfold watchNext; grind [modLine_numbered, postJournal_numbered]
theorem armLine_numbered (l : Line) (h : s.Numbered) : (armLine s l).Numbered := watchNext_numbered _ h
theorem lineaddr_numbered (f : Nat) (a : DWord) (h : s.Numbered) : (lineaddr s f a).Numbered := by
  unfold lineaddr
  dsimp only
  split
  · exact h
  · split
    · exact armLine_numbered _ h
    · exact h
theorem sendMsix_numbered (f v : Nat) (h : s.Numbered) : (sendMsix s f v).Numbered := h
/-- Neither a group nor a store on its way has changed. -/
theorem numbered_of_groups (hg : t.work.groups = s.work.groups) (hp : t.mem.pend = s.mem.pend) (hi : s.ids ≤ t.ids) (h : s.Numbered) :
    t.Numbered := by
  rw [numbered_eq] at h ⊢
  rw [hg, hp]
  exact h.subperm (.refl _) hi
theorem upMem_numbered {f : MemSt → MemSt} (hf : (f s.mem).pend = s.mem.pend) (h : s.Numbered) : (s.upMem f).Numbered :=
  numbered_of_groups (s := s) rfl hf le_rfl h
/-- Memory may change in all but the stores on their way. -/
theorem numbered_of_pend {m : MemSt} (hm : m.pend = s.mem.pend) (h : s.Numbered) : ({ s with mem := m } : State).Numbered :=
  (onPath_of_pend hm (.refl s)).numbered h
theorem complete_numbered (d : Done) (code cause : Nat) (h : s.Numbered) : (complete s d code cause).Numbered := by
  unfold complete
  split
  next u pa e =>
  have hu : u.Numbered := by grind [engineAccess_numbered]
  extract_lets w cwf s1 s2
  have h1 : s1.Numbered := postJournal_numbered _ _ _ _ hu
  have h2 : s2.Numbered := by
    unfold s2; split
    · exact numbered_of_pend ((exactStore_pend ..).trans (exactStore_pend ..)) h1
    · exact h1
  split
  · split
    · exact sendMsix_numbered _ _ h2
    · exact h2
  · exact h2
theorem admitAt_numbered (l : Line) (pa : Nat) (r : LaunchRec) (number : Nat) (f : Launch → Launch) (h : s.Numbered) :
    (admitAt s l pa r number f).Numbered := by
  unfold admitAt
  dsimp only
  split
  · exact complete_numbered _ _ _ h
  · have hp := postJournal_numbered 2 l.func 0 (toBytes 8 l.cb ++ toBytes 8 number ++ toBytes 8 pa) h
    generalize postJournal s 2 l.func 0 (toBytes 8 l.cb ++ toBytes 8 number ++ toBytes 8 pa) = u at hp ⊢
    exact numbered_of_groups (s := u) rfl rfl (Nat.le_succ _) hp
theorem setDeque_numbered (k core : Nat) (items : List (DWord × DqPlace)) (h : s.Numbered) : (setDeque s k core items).Numbered := h
theorem admitImage_numbered (l : Line) (pa : Nat) (h : s.Numbered) : (admitImage s l pa).Numbered := by
  unfold admitImage
  extract_lets s1 s2 r m q teams next key at' items t
  have h2 : s2.Numbered := modLine_numbered _ _ (setNum_numbered _ _ _ h)
  clear_value s2 m q
  have ht : t.Numbered := admitAt_numbered _ _ _ _ _ h2
  exact numbered_ite (setDeque_numbered _ _ _ ht) ht
theorem launchAdmit_numbered (cb : Nat) (h : s.Numbered) : (launchAdmit s cb).Numbered := by
  unfold launchAdmit; grind [admitImage_numbered, lineRead_numbered, admitAt_numbered, watchNext_numbered]
theorem launchFinish_numbered (k : Nat) (h : s.Numbered) : (launchFinish s k).Numbered := by
  have hs (ids : List Nat) : (ids.foldl storeHome s).Numbered := foldl_numbered (fun _ _ => storeHome_numbered _) _ h
  unfold launchFinish
  split
  · exact h
  · split
    · exact h
    · exact complete_numbered _ _ _ (hs _)

/-! #### The distributor -/

theorem modProc_numbered (f p : Nat) (u : Proc → Proc) (h : s.Numbered) : (modProc s f p u).Numbered := h
theorem addVtime_numbered (f p : Nat) (h : s.Numbered) : (addVtime s f p).Numbered := numbered_ite h (modProc_numbered f p _ h)
theorem virtualTime_numbered (h : s.Numbered) : (virtualTime s).Numbered := by
  unfold virtualTime
  split
  · exact h
  · extract_lets s1
    have h1 : s1.Numbered := foldl_numbered (fun _ x hs => by exact addVtime_numbered x.1 x.2 hs) _ h
    exact h1
theorem noteCands_numbered (cluster : Nat) (h : s.Numbered) : (noteCands s cluster).Numbered := by
  unfold noteCands
  extract_lets cs s1
  have h1 : s1.Numbered := foldl_numbered (fun s x hs => by dsimp only; exact numbered_ite hs (modProc_numbered x.1 x.2 _ hs)) _ h
  exact h1
theorem moveDeque_numbered (k src dst : Nat) (h : s.Numbered) : (moveDeque s k src dst).Numbered := numbered_ite h h
theorem settleDeques_numbered (k : Nat) (h : s.Numbered) : (settleDeques s k).Numbered := by
  unfold settleDeques
  split
  · exact h
  · exact foldl_numbered (fun _ c => moveDeque_numbered k c _) _ h
theorem barrierPas_numbered (tag : Nat) (as : List Nat) (h : s.Numbered) : (barrierPas tag s as).1.Numbered := by
  induction as generalizing s with
  | nil => exact h
  | cons a as ih =>
    have he := engineTranslate_numbered tag a .write h
    unfold barrierPas
    grind
theorem initBarriers_numbered (lanes : Nat) (ps : List Nat) (h : s.Numbered) : (initBarriers s lanes ps).Numbered :=
  have hf := foldl_numbered (fun _ p h => writeBar_numbered p (BarObj.mk 0 lanes 0 1 0) (setNum_numbered p 32 0 h)) ps h
  hf
theorem flatMap_put_sublist {α β : Type} {F : α → List β} (xs : List (Nat × α)) (k : Nat) {v : α} (hv : F v = []) :
    ((Tb.put xs k v).flatMap (fun x => F x.2)).Sublist (xs.flatMap (fun x => F x.2)) := by
  have hv' (ys : List (Nat × α)) : (((k, v) :: ys).flatMap (fun x => F x.2)) = ys.flatMap (fun x => F x.2) := by
    rw [List.flatMap_cons, hv, List.nil_append]
  induction xs with
  | nil => rw [Tb.put, hv']
  | cons x xs ih =>
    obtain ⟨j, w⟩ := x
    unfold Tb.put
    split
    · rw [hv']; exact List.sublist_append_right ..
    · split
      · rw [hv']
      · exact List.Sublist.append (.refl _) ih
/-- A group is placed that has no result outstanding. -/
theorem putGroup_numbered (k : Nat) {g : Group} (hg : g.outst = []) (h : s.Numbered) :
    ({ s with work := { s.work with groups := Tb.put s.work.groups k g } } : State).Numbered :=
  InOrder.subperm (orders_sublist (flatMap_put_sublist (F := fun g : Group => g.outst.map (·.id)) _ k (by rw [hg]; rfl)) (.refl _)) le_rfl h
theorem withStop_outst (l : Launch) (g : Group) : (withStop l g).outst = g.outst := by unfold withStop; split <;> rfl
theorem restoreForm_outst (s : State) (g : Group) : (restoreForm s g).outst = g.outst := swapIn_outst ..
theorem addGroup_numbered (l : Launch) (tm : Team) (restore : Bool) (gid : Nat) (h : s.Numbered) : (addGroup s l tm restore gid).Numbered := by
  unfold addGroup
  extract_lets core sched place g g' wk s1
  have hg : g.outst = [] := withStop_outst ..
  have hg' : g'.outst = [] := by unfold g'; split; exacts [(restoreForm_outst ..).trans hg, hg]
  have h1 : s1.Numbered := putGroup_numbered _ hg' h
  split
  · exact doubleAt_numbered _ _ _ h1
  · exact h1
theorem clearTiles_numbered (tiles : List Nat) (h : s.Numbered) : (clearTiles s tiles).Numbered := h
theorem loadBounds_numbered (dst src : Nat) (ks : List Nat) (h : s.Numbered) :
    (s.upMem (fun m => ks.foldl (fun m k => m.setBound (dst + 32 * k) (BitVec.ofNat 16 (m.num (src + 0x8000 + 2 * k) 2))) m)).Numbered :=
  upMem_numbered (foldl_pend (fun _ _ => setBound_pend ..) _) h
theorem loadTile_numbered (image : Nat) (x : Nat × Nat) (h : s.Numbered) : (loadTile s image x).Numbered := by
  unfold loadTile
  extract_lets src dst s1
  have h1 : s1.Numbered := setBytes_numbered _ _ h
  clear_value s1
  exact loadBounds_numbered _ _ _ h1
theorem loadResidency_numbered (l : Launch) (tm : Team) (d : BitVec 128) (h : s.Numbered) : (loadResidency l tm s d).Numbered :=
  startTask_numbered _ (newId_numbered h)
theorem placeTeam_numbered (l : Launch) (team : Nat) (img : Option Nat) (core : Nat) (bars : List Nat) (h : s.Numbered) :
    (placeTeam s l team img core bars).Numbered := by
  unfold placeTeam
  extract_lets r pair image cl wake tm s1 wk s2 s3 s4 s5 s6 s7
  have h3 : s3.Numbered := newId_numbered h
  clear_value s3 tm
  have h4 : s4.Numbered := by
    unfold s4; split
    · exact foldl_numbered (fun _ _ => loadResidency_numbered _ _ _) _ (foldl_numbered (fun _ _ => loadTile_numbered _ _) _ h3)
    · exact initBarriers_numbered _ _ (clearTiles_numbered _ h3)
  have h5 : s5.Numbered := foldl_numbered (fun _ _ => modCore_numbered _ _) _ h4
  have h6 : s6.Numbered := foldl_numbered (fun _ _ => addGroup_numbered _ _ _ _) _ h5
  exact settleDeques_numbered _ h6
theorem dispatchTeam_numbered (l : Launch) (cluster : Nat) (h : s.Numbered) : (dispatchTeam s l cluster).Numbered := by
  unfold dispatchTeam
  split
  · split
    next u c e => exact killLaunch_numbered _ _ _ _ _ _ _ _ (numbered_of_eq e (barrierPas_numbered _ _ h))
    next u ps e => exact placeTeam_numbered _ _ _ _ _ (numbered_of_eq e (barrierPas_numbered _ _ h))
  · exact h
theorem dispatch_numbered (cluster : Nat) (h : s.Numbered) : (dispatch s cluster).Numbered := by
  have hn : (noteCands s cluster).Numbered := noteCands_numbered _ h
  unfold dispatch
  split
  · exact h
  · extract_lets s1 s2
    have h2 : s2.Numbered := by
      unfold s2; split
      · exact dispatchTeam_numbered _ _ hn
      · exact hn
    exact h2

theorem settleSplit_numbered (core : Nat) (h : s.Numbered) : (settleSplit s core).Numbered := by unfold settleSplit; grind [modCore_numbered]
/-- Groups may leave. -/
theorem filterGroups_numbered {w : WorkSt} (f : Nat × Group → Bool) (hw : w.groups = s.work.groups.filter f) (h : s.Numbered) :
    ({ s with work := w } : State).Numbered := by
  have hs : (w.groups.flatMap (fun x => x.2.outst.map (·.id))).Sublist (s.work.groups.flatMap (fun x => x.2.outst.map (·.id))) := by
    rw [hw]
    exact List.filter_sublist.flatMap _
  exact InOrder.subperm (orders_sublist hs (.refl _)) le_rfl h
theorem removeTeam_numbered (tm : Team) (h : s.Numbered) : (removeTeam s tm).Numbered := by
  unfold removeTeam
  extract_lets mine s1 stops s2 cores wk s3 s4 cl s5
  have h1 : s1.Numbered := by unfold s1; split; exacts [addVtime_numbered _ _ h, h]
  have h3 : s3.Numbered := filterGroups_numbered (s := s2) _ rfl (modLaunch_numbered _ _ h1)
  have h4 : s4.Numbered := foldl_numbered (fun _ c hu => settleSplit_numbered c (modCore_numbered c _ hu)) _ h3
  exact settleDeques_numbered _ (numbered_ite h4 (modCluster_numbered _ _ h4))
theorem retireTeam_numbered (k n : Nat) (h : s.Numbered) : (retireTeam s k n).Numbered := by
  have hd (hs : List Nat) : (hs.foldl drainGroup s).Numbered := foldl_numbered (fun _ _ => drainGroup_numbered _) _ h
  unfold retireTeam
  grind [removeTeam_numbered, modLaunch_numbered]
theorem storeBanks_numbered (tm : Team) (h : s.Numbered) : (storeBanks s tm).Numbered :=
  foldl_numbered (fun _ _ h => foldl_numbered (fun _ _ h => numbered_of_pend (foldl_pend applySector_pend _) h) _ h) _ h
theorem saveTile_numbered (image : Nat) (x : Nat × Nat) (h : s.Numbered) : (saveTile s image x).Numbered := setBytes_numbered _ _ h
theorem saveReady_numbered (h : Nat) (hs : s.Numbered) : (saveReady s h).Numbered := by
  have he (n v : Nat) (p : PC) : (enterSupervisor { s with free := n } h 0x29 v 0 false 0 0 p none none).Numbered :=
    enterSupervisor_numbered _ _ _ _ _ _ _ _ _ _ hs
  unfold saveReady; grind [saveGroup_numbered, modG_numbered]
theorem teamSave_numbered (k n : Nat) (h : s.Numbered) : (teamSave s k n).Numbered := by
  unfold teamSave
  extract_lets s1 s2
  have h1 : s1.Numbered := assignImage_numbered _ _ h
  have h2 : s2.Numbered := foldl_numbered (fun _ _ => saveReady_numbered _) _ h1
  clear_value s1 s2
  split
  next tm l _ _ =>
    split
    · exact h1
    · extract_lets s3 tm' s4 s5 hdr s6 s7 s8
      have h3 : s3.Numbered := count_numbered _ _ _ _ _ h2
      clear_value s3 tm'
      have h4 : s4.Numbered := storeBanks_numbered _ h3
      have h5 : s5.Numbered := foldl_numbered (fun _ _ => saveTile_numbered _ _) _ h4
      have h6 : s6.Numbered := putNote_numbered _ _ _ (setBytes_numbered _ _ h5)
      have h8 : s8.Numbered := modLaunch_numbered _ _ (removeTeam_numbered _ h6)
      split
      · exact h2
      · exact postJournal_numbered _ _ _ _ h8
  · exact h1
theorem makeRoom_numbered (cluster : Nat) (l : Launch) (vs : List Team) (ex : List (Nat × Nat)) (h : s.Numbered) :
    (makeRoom cluster l s vs ex).Numbered := by
  induction vs generalizing s ex with
  | nil => exact h
  | cons v vs ih =>
    unfold makeRoom
    split
    · exact h
    · split
      · exact ih _ (requestPreempt_numbered _ _ h)
      · exact ih _ h
theorem slice_numbered (cluster : Nat) (h : s.Numbered) : (slice s cluster).Numbered := by
  unfold slice; grind [modCluster_numbered, makeRoom_numbered]
theorem clusterGate_numbered (c : Nat) (h : s.Numbered) : (clusterGate s c).Numbered :=
  numbered_ite h (numbered_ite h (modCluster_numbered _ _ h))
theorem gatingEnd_numbered (c : Nat) (h : s.Numbered) : (gatingEnd s c).Numbered := numbered_ite (modCluster_numbered _ _ h) h
theorem wakeEnd_numbered (c : Nat) (h : s.Numbered) : (wakeEnd s c).Numbered := h

end Sys2Proof.Machine

namespace Sys2Proof.Machine

variable {s t u : State} {m : MemSt} {e : Entry}

/-! #### The commands: what an act answers is in order -/

/-- The state that an accepted command leaves, whether it completes or waits. -/
def Act.Ordered : Act → Prop
  | .done s _ => s.Numbered
  | .wait s _ => s.Numbered

/-- The state that a command leaves as it completes, with its code. -/
def OrderedAnswer (r : State × Nat) : Prop := r.1.Numbered

theorem startCmd_numbered {f : Nat} {ok : Cmd → Bool} {check : State → Cmd → Option Nat} {act : State → Cmd → Act}
    (hact : ∀ u c, u.Numbered → (act u c).Ordered) (h : s.Numbered) : (startCmd s f ok check act).Numbered := by
  unfold startCmd
  split
  next l pa c _ _ =>
    split
    · exact h
    · extract_lets s1 number s2
      have h1 : s1.Numbered := lineRead_numbered _ _ h
      have ha : (act (postCommand s1 f c) c).Ordered := hact _ _ (postJournal_numbered _ _ _ _ h1)
      have h2 : s2.Numbered := by
        unfold s2
        split
        · exact complete_numbered _ _ _ h1
        · split
          next e => rw [e] at ha; exact complete_numbered _ _ _ ha
          next e => rw [e] at ha; exact ha
      exact watchNext_numbered _ h2
  · exact h
theorem quick_numbered {f op : Nat} {check : State → Cmd → Option Nat} {act : State → Cmd → State × Nat}
    (hact : ∀ u c, u.Numbered → OrderedAnswer (act u c)) (h : s.Numbered) : (quick s f op check act).Numbered :=
  startCmd_numbered hact h
theorem finishCmd_numbered {f op : Nat} {ready : State → CmdWait → Bool} {act : State → CmdWait → State × Nat}
    (hact : ∀ u w, u.Numbered → (act u w).1.Numbered) (h : s.Numbered) (e : finishCmd s f op ready act = some t) : t.Numbered := by
  unfold finishCmd at e
  split at e
  · cases e
  · next w _ =>
    cases e
    exact complete_numbered _ _ _ (hact _ _ h)
theorem command_numbered {f op : Nat} {check : State → Cmd → Option Nat} {act : State → Cmd → Act} {ready : State → CmdWait → Bool}
    {fin : State → CmdWait → State × Nat} (hact : ∀ u c, u.Numbered → (act u c).Ordered) (hfin : ∀ u w, u.Numbered → (fin u w).1.Numbered)
    (h : s.Numbered) : (command s f op check act ready fin).Numbered := by
  unfold command
  split
  next e => exact finishCmd_numbered hfin h e
  next => exact startCmd_numbered hact h
theorem policyOp_numbered {f op : Nat} {check : State → Cmd → Option Nat} {act : State → Cmd → State × Nat}
    (hact : ∀ u c, u.Numbered → OrderedAnswer (act u c)) (h : s.Numbered) : (policyOp s f op check act).Numbered :=
  startCmd_numbered hact h
theorem noAct_numbered (code : Nat) (u : State) (_ : CmdWait) (h : u.Numbered) : ((u, code) : State × Nat).1.Numbered := h

theorem execNopCommand_ordered (f : Nat) (h : s.Numbered) : Ordered (execNopCommand f s) := ordered_next (quick_numbered (fun _ _ hu => hu) h)
theorem lineCreateAct_numbered (f : Nat) (c : Cmd) (h : s.Numbered) : (lineCreateAct s f c).1.Numbered := by
  unfold lineCreateAct; grind [armLine_numbered]
theorem execLineCreate_ordered (f : Nat) (h : s.Numbered) : Ordered (execLineCreate f s) :=
  ordered_next (quick_numbered (fun _ c => lineCreateAct_numbered f c) h)
theorem destroyAct_ordered (c : Cmd) (h : s.Numbered) : (destroyAct s c).Ordered := by
  unfold destroyAct
  extract_lets cb later s1 s2
  have h1 : s1.Numbered := h
  unfold Act.Ordered s2
  dsimp only
  split
  · exact modLaunch_numbered _ _ (killLaunch_numbered _ _ _ _ _ _ _ _ h1)
  · exact h1
theorem cancelRecord_numbered (cb pa : Nat) (h : s.Numbered) : (cancelRecord cb s pa).Numbered := by
  unfold cancelRecord
  split
  · exact h
  · exact complete_numbered _ _ _ (lineRead_numbered _ _ h)
theorem destroyFin_numbered (w : CmdWait) (h : s.Numbered) : (destroyFin s w).1.Numbered := by
  have hc : ((w.work.drop 1).foldl (cancelRecord (w.work.headD 0)) s).Numbered := foldl_numbered (fun _ _ => cancelRecord_numbered _ _) _ h
  exact hc
theorem execLineDestroy_ordered (f : Nat) (h : s.Numbered) : Ordered (execLineDestroy f s) :=
  ordered_next (command_numbered (fun _ => destroyAct_ordered) (fun _ => destroyFin_numbered) h)

theorem procAct_ordered (f : Nat) (c : Cmd) (h : s.Numbered) : (procAct s f c).Ordered :=
  sendInval_numbered _ _ _ _ _ (setNum_numbered _ _ _ (modProc_numbered _ _ _ h))
theorem execProcConfig_ordered (f : Nat) (h : s.Numbered) : Ordered (execProcConfig f s) :=
  ordered_next (command_numbered (fun _ c => procAct_ordered f c) (noAct_numbered 0) h)
theorem invalidateAct_ordered (f : Nat) (c : Cmd) (h : s.Numbered) : (invalidateAct s f c).Ordered := by
  unfold invalidateAct
  split
  · exact h
  · exact sendInval_numbered none _ _ _ _ h
theorem execInvalidate_ordered (f : Nat) (h : s.Numbered) : Ordered (execInvalidate f s) :=
  ordered_next (command_numbered (fun _ c => invalidateAct_ordered f c) (noAct_numbered 0) h)

theorem requestStop_numbered (l : Launch) (n : Nat) (h : s.Numbered) : (requestStop s l n).Numbered := by
  unfold requestStop
  split
  · exact foldl_numbered (fun _ k hs => by exact modG_numbered k (fun g => by split <;> rfl) hs) _ h
  · exact numbered_ite (modLaunch_numbered _ _ h) h
theorem stopAct_ordered (c : Cmd) (h : s.Numbered) : (stopAct s c).Ordered := by
  unfold stopAct
  split
  · exact h
  · exact requestStop_numbered _ _ h
theorem execStopRequest_ordered (f : Nat) (h : s.Numbered) : Ordered (execStopRequest f s) :=
  ordered_next (command_numbered (fun _ => stopAct_ordered) (noAct_numbered 0) h)
theorem resumeGroup_numbered (h : Nat) (hs : s.Numbered) : (resumeGroup s h).Numbered := by
  unfold resumeGroup; grind [resumeAll_numbered, modG_numbered]
theorem execResume_ordered (f : Nat) (h : s.Numbered) : Ordered (execResume f s) :=
  ordered_next (quick_numbered (fun _ _ hu => by split; exacts [hu, foldl_numbered (fun _ _ => resumeGroup_numbered _) _ hu]) h)
theorem execKillCommand_ordered (f : Nat) (h : s.Numbered) : Ordered (execKillCommand f s) :=
  ordered_next (quick_numbered (fun _ _ hu => by split; exacts [hu, killLaunch_numbered _ _ _ _ _ _ _ _ hu]) h)
theorem saveLaunchAct_ordered (c : Cmd) (h : s.Numbered) : (saveLaunchAct s c).Ordered := by
  unfold saveLaunchAct
  split
  · exact h
  · exact foldl_numbered (fun _ (_ : Team) => requestPreempt_numbered _ _) _ (modLaunch_numbered _ _ h)
theorem writeLaunchImage_numbered (l : Launch) (pa : Nat) (h : s.Numbered) : (writeLaunchImage s l pa).Numbered := by
  unfold writeLaunchImage
  extract_lets n items teams parts s1 s2 s3 s4
  have h1 : s1.Numbered := foldl_numbered (fun _ _ => moveNotes_numbered _ _ _) _ h
  have h3 : s3.Numbered := setBytes_numbered _ _ (setBytes_numbered _ _ h1)
  have h4 : s4.Numbered := foldl_numbered (fun _ (p : Nat × List Byte) => setBytes_numbered p.1 p.2) _ h3
  exact setBytes_numbered _ _ h4
theorem saveLaunchFin_numbered (w : CmdWait) (h : s.Numbered) : (saveLaunchFin s w).1.Numbered := by
  unfold saveLaunchFin; grind [writeLaunchImage_numbered, modLaunch_numbered]
theorem execSaveLaunch_ordered (f : Nat) (h : s.Numbered) : Ordered (execSaveLaunch f s) :=
  ordered_next (command_numbered (fun _ => saveLaunchAct_ordered) (fun _ => saveLaunchFin_numbered) h)
theorem execRestoreLaunch_ordered (f : Nat) (h : s.Numbered) : Ordered (execRestoreLaunch f s) :=
  ordered_next (quick_numbered (fun _ _ hu => modLine_numbered _ _ hu) h)

theorem userWrite_numbered (tag n va : Nat) (bs : List Byte) (h : s.Numbered) : (userWrite tag n s va bs).Numbered := by
  induction n generalizing s va bs with
  | zero => exact h
  | succ n ih =>
    unfold userWrite
    extract_lets k s1
    have h1 : s1.Numbered := by
      unfold s1
      split
      next e => exact upMem_numbered (exactStore_pend ..) (numbered_of_eq e (engineAccess_numbered _ _ _ h))
      next e => exact numbered_of_eq e (engineAccess_numbered _ _ _ h)
    split
    · exact h1
    · exact ih _ _ h1
theorem copySlot_numbered (f seq tag dst : Nat) (h : s.Numbered) : (copySlot f seq tag dst s).Numbered := userWrite_numbered _ _ _ _ h
theorem execJournalCopy_ordered (f : Nat) (h : s.Numbered) : Ordered (execJournalCopy f s) :=
  ordered_next (quick_numbered (fun _ _ hu => foldl_numbered (fun _ _ => copySlot_numbered _ _ _ _) _ hu) h)
theorem execEvent_ordered (f : Nat) (h : s.Numbered) : Ordered (execEvent f s) :=
  ordered_next (quick_numbered (fun _ _ hu => modFunc_numbered _ _ hu) h)
theorem attention_numbered (f tag reason list va : Nat) (h : s.Numbered) : (attention s f tag reason list va).Numbered := by
  unfold attention; grind [postJournal_numbered, sendMsix_numbered]
theorem execFuncConfig_ordered (f : Nat) (h : s.Numbered) : Ordered (execFuncConfig f s) :=
  ordered_next (quick_numbered (fun _ _ hu => modFunc_numbered _ _ hu) h)
theorem execCtxArea_ordered (f : Nat) (h : s.Numbered) : Ordered (execCtxArea f s) :=
  ordered_next (quick_numbered (fun _ _ hu => modFunc_numbered _ _ hu) h)
theorem execCarve_ordered (f : Nat) (h : s.Numbered) : Ordered (execCarve f s) :=
  ordered_next (quick_numbered (fun _ _ hu => upMem_numbered (by split <;> rfl) hu) h)
theorem poolPush_numbered (i frame : Nat) (h : s.Numbered) : (poolPush s i frame).Numbered := setNum_numbered _ _ _ (setNum_numbered _ _ _ h)
theorem poolPushes_numbered (i : Nat) (ps : List Nat) (h : s.Numbered) : (ps.foldl (fun s p => poolPush s i p) s).Numbered :=
  foldl_numbered (fun _ _ => poolPush_numbered _ _) _ h
theorem orderedAnswer_ite {p : Prop} [Decidable p] {x y : State × Nat} (hx : OrderedAnswer x) (hy : OrderedAnswer y) :
    OrderedAnswer (if p then x else y) := by
  split
  · exact hx
  · exact hy
theorem execPoolAdd_ordered (f : Nat) (h : s.Numbered) : Ordered (execPoolAdd f s) :=
  ordered_next (quick_numbered (fun _ _ hu => orderedAnswer_ite hu (poolPushes_numbered _ _ hu)) h)

theorem setEntries_numbered (g : State → Nat → Nat) (as : List Nat) (h : s.Numbered) : (as.foldl (fun s a => s.setNum a 8 (g s a)) s).Numbered :=
  foldl_numbered (fun _ _ => setNum_numbered _ _ _) _ h
theorem migrateAct_ordered (c : Cmd) (h : s.Numbered) : (migrateAct s c).Ordered := by
  unfold migrateAct
  split
  · exact sendInval_numbered none _ _ _ _ (setEntries_numbered _ _ h)
  · exact h
theorem moveSector_numbered (bnd : Bool) (src dst k : Nat) (h : s.Numbered) : (moveSector bnd src dst s k).Numbered := by
  unfold moveSector
  dsimp only
  split
  · exact upMem_numbered (setBound_pend ..) (setBytes_numbered _ _ h)
  · exact setBytes_numbered _ _ h
theorem migrateFin_numbered (w : CmdWait) (h : s.Numbered) : (migrateFin s w).1.Numbered := by
  unfold migrateFin
  split
  next level epa e new _ =>
    extract_lets old sz s1 s2 s3
    have h1 : s1.Numbered := foldl_numbered (fun _ _ => moveSector_numbered _ _ _ _) _ h
    have h2 : s2.Numbered := h1
    clear_value s1 s2
    have h3 : s3.Numbered := setEntries_numbered _ _ h2
    split
    · exact h3
    · split
      · exact poolPush_numbered _ _ h3
      · exact postJournal_numbered _ _ _ _ h3
  · exact h
theorem execMigrate_ordered (f : Nat) (h : s.Numbered) : Ordered (execMigrate f s) :=
  ordered_next (command_numbered (fun _ => migrateAct_ordered) (fun _ => migrateFin_numbered) h)
theorem execSplit_ordered (f : Nat) (h : s.Numbered) : Ordered (execSplit f s) :=
  ordered_next (quick_numbered (fun _ _ hu => settleSplit_numbered _ (modCore_numbered _ _ hu)) h)
theorem execVector_ordered (f : Nat) (h : s.Numbered) : Ordered (execVector f s) :=
  ordered_next (quick_numbered (fun _ _ hu => setNum_numbered _ _ _ hu) h)
theorem execUnknownCommandOpcode_ordered (f : Nat) (h : s.Numbered) : Ordered (execUnknownCommandOpcode f s) :=
  ordered_next (startCmd_numbered (fun _ _ hu => hu) h)

/-! #### The operations of POLICY -/

theorem execLoad_ordered (f : Nat) (h : s.Numbered) : Ordered (execLoad f s) :=
  ordered_next (policyOp_numbered (fun _ _ hu => modFunc_numbered _ _ hu) h)
theorem execClear_ordered (f : Nat) (h : s.Numbered) : Ordered (execClear f s) :=
  ordered_next (policyOp_numbered (fun _ _ hu => modFunc_numbered _ _ hu) h)
theorem programCounter_numbered (core : Nat) (s : State) (x : Nat × Nat) (h : s.Numbered) : (programCounter core s x).Numbered := by
  have hm (f : Core → Core) := modCore_numbered core f h
  exact numbered_ite h (hm _)
theorem execCounters_ordered (f : Nat) (h : s.Numbered) : Ordered (execCounters f s) :=
  ordered_next (policyOp_numbered (fun _ _ hu => foldl_numbered (fun _ _ => foldl_numbered (fun u x => programCounter_numbered _ u x) _) _ hu) h)
theorem execRead_ordered (f : Nat) (h : s.Numbered) : Ordered (execRead f s) :=
  ordered_next (policyOp_numbered (fun _ _ hu => setBytes_numbered _ _ hu) h)
theorem modDie_numbered (d : Nat) (f : Die → Die) (h : s.Numbered) : (s.modDie d f).Numbered := h
theorem resetRing_numbered (pa : Nat) (h : s.Numbered) : (resetRing s pa).Numbered := setBytes_numbered _ _ h
theorem execSample_ordered (f : Nat) (h : s.Numbered) : Ordered (execSample f s) := by
  unfold execSample
  refine ordered_next (policyOp_numbered (fun u c hu => ?_) h)
  extract_lets s1 s2
  have h1 : s1.Numbered := foldl_numbered (fun _ d h => modDie_numbered d _ (resetRing_numbered _ (resetRing_numbered _ h))) _ hu
  clear_value s1
  have h2 : s2.Numbered := foldl_numbered (fun s g hs => by extract_lets on; split <;> exact hs) _ h1
  clear_value s2
  exact h2
theorem execQuote_ordered (f : Nat) (h : s.Numbered) : Ordered (execQuote f s) :=
  ordered_next (policyOp_numbered (fun _ _ hu => setBytes_numbered _ _ hu) h)
theorem execIdentity_ordered (f : Nat) (h : s.Numbered) : Ordered (execIdentity f s) :=
  ordered_next (policyOp_numbered (fun _ _ hu => setBytes_numbered _ _ hu) h)

/-! #### Observation -/

theorem stallOf_numbered (g : Group) (h : s.Numbered) : (stallOf s g).2.Numbered := by
  have hs : ({ s with free := s.free + 1 } : State).Numbered := h
  unfold stallOf; grind
theorem pcSample_numbered (core sched : Nat) (h : s.Numbered) : (pcSample s core sched).Numbered := by
  unfold pcSample
  split
  · exact h
  · split
    · exact h
    next g _ =>
      extract_lets s1 f
      have h1 : s1.Numbered := modCore_numbered _ _ h
      split
      next k u e =>
        have hu : u.Numbered := by have hs := stallOf_numbered g h1; rwa [e] at hs
        dsimp only
        split
        · exact ringPut_numbered _ _ _ hu
        · exact ringPut_numbered _ _ _ hu
        · exact modCore_numbered _ _ hu
        · exact hu
theorem energySplit_numbered (d uj : Nat) (h : s.Numbered) : (energySplit s d uj).Numbered := by
  unfold energySplit
  extract_lets q total share s1
  have h1 : s1.Numbered := foldl_numbered (fun s x hs => by exact numbered_ite hs (modFunc_numbered _ _ hs)) _ h
  exact modDie_numbered _ _ h1
theorem reportAt_numbered (source code pa va pc k : Nat) (h : s.Numbered) : (reportAt s source code pa va pc k).Numbered := by
  unfold reportAt; grind [rasReport_numbered, choose_numbered]
theorem rasError_numbered (source : Nat) (k : ErrKind) (pa va pc n : Nat) (reg : Option (RegClass × Nat × Nat)) (h : s.Numbered) :
    (rasError s source k pa va pc n reg).Numbered := by
  unfold rasError
  dsimp only
  split
  case h_1 => exact h
  case h_2 => exact h
  case h_3 =>
    split
    · exact reportAt_numbered _ _ _ _ _ _ (modG_numbered _ (fun g => by split <;> rfl) h)
    · split
      · exact reportAt_numbered _ _ _ _ _ _ (arrayError_numbered _ _ h)
      · exact reportAt_numbered _ _ _ _ _ _ (upMem_numbered (by split <;> rfl) h)
  case h_4 => exact reportAt_numbered _ _ _ _ _ _ (upMem_numbered (by split <;> rfl) h)
  case h_5 => exact upMem_numbered (by split <;> rfl) h
theorem mergeCorrected_numbered (d source : Nat) (h : s.Numbered) : (mergeCorrected s d source).Numbered := by
  unfold mergeCorrected
  extract_lets x plain kept n due
  split
  · exact h
  · exact postJournal_numbered _ _ _ _ h
theorem hostAccess_numbered (pa : Nat) (a : HostAccess) (h : s.Numbered) : (hostAccess s pa a).Numbered := by
  unfold hostAccess; grind [setBytes_numbered, numbered_eq]

end Sys2Proof.Machine

namespace Sys2Proof.Machine

variable {s t : State} {m : MemSt}

/-! #### Power -/

theorem stepDie_numbered (d : Nat) (f : Die → Die) (h : s.Numbered) : (stepDie s d f).Numbered := h
theorem lowerBy_numbered (d n : Nat) (h : s.Numbered) : (lowerBy s d n).Numbered := numbered_ite h (stepDie_numbered _ _ h)
theorem lowerTo_numbered (d p : Nat) (h : s.Numbered) : (lowerTo s d p).Numbered := lowerBy_numbered _ _ h
theorem maybeRaise_numbered (limit : Nat → Nat) (s : State) (d : Nat) (h : s.Numbered) : (maybeRaise limit s d).Numbered := by
  unfold maybeRaise; grind [stepDie_numbered, choose_numbered]
theorem sprintLimit_numbered (s : State) (d : Nat) (h : s.Numbered) : (sprintLimit s d).Numbered := by
  unfold sprintLimit
  split
  · exact numbered_ite (lowerTo_numbered _ _ (modDie_numbered _ _ h)) h
  · exact h
theorem weirStep_numbered (d : Nat) (h : s.Numbered) : (weirStep s d).Numbered := by unfold weirStep; grind [lowerBy_numbered, modDie_numbered]
theorem preemptEach_numbered (h : s.Numbered) : (preemptEach s).Numbered :=
  foldl_numbered (fun _ _ h => by split; exacts [requestPreempt_numbered _ _ h, h]) _ h
theorem weirSample_numbered (watts : Nat) (h : s.Numbered) : (weirSample s watts).Numbered := by
  unfold weirSample
  extract_lets s1 cap pw2 s2 overPeak above floor run calm throttle pw3 s3 s4
  have h1 : s1.Numbered := foldl_numbered sprintLimit_numbered _ h
  clear_value s1 above calm throttle run
  have h3 : s3.Numbered := h1
  clear_value s3
  have h4 : s4.Numbered := by
    unfold s4
    split
    · exact preemptEach_numbered h3
    · exact h3
  clear_value s4
  split
  · split
    · exact weirStep_numbered _ h4
    · exact h4
  · exact foldl_numbered (maybeRaise_numbered _) _ h4
theorem takeMode_numbered (h : s.Numbered) : (takeMode s).Numbered := by
  have hg : (allDies.foldl (fun s d => s.modDie d (fun x => { x with grant := none })) s).Numbered :=
    foldl_numbered (fun _ d hs => modDie_numbered d _ hs) _ h
  unfold takeMode
  grind [numbered_eq]

theorem execVfStepEnd_ordered (d : Nat) (h : s.Numbered) : Ordered (execVfStepEnd d s) :=
  ordered_next (by split; exacts [by split <;> exact h, h])
theorem execCoolDownEnd_ordered (d : Nat) (h : s.Numbered) : Ordered (execCoolDownEnd d s) :=
  ordered_next (by split; exacts [by split <;> exact h, h])
theorem execWeirSample_ordered (watts : Nat) (h : s.Numbered) : Ordered (execWeirSample watts s) :=
  have ht : (takeMode s).Numbered := takeMode_numbered h
  ordered_next (by grind [weirSample_numbered])
theorem execGrant_ordered (d budget point : Nat) (h : s.Numbered) : Ordered (execGrant d budget point s) :=
  have ht : (takeMode s).Numbered := takeMode_numbered h
  ordered_next (by grind [lowerTo_numbered, maybeRaise_numbered, modDie_numbered, numbered_eq])
theorem execGrantExpiry_ordered (d : Nat) (h : s.Numbered) : Ordered (execGrantExpiry d s) :=
  ordered_next (by grind [lowerTo_numbered, stepDie_numbered, numbered_eq])
theorem execThermalStep_ordered (d celsius : Nat) (h : s.Numbered) : Ordered (execThermalStep d celsius s) :=
  ordered_next (by grind [lowerBy_numbered, modDie_numbered, numbered_eq])
theorem execThermalShutdown_ordered (d : Nat) (h : s.Numbered) : Ordered (execThermalShutdown d s) :=
  ordered_next (postJournal_numbered _ _ _ _ (foldl_numbered (fun _ d hs => modDie_numbered d _ hs) _ h))
theorem execPower_ordered (f : Nat) (h : s.Numbered) : Ordered (execPower f s) := by
  refine ordered_next (quick_numbered (fun u c hu => ?_) h)
  extract_lets cs s1
  have h1 : s1.Numbered := foldl_numbered (fun _ k => modCluster_numbered k _) _ hu
  exact h1

/-! #### Reset and bring-up -/

theorem initPool_numbered (h : s.Numbered) : (initPool s).Numbered :=
  foldl_numbered (fun _ _ h => setNum_numbered _ _ _ (setNum_numbered _ _ _ h)) _ h
theorem bringStep_numbered (k : Nat) (h : s.Numbered) : (bringStep s k).Numbered := by
  unfold bringStep; grind [initPool_numbered, choose_numbered, numbered_eq]
theorem resetDevice_numbered (s : State) : (resetDevice s).Numbered := by
  have hk : ({ State.reset with free := s.free, turns := s.turns, mem := keepOutside s.mem } : State).Numbered :=
    ⟨List.nodup_nil, fun _ h => by cases h⟩
  exact foldl_numbered (fun _ => bringStep_numbered) _ hk

end Sys2Proof.Machine

namespace Sys2Proof.Machine

variable {s t u : State} {m : MemSt} {e : Entry}

/-! #### Every instruction and every step of the device -/

/-- The last arms stand for the instructions that write vector registers or uniform ones, those that leave a result outstanding, and those
that have no effect. -/
theorem exec_ordered (i : Instr) (h : s.Numbered) : Ordered (exec i s) := by
  unfold exec
  cases i with
  | ssel d a b n sense => exact execSsel_ordered d a b n sense h
  | slane d a b sx => exact execSlane_ordered d a b sx h
  | srsr n r => exact execSrsr_ordered n r h
  | swsr n r => exact execSwsr_ordered n r h
  | vmad d a b wide => exact execVmad_ordered d a b wide h
  | fclrb d a => exact execFclrb_ordered d a h
  | bra => exact issue_ordered _ (transferAll_numbered _ h) h
  | brc | brx => exact issue_ordered _ (transfer_numbered _ h) h
  | brxU => exact issue_ordered _ (transferAll_numbered _ h) h
  | call o s' => exact execCall_ordered o s' h
  | ret r => exact execRet_ordered r h
  | rejoin k => exact execRejoin_ordered k h
  | item k r o s' => exact execItem_ordered k r o s' h
  | yield => exact execYield_ordered h
  | exit => exact issue_ordered _ (lanesDone_numbered _ _ h) h
  | trapu => exact issue_ordered _ (trap_numbered _ _ _ _ h) h
  | ld | lds => exact issue_ordered _ (loadBody_numbered _ _ _ _ h) h
  | st => exact issue_ordered _ (storeBody_numbered _ _ _ _ _ h) h
  | ldu | ldus => exact issue_ordered _ (loadBody_numbered _ _ _ _ h) h
  | stu => exact issue_ordered _ (storeBody_numbered _ _ _ _ _ h) h
  | gath | gaths => exact issue_ordered _ (loadBody_numbered _ _ _ _ h) h
  | scat => exact issue_ordered _ (storeBody_numbered _ _ _ _ _ h) h
  | ldt d a b wd => exact execLdt_ordered d a b wd h
  | stt d a b wd => exact execStt_ordered d a b wd h
  | bxlt d b => exact execBxlt_ordered d b h
  | aadd | amin | amax | aand | aor | axor | axch | acas | afadd | axadd | axrd => exact issue_ordered _ (atomicBody_numbered _ _ _ _ _ h) h
  | bari a imm => exact execBari_ordered a imm h
  | barw a imm => exact execBarw_ordered a imm h
  | baraw d imm => exact execBaraw_ordered d imm h
  | bard d imm => exact execBard_ordered d imm h
  | bardDrop imm => exact execBardDrop_ordered imm h
  | dqpush p a => exact execDqpush_ordered p a h
  | bndminCl | bndminDev => exact issue_ordered _ (minBody_numbered _ _ _ h) h
  | bndrd d a => exact execBndrd_ordered d a h
  | waitb a => exact execWaitb_ordered a h
  | fence sc => exact execFence_ordered sc h
  | mma | mmag | tcopy | tfill | tscaleExp | tscaleAcc | tscaleAccr | tscaleAccc | tconv => exact issue_ordered _ (issueTask_numbered _ _ h) h
  | tgive e => exact execTgive_ordered e h
  | ttake e => exact execTtake_ordered e h
  | tdesc e v => exact execTdesc_ordered e v h
  | tsetd e v f => exact execTsetd_ordered e v f h
  | pcode d a m => exact execPcode_ordered d a m h
  | pset d n sense => exact execPset_ordered d n sense h
  | enter imm => exact execEnter_ordered imm h
  | leave imm => exact execLeave_ordered imm h
  | timerWait t => exact execTimerWait_ordered t h
  | sret => exact execSret_ordered h
  | rqrd d a w => exact execRqrd_ordered d a w h
  | rqrdV d a n => exact execRqrdV_ordered d a n h
  | rqwr a b w => exact execRqwr_ordered a b w h
  | rqwrV a b n => exact execRqwrV_ordered a b n h
  | tlbinvRange | tlbinvTag | tlbinvAll => exact issue_ordered _ (tlbinvBody_numbered _ _ _ _ h) h
  | tlbwait => exact execTlbwait_ordered h
  | ctxsv a => exact execCtxsv_ordered a h
  | ctxrs a => exact execCtxrs_ordered a h
  | dbgset d a b n => exact execDbgset_ordered d a b n h
  | ssr n r => exact execSsr_ordered n r h
  | ssrV n r => exact execSsrV_ordered n r h
  | ssrP n r => exact execSsrP_ordered n r h
  | ssw n r => exact execSsw_ordered n r h
  | sswV n r => exact execSswV_ordered n r h
  | killTeam | killDump => exact issue_ordered _ (killOwn_numbered _ _ h) h
  | illegalEncoding => exact issue_ordered _ (illegal_numbered h) h
  | fetchFault => exact ordered_next (trap_numbered _ _ _ _ h)
  | resultReturn => exact ordered_next (numbered_ite h (returnResult_numbered _ _ h))
  | atomicApply => exact ordered_next (numbered_ite h (applyAtomicAt_numbered _ _ h))
  | storeReachesHome => exact ordered_next (homeStep_numbered _ h)
  | requestRetry => exact ordered_next (retryRequest_numbered _ h)
  | taskStart => exact ordered_next (startTask_numbered _ h)
  | taskFinish => exact ordered_next (finishTask_numbered _ h)
  | preqRequest => exact ordered_next (requestPreempt_numbered _ _ h)
  | preEmptionDeadline => exact ordered_next (preemptDeadline_numbered _ _ h)
  | stopDeadline => exact ordered_next (stopForced_numbered _ h)
  | cycleTimerFire | wallAlarmFire => exact ordered_next (modG_numbered _ (fun g => by split; exacts [fireTimer_outst .., rfl]) h)
  | retentionEntry | retentionExit => exact ordered_next (numbered_ite (setBankSt_numbered _ _ h) h)
  | watchCopyUpdate => exact ordered_next (updateWatch_numbered _ _ h)
  | invalidationReceive => exact ordered_next (receiveInval_numbered _ _ h)
  | invalidationAck => exact ordered_next (ackInval_numbered _ _ h)
  | dispatch => exact ordered_next (dispatch_numbered _ h)
  | retire => exact ordered_next (retireTeam_numbered _ _ h)
  | teamSave => exact ordered_next (teamSave_numbered _ _ h)
  | slice => exact ordered_next (slice_numbered _ h)
  | virtualTimeAdd => exact ordered_next (virtualTime_numbered h)
  | clusterGate => exact ordered_next (clusterGate_numbered _ h)
  | weirSample watts => exact execWeirSample_ordered watts h
  | vfStepEnd die => exact execVfStepEnd_ordered die h
  | sprintLimit => exact ordered_next (sprintLimit_numbered _ _ h)
  | coolDownEnd die => exact execCoolDownEnd_ordered die h
  | grant die budget point => exact execGrant_ordered die budget point h
  | grantExpiry die => exact execGrantExpiry_ordered die h
  | sensorFault => exact ordered_next h
  | thermalLimit => exact ordered_next (modDie_numbered _ _ h)
  | thermalStep die celsius => exact execThermalStep_ordered die celsius h
  | thermalShutdown die => exact execThermalShutdown_ordered die h
  | reset => exact ordered_next (resetDevice_numbered s)
  | pcSample => exact ordered_next (numbered_ite h (pcSample_numbered _ _ h))
  | energySplit => exact ordered_next (energySplit_numbered _ _ h)
  | rasError => exact ordered_next (rasError_numbered _ _ _ _ _ _ _ h)
  | correctedErrorMerge => exact ordered_next (mergeCorrected_numbered _ _ h)
  | hostManagedDeviceMemoryAccess => exact ordered_next (hostAccess_numbered _ _ h)
  | gatingSequenceEnd => exact ordered_next (gatingEnd_numbered _ h)
  | clusterWakeEnd => exact ordered_next (wakeEnd_numbered _ h)
  | retentionEntryEnd => exact ordered_next (numbered_ite (setBankSt_numbered _ _ h) h)
  | lineaddrWrite => exact ordered_next (lineaddr_numbered _ _ h)
  | lineNotify => exact ordered_next (watchNext_numbered _ h)
  | launchAdmit => exact ordered_next (launchAdmit_numbered _ h)
  | launchFinish => exact ordered_next (launchFinish_numbered _ h)
  | nopCommand f => exact execNopCommand_ordered f h
  | lineCreate f => exact execLineCreate_ordered f h
  | lineDestroy f => exact execLineDestroy_ordered f h
  | procConfig f => exact execProcConfig_ordered f h
  | invalidate f => exact execInvalidate_ordered f h
  | stopRequest f => exact execStopRequest_ordered f h
  | resume f => exact execResume_ordered f h
  | killCommand f => exact execKillCommand_ordered f h
  | saveLaunch f => exact execSaveLaunch_ordered f h
  | restoreLaunch f => exact execRestoreLaunch_ordered f h
  | journalCopy f => exact execJournalCopy_ordered f h
  | event f => exact execEvent_ordered f h
  | funcConfig f => exact execFuncConfig_ordered f h
  | ctxArea f => exact execCtxArea_ordered f h
  | carve f => exact execCarve_ordered f h
  | poolAdd f => exact execPoolAdd_ordered f h
  | migrate f => exact execMigrate_ordered f h
  | split f => exact execSplit_ordered f h
  | vector f => exact execVector_ordered f h
  | power f => exact execPower_ordered f h
  | load f => exact execLoad_ordered f h
  | counters f => exact execCounters_ordered f h
  | read f => exact execRead_ordered f h
  | sample f => exact execSample_ordered f h
  | quote f => exact execQuote_ordered f h
  | identity f => exact execIdentity_ordered f h
  | clear f => exact execClear_ordered f h
  | unknownCommandOpcode f => exact execUnknownCommandOpcode_ordered f h
  | enrol | batch | ebset | kill | halt => exact issue_ordered _ (upG_numbered (fun _ => rfl) h) h
  | strike => exact issue_ordered _ (upG_numbered (fun g => strikeKnot_outst ..) h) h
  | timer a t => exact execTimer_ordered a t h
  | timerPoll p t => exact execTimerPoll_ordered p t h
  | dqpop | dqsteal | wall | wallV => exact issue_ordered _ (addEntry_numbered _ rfl h) h
  | frqpop => exact issue_ordered _ (addEntry_numbered _ rfl (modCore_numbered _ _ h)) h
  | smov | smovi | smovh | sadd | saddi | ssub | smul | smulh | sand | sor | sxor | sshl | sshr | ssra | smin | smax | spopc | sclz |
    slea | ebrd | clock =>
    exact issue_ordered _ (uniOp_numbered _ _ _ h) h
  | scmp | vcmp | fcmp | ptest => exact issue_ordered _ (predOp_numbered _ _ h) h
  | nop | pref | chk | chkTwoRegisters | chkU | chkp => exact issue_ordered _ h h
  | ifence => exact issue_ordered _ (modCore_numbered _ _ h) h
  | _ => exact issue_ordered _ (vecOp_numbered _ _ h) h

end Sys2Proof.Machine

namespace Sys2Proof.Machine

variable {s t : State} {m : MemSt}

/-! #### One issue of a group: fetch, the reads of outstanding results, the chain -/

theorem fetchTouch_numbered (core pa : Nat) (h : s.Numbered) : (fetchTouch s core pa).Numbered := by unfold fetchTouch; grind [touch_numbered]
theorem putLimited_numbered {α : Type} (limit : Nat) (t : List (Nat × α)) (k : Nat) (v : α) (h : s.Numbered) :
    (putLimited s limit t k v).1.Numbered := (putLimited_onPath limit t k v (.refl s)).numbered h
theorem fetchWord_numbered (h : Nat) (g : Group) (chain pc : PC) (hs : s.Numbered) : (fetchWord s h g chain pc).1.Numbered := by
  have ht := translate_numbered ⟨h, g.core, fetchTag g, g.sp.sv, chain⟩ (wordVa (codeBase s g) pc) .fetch hs
  unfold fetchWord
  grind [fetchTouch_numbered, choose_numbered, putLimited_numbered, modCore_numbered, numbered_eq]
theorem fetchChain_numbered (h : Nat) (g : Group) (chain : PC) (n : Nat) (pc : PC) (hs : s.Numbered) :
    (fetchChain h g chain n s pc).1.Numbered := by
  induction n generalizing s pc with
  | zero => exact hs
  | succ n ih =>
    have hw := fetchWord_numbered h g chain pc hs
    unfold fetchChain
    grind
theorem beginIssue_numbered (h : Nat) (pc wpc next : PC) (word : Word) (m : Mask) (multi : Bool) (rd : Group) (hs : s.Numbered) :
    (beginIssue s h pc wpc next word m multi rd).Numbered := modG_numbered h (fun _ => foldl_outst (by intros; rfl)) hs
theorem atWord_numbered (w : FWord) (h : s.Numbered) : (atWord s w).Numbered := h
theorem resolveReads_numbered (is : List Instr) (h : s.Numbered) : (resolveReads s is).Numbered :=
  foldl_numbered (fun u id hu => by
    split
    · exact hu
    · exact foldl_numbered (fun v j hv => by grind [choose_numbered, perform_numbered, numbered_eq]) _ hu) _ h
theorem decodeStop_ordered {w : FWord} {r : Res} (h : s.Numbered) (e : decodeStop s w = some r) : Ordered r := by
  have hi : Ordered (.next (illegal (atWord s w))) := ordered_next (illegal_numbered h)
  have he (i : Instr) : Ordered (exec i (atWord s w)) := exec_ordered i h
  have ht (p : Nat) (m : Mask) : Ordered (.next (trap (atWord s w) 0x24 p m false)) := ordered_next (trap_numbered _ _ _ _ h)
  unfold decodeStop at e
  grind
theorem countTokens_numbered (h : Nat) (is : List Instr) (hs : s.Numbered) : (countTokens s h is).Numbered := by
  unfold countTokens; grind [bump_numbered]
theorem occupy_numbered (g : Group) (h p : Nat) (hs : s.Numbered) : (occupy s g h p).Numbered := modG_numbered h (fun _ => rfl) hs
theorem keepHeld_numbered (before : Group) (h : Nat) (hs : s.Numbered) : (keepHeld before h s).Numbered :=
  modG_numbered h (fun g => by split <;> rfl) hs
theorem keepMarker_outst (before : Group) (is : List Instr) (marker : Bool) (g : Group) : (keepMarker before is marker g).outst = g.outst := by
  unfold keepMarker; dsimp only; split <;> rfl
theorem keepCounts_outst (before : Group) (m : Mask) (g : Group) : (keepCounts before m g).outst = g.outst := by
  unfold keepCounts; split
  · rfl
  · split <;> rfl
theorem account_numbered (before : Group) (h : Nat) (m : Mask) (ws : List (FWord × Instr)) (marker : Bool) (hs : s.Numbered) :
    (account s before h m ws marker).Numbered := by
  unfold account
  extract_lets is n c p q autos use s1 s2 s3 s4 s5 f s6 s7 s8 s9
  have h1 : s1.Numbered := occupy_numbered _ _ _ (modG_numbered h (keepCounts_outst before m) hs)
  have h2 : s2.Numbered := modG_numbered h (fun g => keepMarker_outst before is marker g) h1
  have h4 : s4.Numbered := numbered_ite (modTeam_numbered _ _ _ (modCore_numbered _ _ h2)) (modCore_numbered _ _ h2)
  have h5 : s5.Numbered := numbered_ite (modCluster_numbered _ _ h4) h4
  have h6 : s6.Numbered := count_numbered _ _ _ _ _ h5
  have h7 : s7.Numbered := bump_numbered _ _ _ (bump_numbered _ _ _ h6)
  have h8 : s8.Numbered := numbered_ite (bump_numbered _ _ _ h7) h7
  exact foldl_numbered (fun _ ev => bump_numbered h ev 1) _ (countTokens_numbered h is h8)

end Sys2Proof.Machine

namespace Sys2Proof.Machine

variable {s t : State} {m : MemSt}

/-! #### The end of an issue, and chains of several words -/

theorem endIssue_ordered {r : Res} (before : Group) (h : Nat) (m : Mask) (ws : List (FWord × Instr)) (marker : Bool) (hr : Ordered r) :
    Ordered (endIssue before h m ws marker r) := by
  cases r with
  | next s =>
    have hs : s.Numbered := hr s rfl
    have ha := account_numbered before h m ws marker hs
    unfold endIssue
    dsimp only
    split
    · exact ordered_next (keepHeld_numbered _ _ hs)
    · split
      · exact ordered_next (occupy_numbered _ _ _ (modG_numbered _ (fun g => by split <;> rfl) (numbered_ite (countTokens_numbered _ _ hs) hs)))
      · split
        · exact ordered_next ha
        · split
          · exact ordered_next (modG_numbered _ (fun g => by split <;> rfl) (pageLoad_numbered _ _ _ _ ha))
          · split
            · exact ordered_next (stopAtEdge_numbered _ ha)
            · exact ordered_next ha
  | _ => exact hr
theorem firstStop_ordered {ws : List (FWord × Instr)} {r : Res} (h : s.Numbered) (e : firstStop s ws = some r) : Ordered r := by
  obtain ⟨w, _, hw⟩ := List.exists_of_findSome?_eq_some e
  have he : Ordered (exec w.2 (atWord s w.1)) := exec_ordered w.2 (atWord_numbered w.1 h)
  grind
theorem applyWords_ordered (ws : List (FWord × Instr)) (h : s.Numbered) : Ordered (applyWords s ws) :=
  List.foldlRecOn (motive := Ordered) _ _ (ordered_next h) (fun r hr w _ => by
    split
    · exact exec_ordered _ (atWord_numbered _ (hr _ rfl))
    · exact hr)
theorem badFetch_ordered (code va : Nat) (as : List LaneAcc) (h : s.Numbered) : Ordered (badFetch s code va as) :=
  exec_ordered _ (reportErrors_numbered _ _ _ _ _ h)
theorem runChain_ordered (ws : List FWord) (bad : Option (PC × Nat × Nat × List LaneAcc)) (h : s.Numbered) :
    Ordered (runChain s ws bad) := by
  unfold runChain
  split
  next r e =>
    obtain ⟨w, _, hw⟩ := List.exists_of_findSome?_eq_some e
    exact decodeStop_ordered h hw
  next =>
    split
    · exact badFetch_ordered _ _ _ h
    · split
      · exact ordered_next (illegal_numbered (by split <;> exact h))
      · split
        next r e => exact firstStop_ordered h e
        next =>
          split
          · exact ordered_next (holdWhole_numbered _ _ (atWord_numbered _ h))
          · exact applyWords_ordered _ h
theorem issueSet_ordered (h : Nat) (g : Group) (pc : PC) (m : Mask) (hs : s.Numbered) : Ordered (issueSet s h g pc m) := by
  have hf := fetchChain_numbered h g pc 3 pc hs
  unfold issueSet
  split
  next u ws bad e =>
    rw [e] at hf
    extract_lets multi next is wis marker s1 why dm s2
    have h1 : s1.Numbered := beginIssue_numbered _ _ _ _ _ _ _ _ hf
    have h2 : s2.Numbered := resolveReads_numbered _ h1
    clear_value s1 s2
    split
    · exact ordered_next (keepHeld_numbered _ _ (stall_numbered _ h1))
    · split
      · exact endIssue_ordered _ _ _ _ _ (ordered_next (debugTrap_numbered _ _ h1))
      · split
        · exact endIssue_ordered _ _ _ _ _ (badFetch_ordered _ _ _ h2)
        · split
          · exact endIssue_ordered _ _ _ _ _ (runChain_ordered _ _ h2)
          · exact endIssue_ordered _ _ _ _ _ (exec_ordered _ h2)
        · exact endIssue_ordered _ _ _ _ _ (runChain_ordered _ _ h2)
theorem issueGroup_ordered (h : Nat) (hs : s.Numbered) : Ordered (issueGroup s h) := by
  unfold issueGroup
  dsimp only
  split
  · exact ordered_next hs
  · split
    · exact ordered_next hs
    next pc m _ =>
      have hn : (s.modG h (fun g => { g with rejected := none })).Numbered := modG_numbered h (fun _ => rfl) hs
      have hi := issueSet_ordered h (s.grp h) (BitVec.ofNat 48 pc) m hn
      split
      next t e => exact ordered_next (killDue_numbered _ (hi t e))
      next => exact hi

end Sys2Proof.Machine

namespace Sys2Proof.Machine

variable {s t u : State} {m : MemSt} {e : Entry}

/-! #### The routines of the ROM -/

theorem romSet_numbered (h k x : Nat) (hs : s.Numbered) : (romSet s h k x).Numbered := modG_numbered h (fun _ => rfl) hs
theorem romTrap_numbered (h cause : Nat) (hs : s.Numbered) : (romTrap s h cause).Numbered := doubleAt_numbered _ _ _ hs
theorem romSret_numbered (h : Nat) (hs : s.Numbered) : (romSret s h).Numbered := by
  have hr := returnFromTrap_numbered (fun _ => resumeAll_numbered) h hs
  unfold romSret; grind [romTrap_numbered]
theorem romSave_numbered (h : Nat) (hs : s.Numbered) : (romSave s h).Numbered := by unfold romSave; grind [romTrap_numbered, saveGroup_numbered]
theorem romKill_numbered (h : Nat) (hs : s.Numbered) : (romKill s h).Numbered := killOwn_numbered _ _ hs
theorem romHalt_numbered (h : Nat) (hs : s.Numbered) : (romHalt s h).Numbered := by
  unfold romHalt; grind [romSret_numbered, romSet_numbered, modG_numbered]
theorem romRestore_numbered (h : Nat) (hs : s.Numbered) : (romRestore s h).Numbered := by
  unfold romRestore; grind [romSret_numbered, loadImage_numbered, romKill_numbered, restFail_numbered]
theorem pagerPop_numbered (h : Nat) (hs : s.Numbered) : (pagerPop s h).Numbered := by
  unfold pagerPop; grind [romSet_numbered, modCore_numbered, postJournal_numbered]
theorem poolPop_numbered {ls : List Nat} {p : Nat × Nat} (hs : s.Numbered) (e : poolPop s ls = some (t, p)) : t.Numbered := by
  unfold poolPop at e
  split at e
  · cases e
  · cases e
    exact setNum_numbered _ _ _ hs
theorem zeroFrame_numbered (core pa size : Nat) (hs : s.Numbered) : (zeroFrame s core pa size).Numbered := by
  unfold zeroFrame
  extract_lets inside m1 m2 m3
  have h3 : m3.pend = s.mem.pend := by
    unfold m3
    split
    · split <;> rfl
    · rfl
    · rfl
  exact modCore_numbered core _ (numbered_of_pend h3 hs)
theorem fillNode_numbered (pa e : Nat) (hs : s.Numbered) : (fillNode s pa e).Numbered := foldl_numbered (fun _ _ => setNum_numbered _ _ _) _ hs
theorem romFence_numbered (h : Nat) (hs : s.Numbered) : (romFence s h).Numbered := acquire_numbered _ _ (release_numbered _ _ hs)
theorem c16Fill_numbered (h epa new : Nat) (hs : s.Numbered) : (c16Fill s h epa new).Numbered :=
  romFence_numbered _ (foldl_numbered (fun _ _ hu => numbered_ite hu (setNum_numbered _ _ _ hu)) _ hs)
theorem pagerWait_numbered (h reason list : Nat) (hs : s.Numbered) : (pagerWait s h reason list).Numbered := by
  unfold pagerWait; grind [romSet_numbered, attention_numbered, romSave_numbered, acquire_numbered]
theorem pagerNext_numbered (h : Nat) (hs : s.Numbered) : (pagerNext s h).Numbered := romSet_numbered _ _ _ hs
theorem pagerInstall_numbered (h : Nat) (hs : s.Numbered) : (pagerInstall s h).Numbered := by
  unfold pagerInstall; grind [romSet_numbered, setNum_numbered, c16Fill_numbered, postJournal_numbered]
theorem pagerTake_numbered (h level epa e : Nat) (hs : s.Numbered) : (pagerTake s h level epa e).Numbered := by
  have ha := acquire_numbered h .sys hs
  unfold pagerTake
  dsimp only
  split
  · exact pagerWait_numbered _ _ _ ha
  next u list frame ep =>
    have hu : u.Numbered := poolPop_numbered ha ep
    grind [romSet_numbered, zeroFrame_numbered, fillNode_numbered]
theorem pagerServe_numbered (h : Nat) (hs : s.Numbered) : (pagerServe s h).Numbered := by
  unfold pagerServe; grind [pagerInstall_numbered, romSret_numbered, pagerNext_numbered, c16Fill_numbered, pagerWait_numbered, pagerTake_numbered]
theorem romPager_numbered (h : Nat) (hs : s.Numbered) : (romPager s h).Numbered := by
  unfold romPager; grind [pagerPop_numbered, pagerServe_numbered]

/-! #### The emulation routine -/

theorem emulOpen_numbered (h : Nat) (hs : s.Numbered) : (emulOpen s h).Numbered := by
  have hm : (s.modG h (fun _ => swapOut (s.grp h))).Numbered := by
    rw [modG_congr s h (f := fun _ => swapOut (s.grp h)) (f' := swapOut) rfl]
    exact modG_numbered h swapOut_outst hs
  exact hm
theorem emulClose_numbered (h : Nat) (hs : s.Numbered) : (emulClose s h).Numbered := modG_numbered h (fun _ => swapIn_outst ..) hs
theorem emulOther_numbered (f : FWord) (hs : s.Numbered) : (emulOther s f).Numbered := by
  unfold emulOther
  split
  next iw _ _ =>
    have he : Ordered (exec iw.i { s with cur := { s.cur with pc := f.pc, wpc := f.pc, word := f.word &&& 0x3FFFFFFF } }) := exec_ordered iw.i hs
    split
    next t e => exact countTokens_numbered _ _ (he t e)
    next => exact hs
  next => exact hs
theorem emulAccess_numbered (x : Ctx) (i : Instr) (n : BitVec 3) (js : List MemJob) (hs : s.Numbered) : (emulAccess x i n s js).1.Numbered := by
  induction js generalizing s with
  | nil => exact hs
  | cons j js ih =>
    have hl := laneAccess_numbered x (some (n.toNat, s.cur.rd.b n.toNat)) .rw (alignOf i) j.va hs
    unfold emulAccess
    grind
theorem emulBegin_numbered (h : Nat) (hs : s.Numbered) : (emulBegin s h).Numbered := by
  unfold emulBegin
  extract_lets s0 s1 g
  have h1 : s1.Numbered := emulOpen_numbered _ hs
  have hf := fetchChain_numbered h { g with sp := { g.sp with sv := false } } g.frame.tpc 3 g.frame.tpc h1
  split
  next u ws bad e =>
    rw [e] at hf
    extract_lets next rest
    split
    · exact killLaunch_numbered _ _ _ _ _ _ _ _ hs
    · split
      · exact romSret_numbered _ hs
      next iw _ =>
        split
        · exact romSret_numbered _ hs
        next n o data _ =>
          extract_lets s2 js f
          have h2 : s2.Numbered := countTokens_numbered _ _ hf
          have ha := emulAccess_numbered ⟨h, g.core, g.sp.tag.toNat, false, g.frame.tpc⟩ iw.i n js h2
          split
          · exact romTrap_numbered _ _ hs
          · split
            · exact romSret_numbered _ (emulClose_numbered _ h2)
            · split
              next v e => rw [e] at ha; exact romSret_numbered _ (emulClose_numbered _ ha)
              next v as e =>
                rw [e] at ha
                extract_lets s3 e s4 s5
                have h3 : s3.Numbered := by
                  unfold s3
                  split
                  · exact release_numbered _ _ ha
                  · exact ha
                have h4 : s4.Numbered := foldl_numbered (fun _ _ => emulOther_numbered _) _ h3
                split
                · exact h4
                · exact romSet_numbered _ _ _ (romSet_numbered _ _ _ (emulClose_numbered _ (addEntry_numbered h rfl h4)))
theorem emulEnd_numbered (h : Nat) (hs : s.Numbered) : (emulEnd s h).Numbered := by
  unfold emulEnd
  extract_lets s1 s2
  have h1 : s1.Numbered := modG_numbered h (fun _ => foldl_outst (by intros; rfl)) hs
  have h2 : s2.Numbered := by
    unfold s2
    split
    · split
      · exact acquire_numbered _ _ h1
      · exact h1
    · exact h1
  exact romSret_numbered _ h2
theorem emulUnlock_numbered (h lk : Nat) (hs : s.Numbered) : (emulUnlock s h lk).Numbered :=
  setNum_numbered _ _ _ (modG_numbered _ (fun _ => rfl) (drainCore_numbered _ hs))
theorem emulLocation_numbered (h : Nat) (hs : s.Numbered) : (emulLocation s h).Numbered := by
  unfold emulLocation
  grind [emulEnd_numbered, touch_numbered, acquire_numbered, romSet_numbered, setNum_numbered, emulUnlock_numbered, performAt_numbered,
    forceBefore_numbered]
theorem romEmul_numbered (h : Nat) (hs : s.Numbered) : (romEmul s h).Numbered := by
  unfold romEmul; grind [emulBegin_numbered, emulLocation_numbered]
theorem romAct_numbered (h cause : Nat) (hs : s.Numbered) : (romAct s h cause).Numbered := by
  unfold romAct; grind [romPager_numbered, romEmul_numbered, romHalt_numbered, romSave_numbered, romRestore_numbered, romKill_numbered]
theorem romStep_ordered (h cause : Nat) (hs : s.Numbered) : Ordered (romStep s h cause) := by
  unfold romStep
  dsimp only
  split
  · exact ordered_next hs
  · exact ordered_next (romAct_numbered _ _ (bump_numbered _ _ _ (bump_numbered _ _ _ (occupy_numbered _ _ _ (modG_numbered _ (fun _ => rfl) hs)))))

end Sys2Proof.Machine

namespace Sys2Proof.Machine

variable {s t : State} {m : MemSt}

/-! #### Turns -/

theorem countCycle_numbered (s : State) (core : Nat) (h : s.Numbered) : (countCycle s core).Numbered := by
  refine foldl_keeps_fst (fun r tm hr => ?_) _ h
  dsimp only
  split
  · exact view_numbered _ _ _ _ _ hr
  · exact count_numbered _ _ _ _ _ hr
theorem fireTimerIf_outst {c : Prop} [Decidable c] (g : Group) (t : TimerSel) : (if c then fireTimer g t else g).outst = g.outst := by
  split
  · exact fireTimer_outst g t
  · rfl
theorem tick_outst (s : State) (g : Group) : (tick s g).outst = g.outst := fireTimerIf_outst _ _
theorem passCycle_numbered (d : Nat) (h : s.Numbered) : (passCycle d s).Numbered := by
  unfold passCycle
  extract_lets on cs s1 s2
  have h2 : s2.Numbered := modDie_numbered d _ (foldl_numbered countCycle_numbered _ h)
  exact mapGroups_numbered (fun x => by split; exacts [congrArg (List.map (·.id)) (tick_outst ..), rfl]) h2
theorem schedule_numbered (core sched : Nat) (h : s.Numbered) : (schedule s core sched).1.Numbered := by
  unfold schedule
  split
  · exact h
  · exact h
  · exact foldl_numbered (fun _ j hs => by exact numbered_ite hs (modG_numbered j.1.1 (fun _ => rfl) hs)) _ h
theorem notePick_numbered (core sched : Nat) (h : s.Numbered) : (notePick s core sched).Numbered := by unfold notePick; grind [modG_numbered]
theorem issueChosen_ordered (h : Nat) (hs : s.Numbered) : Ordered (issueChosen s h) := by
  unfold issueChosen
  split
  · exact romStep_ordered _ _ hs
  · split
    · exact ordered_next (modG_numbered _ (fun _ => rfl) hs)
    · exact issueGroup_ordered _ hs
theorem issueTurn_ordered (h : Nat) (hs : s.Numbered) : Ordered (issueTurn s h) := by
  have hc := schedule_numbered (s.grp h).core (s.grp h).sched hs
  unfold issueTurn
  dsimp only
  split
  · exact ordered_next hs
  · split
    next t k e =>
      rw [e] at hc
      split
      · exact issueChosen_ordered _ hc
      · exact ordered_next hc
    next t e => rw [e] at hc; exact ordered_next hc
theorem noteReleases_numbered (s : State) (h : t.Numbered) : (noteReleases s t).Numbered := by
  refine foldl_numbered (fun u e hu => ?_) _ h
  have hm (n : Nat) : (u.modG e.1 (fun g => { g with rejected := g.rejected.map (fun r => { r with tries := r.tries + n }) })).Numbered :=
    modG_numbered e.1 (fun _ => rfl) hu
  exact numbered_ite (retryRequest_numbered _ (hm _)) (hm _)
theorem noted_ordered {r : Res} (s : State) (hr : Ordered r) : Ordered (noted s r) := by
  cases r with
  | next t => exact ordered_next (noteReleases_numbered s (hr t rfl))
  | _ => exact hr
theorem issueDie_ordered (d : Nat) (h : s.Numbered) : Ordered (issueDie d s) :=
  List.foldlRecOn (motive := Ordered) _ _ (ordered_next h) (fun r hr k _ => by
    split
    next u =>
      have hu : u.Numbered := hr u rfl
      have hc := schedule_numbered k.1 k.2 hu
      split
      · exact ordered_next hu
      · split
        next t h e => rw [e] at hc; exact noted_ordered _ (issueChosen_ordered _ hc)
        next t e => rw [e] at hc; exact ordered_next hc
    next => exact hr)
theorem samplesDue_numbered (d : Nat) (h : s.Numbered) : (samplesDue d s).Numbered :=
  foldl_numbered (fun _ _ hu => pcSample_numbered _ _ (notePick_numbered _ _ hu)) _ h
theorem ageReady_numbered (d : Nat) (h : s.Numbered) : (ageReady d s).Numbered :=
  mapGroups_numbered (fun x => by split; exacts [rfl, by split <;> rfl]) h
theorem dieCycle_ordered (d : Nat) (h : s.Numbered) : Ordered (dieCycle d s) := by
  have hi := issueDie_ordered d h
  unfold dieCycle
  split
  next t e => exact ordered_next (passCycle_numbered d (ageReady_numbered d (samplesDue_numbered d (hi t e))))
  next => exact hi
theorem dieCycles_ordered (d n : Nat) (h : s.Numbered) : Ordered (dieCycles d n s) := by
  induction n generalizing s with
  | zero => exact ordered_next h
  | succ n ih =>
    have hc := dieCycle_ordered d h
    unfold dieCycles
    split
    next t e => exact ih (hc t e)
    next => exact hc
theorem dieNs_ordered (d : Nat) (h : s.Numbered) : Ordered (dieNs d s) := by
  unfold dieNs
  dsimp only
  split
  · exact ordered_next h
  · exact dieCycles_ordered _ _ (modDie_numbered _ _ h)
theorem runNs_ordered (n : Nat) (h : s.Numbered) : Ordered (runNs n s) := by
  induction n generalizing s with
  | zero => exact ordered_next h
  | succ n ih =>
    have hd : Ordered (allDies.foldl (fun (r : Res) d => match r with | .next s => dieNs d s | r => r) (.next s)) :=
      List.foldlRecOn (motive := Ordered) _ _ (ordered_next h) (fun r hr d _ => by
        split
        next u => exact dieNs_ordered _ (hr u rfl)
        next => exact hr)
    unfold runNs
    split
    next t e => exact ih (hd t e)
    next => exact hd
theorem readyStep_numbered (i : Instr) (h : s.Numbered) : (readyStep s i).Numbered := by unfold readyStep; grind [notePick_numbered]
theorem runTurn_ordered (u : Turn) (h : s.Numbered) : Ordered (runTurn s u) := by
  cases u with
  | issue k => exact issueTurn_ordered k h
  | step i =>
    unfold runTurn
    dsimp only
    split
    · exact exec_ordered i (readyStep_numbered i h)
    · exact ordered_next h
  | time ns => exact runNs_ordered ns h
theorem cmdRun_ordered (f op sub : Nat) (h : s.Numbered) : Ordered (cmdRun f op sub s) := by
  unfold cmdRun
  split
  case h_1 => exact exec_ordered (.nopCommand f) h
  case h_2 => exact exec_ordered (.lineCreate f) h
  case h_3 => exact exec_ordered (.lineDestroy f) h
  case h_4 => exact exec_ordered (.procConfig f) h
  case h_5 => exact exec_ordered (.invalidate f) h
  case h_6 => exact exec_ordered (.stopRequest f) h
  case h_7 => exact exec_ordered (.resume f) h
  case h_8 => exact exec_ordered (.killCommand f) h
  case h_9 => exact exec_ordered (.saveLaunch f) h
  case h_10 => exact exec_ordered (.restoreLaunch f) h
  case h_11 => exact exec_ordered (.journalCopy f) h
  case h_12 => exact exec_ordered (.event f) h
  case h_13 => exact exec_ordered (.funcConfig f) h
  case h_14 => exact exec_ordered (.ctxArea f) h
  case h_15 => exact exec_ordered (.carve f) h
  case h_16 => exact exec_ordered (.poolAdd f) h
  case h_17 => exact exec_ordered (.migrate f) h
  case h_18 => exact exec_ordered (.split f) h
  case h_19 => exact exec_ordered (.vector f) h
  case h_20 => exact exec_ordered (.power f) h
  case h_21 =>
    split
    case h_1 => exact exec_ordered (.load f) h
    case h_2 => exact exec_ordered (.counters f) h
    case h_3 => exact exec_ordered (.read f) h
    case h_4 => exact exec_ordered (.sample f) h
    case h_5 => exact exec_ordered (.quote f) h
    case h_6 => exact exec_ordered (.identity f) h
    case h_7 => exact exec_ordered (.clear f) h
    case h_8 => exact exec_ordered (.unknownCommandOpcode f) h
  case h_22 => exact exec_ordered (.unknownCommandOpcode f) h
theorem dueCmd_ordered {r : Res} (h : s.Numbered) (e : dueCmd s = some r) : Ordered r := by
  unfold dueCmd at e
  split at e
  · cases e
  · obtain ⟨c, _, rfl⟩ := Option.map_eq_some_iff.mp e
    exact cmdRun_ordered _ _ _ h
theorem defaultTurn_ordered (h : s.Numbered) : Ordered (defaultTurn s) := by
  unfold defaultTurn
  split
  next i _ => exact noted_ordered s (exec_ordered i h)
  next =>
    split
    next r e => exact noted_ordered s (dueCmd_ordered h e)
    next =>
      split
      next k _ => exact noted_ordered s (runTurn_ordered (.issue k) h)
      next => exact runTurn_ordered (.time 1) h
theorem nextTurn_ordered (h : s.Numbered) : Ordered (nextTurn s) := by
  unfold nextTurn
  split
  · exact runNs_ordered _ h
  · exact noted_ordered s (runTurn_ordered _ h)
  · exact defaultTurn_ordered h

/-- Settles O58: each turn is one of the operations above; one that leaves a result outstanding, or sends a store on its way, takes the next
order number for it. -/
theorem stepKeepsOrderNumbers : Obligations.StepKeepsOrderNumbers := fun _ t h e => nextTurn_ordered h t e

end Sys2Proof.Machine

namespace Sys2Proof.Machine

/-! ### Gating, retention and watch copies (R140, R165, R393) -/

section
variable (s : State) (b c : Nat) (x : BankSt)

/-- A step of a bank: where its time has come it takes its state; no byte and no bound changes. -/
theorem bankStep_keeps (P Q : Prop) [Decidable P] [Decidable Q] :
    (if P ∧ Q then setBankSt s b x else s).mem.cells = s.mem.cells ∧
      (if P ∧ Q then setBankSt s b x else s).mem.bounds = s.mem.bounds ∧
      (P → Q → bankSt (if P ∧ Q then setBankSt s b x else s) b = (x, bankClk s b)) := by
  by_cases h : P ∧ Q
  · rw [if_pos h]
    exact ⟨rfl, rfl, fun _ _ => by rw [setBankSt_bankSt, if_pos rfl]⟩
  · rw [if_neg h]
    exact ⟨rfl, rfl, fun hp hq => absurd ⟨hp, hq⟩ h⟩

/-- An access that meets a bank in retention waits, and the bank begins its exit (R140). -/
theorem reachBanks_retained (h : (bankSt s b).1 = .retained) : reachBanks s [b] = (false, setBankSt s b .exiting) := by
  simp [reachBanks, h]

theorem clusterGate_of_idle (hg : (s.cluster c).gated = false) (hi : (s.cluster c).gating = false) (hw : (s.cluster c).waking = false)
    (hid : clusterIdle s c = true) (ht : (s.cluster c).idleSince + 100000 ≤ s.now) (hd : s.dev.nextCluster ≠ c ∨ bestCand s c = none) :
    clusterGate s c = s.modCluster c (fun x => { x with gating := true, idleSince := s.now }) := by
  have hn : ¬ (s.dev.nextCluster = c ∧ (bestCand s c).isSome = true) := by
    rintro ⟨h1, h2⟩
    obtain hd | hd := hd
    · exact hd h1
    · simp [hd] at h2
  simp [clusterGate, hg, hi, hw, hid, Nat.not_lt.2 ht, hn]

theorem clusterGate_of_busy (h : (s.cluster c).gated = true ∨ clusterIdle s c = false ∨ s.now < (s.cluster c).idleSince + 100000) :
    clusterGate s c = s := by
  unfold clusterGate
  rcases h with h | h | h <;> simp [h]

theorem wakeEnd_waking : ((wakeEnd s c).cluster c).waking = false := by
  have h : (wakeEnd s c).cluster c = (s.modCluster c (fun x => { x with waking := false })).cluster c := rfl
  simp [h]

/-- A lowered cell reaches a core's copy of it, where it is below the copy (R165, R166). -/
theorem updateWatch_watch (core pa : Nat) (v : DWord)
    (h : s.mem.watchUpd.find? (fun e => decide (e.1 = core) && decide (e.2.1 = pa)) = some (core, pa, v)) :
    ((updateWatch s core pa).core core).watch =
      (s.core core).watch.map (fun e => if e.1 = pa ∧ v.toInt < e.2.toInt then (pa, v) else e) := by
  have hs : ∀ x : DWord, signed 64 x.toNat = x.toInt := fun x => signed_toNat x (by decide)
  simp only [updateWatch, h, modCore_core, if_true, hs]
  rfl

theorem updateWatch_cells (core pa : Nat) : (updateWatch s core pa).mem.cells = s.mem.cells := by
  unfold updateWatch
  split <;> rfl
end

/-- Settles O45: each step is its condition and the change it makes; a bank's state, a cluster's flags and a core's copies stand apart
from the bytes. -/
theorem gatingAndRetention : Obligations.GatingAndRetention := by
  intro c b core pa s x
  refine ⟨?_, ?_, ?_, ?_, ?_, ?_, ?_, ?_, ?_⟩
  · intro hg hi hw hid ht hd
    exact congrArg Host.Outcome.next (clusterGate_of_idle s c hg hi hw hid ht hd)
  · exact fun h => congrArg Host.Outcome.next (clusterGate_of_busy s c h)
  · exact fun hg ht => congrArg Host.Outcome.next (if_pos ⟨hg, ht⟩)
  · exact ⟨wakeEnd s c, rfl, wakeEnd_waking s c, rfl, rfl, rfl⟩
  · exact ⟨_, rfl, bankStep_keeps s b _ _ _⟩
  · exact ⟨_, rfl, bankStep_keeps s b _ _ _⟩
  · intro h
    rw [reachBanks_retained s b h]
    exact ⟨rfl, by rw [setBankSt_bankSt, if_pos rfl]⟩
  · exact ⟨_, rfl, bankStep_keeps s b _ _ _⟩
  · exact fun v h => ⟨_, rfl, updateWatch_cells s core pa, updateWatch_watch s core pa v h⟩

end Sys2Proof.Machine

namespace Sys2Proof.Machine

/-! ### Batches and fences (R131, R136 to R138, R150, R242, R243) -/

/-! #### Batches -/

section
variable {s : State} {n : Word}

/-- An instruction without a destination issues: its effect is the whole of the step. -/
theorem issue_of_no_writes {i : Instr} (hi : Issuing s i) (hw : ∀ n, writes n i = []) (body : State → State) :
    issue i s body = .next (body s) := by
  rw [issue_passes i s body hi.passes, settle_of_no_writes _ _ hw]

theorem coveredBy_eq_nil {fs : List FailRec} (h : ∀ r ∈ fs, (n - r.lo).msb = true) : coveredBy n fs = [] :=
  List.filter_eq_nil_iff.2 fun r hr => by simp [ahead, h r hr]

theorem mem_coveredBy {fs : List FailRec} {r : FailRec} : r ∈ coveredBy n fs ↔ r ∈ fs ∧ (n - r.lo).msb = false := by
  simp [coveredBy, ahead]

/-- The record whose LO is before that of every other is the lowest. -/
theorem lowestRec_eq {l : List FailRec} {r : FailRec} (hr : r ∈ l)
    (hl : ∀ q ∈ l, q ≠ r → (r.lo - q.lo).msb = true ∧ (q.lo - r.lo).msb = false) : lowestRec l = some r := by
  have key : ∀ (l : List FailRec) (b : Option FailRec), (∀ q ∈ l, q ≠ r → (r.lo - q.lo).msb = true ∧ (q.lo - r.lo).msb = false) →
      (∀ q, b = some q → q ≠ r → (r.lo - q.lo).msb = true) → (r ∈ l ∨ b = some r) →
      l.foldl (fun b r => match b with | none => some r | some q => if ahead r.lo q.lo then some q else some r) b = some r := by
    intro l
    induction l with
    | nil => exact fun b _ _ h => h.resolve_left List.not_mem_nil
    | cons x l ih =>
      intro b hl hb hr
      obtain ⟨hx, hl⟩ := List.forall_mem_cons.1 hl
      rw [List.foldl_cons]
      refine ih _ hl ?_ ?_
      · cases b with
        | none => rintro q ⟨⟩ hq; exact (hx hq).1
        | some b =>
          dsimp only
          split
          · rintro q ⟨⟩ hq; exact hb _ rfl hq
          · rintro q ⟨⟩ hq; exact (hx hq).1
      · obtain hr | rfl := hr
        · obtain rfl | hr := List.mem_cons.1 hr
          · right
            cases b with
            | none => rfl
            | some b =>
              dsimp only
              by_cases hbr : b = r
              · rw [hbr, ite_self]
              · rw [if_neg (by simp [ahead, hb b rfl hbr])]
          · exact .inl hr
        · right
          by_cases hxr : x = r
          · rw [hxr]; exact ite_self _
          · exact if_pos (by simp [ahead, (hx hxr).2])
  exact key l none hl (fun _ h => nomatch h) (.inl hr)

theorem consume_eq (n : Word) (fs : List FailRec) : consume n fs = fs.filterMap (fun q =>
    if (n - q.lo).msb then some q else if (n - q.hi).msb then some { q with lo := n + 1 } else none) := by
  unfold consume
  refine congrArg (List.filterMap · fs) (funext fun q => ?_)
  cases h1 : (n - q.lo).msb <;> cases h2 : (n - q.hi).msb <;> simp [ahead, h1, h2]

/-- No copy task of a closed batch up to `n` is unfinished (R137). -/
theorem waitsFor_eq_false (h : n = 0 ∨ ∀ x ∈ s.work.tasks, ∀ m, x.h = s.cur.h → x.launch = s.cur.rd.launch → x.team = s.cur.rd.team →
    x.batch = some m → (n - m).msb = true ∨ ((m - s.cur.rd.ctl.closed).msb = false ∧ m ≠ s.cur.rd.ctl.closed)) : waitsFor s n = false := by
  obtain h | h := h
  · simp [waitsFor, h]
  · refine Bool.and_eq_false_iff.2 (.inr (List.any_eq_false.2 fun x hx he => ?_))
    simp only [Bool.and_eq_true, decide_eq_true_eq] at he
    obtain ⟨⟨⟨hh, hl⟩, ht⟩, hb⟩ := he
    cases hm : x.batch with
    | none => simp [hm] at hb
    | some m =>
      simp only [hm, ahead, notAfter, Bool.and_eq_true, Bool.not_eq_true', Bool.or_eq_true, decide_eq_true_eq] at hb
      obtain h | ⟨h1, h2⟩ := h x hx m hh hl ht hm
      · rw [h] at hb; exact Bool.noConfusion hb.1
      · obtain hb | hb := hb.2
        · rw [h1] at hb; exact Bool.noConfusion hb
        · exact h2 hb

theorem waitsFor_eq_true {x : Task} (hx : x ∈ s.work.tasks) {m : Word} (hn : n ≠ 0) (hh : x.h = s.cur.h) (hl : x.launch = s.cur.rd.launch)
    (ht : x.team = s.cur.rd.team) (hb : x.batch = some m) (hm : (n - m).msb = false)
    (hc : (m - s.cur.rd.ctl.closed).msb = true ∨ m = s.cur.rd.ctl.closed) : waitsFor s n = true := by
  refine Bool.and_eq_true_iff.2 ⟨decide_eq_true hn, List.any_eq_true.2 ⟨x, hx, ?_⟩⟩
  simp [hh, hl, ht, hb, ahead, hm, notAfter, hc]
end

section
variable {a : Reg} {s : State} {n : Word}

/-- WAITB as it issues, by the batch number that it reads and the lowest record that it covers (R137, R138). -/
theorem exec_waitb (hi : Issuing s (.waitb a)) (hn : BitVec.ofNat 32 (s.os a).v = n) {o : Option FailRec}
    (ho : lowestRec (coveredBy n s.curG.ctl.fails) = o) : exec (.waitb a) s = .next (
    if (s.cur.rd.ctl.closed - n).msb = false ∧ waitsFor s n = true then stall s 0
    else o.elim (if (s.cur.rd.ctl.closed - n).msb = false then acquire s s.cur.h .dev else illegal s) (fun r =>
      deferredTrap (s.upG (fun g => { g with ctl := { g.ctl with fails := consume n g.ctl.fails } }))
        r.cause.toNat r.payload.toNat s.cur.mask r.va.toNat)) := by
  show execWaitb a s = _
  unfold execWaitb
  rw [issue_of_no_writes hi (fun _ => rfl)]
  simp only [hn, ho, ahead, Bool.and_eq_true, Bool.not_eq_true']
  cases o with
  | none => rfl
  | some r => rfl

theorem exec_waitb_of_open (hi : Issuing s (.waitb a)) (hn : BitVec.ofNat 32 (s.os a).v = n) (hc : (s.cur.rd.ctl.closed - n).msb = false)
    (hw : waitsFor s n = true) : exec (.waitb a) s = .next (stall s 0) := by
  rw [exec_waitb hi hn rfl, if_pos ⟨hc, hw⟩]

/-- WAITB that covers no record acquires, where its batches are closed. -/
theorem exec_waitb_of_none (hi : Issuing s (.waitb a)) (hn : BitVec.ofNat 32 (s.os a).v = n)
    (hw : (s.cur.rd.ctl.closed - n).msb = false → waitsFor s n = false) (hf : ∀ r ∈ s.curG.ctl.fails, (n - r.lo).msb = true) :
    exec (.waitb a) s = .next (if (s.cur.rd.ctl.closed - n).msb = false then acquire s s.cur.h .dev else illegal s) := by
  rw [exec_waitb (o := none) hi hn (by rw [coveredBy_eq_nil hf]; rfl),
    if_neg (fun h => by rw [hw h.1] at h; exact Bool.noConfusion h.2)]
  rfl

/-- WAITB fails on the record with the lowest LO of those that it covers. -/
theorem exec_waitb_of_lowest {r : FailRec} (hi : Issuing s (.waitb a)) (hn : BitVec.ofNat 32 (s.os a).v = n)
    (hw : (s.cur.rd.ctl.closed - n).msb = false → waitsFor s n = false) (hr : lowestRec (coveredBy n s.curG.ctl.fails) = some r) :
    exec (.waitb a) s = .next (deferredTrap (s.upG (fun g => { g with ctl := { g.ctl with fails := consume n g.ctl.fails } }))
      r.cause.toNat r.payload.toNat s.cur.mask r.va.toNat) := by
  rw [exec_waitb hi hn hr, if_neg (fun h => by rw [hw h.1] at h; exact Bool.noConfusion h.2)]
  rfl
end

/-! #### Fences -/

section
variable {s t u : State} {h : Nat}

theorem Tb.get?_eq_find? {α : Type} (m : List (Nat × α)) (k : Nat) : Tb.get? m k = (m.find? (fun e => decide (e.1 = k))).map (·.2) := by
  induction m with
  | nil => rfl
  | cons e m ih =>
    obtain ⟨j, v⟩ := e
    rw [Tb.get?, List.find?_cons]
    by_cases hj : j = k
    · simp [hj]
    · simp [hj, ih]

/-- The memory path keeps the rest of every group. -/
theorem OnPath.get? (k : OnPath s t) (h : Nat) :
    (Tb.get? t.work.groups h).map (fun g => { g with outst := [] }) = (Tb.get? s.work.groups h).map (fun g => { g with outst := [] }) := by
  obtain ⟨-, -, hg, -⟩ := k
  have key (gs : List (Nat × Group)) : (Tb.get? gs h).map (fun g => { g with outst := [] }) =
      ((gs.map Group.bare).find? (fun e => decide (e.1 = h))).map (·.2.1) := by
    rw [Tb.get?_eq_find?, List.find?_map, Option.map_map, Option.map_map]
    rfl
  rw [key, key, hg]

theorem Group.eq_of_bare {g g' : Group} (h : ({ g with outst := [] } : Group) = { g' with outst := [] }) : g = { g' with outst := g.outst } := by
  cases g
  cases g'
  simpa using h

theorem OnPath.grp (k : OnPath s t) (h : Nat) : t.grp h = { s.grp h with outst := (t.grp h).outst } := by
  have key (gs : List (Nat × Group)) : { (Tb.get Group.empty gs h) with outst := [] } =
      ((Tb.get? gs h).map (fun g => { g with outst := [] })).getD Group.empty := by
    unfold Tb.get
    cases Tb.get? gs h <;> rfl
  refine Group.eq_of_bare ?_
  rw [State.grp, State.grp, key, key, k.get? h]

theorem OnPath.resident (k : OnPath s t) (h : Nat) : (Tb.get? t.work.groups h).isSome = (Tb.get? s.work.groups h).isSome := by
  simpa using congrArg Option.isSome (k.get? h)

/-- A store that is on its way after a part of the path was so before it. -/
theorem OnPath.pend (k : OnPath s t) {p : Pend} (hp : p ∈ t.mem.pend) : ∃ q ∈ s.mem.pend, q.id = p.id ∧ q.h = p.h ∧ q.core = p.core := by
  obtain ⟨-, -, -, hs, -⟩ := k
  obtain ⟨q, hq, e⟩ := List.mem_map.1 (hs.subset (List.mem_map_of_mem hp))
  exact ⟨q, hq, congrArg Prod.fst e, congrArg (·.2.1) e, congrArg (·.2.2) e⟩
theorem OnPath.gone (k : OnPath s t) {n : Nat} (hn : ∀ p ∈ s.mem.pend, p.id ≠ n) : ∀ p ∈ t.mem.pend, p.id ≠ n := fun _ hp => by
  obtain ⟨q, hq, hid, -⟩ := k.pend hp
  exact hid ▸ hn q hq

/-- A store that has gone home is on its way no longer, whatever the path does then. -/
theorem foldl_gone {α : Type} {f : State → α → State} (hf : ∀ s x, OnPath s (f s x)) {l : List α} {x : α} (hx : x ∈ l) {n : Nat}
    (hn : ∀ s, ∀ p ∈ (f s x).mem.pend, p.id ≠ n) (s : State) : ∀ p ∈ (l.foldl f s).mem.pend, p.id ≠ n := by
  obtain ⟨a, b, rfl⟩ := List.append_of_mem hx
  rw [List.foldl_append, List.foldl_cons]
  exact (foldl_keeps (P := OnPath _) (fun _ y k => k.trans (hf _ y)) b (OnPath.refl _)).gone (hn _)

theorem applyPend_gone (s : State) (n : Nat) : ∀ p ∈ (applyPend s n).mem.pend, p.id ≠ n := by
  have hf (r : State) (m : MemSt) (hm : m.pend = s.mem.pend.filter (fun p => decide (p.id ≠ n))) :
      ∀ p ∈ ({ r with mem := m } : State).mem.pend, p.id ≠ n := fun p hp => by
    rw [show ({ r with mem := m } : State).mem.pend = _ from hm] at hp
    simpa using (List.mem_filter.1 hp).2
  unfold applyPend
  split
  · next hp => exact fun p hm e => by simpa [e] using List.find?_eq_none.1 hp p hm
  · dsimp only
    split
    · exact (tellPend_onPath _ _ (.refl _)).gone (hf _ _ (foldl_pend applySector_pend _))
    · split
      · exact (tellPend_onPath _ _ (.refl _)).gone (hf _ _ rfl)
      · exact hf _ _ (foldl_pend (fun m x => xa128Add_pend m _ _ _) _)

theorem storeHome_gone (s : State) (n : Nat) : ∀ p ∈ (storeHome s n).mem.pend, p.id ≠ n := by
  unfold storeHome
  split
  · next hp => exact fun p hm e => by simpa [e] using List.find?_eq_none.1 hp p hm
  · exact applyPend_gone _ _

theorem drainCore_gone (s : State) (core : Nat) : ∀ p ∈ (drainCore s core).mem.pend, p.core ≠ core := by
  intro p hm hc
  obtain ⟨q, hq, hid, -, hqc⟩ := (drainCore_onPath core (OnPath.refl s)).pend hm
  have hin : p.id ∈ (s.mem.pend.filter (fun p => decide (p.core = core))).map (·.id) :=
    List.mem_map.2 ⟨q, List.mem_filter.2 ⟨hq, decide_eq_true (hqc.trans hc)⟩, hid⟩
  exact foldl_gone (f := storeHome) (fun _ _ => storeHome_onPath _ (.refl _)) hin (fun _ => storeHome_gone _ _) s p hm rfl

/-- What puts leave at a key, where every put at it is of one kind. -/
theorem Tb.get?_foldl_put {α : Type} {Q : α → Prop} {k : Nat} (l : List (Nat × α)) (t : List (Nat × α)) (hl : ∀ e ∈ l, e.1 = k → Q e.2)
    (h : (∃ e ∈ l, e.1 = k) ∨ ∃ v, Tb.get? t k = some v ∧ Q v) :
    ∃ v, Tb.get? (l.foldl (fun t e => Tb.put t e.1 e.2) t) k = some v ∧ Q v := by
  induction l generalizing t with
  | nil => exact h.resolve_left (by simp)
  | cons e l ih =>
    obtain ⟨he, hl⟩ := List.forall_mem_cons.1 hl
    refine ih _ hl ?_
    rw [Tb.get?_put]
    by_cases hk : k = e.1
    · exact .inr ⟨e.2, if_pos hk, he hk.symm⟩
    · rw [if_neg hk]
      refine h.imp_left ?_
      rintro ⟨x, hx, rfl⟩
      exact ⟨x, (List.mem_cons.1 hx).resolve_left (fun e => hk (congrArg Prod.fst e)), rfl⟩

theorem State.Numbered.outst_ne_pend (hn : s.Numbered) {e : Entry} (he : e ∈ (s.grp h).outst) {p : Pend} (hp : p ∈ s.mem.pend) :
    e.id ≠ p.id := by
  obtain ⟨g, hg, hm⟩ : ∃ g, (h, g) ∈ s.work.groups ∧ e ∈ g.outst := by
    rw [State.grp, Tb.get] at he
    cases hr : Tb.get? s.work.groups h with
    | none => rw [hr] at he; exact absurd he List.not_mem_nil
    | some g => rw [hr] at he; exact ⟨g, Tb.mem_of_get? hr, he⟩
  exact (List.nodup_append.1 hn.1).2.2 _ (List.mem_flatMap.2 ⟨_, hg, List.mem_map_of_mem hm⟩) _ (List.mem_map_of_mem hp)

/-- The operations that a drain of a group performs, by order number: those of its memory path, and those performed after issue. -/
def drainOps (s : State) (h : Nat) : List (Nat × Bool × List Nat) :=
  (((s.grp h).outst.filter (fun e => isLate e.instr)).map (fun e => (e.id, (true, [])))).foldl (fun t o => Tb.put t o.1 o.2) (groupOps s h)
theorem drainGroup_eq (s : State) (h : Nat) :
    drainGroup s h = (drainOps s h).foldl (fun s o => if o.2.1 then perform s h o.1 else applyPend s o.1) s := rfl

/-- A store of the group is one of its operations, by its own number. -/
theorem mem_drainOps_of_pend (hn : s.Numbered) {p : Pend} (hp : p ∈ s.mem.pend) : ∃ ks, (p.id, (false, ks)) ∈ drainOps s p.h := by
  have hid : ∀ e ∈ (s.grp p.h).outst, e.id ≠ p.id := fun e he => hn.outst_ne_pend he hp
  have hps : ∃ v : Bool × List Nat, Tb.get? (groupOps s p.h) p.id = some v ∧ v.1 = false := by
    refine Tb.get?_foldl_put (Q := fun v : Bool × List Nat => v.1 = false) _ _ (fun e he hk => ?_) (.inl ⟨(p.id, (false, p.sectors)), ?_, rfl⟩)
    · obtain he | he := List.mem_append.1 he
      · obtain ⟨x, hx, hxe⟩ := List.mem_filterMap.1 he
        split at hxe
        · cases hxe
        · cases hxe; exact absurd hk (hid x hx)
      · obtain ⟨q, -, rfl⟩ := List.mem_map.1 he; rfl
    · exact List.mem_append_right _ (List.mem_map.2 ⟨p, List.mem_filter.2 ⟨hp, decide_eq_true rfl⟩, rfl⟩)
  have hall : ∃ v : Bool × List Nat, Tb.get? (drainOps s p.h) p.id = some v ∧ v.1 = false := by
    refine Tb.get?_foldl_put (Q := fun v : Bool × List Nat => v.1 = false) _ _ (fun e he hk => ?_) (.inr hps)
    obtain ⟨x, hx, rfl⟩ := List.mem_map.1 he
    exact absurd hk (hid x (List.mem_filter.1 hx).1)
  obtain ⟨⟨b, ks⟩, hg, rfl⟩ := hall
  exact ⟨ks, Tb.mem_of_get? hg⟩

theorem drainGroup_gone (hn : s.Numbered) (h : Nat) : ∀ p ∈ (drainGroup s h).mem.pend, p.h ≠ h := by
  intro p hm hh
  obtain ⟨q, hq, hid, hqh, -⟩ := (drainGroup_onPath h (OnPath.refl s)).pend hm
  obtain ⟨ks, hk⟩ := mem_drainOps_of_pend hn hq
  rw [hqh.trans hh] at hk
  rw [drainGroup_eq] at hm
  refine foldl_gone (fun r o => ?_) hk (fun r => ?_) s p hm hid.symm
  · split
    exacts [perform_onPath _ _ (.refl _), applyPend_onPath _ (.refl _)]
  · exact applyPend_gone r q.id

theorem Group.publish_pubs (g : Group) (sc : Scope) {u : Nat} (hu : u ≤ scopeRank sc) (h4 : u < 4) :
    (g.publish sc).ctl.pubs[u]? = some (g.ctl.interval + 1) := by
  simp [Group.publish, h4, hu]

theorem acquire_l1 (s : State) (h : Nat) {sc : Scope} (hsc : sc ≠ .team) : ((acquire s h sc).core (s.grp h).core).l1 = [] := by
  unfold acquire
  dsimp only
  rw [if_neg (fun e => hsc e.1), modCore_core, if_pos rfl]

/-- A release: no store of the group or of its core is on its way, and the group publishes (R131, R146, R150). -/
theorem release_pend (hn : s.Numbered) (h : Nat) (sc : Scope) : ∀ p ∈ (release s h sc).mem.pend, p.h ≠ h ∧ p.core ≠ (s.grp h).core := by
  intro p hp
  obtain ⟨q, hq, -, hqh, -⟩ := (drainCore_onPath (s.grp h).core (OnPath.refl (drainGroup s h))).pend hp
  exact ⟨hqh ▸ drainGroup_gone hn h q hq, drainCore_gone _ _ p hp⟩

theorem release_grp (hr : (Tb.get? s.work.groups h).isSome = true) (sc : Scope) :
    ∃ o, (release s h sc).grp h = ({ s.grp h with outst := o } : Group).publish sc := by
  have k : OnPath s (drainCore (drainGroup s h) (s.grp h).core) := drainCore_onPath _ (drainGroup_onPath _ (.refl s))
  unfold release
  generalize drainCore (drainGroup s h) (s.grp h).core = r at k
  rw [modG_grp_same, if_pos ((k.resident h).trans hr)]
  exact ⟨(r.grp h).outst, congrArg (Group.publish · sc) (k.grp h)⟩
end

/-- Settles O32: a word without a destination is its effect; the stores of the group and of its core have gone home, each at its own
step of a drain, and the memory path keeps the rest of the group. -/
theorem batchesAndFences : Obligations.BatchesAndFences := by
  refine ⟨?_, ?_⟩
  · intro a s n closed
    refine ⟨fun hi => issue_of_no_writes hi (fun _ => rfl) (fun s => _), ?_⟩
    intro fails nothingOpen
    refine ⟨?_, ?_, ?_, ?_, fun hi => issue_of_no_writes hi (fun _ => rfl) (fun s => _)⟩
    · intro hi hf hc ho
      exact (exec_waitb_of_none hi rfl (fun _ => waitsFor_eq_false ho) hf).trans (congrArg Host.Outcome.next (if_pos hc))
    · intro r hr hi hn ho hl
      refine (exec_waitb_of_lowest (r := r) hi rfl (fun hc => waitsFor_eq_false (ho hc)) ?_).trans (by simp only [consume_eq]; rfl)
      exact lowestRec_eq (mem_coveredBy.2 ⟨hr, hn⟩) (fun q hq => hl q (mem_coveredBy.1 hq).1 (mem_coveredBy.1 hq).2)
    · intro hi hf hc
      have hcl : ¬ (s.cur.rd.ctl.closed - n).msb = false := by simp [show (s.cur.rd.ctl.closed - n).msb = true from hc]
      exact (exec_waitb_of_none hi rfl (fun h => absurd h hcl) hf).trans (congrArg Host.Outcome.next (if_neg hcl))
    · intro x hx m hi hn hc hh hl ht hb hm hmc
      exact exec_waitb_of_open hi rfl hc (waitsFor_eq_true hx hn hh hl ht hb hm hmc)
  · intro sc s hi hn
    refine ⟨_, issue_of_no_writes hi (fun _ => rfl) (fun s => acquire (release s s.cur.h sc) s.cur.h sc), ?_⟩
    obtain ⟨o, hg⟩ := release_grp hi.resident sc
    have hp := release_pend hn s.cur.h sc
    have hcur : (release s s.cur.h sc).cur = s.cur := (drainCore_onPath _ (drainGroup_onPath _ (.refl s))).1
    generalize release s s.cur.h sc = r at *
    obtain ⟨c, hc⟩ := acquire_eq r s.cur.h sc
    have hq : (acquire r s.cur.h sc).mem = r.mem := by rw [hc]
    have hG : (acquire r s.cur.h sc).curG = ({ s.curG with outst := o } : Group).publish sc := by
      rw [State.curG, acquire_cur, hcur, acquire_grp, hg]
      rfl
    rw [hq, hG]
    refine ⟨hp, rfl, fun u hu h4 => Group.publish_pubs _ sc hu h4, fun hsc => ?_⟩
    have hl := acquire_l1 r s.cur.h hsc
    rwa [hg] at hl

end Sys2Proof.Machine

namespace Sys2Proof.Machine

/-! ### Bound cells (R165, R166, R241) -/

section
variable {s t u : State}

/-! #### The cell of an instruction -/

/-- The kinds of memory that hold bound cells (R241). -/
def holdsCells (pa : Nat) : Prop := (∃ d, pmem pa = .hbm d) ∨ pmem pa = .tarn ∨ pmem pa = .lpddr

theorem holdsCells_lt {pa : Nat} (h : holdsCells pa) : pa < 2 ^ 64 := by
  unfold holdsCells pmem at h
  by_contra hp
  grind

/-- Without debug addresses, the cell is where the translation puts it. -/
theorem cellAt_eq {va pa : Nat} {k : AccKind} {attr : BitVec 16} (hd : (s.core s.cur.rd.core).dbg = []) (hva : va < 2 ^ 57) (ha : va % 8 = 0)
    (ht : translate s (issueCtx s) va k = (t, .ok pa attr)) (hm : holdsCells pa) (hh : pteHome attr.toNat ≠ 3) :
    cellAt s va k = .inr (t, pa) := by
  have hacc : laneAccess s (issueCtx s) none k 8 va = (t, .ok ⟨pa, va, attr, none⟩) := by
    rw [laneAccess, if_neg (Nat.not_le.2 hva), if_neg (fun h => h ha), ht]
  unfold cellAt
  rw [dataMatch_of_no_dbg hd, if_neg (fun h => h rfl), hacc]
  obtain ⟨d, h⟩ | h | h := hm
  all_goals simp only [h, hh, ne_eq, not_false_eq_true, decide_true, Bool.and_self, if_true]

/-! #### The minimum -/

/-- The signed value of a cell. -/
def cellInt (m : MemSt) (pa : Nat) : Int := (BitVec.ofNat 64 (m.num pa 8)).toInt

theorem signed_num (m : MemSt) (pa : Nat) : signed 64 (m.num pa 8) = cellInt m pa := by
  rw [cellInt, ← signed_toNat _ (by decide), BitVec.toNat_ofNat, Nat.mod_eq_of_lt (show m.num pa 8 < 2 ^ 64 from num_lt m pa 8)]

/-- What BNDMIN does to the cell, the other bytes and the values on their way to copies, where a lane of `P` has each value it takes. -/
structure Lowers (s t : State) (core pa : Nat) (dev : Bool) (P : Int → Prop) : Prop where
  bytes : SameBytes s t [(pa, 8)]
  le : cellInt t.mem pa ≤ cellInt s.mem pa
  value : cellInt t.mem pa = cellInt s.mem pa ∨ P (cellInt t.mem pa)
  scope : ∀ x ∈ t.mem.watchUpd, x ∈ s.mem.watchUpd ∨ x.2.1 = pa ∧ (dev = true ∨ x.1 / 8 = core / 8)

/-- A lower value takes the cell, and is on its way to copies in the scope. -/
theorem applyMin_of_lt {pa : Nat} {x : DWord} (h : x.toInt < cellInt s.mem pa) (core : Nat) (dev : Bool) :
    ∃ ws, (applyMin s core pa dev x.toNat).mem = { s.mem.setNum pa 8 x.toNat with watchUpd := s.mem.watchUpd ++ ws } ∧
      ∀ w ∈ ws, w.2.1 = pa ∧ (dev = true ∨ w.1 / 8 = core / 8) := by
  have hs : signed 64 x.toNat < signed 64 (s.num pa 8) := by
    rwa [signed_toNat x (by decide), show signed 64 (s.num pa 8) = _ from signed_num s.mem pa]
  unfold applyMin
  dsimp only
  rw [if_pos hs]
  obtain ⟨bk, e⟩ := touch_eq s (banksAt core false pa ++ engineBanks pa)
  rw [e]
  have hw : (s.mem.setNum pa 8 x.toNat).watchUpd = s.mem.watchUpd := by rw [MemSt.setNum, setBytes_eq]
  refine ⟨_, congrArg (fun w => ({ s.mem.setNum pa 8 x.toNat with watchUpd := w ++ List.map _ _ } : MemSt)) hw, fun w hx => ?_⟩
  obtain ⟨c, hc, rfl⟩ := List.mem_map.1 hx
  refine ⟨rfl, ?_⟩
  cases dev with
  | true => exact .inl rfl
  | false =>
    obtain ⟨i, hi, rfl⟩ := List.mem_map.1 (List.mem_filter.1 hc).1
    have := List.mem_range.1 hi
    exact .inr (by dsimp only; omega)

theorem applyMin_of_le {pa : Nat} {x : DWord} (h : cellInt s.mem pa ≤ x.toInt) (core : Nat) (dev : Bool) :
    (applyMin s core pa dev x.toNat).mem = s.mem := by
  have hs : ¬ signed 64 x.toNat < signed 64 (s.num pa 8) := by
    rw [signed_toNat x (by decide), show signed 64 (s.num pa 8) = _ from signed_num s.mem pa]
    exact not_lt.2 h
  unfold applyMin
  dsimp only
  rw [if_neg hs, touch_mem]

theorem applyMin_lowers (s : State) (core pa : Nat) (dev : Bool) (x : DWord) :
    Lowers s (applyMin s core pa dev x.toNat) core pa dev (· = x.toInt) ∧ cellInt (applyMin s core pa dev x.toNat).mem pa ≤ x.toInt := by
  by_cases h : x.toInt < cellInt s.mem pa
  · obtain ⟨ws, hm, hw⟩ := applyMin_of_lt h core dev
    have hc : cellInt (applyMin s core pa dev x.toNat).mem pa = x.toInt := by
      rw [hm]
      have hn : (s.mem.setNum pa 8 x.toNat).num pa 8 = x.toNat := by
        rw [num_setNum_same, Nat.mod_eq_of_lt (show x.toNat < 256 ^ 8 from x.isLt)]
      show (BitVec.ofNat 64 ((s.mem.setNum pa 8 x.toNat).num pa 8)).toInt = x.toInt
      rw [hn, BitVec.ofNat_toNat, BitVec.setWidth_eq]
    refine ⟨⟨fun a ha => ?_, hc.le.trans h.le, .inr hc, fun w hx => ?_⟩, hc.le⟩
    · rw [hm]
      exact setNum_sameBytes s pa 8 x.toNat a ha
    · rw [hm] at hx
      exact (List.mem_append.1 hx).imp_right (hw w)
  · have hm := applyMin_of_le (not_lt.1 h) core dev
    refine ⟨⟨fun a _ => ?_, ?_, .inl ?_, fun w hw => .inl ?_⟩, ?_⟩
    · rw [hm]
    · rw [hm]
    · rw [hm]
    · rwa [hm] at hw
    · rw [hm]
      exact not_lt.1 h

theorem Lowers.trans {core pa : Nat} {dev : Bool} {P : Int → Prop} (h : Lowers s t core pa dev P) (k : Lowers t u core pa dev P) :
    Lowers s u core pa dev P where
  bytes := fun a ha => (k.bytes a ha).trans (h.bytes a ha)
  le := k.le.trans h.le
  value := by
    obtain hk | hk := k.value
    · rw [hk]; exact h.value
    · exact .inr hk
  scope := fun x hx => (k.scope x hx).elim (h.scope x) .inr

theorem Lowers.mono {core pa : Nat} {dev : Bool} {P Q : Int → Prop} (h : Lowers s t core pa dev P) (hpq : ∀ v, P v → Q v) :
    Lowers s t core pa dev Q :=
  ⟨h.bytes, h.le, h.value.imp_right (hpq _), h.scope⟩

theorem foldl_applyMin_lowers (core pa : Nat) (dev : Bool) (f : Nat → DWord) (ls : List Nat) (s : State) :
    Lowers s (ls.foldl (fun u l => applyMin u core pa dev (f l).toNat) s) core pa dev (fun v => ∃ l ∈ ls, v = (f l).toInt) ∧
      ∀ l ∈ ls, cellInt (ls.foldl (fun u l => applyMin u core pa dev (f l).toNat) s).mem pa ≤ (f l).toInt := by
  induction ls generalizing s with
  | nil => exact ⟨⟨fun _ _ => rfl, le_rfl, .inl rfl, fun _ h => .inl h⟩, fun _ h => absurd h List.not_mem_nil⟩
  | cons l ls ih =>
    obtain ⟨h, hle⟩ := applyMin_lowers s core pa dev (f l)
    obtain ⟨k, kle⟩ := ih (applyMin s core pa dev (f l).toNat)
    rw [List.foldl_cons]
    refine ⟨(h.mono fun v hv => ⟨l, List.mem_cons_self, hv⟩).trans (k.mono fun v ⟨j, hj, hv⟩ => ⟨j, List.mem_cons_of_mem _ hj, hv⟩), ?_⟩
    intro j hj
    obtain rfl | hj := List.mem_cons.1 hj
    · exact k.le.trans hle
    · exact kle j hj
/-- The value that a lane's pair holds. -/
def pairValue (s : State) (b : Reg) (l : Nat) : DWord := (s.rvN (b.toNat + 1) l).data ++ (s.rvN b.toNat l).data

theorem opair_v (s : State) (b : Reg) (l : Nat) : (s.opair b l).v = (pairValue s b l).toNat := by
  rw [State.opair, ofVs_pair, pairValue, BitVec.toNat_append,
    ← Nat.shiftLeft_add_eq_or_of_lt (s.rvN b.toNat l).data.isLt, Nat.shiftLeft_eq, Nat.mul_comm, Nat.add_comm]

/-- BNDMIN is the fold of its lanes' values over the cell, where no earlier access to it is outstanding. -/
theorem minBody_eq {a b : Reg} {dev : Bool} {pa : Nat} (hl : pairLoss s b = []) (hc : cellAt s (s.os a).v .rw = .inr (t, pa))
    (he : t.mem.err pa = none) (ho : ∀ o ∈ groupOps t t.cur.h, o.1 < t.ids → sectorOf pa ∉ o.2.2) :
    minBody a b dev s = dropL1 ((lanesOf s.cur.mask).foldl (fun u l => applyMin u s.cur.rd.core pa dev (pairValue s b l).toNat) t)
      s.cur.rd.core [sectorOf pa] := by
  unfold minBody
  rw [hl]
  dsimp only
  rw [hc]
  dsimp only
  rw [forceBefore_of_disjoint (fun o hm hlt k hk => by rw [List.mem_singleton]; rintro rfl; exact ho o hm hlt hk),
    reportErrors_none (by simpa using he)]
  simp only [opair_v]

theorem exec_bndmin (a b : Reg) (dev : Bool) (s : State) (hi : Issuing s (if dev then .bndminDev a b else .bndminCl a b)) :
    exec (if dev then .bndminDev a b else .bndminCl a b) s = .next (minBody a b dev s) := by
  cases dev with
  | false => exact issue_of_no_writes hi (fun _ => rfl) _
  | true => exact issue_of_no_writes hi (fun _ => rfl) _

/-! #### Copies -/

/-- The copies that a core keeps beside the one that it reads: all, or all but the one read longest ago where 16 stand. -/
def keptCopies (ws : List (Nat × DWord)) (pa : Nat) : List (Nat × DWord) :=
  let rest := ws.filter (fun e => decide (e.1 ≠ pa))
  if 16 ≤ rest.length then rest.drop 1 else rest

theorem keptCopies_length {ws : List (Nat × DWord)} (h : ws.length ≤ 16) (pa : Nat) : (keptCopies ws pa).length ≤ 15 := by
  have hf := (List.length_filter_le (fun e : Nat × DWord => decide (e.1 ≠ pa)) ws).trans h
  unfold keptCopies
  dsimp only
  split
  · rw [List.length_drop]; omega
  · omega

theorem readWatch_watch (s : State) (core pa : Nat) :
    ((readWatch s core pa).1.core core).watch = keptCopies (s.core core).watch pa ++ [(pa, (readWatch s core pa).2)] := by
  have hc : (readWatch s core pa).1.cores = (s.modCore core (fun c =>
      { c with watch := keptCopies (s.core core).watch pa ++ [(pa, (readWatch s core pa).2)] })).cores := touch_cores ..
  have hw := modCore_core s core (fun c => { c with watch := keptCopies (s.core core).watch pa ++ [(pa, (readWatch s core pa).2)] }) core
  rw [if_pos rfl] at hw
  rw [State.core, hc, ← State.core, hw]

/-- BNDRD leaves the cell that it found outstanding. -/
def cellEntry (s t : State) (d a : Reg) (pa : Nat) : Entry :=
  newEntry t (.bndrd d a) s.cur.mask (BitVec.ofNat 64 (s.os a).v) [(512, VCell.exact pa), (513, VCell.exact (pa / 2 ^ 32))] []

theorem bndrd_eq (d a : Reg) (s : State) : exec (.bndrd d a) s = issue (.bndrd d a) s (fun s =>
    match cellAt s (s.os a).v .read with
    | .inl t => t
    | .inr (t, pa) => addEntry t t.cur.h (cellEntry s t d a pa)) := rfl

theorem cellEntry_cellPa (s t : State) (d a : Reg) {pa : Nat} (h : pa < 2 ^ 64) : (cellEntry s t d a pa).cellPa = pa := by
  show (BitVec.ofNat 32 pa).toNat + 2 ^ 32 * (BitVec.ofNat 32 (pa / 2 ^ 32)).toNat = pa
  simp only [BitVec.toNat_ofNat]
  omega
end

/-- Settles O31: the minimum is taken lane by lane, and each lowers the cell or leaves it; a read installs one copy, and drops one
where 16 stand. -/
theorem boundCells : Obligations.BoundCells := by
  refine ⟨?_, ?_, ?_⟩
  · intro a b dev s t pa attr i va hi hd hl hva ha _ ht hm hh he ho value cell
    have hcell := cellAt_eq hd hva ha ht hm hh
    have hcur : t.cur = s.cur := by
      have := (keepsGroups_translate s (issueCtx s) va .rw).cur
      rwa [ht] at this
    have hb := minBody_eq (dev := dev) hl hcell he (by rwa [hcur])
    obtain ⟨k, hle⟩ := foldl_applyMin_lowers s.cur.rd.core pa dev (pairValue s b) (lanesOf s.cur.mask) t
    refine ⟨_, exec_bndmin a b dev s hi, ?_⟩
    rw [hb]
    refine ⟨k.bytes, fun l hl => hle l ((mem_lanesOf ..).2 hl), k.le, k.value.imp_right ?_, k.scope⟩
    rintro ⟨l, hl, e⟩
    exact ⟨l, (mem_lanesOf ..).1 hl, e⟩
  · intro d a s t pa attr hi hd hva ha ht hm hh
    have hcell := cellAt_eq hd hva ha ht hm hh
    have hk : KeepsGroups s t := by
      have := keepsGroups_translate s (issueCtx s) (s.os a).v .read
      rwa [ht] at this
    obtain ⟨o, hx, hout⟩ := exec_of_addEntry (e := cellEntry s t d a pa) (bndrd_eq d a s) hi hk (by rw [hcell]) rfl
    refine ⟨_, cellEntry s t d a pa, hx, rfl, ?_, rfl, ?_, rfl, cellEntry_cellPa s t d a (holdsCells_lt hm)⟩
    · rw [← hout]
      have hr : (Tb.get? t.work.groups t.cur.h).isSome = true := by rw [hk.groups, hk.cur]; exact hi.resident
      exact congrArg (fun g : Group => g.outst.map Entry.plain) (upG_curG t (fun _ => { s.curG with outst := o }) hr)
    · rfl
  · intro s core pa r
    refine ⟨readWatch_mem .., ?_, ?_, ?_, ?_⟩
    · intro v h
      simp only [r, readWatch, h]
    · intro h
      simp only [r, readWatch, h]
    · rw [readWatch_watch]
      exact List.mem_append_right _ (List.mem_singleton.2 rfl)
    · intro h
      rw [readWatch_watch, List.length_append, List.length_singleton]
      exact Nat.succ_le_succ (keptCopies_length h pa)

end Sys2Proof.Machine

namespace Sys2Proof.Machine

/-! ### Item deques (R161 to R164, R240) -/

section
variable {s t u : State} {h k c : Nat}

/-! #### Deques -/

theorem dequeOf_congr (e : t.work.deques = s.work.deques) (k c : Nat) : dequeOf t k c = dequeOf s k c := by
  rw [dequeOf, e, dequeOf]
theorem sramUsed_congr (e : t.work.deques = s.work.deques) (c : Nat) : sramUsed t c = sramUsed s c := by
  rw [sramUsed, e, sramUsed]

/-- Deque (k, c), among the deques of a state. -/
def isDeque (k c : Nat) (d : Deque) : Bool := decide (d.launch = k) && decide (d.core = c)

theorem isDeque_self (k c : Nat) (items : List (DWord × DqPlace)) : isDeque k c ⟨k, c, items⟩ = true := by simp [isDeque]
theorem dequeOf_eq (s : State) (k c : Nat) : dequeOf s k c = ((s.work.deques.find? (isDeque k c)).map Deque.items).getD [] := by
  unfold dequeOf
  rw [show (fun d : Deque => decide (d.launch = k) && decide (d.core = c)) = isDeque k c from rfl]
  cases s.work.deques.find? (isDeque k c) <;> rfl

/-- The deques of a state after deque (k, c) has changed. -/
theorem setDeque_deques (s : State) (k c : Nat) (items : List (DWord × DqPlace)) :
    (setDeque s k c items).work.deques =
      s.work.deques.filter (fun d => !isDeque k c d) ++ (if items = [] then [] else [⟨k, c, items⟩]) := by
  show (if items = [] then _ else _) = _
  split
  · exact (List.append_nil _).symm
  · rfl

theorem dequeOf_setDeque_same (s : State) (k c : Nat) (items : List (DWord × DqPlace)) : dequeOf (setDeque s k c items) k c = items := by
  have hrest : (s.work.deques.filter (fun d => !isDeque k c d)).find? (isDeque k c) = none :=
    List.find?_eq_none.2 fun d hd => by simpa using (List.mem_filter.1 hd).2
  rw [dequeOf_eq, setDeque_deques, List.find?_append, hrest, Option.none_or]
  split
  next hi => exact hi.symm
  next => rw [List.find?_cons, isDeque_self]; rfl

theorem dequeOf_setDeque_other (s : State) (items : List (DWord × DqPlace)) {j d : Nat} (hj : j ≠ k ∨ d ≠ c) :
    dequeOf (setDeque s k c items) j d = dequeOf s j d := by
  have hne : ∀ x, isDeque j d x = true → isDeque k c x = false := by
    intro x hx
    simp only [isDeque, Bool.and_eq_true, decide_eq_true_eq] at hx
    obtain ⟨rfl, rfl⟩ := hx
    simpa [isDeque, imp_iff_not_or] using hj
  have hnew : (if items = [] then [] else [(⟨k, c, items⟩ : Deque)]).find? (isDeque j d) = none := by
    refine List.find?_eq_none.2 fun x hx hd => ?_
    split at hx
    · exact absurd hx List.not_mem_nil
    · rw [List.mem_singleton.1 hx] at hd
      exact Bool.noConfusion ((isDeque_self k c items).symm.trans (hne _ hd))
  have hrest : (s.work.deques.filter (fun d => !isDeque k c d)).find? (isDeque j d) = s.work.deques.find? (isDeque j d) := by
    rw [List.find?_filter]
    refine congrArg (fun f => List.find? f s.work.deques) (funext fun x => ?_)
    cases hx : isDeque j d x with
    | false => rw [decide_eq_false (fun h => Bool.noConfusion h.2)]
    | true => simp [hne x hx]
  rw [dequeOf_eq, setDeque_deques, List.find?_append, hrest, hnew, Option.or_none, dequeOf_eq]

/-- A sum without the entries of a kind, and the first of them. -/
theorem sum_filter_not_add_find?_le {α : Type} (p : α → Bool) (f : α → Nat) (l : List α) :
    ((l.filter (fun x => !p x)).map f).sum + ((l.find? p).map f).getD 0 ≤ (l.map f).sum := by
  induction l with
  | nil => exact le_rfl
  | cons x l ih =>
    cases hp : p x with
    | false =>
      simp only [List.filter_cons, hp, Bool.not_false, if_true, List.map_cons, List.sum_cons, List.find?_cons]
      omega
    | true =>
      simp only [List.filter_cons, hp, Bool.not_true, Bool.false_eq_true, if_false, List.map_cons, List.sum_cons, List.find?_cons,
        Option.map_some, Option.getD_some]
      omega

theorem sramCount_push (c : Nat) (l : List (DWord × DqPlace)) (x : DWord) : sramCount c (l ++ [(x, .sram c)]) = sramCount c l + 1 := by
  simp [sramCount]

/-- An item put into a core's SRAM takes one entry of it. -/
theorem sramUsed_push (s : State) (k c : Nat) (x : DWord) :
    sramUsed (setDeque s k c (dequeOf s k c ++ [(x, .sram c)])) c ≤ sramUsed s c + 1 := by
  have hsum := sum_filter_not_add_find?_le (isDeque k c) (fun d => sramCount c d.items) s.work.deques
  have hold : sramCount c (dequeOf s k c) = ((s.work.deques.find? (isDeque k c)).map (fun d => sramCount c d.items)).getD 0 := by
    rw [dequeOf_eq]
    cases s.work.deques.find? (isDeque k c) <;> rfl
  rw [sramUsed, setDeque_deques, if_neg (by simp), List.map_append, List.sum_append, List.map_singleton, List.sum_singleton, sramCount_push,
    hold, sramUsed]
  omega

/-! #### One push (R161, R164) -/

/-- A push with room in the deque and in the core's SRAM. -/
theorem pushItem_of_room (x : DWord) (hl : (dequeOf s k c).length < 2 ^ 20) (hs : sramUsed s c < 4096) :
    pushItem s k c x = (setDeque (touch s [dequeBank c]) k c (dequeOf s k c ++ [(x, .sram c)]), true) := by
  have hd : (touch s [dequeBank c]).work.deques = s.work.deques := by rw [touch_work]
  unfold pushItem placeItem
  dsimp only
  rw [dequeOf_congr hd, sramUsed_congr hd, if_neg (Nat.not_le.2 hl), if_pos hs]
  dsimp only
  rw [dequeOf_congr hd]

/-- Where no launch has an overflow area, no entry of a core's SRAM moves. -/
theorem victimOf_eq_none (hz : ∀ l ∈ s.work.launches, l.rc.dqSize = 0) (core func : Nat) (ex : List Nat) : victimOf s core func ex = none := by
  unfold victimOf
  refine List.foldlRecOn s.work.deques _ (motive := (· = none)) rfl fun best hb d _ => ?_
  subst hb
  split
  · rfl
  next l hl => rw [if_pos (.inr (.inr (.inr (hz l (List.mem_of_find?_eq_some hl)))))]

theorem evict_of_no_area (hz : ∀ l ∈ s.work.launches, l.rc.dqSize = 0) (n core pusher : Nat) (ex : List Nat) :
    evict (n + 1) s core pusher ex = (s, false) := by
  unfold evict
  simp only [victimOf_eq_none hz, Option.isSome_none, Bool.and_false, List.filter_false, List.foldl_nil]

/-- A push that finds the deque full, or the core's SRAM full and no place to move an entry to. -/
theorem pushItem_of_full (x : DWord)
    (hf : 2 ^ 20 ≤ (dequeOf s k c).length ∨ (4096 ≤ sramUsed s c ∧ ∀ l ∈ s.work.launches, l.rc.dqSize = 0)) :
    pushItem s k c x = (touch s [dequeBank c], false) := by
  have hw : (touch s [dequeBank c]).work = s.work := touch_work ..
  have hd : (touch s [dequeBank c]).work.deques = s.work.deques := by rw [hw]
  unfold pushItem
  dsimp only
  rw [dequeOf_congr hd]
  split
  · rfl
  next hl =>
    obtain ⟨hs, hz⟩ := hf.resolve_left hl
    unfold placeItem
    rw [sramUsed_congr hd, if_neg (Nat.not_lt.2 hs), evict_of_no_area (by rwa [hw])]

/-! #### The pushes of an issue -/

/-- The group after pushes of some lanes, which all succeed or all fail. -/
def pushedGroup (g : Group) (p : BitVec 3) (ok : Bool) (ls : List Nat) : Group := g.setPs p.toNat (ls.map (fun l => (l, mkPred ok false)))

/-- `t` is `s` after pushes of lanes `ls`: only deque (k, c) and the predicate of the issuing group have changed. -/
structure Pushed (s t : State) (p : BitVec 3) (ok : Bool) (ls : List Nat) : Prop where
  mem : t.mem = s.mem
  cur : t.cur = s.cur
  groups : t.work.groups = Tb.modify s.work.groups s.cur.h (fun g => pushedGroup g p ok ls)

theorem Pushed.refl (s : State) (p : BitVec 3) (ok : Bool) : Pushed s s p ok [] :=
  ⟨rfl, rfl, (Tb.modify_id _ _ _ fun _ _ => rfl).symm⟩
theorem Pushed.trans {p : BitVec 3} {ok : Bool} {ls ls' : List Nat} (hst : Pushed s t p ok ls) (htu : Pushed t u p ok ls') :
    Pushed s u p ok (ls ++ ls') := by
  refine ⟨htu.mem.trans hst.mem, htu.cur.trans hst.cur, ?_⟩
  rw [htu.groups, hst.groups, hst.cur, Tb.modify_modify]
  refine Tb.modify_congr _ _ _ _ fun g _ => ?_
  simp only [pushedGroup, Group.setPs, List.map_append, List.foldl_append]

/-- A change of the predicate's lane, after one that leaves groups and memory alone. -/
theorem pushed_upG (k : SameGroups s t) (p : BitVec 3) (ok : Bool) (l : Nat) :
    Pushed s (t.upG (fun g => g.setP p.toNat l (mkPred ok false))) p ok [l] :=
  ⟨k.mem, k.cur, by
    show Tb.modify t.work.groups t.cur.h _ = _
    rw [k.groups, k.cur]
    rfl⟩

theorem sameGroups_touch (s : State) (bs : List Nat) : SameGroups s (touch s bs) := ⟨touch_mem .., touch_cur .., by rw [touch_work]⟩
theorem sameGroups_setDeque (s : State) (k c : Nat) (items : List (DWord × DqPlace)) : SameGroups s (setDeque s k c items) := ⟨rfl, rfl, rfl⟩

theorem pushLane_eq {p : BitVec 3} {a : Reg} {l : Nat} {ok : Bool}
    (hp : pushItem s s.cur.rd.launch s.cur.rd.core (pairValue s a l) = (t, ok)) :
    pushLane p a s l = t.upG (fun g => g.setP p.toNat l (mkPred ok false)) := by
  unfold pushLane
  rw [opair_v, BitVec.ofNat_toNat, BitVec.setWidth_eq, hp]

/-- The words that lanes push, with the place that they take. -/
def pushedItems (s : State) (a : Reg) (ls : List Nat) : List (DWord × DqPlace) :=
  ls.map (fun l => (pairValue s a l, .sram s.cur.rd.core))
theorem pushedItems_congr (e : t.cur = s.cur) (a : Reg) (ls : List Nat) : pushedItems t a ls = pushedItems s a ls := by
  unfold pushedItems pairValue State.rvN State.pk
  rw [e]

theorem pushLane_of_room (p : BitVec 3) (a : Reg) (l : Nat) (hl : (dequeOf s s.cur.rd.launch s.cur.rd.core).length < 2 ^ 20)
    (hs : sramUsed s s.cur.rd.core < 4096) :
    Pushed s (pushLane p a s l) p true [l] ∧ (pushLane p a s l).work.deques =
      (setDeque s s.cur.rd.launch s.cur.rd.core (dequeOf s s.cur.rd.launch s.cur.rd.core ++ pushedItems s a [l])).work.deques := by
  rw [pushLane_eq (pushItem_of_room _ hl hs)]
  refine ⟨pushed_upG ((sameGroups_touch s _).trans (sameGroups_setDeque ..)) p true l, ?_⟩
  show (setDeque (touch s _) _ _ _).work.deques = _
  rw [setDeque_deques, touch_work, setDeque_deques]
  rfl

/-- Pushes with room for all of them, in the order of their lanes. -/
theorem foldl_pushLane_of_room (p : BitVec 3) (a : Reg) (ls : List Nat) (s : State)
    (hl : (dequeOf s s.cur.rd.launch s.cur.rd.core).length + ls.length ≤ 2 ^ 20) (hs : sramUsed s s.cur.rd.core + ls.length ≤ 4096) :
    Pushed s (ls.foldl (pushLane p a) s) p true ls ∧
      dequeOf (ls.foldl (pushLane p a) s) s.cur.rd.launch s.cur.rd.core =
        dequeOf s s.cur.rd.launch s.cur.rd.core ++ pushedItems s a ls ∧
      ∀ k c, (k ≠ s.cur.rd.launch ∨ c ≠ s.cur.rd.core) → dequeOf (ls.foldl (pushLane p a) s) k c = dequeOf s k c := by
  induction ls generalizing s with
  | nil => exact ⟨.refl s p true, (List.append_nil _).symm, fun _ _ _ => rfl⟩
  | cons l ls ih =>
    rw [List.length_cons] at hl hs
    obtain ⟨hp, hd⟩ := pushLane_of_room (s := s) p a l (by omega) (by omega)
    have hsame : dequeOf (pushLane p a s l) s.cur.rd.launch s.cur.rd.core = dequeOf s s.cur.rd.launch s.cur.rd.core ++ pushedItems s a [l] :=
      (dequeOf_congr hd ..).trans (dequeOf_setDeque_same ..)
    have hused : sramUsed (pushLane p a s l) s.cur.rd.core ≤ sramUsed s s.cur.rd.core + 1 :=
      (sramUsed_congr hd _).trans_le (sramUsed_push ..)
    have hlen : (dequeOf (pushLane p a s l) s.cur.rd.launch s.cur.rd.core).length = (dequeOf s s.cur.rd.launch s.cur.rd.core).length + 1 := by
      rw [hsame, List.length_append]
      rfl
    obtain ⟨kp, kd, ko⟩ := ih (pushLane p a s l) (by rw [hp.cur]; omega) (by rw [hp.cur]; omega)
    rw [hp.cur] at kd ko
    refine ⟨hp.trans kp, ?_, fun k c hkc => ?_⟩
    · rw [List.foldl_cons, kd, hsame, pushedItems_congr hp.cur, List.append_assoc]
      rfl
    · rw [List.foldl_cons, ko k c hkc, dequeOf_congr hd, dequeOf_setDeque_other s _ hkc]

/-- Pushes that find no place. -/
theorem foldl_pushLane_of_full (p : BitVec 3) (a : Reg) (ls : List Nat) (s : State)
    (hf : 2 ^ 20 ≤ (dequeOf s s.cur.rd.launch s.cur.rd.core).length ∨
      (4096 ≤ sramUsed s s.cur.rd.core ∧ ∀ l ∈ s.work.launches, l.rc.dqSize = 0)) :
    Pushed s (ls.foldl (pushLane p a) s) p false ls ∧ (ls.foldl (pushLane p a) s).work.deques = s.work.deques := by
  induction ls generalizing s with
  | nil => exact ⟨.refl s p false, rfl⟩
  | cons l ls ih =>
    have he := pushLane_eq (p := p) (a := a) (l := l) (pushItem_of_full (pairValue s a l) hf)
    have hp : Pushed s (pushLane p a s l) p false [l] := by rw [he]; exact pushed_upG (sameGroups_touch s _) p false l
    have hd : (pushLane p a s l).work.deques = s.work.deques := by
      rw [he]; show (touch s _).work.deques = _; rw [touch_work]
    have hla : (pushLane p a s l).work.launches = s.work.launches := by
      rw [he]; show (touch s _).work.launches = _; rw [touch_work]
    obtain ⟨kp, kd⟩ := ih (pushLane p a s l) (by rwa [hp.cur, dequeOf_congr hd, sramUsed_congr hd, hla])
    exact ⟨hp.trans kp, kd.trans hd⟩

theorem Pushed.curG {p : BitVec 3} {ok : Bool} {ls : List Nat} (k : Pushed s t p ok ls)
    (hr : (Tb.get? s.work.groups s.cur.h).isSome = true) : t.curG = pushedGroup s.curG p ok ls := by
  have hg := modG_grp_same s s.cur.h (fun g => pushedGroup g p ok ls)
  rw [if_pos hr] at hg
  rw [State.curG, State.grp, k.groups, k.cur]
  exact hg

/-- The predicate that pushes set in the issuing lanes. -/
theorem pushedGroup_writes (g : Group) (s : State) (p : BitVec 3) (ok : Bool) :
    Writes g (pushedGroup g p ok (lanesOf s.cur.mask)) (Eff.pred s p (fun _ => mkPred ok false)) := by
  refine (writes_setPs g p.toNat (fun _ => mkPred ok false) (lanesOf s.cur.mask) (fun l h => lanesOf_lt _ _ h)).congr
    (Eff.ext' (fun _ _ => rfl) (fun _ => rfl) ?_ rfl)
  intro n l
  simp [Eff.pred, mem_lanesOf]

/-- Marks of outstanding results are no part of what an issue writes. -/
theorem Writes.mark {g g' : Group} {e : Eff} (w : Writes g g' e) {o : List Entry} (ho : o.map Entry.plain = g'.outst.map Entry.plain) :
    Writes g { g' with outst := o } e := by
  refine ⟨w.v, w.s, w.p, w.fl, w.soft, ho.trans w.outst, ?_⟩
  obtain ⟨_, _, _, _, _, _, hg⟩ := w.rest
  exact ⟨_, _, _, _, _, o, by rw [hg]⟩

/-- DQPUSH as it issues, where its pushes all succeed or all fail. -/
theorem exec_dqpush {p : BitVec 3} {a : Reg} {ok : Bool} (hi : Issuing s (.dqpush p a)) (hl : pairLoss s a = [])
    (hu : takesBefore s s.cur.h s.ids (fun c => decide (c = s.cur.rd.core)) = u)
    (hp : Pushed u ((lanesOf s.cur.mask).foldl (pushLane p a) u) p ok (lanesOf s.cur.mask)) :
    ∃ t, exec (.dqpush p a) s = .next t ∧ t.mem = s.mem ∧ t.work.deques = ((lanesOf s.cur.mask).foldl (pushLane p a) u).work.deques ∧
      Writes u.curG t.curG (Eff.pred s p (fun _ => mkPred ok false)) := by
  have ho : OutstOnly s.cur.h s u := hu ▸ outstOnly_takesBefore s s.ids _
  have hr : (Tb.get? u.work.groups u.cur.h).isSome = true := by rw [ho.cur, ho.resident]; exact hi.resident
  have hx : exec (.dqpush p a) s = .next (settle s (.dqpush p a) ((lanesOf s.cur.mask).foldl (pushLane p a) u)) := by
    show execDqpush p a s = _
    unfold execDqpush
    rw [issue_passes _ _ _ hi.passes, hl, hu]
  obtain ⟨o, hg, hmarks⟩ := settle_curG (s := s) ((lanesOf s.cur.mask).foldl (pushLane p a) u) (.dqpush p a)
  refine ⟨_, hx, (settle_mem ..).trans (hp.mem.trans ho.mem), ?_, ?_⟩
  · obtain ⟨o, he, -⟩ := settle_outst s ((lanesOf s.cur.mask).foldl (pushLane p a) u) (.dqpush p a)
    rw [he]
    rfl
  · rw [hg]
    refine Writes.mark ?_ hmarks
    rw [hp.curG hr]
    exact pushedGroup_writes _ s p ok

/-! #### Takes (R143, R162, R240) -/

theorem view_launches (s : State) (core ev n k t : Nat) : (s.view core ev n k t).work.launches = s.work.launches := by
  unfold State.view
  dsimp only
  split <;> rfl
theorem bump_launches (s : State) (h ev n : Nat) : (s.bump h ev n).work.launches = s.work.launches := by
  unfold State.bump State.count
  dsimp only
  split
  · rfl
  · exact view_launches ..
theorem popItem_launches (s : State) (k c : Nat) : (popItem s k c).1.work.launches = s.work.launches := by
  unfold popItem
  dsimp only
  split
  · rw [touch_work]
  · show (touch s _).work.launches = _
    rw [touch_work]
theorem stealItem_launches (s : State) (k c : Nat) : (stealItem s k c).1.work.launches = s.work.launches := by
  unfold stealItem
  dsimp only
  split
  · rw [touch_work]
  · show (touch s _).work.launches = _
    rw [touch_work]

/-- A take that has been counted, and its result. -/
def countTake (h ev : Nat) (r : State × Option DWord) : State := if r.2.isSome then r.1.bump h ev 1 else r.1

theorem takeLane_pop {e : Entry} {d : Reg} {p : BitVec 3} (he : e.instr = .dqpop d p) (s : State) (l : Nat) :
    takeLane h e s l = modEntry (countTake h 0x16 (popItem s (s.grp h).launch (s.grp h).core)) h e.id
      (fun x => x.done l (takeCells (popItem s (s.grp h).launch (s.grp h).core).2)) := by
  unfold takeLane
  rw [he]
  rfl
theorem takeLane_steal {e : Entry} {d a : Reg} {p : BitVec 3} (he : e.instr = .dqsteal d a p) (s : State) (l : Nat) :
    takeLane h e s l = modEntry (countTake h 0x17 (stealItem s (s.grp h).launch (e.uop.toNat % 256))) h e.id
      (fun x => x.done l (takeCells (stealItem s (s.grp h).launch (e.uop.toNat % 256)).2)) := by
  unfold takeLane
  rw [he]
  rfl
theorem sameGroups_countTake (h ev : Nat) (r : State × Option DWord) : SameGroups r.1 (countTake h ev r) := by
  unfold countTake
  split
  · exact sameGroups_bump r.1 h ev 1
  · exact .refl r.1
theorem countTake_launches (h ev : Nat) (r : State × Option DWord) : (countTake h ev r).work.launches = r.1.work.launches := by
  unfold countTake
  split
  · exact bump_launches ..
  · rfl
theorem countTake_deques (h ev : Nat) (r : State × Option DWord) : (countTake h ev r).work.deques = r.1.work.deques := by
  unfold countTake
  split
  · exact bump_deques ..
  · rfl

/-- An entry takes from the core's own deque, from the deque that it names, or is no take. -/
theorem takeLane_cases (h : Nat) (e : Entry) :
    (∃ d p, e.instr = .dqpop d p) ∨ (∃ d a p, e.instr = .dqsteal d a p) ∨ ∀ s l, takeLane h e s l = s := by
  by_cases hp : ∃ d p, e.instr = .dqpop d p
  · exact .inl hp
  by_cases hq : ∃ d a p, e.instr = .dqsteal d a p
  · exact .inr (.inl hq)
  refine .inr (.inr fun s l => ?_)
  unfold takeLane
  split
  next d p he => exact absurd ⟨d, p, he⟩ hp
  next d a p he => exact absurd ⟨d, a, p, he⟩ hq
  next => rfl

theorem takeLane_launches (e : Entry) (s : State) (l : Nat) : (takeLane h e s l).work.launches = s.work.launches := by
  obtain ⟨d, p, he⟩ | ⟨d, a, p, he⟩ | he := takeLane_cases h e
  · rw [takeLane_pop he]
    exact (countTake_launches ..).trans (popItem_launches ..)
  · rw [takeLane_steal he]
    exact (countTake_launches ..).trans (stealItem_launches ..)
  · rw [he]
theorem takesBefore_launches (s : State) (h id : Nat) (f : Nat → Bool) : (takesBefore s h id f).work.launches = s.work.launches :=
  foldl_keeps (P := fun t => t.work.launches = s.work.launches) (fun _ e ht =>
    foldl_keeps (P := fun t => t.work.launches = s.work.launches) (fun t l ht => (takeLane_launches e t l).trans ht) _ ht) _ rfl

/-- Another entry's take leaves an entry as it is. -/
theorem keepsEntry_takeLane {e : Entry} {id : Nat} (hid : e.id ≠ id) (s : State) (l : Nat) : KeepsEntry h id s (takeLane h e s l) := by
  have key (r : State × Option DWord) (ev : Nat) (hr : SameGroups s r.1) :
      KeepsEntry h id s (modEntry (countTake h ev r) h e.id (fun x => x.done l (takeCells r.2))) := by
    have hc := hr.trans (sameGroups_countTake h ev r)
    exact (KeepsGroups.keepsEntry ⟨hc.cur, hc.groups⟩).trans (keepsEntry_modEntry _ hid (fun _ => rfl))
  obtain ⟨d, p, he⟩ | ⟨d, a, p, he⟩ | he := takeLane_cases h e
  · rw [takeLane_pop he]
    exact key _ _ (sameGroups_popItem ..)
  · rw [takeLane_steal he]
    exact key _ _ (sameGroups_stealItem ..)
  · rw [he]
    exact .refl s
theorem keepsEntry_takesBefore (s : State) (h id : Nat) (f : Nat → Bool) : KeepsEntry h id s (takesBefore s h id f) := by
  refine KeepsEntry.foldl (fun s x hx => KeepsEntry.foldl (fun s l _ => keepsEntry_takeLane ?_ s l) s) s
  have := (List.mem_filter.1 hx).2
  simp only [Bool.and_eq_true, decide_eq_true_eq] at this
  exact this.1.ne

/-- Where no earlier entry takes from the deques of a test, there is no take before the entry. -/
theorem takesBefore_of_disjoint {id : Nat} {f : Nat → Bool}
    (hn : ∀ x ∈ (s.grp h).outst, x.id < id → ∀ c, dqCore (s.grp h) x = some c → f c = false) : takesBefore s h id f = s := by
  refine (congrArg (fun xs => List.foldl _ s xs) (List.filter_eq_nil_iff.2 fun x hx hp => ?_)).trans List.foldl_nil
  obtain ⟨hlt, hf⟩ := Bool.and_eq_true_iff.1 hp
  split at hf
  next c hc => exact Bool.noConfusion ((hn x hx (of_decide_eq_true hlt) c hc).symm.trans hf)
  next => exact Bool.noConfusion hf

/-- The owner's end of a deque (R162). -/
theorem popItem_of_last {xs : List (DWord × DqPlace)} {x : DWord × DqPlace} (hd : dequeOf s k c = xs ++ [x]) :
    popItem s k c = (setDeque (touch s [dequeBank c]) k c xs, some x.1) := by
  unfold popItem
  dsimp only
  rw [dequeOf_congr (t := touch s [dequeBank c]) (s := s) (by rw [touch_work]), hd, List.getLast?_concat, List.dropLast_concat]
theorem popItem_of_empty (hd : dequeOf s k c = []) : popItem s k c = (touch s [dequeBank c], none) := by
  unfold popItem
  dsimp only
  rw [dequeOf_congr (t := touch s [dequeBank c]) (s := s) (by rw [touch_work]), hd]
  rfl
/-- The far end of a deque (R162). -/
theorem stealItem_of_cons {xs : List (DWord × DqPlace)} {x : DWord × DqPlace} (hd : dequeOf s k c = x :: xs) :
    stealItem s k c = (setDeque (touch s [dequeBank c]) k c xs, some x.1) := by
  unfold stealItem
  dsimp only
  rw [dequeOf_congr (t := touch s [dequeBank c]) (s := s) (by rw [touch_work]), hd]
theorem stealItem_of_empty (hd : dequeOf s k c = []) : stealItem s k c = (touch s [dequeBank c], none) := by
  unfold stealItem
  dsimp only
  rw [dequeOf_congr (t := touch s [dequeBank c]) (s := s) (by rw [touch_work]), hd]

theorem dequeOf_touch (s : State) (bs : List Nat) (k c : Nat) : dequeOf (touch s bs) k c = dequeOf s k c :=
  dequeOf_congr (by rw [touch_work]) k c

/-- An entry after one lane of its take has been performed, with the result words of that lane. -/
def Took (t : State) (h l : Nat) (e : Entry) (x : Option DWord) : Prop :=
  ∃ e', findEntry t h e.id = some e' ∧ e'.performed = e.performed ||| maskOf [l] ∧ e'.cells l 0 3 = takeCells x

theorem took_modEntry {e : Entry} (he : findEntry s h e.id = some e) (l : Nat) (x : Option DWord) :
    Took (modEntry s h e.id (fun y => y.done l (takeCells x))) h l e x := by
  refine ⟨e.done l (takeCells x), ?_, rfl, ?_⟩
  · rw [findEntry_modEntry_same s h e.id (f := fun y => y.done l (takeCells x)) (fun _ => rfl), he]
    rfl
  · cases x with
    | none => exact cells_setCells e l (takeCells none)
    | some x => exact cells_setCells e l (takeCells (some x))

/-- A take: deques alone change, but for the entry, which has its result words. -/
theorem take_spec {e : Entry} (he : findEntry s h e.id = some e) (l ev : Nat) {r : State × Option DWord} (hr : SameGroups s r.1) :
    let t := modEntry (countTake h ev r) h e.id (fun y => y.done l (takeCells r.2))
    t.mem = s.mem ∧ t.work.deques = r.1.work.deques ∧ Took t h l e r.2 := by
  have hc := hr.trans (sameGroups_countTake h ev r)
  have hf : findEntry (countTake h ev r) h e.id = some e := ((KeepsGroups.mk hc.cur hc.groups).findEntry h e.id).trans he
  exact ⟨hc.mem, countTake_deques h ev r, took_modEntry hf l r.2⟩

/-- DQPOP of one lane takes the item at the owner's end. -/
theorem takeLane_of_pop {e : Entry} {d : Reg} {p : BitVec 3} (hi : e.instr = .dqpop d p) (he : findEntry s h e.id = some e) (l : Nat) :
    (takeLane h e s l).mem = s.mem ∧
    (∀ xs x, dequeOf s (s.grp h).launch (s.grp h).core = xs ++ [x] →
      dequeOf (takeLane h e s l) (s.grp h).launch (s.grp h).core = xs ∧ Took (takeLane h e s l) h l e (some x.1)) ∧
    (dequeOf s (s.grp h).launch (s.grp h).core = [] →
      dequeOf (takeLane h e s l) (s.grp h).launch (s.grp h).core = [] ∧ Took (takeLane h e s l) h l e none) := by
  obtain ⟨hm, hd, ht⟩ := take_spec he l 0x16 (sameGroups_popItem s (s.grp h).launch (s.grp h).core)
  rw [takeLane_pop hi]
  refine ⟨hm, fun xs x hx => ?_, fun hx => ?_⟩
  · rw [popItem_of_last hx] at hd ht ⊢
    exact ⟨(dequeOf_congr hd _ _).trans (dequeOf_setDeque_same ..), ht⟩
  · rw [popItem_of_empty hx] at hd ht ⊢
    exact ⟨(dequeOf_congr hd _ _).trans ((dequeOf_touch ..).trans hx), ht⟩

/-- DQSTEAL of one lane takes the item at the far end. -/
theorem takeLane_of_steal {e : Entry} {d a : Reg} {p : BitVec 3} (hi : e.instr = .dqsteal d a p) (he : findEntry s h e.id = some e) (l : Nat) :
    (takeLane h e s l).mem = s.mem ∧
    (∀ xs x, dequeOf s (s.grp h).launch (e.uop.toNat % 256) = x :: xs →
      dequeOf (takeLane h e s l) (s.grp h).launch (e.uop.toNat % 256) = xs ∧ Took (takeLane h e s l) h l e (some x.1)) ∧
    (dequeOf s (s.grp h).launch (e.uop.toNat % 256) = [] →
      dequeOf (takeLane h e s l) (s.grp h).launch (e.uop.toNat % 256) = [] ∧ Took (takeLane h e s l) h l e none) := by
  obtain ⟨hm, hd, ht⟩ := take_spec he l 0x17 (sameGroups_stealItem s (s.grp h).launch (e.uop.toNat % 256))
  rw [takeLane_steal hi]
  refine ⟨hm, fun xs x hx => ?_, fun hx => ?_⟩
  · rw [stealItem_of_cons hx] at hd ht ⊢
    exact ⟨(dequeOf_congr hd _ _).trans (dequeOf_setDeque_same ..), ht⟩
  · rw [stealItem_of_empty hx] at hd ht ⊢
    exact ⟨(dequeOf_congr hd _ _).trans ((dequeOf_touch ..).trans hx), ht⟩

theorem performLateLane_of_take {e : Entry} (hi : (∃ d p, e.instr = .dqpop d p) ∨ ∃ d a p, e.instr = .dqsteal d a p) (s : State) (l : Nat) :
    performLateLane h e s l = takeLane h e (takesBefore s h e.id (fun c => decide (dqCore (s.grp h) e = some c))) l := by
  unfold performLateLane
  obtain ⟨d, p, hi⟩ | ⟨d, a, p, hi⟩ := hi
  all_goals simp only [hi]

theorem dqpop_eq (d : Reg) (p : BitVec 3) (s : State) : exec (.dqpop d p) s =
    issue (.dqpop d p) s (fun s => addEntry s s.cur.h (newEntry s (.dqpop d p) s.cur.mask 0 [] [])) := rfl
theorem dqsteal_eq (d a : Reg) (p : BitVec 3) (s : State) : exec (.dqsteal d a p) s =
    issue (.dqsteal d a p) s (fun s => addEntry s s.cur.h (newEntry s (.dqsteal d a p) s.cur.mask (BitVec.ofNat 64 (s.os a).v) [] [])) := rfl

/-- An issue that leaves one result outstanding and nothing else defers it. -/
theorem defers_newEntry {i : Instr} {s : State} {uop : DWord} (hx : exec i s = issue i s (fun s => addEntry s s.cur.h (newEntry s i s.cur.mask uop [] [])))
    (hi : Issuing s i) {P : Entry → Prop} (hP : P (newEntry s i s.cur.mask uop [] [])) : Defers i s P := by
  obtain ⟨o, he, ho⟩ := exec_of_addEntry (e := newEntry s i s.cur.mask uop [] []) hx hi (.refl s) rfl rfl
  exact ⟨_, _, he, ⟨ho, o, rfl⟩, rfl, rfl, rfl, rfl, rfl, rfl, hP⟩
end

/-- Settles O30: the pushes and the takes, one lane after another; each changes one deque. -/
theorem itemDeques : Obligations.ItemDeques := by
  refine ⟨?_, ?_⟩
  · intro a d p s
    refine ⟨?_, ?_, ?_⟩
    · intro u
      have ho : OutstOnly s.cur.h s u := outstOnly_takesBefore s s.ids _
      refine ⟨fun hn => ?_, fun hi hl hlen hsram => ?_, fun hi hl hf => ?_⟩
      · refine takesBefore_of_disjoint fun x hx _ c hc => decide_eq_false ?_
        rintro rfl
        exact hn x hx hc
      · rw [← ho.cur] at hlen hsram
        obtain ⟨hp, hd, hother⟩ := foldl_pushLane_of_room p a (lanesOf u.cur.mask) u hlen hsram
        rw [ho.cur] at hp hd hother
        obtain ⟨t, hx, hm, htd, hw⟩ := exec_dqpush hi hl rfl hp
        refine ⟨t, hx, hm, ?_, fun k c hkc => (dequeOf_congr htd k c).trans (hother k c hkc), hw⟩
        rw [dequeOf_congr htd, hd, pushedItems_congr ho.cur]
        rfl
      · rw [← ho.cur, ← takesBefore_launches s s.cur.h s.ids (fun c => decide (c = s.cur.rd.core))] at hf
        obtain ⟨hp, hd⟩ := foldl_pushLane_of_full p a (lanesOf s.cur.mask) u hf
        obtain ⟨t, hx, hm, htd, hw⟩ := exec_dqpush hi hl rfl hp
        exact ⟨t, hx, hm, htd.trans hd, hw⟩
    · exact fun hi => defers_newEntry (dqpop_eq d p s) hi ⟨rfl, rfl⟩
    · refine fun hi => defers_newEntry (dqsteal_eq d a p s) hi ⟨rfl, rfl, ?_⟩
      exact (BitVec.ofNat_toNat ..).trans (BitVec.setWidth_eq _)
  · intro s h l e d a p he hr g t u
    have hu : OutstOnly h s u := outstOnly_takesBefore s e.id _
    have heu : findEntry u h e.id = some e := Eq.trans (keepsEntry_takesBefore s h e.id _) he
    have hlaunch : (u.grp h).launch = g.launch := by obtain ⟨o, hg⟩ := hu.grp; rw [hg]
    have hcore : (u.grp h).core = g.core := by obtain ⟨o, hg⟩ := hu.grp; rw [hg]
    refine ⟨fun hn => ?_, fun hi => ?_, fun hi => ?_⟩
    · exact takesBefore_of_disjoint fun x hx hlt c hc => decide_eq_false fun hce => hn x hx hlt (hc.trans hce.symm)
    · obtain ⟨hm, hsome, hnone⟩ := takeLane_of_pop hi heu l
      rw [← performLateLane_of_take (.inl ⟨d, p, hi⟩), hlaunch, hcore] at hsome hnone
      exact ⟨by rw [show t = _ from performLateLane_of_take (.inl ⟨d, p, hi⟩) s l]; exact hm.trans hu.mem, hsome, hnone⟩
    · obtain ⟨hm, hsome, hnone⟩ := takeLane_of_steal hi heu l
      rw [← performLateLane_of_take (.inr ⟨d, a, p, hi⟩), hlaunch] at hsome hnone
      exact ⟨by rw [show t = _ from performLateLane_of_take (.inr ⟨d, a, p, hi⟩) s l]; exact hm.trans hu.mem, hsome, hnone⟩

end Sys2Proof.Machine

namespace Sys2Proof.Machine

/-! ### Engine instructions (R246, R249, R250, R257) -/

section
variable {s t u : State} {x : TaskShape} {tm : Team} {ok : Team → Bool}

theorem tileDrain_onPath (h : OnPath u s) : OnPath u (tileDrain s) :=
  foldl_keeps (fun _ _ hs => by split; exacts [drainGroup_onPath _ hs, forceBefore_onPath _ _ _ hs]) _ h

/-! #### What becomes of a task that issues -/

/-- An earlier task of the team reads a tile that the shape writes (R135). -/
def Renames (s : State) (x : TaskShape) : Prop :=
  ∃ e ∈ s.work.tasks, e.launch = s.cur.rd.launch ∧ e.team = s.cur.rd.team ∧ ∃ j ∈ x.wset, j ∈ e.rset
/-- The test of `issueTask` for it. -/
def renamesB (s : State) (x : TaskShape) : Bool :=
  s.work.tasks.any (fun e => decide (e.launch = s.cur.rd.launch) && decide (e.team = s.cur.rd.team) && x.wset.any (fun k => e.rset.contains k))
theorem renamesB_iff (s : State) (x : TaskShape) : renamesB s x = true ↔ Renames s x := by
  simp [renamesB, Renames, and_assoc]

/-- The half of the issuing core that serves the group's function, and the entries and rename slots that are taken. -/
def curHalf (s : State) : Nat := halfOf (s.core s.cur.rd.core) (s.funcOf s.cur.rd.launch)
def curUsed (s : State) : Nat := entriesUsed s s.cur.rd.core (curHalf s)
def curSlots (s : State) : Nat := (s.work.tasks.filter (fun e => decide (e.core = s.cur.rd.core) && e.rename)).length

/-- The state after a task has entered the table. -/
def entered (s : State) (x : TaskShape) : State :=
  { setTasks (tileDrain s) (fun l => l ++ [mkTask (tileDrain s) x (curHalf s) (renamesB s x)]) with ids := (tileDrain s).ids + 1 }

theorem issueTask_eq (ht : s.curTeam = some tm) : issueTask s ok x =
    if ok tm = false then illegal s
    else if halfEntries (s.core s.cur.rd.core) ≤ curUsed s then stall s 7
    else if renamesB s x = true ∧ 16 ≤ curSlots s then stall s 8
    else if tileMidway s (x.rset ++ x.wset) = true then stall s 0
    else entered s x := by
  unfold issueTask
  rw [ht]
  simp only [Bool.not_eq_true']
  rfl

theorem entered_cur (s : State) (x : TaskShape) : (entered s x).cur = s.cur := (tileDrain_onPath (.refl s)).1
theorem entered_engine (s : State) (x : TaskShape) (c : Nat) : ((entered s x).core c).engine = (s.core c).engine := by
  obtain ⟨-, -, -, -, -, hb⟩ := tileDrain_onPath (.refl s)
  exact hb c
theorem mkTask_tileDrain (s : State) (x : TaskShape) (half : Nat) (r : Bool) : mkTask (tileDrain s) x half r = mkTask s x half r := by
  have k := (tileDrain_onPath (.refl s)).grp s.cur.h
  obtain ⟨hc, hi, -⟩ := tileDrain_onPath (.refl s)
  have hg : (tileDrain s).curG.ctl = s.curG.ctl := by rw [State.curG, hc, k]; rfl
  unfold mkTask
  rw [hc, hi, hg]
theorem entered_tasks (s : State) (x : TaskShape) : (entered s x).work.tasks = s.work.tasks ++ [mkTask s x (curHalf s) (renamesB s x)] := by
  obtain ⟨-, -, -, -, hk, -⟩ := tileDrain_onPath (.refl s)
  rw [← mkTask_tileDrain]
  exact congrArg (· ++ [_]) hk
theorem entered_curG (s : State) (x : TaskShape) : ∃ o, (entered s x).curG = { s.curG with outst := o } := by
  have k := tileDrain_onPath (.refl s)
  refine ⟨((tileDrain s).grp s.cur.h).outst, ?_⟩
  have hg : (entered s x).curG = (tileDrain s).grp s.cur.h := congrArg (tileDrain s).grp (congrArg Cur.h (entered_cur s x))
  rw [hg]
  exact k.grp s.cur.h

/-- An effect that issues a task and then, where it has entered, changes neither groups nor tasks. -/
def issuesTask (s : State) (ok : Team → Bool) (x : TaskShape) (post : State → State) : State :=
  let t := issueTask s ok x
  if t.cur.trapped || t.cur.stalled then t else post t

theorem illegal_trapped (s : State) : (illegal s).cur.trapped = true := trap_trapped ..

theorem issuesTask_eq (hc : s.cur.trapped = false ∧ s.cur.stalled = false) (ht : s.curTeam = some tm) (post : State → State) :
    issuesTask s ok x post =
      if ok tm = false then illegal s
      else if halfEntries (s.core s.cur.rd.core) ≤ curUsed s then stall s 7
      else if renamesB s x = true ∧ 16 ≤ curSlots s then stall s 8
      else if tileMidway s (x.rset ++ x.wset) = true then stall s 0
      else post (entered s x) := by
  have hstall (n : Nat) : (stall s n).cur.stalled = true := rfl
  have hin : ((entered s x).cur.trapped || (entered s x).cur.stalled) = false := by rw [entered_cur, hc.1, hc.2]; rfl
  unfold issuesTask
  rw [issueTask_eq ht]
  dsimp only
  split
  · rw [illegal_trapped]; rfl
  · split
    · rw [hstall, Bool.or_true]; rfl
    · split
      · rw [hstall, Bool.or_true]; rfl
      · split
        · rw [hstall, Bool.or_true]; rfl
        · rw [hin]; rfl

/-- An engine instruction enters its task, by the effect of its issue. -/
theorem entersTask_of_body {i : Instr} {body : State → State} {okP : Team → Prop} {also : State → Prop} {post : State → State}
    (hx : exec i s = issue i s body) (hw : ∀ n, writes n i = []) (hb : body s = issuesTask s ok x post) (hok : ∀ t, ok t = true ↔ okP t)
    (hpost : ∀ t, (post t).cur = t.cur ∧ (post t).work = t.work) (halso : also (post (entered s x))) : EntersTask i s okP x also := by
  intro tm hi ht
  have he : exec i s = .next (issuesTask s ok x post) := by rw [hx, issue_of_no_writes hi hw, hb]
  rw [issuesTask_eq hi.calm ht post] at he
  have hren : renamesB s x = true ↔ Renames s x := renamesB_iff s x
  have hyes (h : okP tm) : ¬ ok tm = false := by rw [(hok tm).2 h]; exact Bool.noConfusion
  have hroom (h : curUsed s < halfEntries (s.core s.cur.rd.core)) : ¬ halfEntries (s.core s.cur.rd.core) ≤ curUsed s := Nat.not_le.2 h
  have hfree (h : Renames s x → curSlots s < 16) : ¬ (renamesB s x = true ∧ 16 ≤ curSlots s) := fun hn =>
    Nat.not_le.2 (h (hren.1 hn.1)) hn.2
  refine ⟨fun h => ?_, fun h hu => ?_, fun h hu hr hs => ?_, fun h hu hr hm => ?_, fun h hu hr hm => ?_⟩
  · rwa [if_pos (Bool.eq_false_iff.2 fun hk => h ((hok tm).1 hk))] at he
  · rwa [if_neg (hyes h), if_pos (show _ ≤ curUsed s from hu)] at he
  · rwa [if_neg (hyes h), if_neg (hroom hu), if_pos (show renamesB s x = true ∧ 16 ≤ curSlots s from ⟨hren.2 hr, hs⟩)] at he
  · rwa [if_neg (hyes h), if_neg (hroom hu), if_neg (hfree hr), if_pos hm] at he
  · rw [if_neg (hyes h), if_neg (hroom hu), if_neg (hfree hr), if_neg (by rw [hm]; exact Bool.noConfusion)] at he
    obtain ⟨hcur, hwork⟩ := hpost (entered s x)
    have hnow : (post (entered s x)).cur = s.cur := hcur.trans (entered_cur s x)
    obtain ⟨o, hg⟩ := entered_curG s x
    refine ⟨_, mkTask s x (curHalf s) (renamesB s x), he, ?_, ?_, ?_, rfl, rfl, rfl, rfl, rfl, rfl, rfl, rfl, rfl, rfl, rfl, rfl, rfl, rfl, rfl, rfl,
      hren, ⟨o, ?_⟩, halso⟩
    · rw [hnow]; exact hi.calm.1
    · rw [hnow]; exact hi.calm.2
    · rw [hwork, entered_tasks]
    · rw [← hg, State.curG, State.grp, hwork, hcur]
      rfl

/-- An engine instruction whose effect is its task alone. -/
theorem entersTask_of_issueTask {i : Instr} {body : State → State} {okP : Team → Prop} (hx : exec i s = issue i s body)
    (hw : ∀ n, writes n i = []) (hb : body s = issueTask s ok x) (hok : ∀ t, ok t = true ↔ okP t) : EntersTask i s okP x (fun _ => True) :=
  entersTask_of_body (post := id) hx hw (hb.trans (ite_self _).symm) hok (fun _ => ⟨rfl, rfl⟩) trivial

/-! #### Residency (R257, R258) -/

/-- A bank that the team of the issue holds. -/
def Owns (s : State) (b : ResBank) : Prop := b.launch = s.cur.rd.launch ∧ b.team = s.cur.rd.team ∧ b.ended = false

theorem residentFor_iff {b : ResBank} (hb : curBank s = some b) (d : BitVec 128) : residentFor s d = true ↔ Owns s b ∧ b.desc = d := by
  simp [residentFor, hb, Owns, and_assoc]
theorem residentFor_of_none (hb : curBank s = none) (d : BitVec 128) : residentFor s d = false := by
  simp [residentFor, hb]
end

/-! #### The instructions -/

theorem mmaBody_eq (a b e : BitVec 4) (idx : Option Reg) (k : Cls) (z : Bool) (s : State) :
    mmaBody a b e idx k z s = issueTask s (fun t => mmaOk s t (desc s a) (desc s b) (desc s e) idx.isSome)
      ⟨.mma (desc s a) (desc s b) (desc s e) (taskCls s k) z (idx.map (fun v => (lanesOf s.cur.mask).map (fun l => (l, s.rv v l)))) s.cur.mask,
        tileSet (desc s a) ++ tileSet (desc s b) ++ (if z = true ∨ residentFor s (desc s e) = true then [] else tileSet (desc s e)),
        if residentFor s (desc s e) then [] else tileSet (desc s e), residentFor s (desc s e), none⟩ := by
  unfold mmaBody
  simp only [Bool.or_eq_true]
/-- TSCALE by an exponent reads A alone, and computes in no class. -/
theorem scaleBody_exp (a e : BitVec 4) (v : Reg) (s : State) :
    scaleBody 0 a 0 e (some v) .exact s = issueTask s (fun t => scaleOk t.tiles.length 0 (desc s a) (desc s 0) (desc s e))
      ⟨.tscale 0 (desc s a) (desc s 0) (desc s e) .exact (s.cur.rd.s s.pk v.toNat), tileSet (desc s a), tileSet (desc s e), false, none⟩ := by
  simp [scaleBody, taskCls]
theorem scaleBody_acc (a e : BitVec 4) (v : Reg) (k : Cls) (s : State) :
    scaleBody 1 a 0 e (some v) k s = issueTask s (fun t => scaleOk t.tiles.length 1 (desc s a) (desc s 0) (desc s e))
      ⟨.tscale 1 (desc s a) (desc s 0) (desc s e) (taskCls s k) (s.cur.rd.s s.pk v.toNat), tileSet (desc s a) ++ tileSet (desc s e),
        tileSet (desc s e), false, none⟩ := by
  simp [scaleBody]
theorem tcopy_eq (a e : BitVec 4) (m : CopyMode) (s : State) : exec (.tcopy a e m) s = issue (.tcopy a e m) s (fun s =>
    issueTask s (fun t => copyOk t.tiles.length (desc s a) (desc s e))
      ⟨.tcopy (desc s a) (desc s e) m, tileSet (desc s a), tileSet (desc s e), false, some (s.curG.ctl.closed + 1)⟩) := rfl
theorem tfill_eq (e : BitVec 4) (v : Reg) (s : State) : exec (.tfill e v) s = issue (.tfill e v) s (fun s =>
    issueTask s (fun t => pondDesc t.tiles.length (desc s e))
      ⟨.tfill (desc s e) (s.cur.rd.s s.pk v.toNat), [], tileSet (desc s e), false, none⟩) := rfl
theorem tconv_eq (a e : BitVec 4) (r : Rnd) (sat : Bool) (s : State) : exec (.tconv a e r sat) s = issue (.tconv a e r sat) s (fun s =>
    issueTask s (fun t => convOk t.tiles.length (desc s a) (desc s e) sat)
      ⟨.tconv (desc s a) (desc s e) r sat, tileSet (desc s a), tileSet (desc s e), false, none⟩) := rfl
/-- The residency that TGIVE begins. -/
def givenBank (s : State) (e : BitVec 4) : ResBank := ⟨s.cur.rd.launch, s.cur.rd.team, s.ids, desc s e, [], false⟩
def giveShape (s : State) (e : BitVec 4) : TaskShape := ⟨.tgive (desc s e), tileSet (desc s e), tileSet (desc s e), true, none⟩
/-- The bank is taken (R257). -/
def takeBank (s : State) (e : BitVec 4) (t : State) : State :=
  t.modCore s.cur.rd.core (fun c => { c with banks := Tb.put c.banks (halfOf c (s.funcOf s.cur.rd.launch)) (givenBank s e) })
/-- What TGIVE does at issue, by the bank of its half. -/
def giveBody (e : BitVec 4) (s : State) (o : Option ResBank) : State :=
  o.elim (issuesTask s (fun t => accDesc s t (desc s e)) (giveShape s e) (takeBank s e)) (fun b =>
    if decide (b.launch = s.cur.rd.launch) && decide (b.team = s.cur.rd.team) && !b.ended then illegal s
    else if s.curTeam.elim false (fun t => accDesc s t (desc s e)) then stall s 9
    else illegal s)
theorem tgive_eq (e : BitVec 4) (s : State) : exec (.tgive e) s = issue (.tgive e) s (fun s => giveBody e s (curBank s)) := by
  show execTgive e s = _
  unfold execTgive
  refine congrArg (issue (.tgive e) s) (funext fun s => ?_)
  dsimp only
  cases curBank s with
  | none => rfl
  | some b =>
    unfold giveBody
    cases s.curTeam <;> rfl
def takeShape (s : State) (e : BitVec 4) : TaskShape := ⟨.ttake (desc s e), [], tileSet (desc s e), true, none⟩
theorem ttake_eq (e : BitVec 4) (s : State) : exec (.ttake e) s = issue (.ttake e) s (fun s =>
    issuesTask s (fun t => accDesc s t (desc s e) && residentFor s (desc s e)) (takeShape s e)
      (fun t => setBank t s.cur.rd.core (curHalf s) (fun b => { b with ended := true }))) := rfl

/-- The bank of the issue's half after TGIVE has taken it. -/
theorem takeBank_bank (s : State) (e : BitVec 4) {t : State} (h : (t.core s.cur.rd.core).engine = (s.core s.cur.rd.core).engine) :
    Tb.get? ((takeBank s e t).core s.cur.rd.core).banks (curHalf s) = some (givenBank s e) := by
  have hh : halfOf (t.core s.cur.rd.core) (s.funcOf s.cur.rd.launch) = curHalf s := by
    unfold halfOf curHalf
    rw [show (t.core s.cur.rd.core).split = (s.core s.cur.rd.core).split from congrArg Prod.snd h]
    rfl
  rw [takeBank, modCore_core, if_pos rfl]
  dsimp only
  rw [hh, Tb.get?_put, if_pos rfl]

/-- The bank of the issue's half after a change of it. -/
theorem setBank_bank (s : State) (f : ResBank → ResBank) {b : ResBank} (hb : curBank s = some b) {t : State}
    (h : (t.core s.cur.rd.core).engine = (s.core s.cur.rd.core).engine) :
    Tb.get? ((setBank t s.cur.rd.core (curHalf s) f).core s.cur.rd.core).banks (curHalf s) = some (f b) := by
  have hbanks : (t.core s.cur.rd.core).banks = (s.core s.cur.rd.core).banks := congrArg Prod.fst h
  rw [setBank, modCore_core, if_pos rfl]
  dsimp only
  rw [Tb.get?_modify, if_pos rfl, hbanks, show Tb.get? (s.core s.cur.rd.core).banks (curHalf s) = some b from hb]
  rfl

/-- Settles O33: an engine instruction is the issue of its task; TGIVE then takes the bank, and TTAKE ends the residency. -/
theorem engineIssue : Obligations.EngineIssue := by
  refine ⟨?_, ?_⟩
  · intro a b e v k z sat md r s da db dc cls res x shape mma quiet
    refine ⟨?_, ?_, ?_, ?_, ?_, ?_, ?_, ?_, ?_⟩
    · exact entersTask_of_issueTask (body := mmaBody a b e none k z) rfl (fun _ => rfl) (mmaBody_eq a b e none k z s) (fun _ => Iff.rfl)
    · exact entersTask_of_issueTask (body := mmaBody a b e (some v) k z) rfl (fun _ => rfl) (mmaBody_eq a b e (some v) k z s) (fun _ => Iff.rfl)
    · exact entersTask_of_issueTask (tcopy_eq a e md s) (fun _ => rfl) rfl (fun _ => Iff.rfl)
    · exact entersTask_of_issueTask (tfill_eq e v s) (fun _ => rfl) rfl (fun _ => Iff.rfl)
    · exact entersTask_of_issueTask (body := scaleBody 0 a 0 e (some v) .exact) rfl (fun _ => rfl) (scaleBody_exp a e v s) (fun _ => Iff.rfl)
    · exact entersTask_of_issueTask (body := scaleBody 1 a 0 e (some v) k) rfl (fun _ => rfl) (scaleBody_acc a e v k s) (fun _ => Iff.rfl)
    · exact entersTask_of_issueTask (body := scaleBody 2 a b e none k) rfl (fun _ => rfl) rfl (fun _ => Iff.rfl)
    · exact entersTask_of_issueTask (body := scaleBody 3 a b e none k) rfl (fun _ => rfl) rfl (fun _ => Iff.rfl)
    · exact entersTask_of_issueTask (tconv_eq a e r sat s) (fun _ => rfl) rfl (fun _ => Iff.rfl)
  · intro e s dc half bank own
    have hown (b : ResBank) : (decide (b.launch = s.cur.rd.launch) && decide (b.team = s.cur.rd.team) && !b.ended) = true ↔ own b := by
      simp [own, and_assoc]
    refine ⟨?_, ?_, ?_, ?_, ?_⟩
    · intro hb
      exact entersTask_of_body (post := takeBank s e) (tgive_eq e s) (fun _ => rfl) (by rw [hb]; rfl) (fun _ => Iff.rfl) (fun _ => ⟨rfl, rfl⟩)
        (takeBank_bank s e (entered_engine s _ _))
    · intro b hb ho hi
      rw [tgive_eq, issue_of_no_writes hi (fun _ => rfl), hb]
      exact congrArg Host.Outcome.next (if_pos ((hown b).2 ho))
    · intro b tm hb ho ht hacc hi
      rw [tgive_eq, issue_of_no_writes hi (fun _ => rfl), hb]
      refine congrArg Host.Outcome.next ((if_neg (fun h => ho ((hown b).1 h))).trans (if_pos ?_))
      rw [ht]
      exact hacc
    · intro b hb
      refine entersTask_of_body (ttake_eq e s) (fun _ => rfl) rfl (fun t => ?_) (fun _ => ⟨rfl, rfl⟩)
        (setBank_bank s (fun b => { b with ended := true }) hb (entered_engine s _ _))
      rw [Bool.and_eq_true, residentFor_iff hb]
      rfl
    · intro hb ht hi
      obtain ⟨tm, ht⟩ := Option.isSome_iff_exists.1 ht
      rw [ttake_eq, issue_of_no_writes hi (fun _ => rfl), issuesTask_eq hi.calm ht, if_pos]
      rw [residentFor_of_none hb, Bool.and_false]

end Sys2Proof.Machine

namespace Sys2Proof.Machine

/-! ### The step that applies atomics, and the retry step (R139, R156, R327) -/

section
variable {s t u : State} {h id : Nat} {e : Entry}

/-! #### One lane of an atomic -/

theorem atomWords_le (i : Instr) : atomWords i ≤ 4 := by
  unfold atomWords
  split
  · split <;> omega
  · omega
  · split <;> omega

/-- The result words of a lane keep within its slots. -/
theorem atomLane_length (m : MemSt) (i : Instr) (a : LaneAcc) (c : List VCell) : (atomLane m i a c).2.length ≤ 8 := by
  have hw := atomWords_le i
  have hb (wd : Width) : (if widthBytes wd ≤ 4 then 1 else widthBytes wd / 4) ≤ 4 := by cases wd <;> decide
  have hf (p : Prop) [Decidable p] (q : Bool) (x : VCell) : (if q then x :: (if p then [VCell.zero] else []) else []).length ≤ 2 := by
    split
    · split <;> simp
    · simp
  unfold atomLane
  dsimp only
  generalize (if keepsBnd a.pa a.attr = true then m.bound a.pa else 0) = oe
  split
  · rw [List.length_map, List.length_range]; omega
  · split
    · rw [List.length_map, List.length_range]; omega
    · split
      · exact Nat.le_of_ble_eq_true rfl
      · exact Nat.zero_le _
      · rw [List.length_append, length_elemCells]
        exact (Nat.add_le_add (hb _) (hf _ _ _)).trans (by omega)

/-- One lane of an outstanding atomic: memory and the entry after it (R235). -/
theorem performLane_atom {l : Nat} {a : LaneAcc} (he : findEntry s h id = some e) (hi : isAtomic e.instr = true) (ha : Tb.get? e.acc l = some a)
    (hr : raceOn (s.grp h) a.attr = false) :
    (performLane s h id l).mem = (atomLane s.mem e.instr a (e.cells l 1 4)).1 ∧
      findEntry (performLane s h id l) h id = some (e.done l (atomLane s.mem e.instr a (e.cells l 1 4)).2) := by
  have hid := id_of_findEntry he
  unfold performLane
  rw [he]
  dsimp only
  rw [hi, if_pos rfl]
  unfold performAtom
  rw [ha]
  dsimp only
  rw [hr, Bool.false_and, if_neg Bool.false_ne_true]
  refine ⟨rfl, ?_⟩
  have hk : KeepsGroups s (if (s.mem.err a.pa).isSome then s.bump h 0x13 1 else s) := by
    split
    · exact keepsGroups_bump ..
    · exact .refl s
  generalize (if (s.mem.err a.pa).isSome then s.bump h 0x13 1 else s) = u at hk ⊢
  have hf : findEntry (dropL1 { u with mem := (atomLane s.mem e.instr a (e.cells l 1 4)).1 } (s.grp h).core [sectorOf a.pa]) h id = some e :=
    ((hk.trans (u := dropL1 { u with mem := (atomLane s.mem e.instr a (e.cells l 1 4)).1 } (s.grp h).core [sectorOf a.pa])
      ⟨rfl, rfl⟩).findEntry h id).trans he
  rw [hid, findEntry_modEntry_same _ h id (f := fun e' => e'.done l _) (fun _ => rfl), hf]
  rfl

/-! #### The lanes of an atomic, one after another -/

/-- Slots of other lanes keep their words. -/
theorem get_slots_done (e : Entry) {l j : Nat} (hj : j ≠ l) {cs : List VCell} (hc : cs.length ≤ 8) {k : Nat} (hk : k < 8) :
    Tb.get VCell.zero (e.done l cs).slots (8 * j + k) = Tb.get VCell.zero e.slots (8 * j + k) := by
  rw [Entry.done, get_setCells, if_neg (by omega)]
theorem operands_done (e : Entry) {l j : Nat} (hj : j ≠ l) {cs : List VCell} (hc : cs.length ≤ 8) : (e.done l cs).cells j 1 4 = e.cells j 1 4 := by
  refine List.map_congr_left fun i hi => ?_
  have := List.mem_range.1 hi
  rw [Nat.add_assoc]
  exact get_slots_done e hj hc (by omega)

/-- The accesses that are left once the first lane of a table has been performed. -/
theorem Tb.erase_head {α : Type} {x : Nat × α} {xs : List (Nat × α)} (hs : Tb.sorted (x :: xs) = true) : Tb.erase (x :: xs) x.1 = xs := by
  obtain ⟨ha, -⟩ := (Tb.sorted_cons x.1 x.2 xs).1 hs
  rw [Tb.erase, List.filter_cons, if_neg (by simp)]
  exact List.filter_eq_self.2 fun y hy => decide_eq_true (ha y hy).ne'

/-- Memory after some lanes of an atomic, by its operand words. -/
def atomsMem (e : Entry) (xs : List (Nat × LaneAcc)) (m : MemSt) : MemSt :=
  xs.foldl (fun m x => (atomLane m e.instr x.2 (e.cells x.1 1 4)).1) m

theorem atomsMem_congr {e e' : Entry} (hi : e'.instr = e.instr) {xs : List (Nat × LaneAcc)}
    (hc : ∀ x ∈ xs, e'.cells x.1 1 4 = e.cells x.1 1 4) (m : MemSt) : atomsMem e' xs m = atomsMem e xs m := by
  unfold atomsMem
  rw [hi]
  exact List.foldl_ext _ _ m fun m x hx => by rw [hc x hx]

/-- What the lanes `xs` of an atomic leave of it. -/
structure Applied (e e' : Entry) (xs : List (Nat × LaneAcc)) : Prop where
  acc : e'.acc = []
  before : ∀ l, e.performed.getLsbD l = true → e'.performed.getLsbD l = true
  lanes : ∀ x ∈ xs, x.1 < 64 → e'.performed.getLsbD x.1 = true
  other : ∀ l, (∀ x ∈ xs, l ≠ x.1) → ∀ k, k < 8 → Tb.get VCell.zero e'.slots (8 * l + k) = Tb.get VCell.zero e.slots (8 * l + k)

theorem foldl_performLane_atom (xs : List (Nat × LaneAcc)) {s : State} {e : Entry} (he : findEntry s h id = some e)
    (hi : isAtomic e.instr = true) (hacc : e.acc = xs) (hs : Tb.sorted xs = true) (hr : ∀ x ∈ xs, raceOn (s.grp h) x.2.attr = false) :
    ∃ e', findEntry ((xs.map (·.1)).foldl (fun s l => performLane s h id l) s) h id = some e' ∧
      ((xs.map (·.1)).foldl (fun s l => performLane s h id l) s).mem = atomsMem e xs s.mem ∧ Applied e e' xs ∧
      ∀ pa c, (∀ x ∈ xs, x.2.pa = pa) → s.mem.err pa = some c → ∀ x ∈ xs, ∀ k, k < atomWords e.instr →
        Tb.get VCell.zero e'.slots (8 * x.1 + k) = VCell.tok (vaTok c x.2.va) := by
  induction xs generalizing s e with
  | nil =>
    exact ⟨e, he, rfl, ⟨hacc, fun _ h => h, fun _ h => absurd h List.not_mem_nil, fun _ _ _ _ => rfl⟩,
      fun _ _ _ _ _ h => absurd h List.not_mem_nil⟩
  | cons x xs ih =>
    obtain ⟨habove, hsorted⟩ := (Tb.sorted_cons x.1 x.2 xs).1 hs
    obtain ⟨hrx, hr⟩ := List.forall_mem_cons.1 hr
    have hget : Tb.get? e.acc x.1 = some x.2 := by rw [hacc]; exact if_pos rfl
    obtain ⟨hm, hf⟩ := performLane_atom he hi hget hrx
    have hgrp := (performLane_onPath h id x.1 (.refl s)).grp h
    have hlen := atomLane_length s.mem e.instr x.2 (e.cells x.1 1 4)
    generalize hcs : (atomLane s.mem e.instr x.2 (e.cells x.1 1 4)).2 = cs at hf hlen
    obtain ⟨e', he', hm', ha, herr⟩ := ih hf hi (by rw [← Tb.erase_head hs, ← hacc]; rfl) hsorted
      (fun y hy => by rw [hgrp]; exact hr y hy)
    have hne : ∀ y ∈ xs, y.1 ≠ x.1 := fun y hy => (habove y hy).ne'
    refine ⟨e', he', ?_, ⟨ha.acc, fun l hl => ha.before l ?_, ?_, fun l hl k hk => ?_⟩, ?_⟩
    · rw [List.map_cons, List.foldl_cons, hm', hm]
      exact atomsMem_congr (e := e) (e' := e.done x.1 cs) (xs := xs) rfl (fun y hy => operands_done e (hne y hy) hlen) _
    · rw [getLsbD_done, hl]; rfl
    · intro y hy hlt
      obtain rfl | hy := List.mem_cons.1 hy
      · exact ha.before _ (by rw [getLsbD_done, decide_eq_true ⟨hlt, rfl⟩, Bool.or_true])
      · exact ha.lanes y hy hlt
    · obtain ⟨hlx, hl⟩ := List.forall_mem_cons.1 hl
      rw [ha.other l hl k hk, get_slots_done e hlx hlen hk]
    · intro pa c hpa hc y hy k hk
      obtain ⟨hpx, hpa⟩ := List.forall_mem_cons.1 hpa
      have hx := atomLane_of_err (i := e.instr) (c := e.cells x.1 1 4) (by rw [hpx]; exact hc : s.mem.err x.2.pa = some c)
      obtain rfl | hy := List.mem_cons.1 hy
      · have hk8 : k < 8 := hk.trans_le ((atomWords_le _).trans (by omega))
        rw [ha.other _ (fun z hz => (hne z hz).symm) k hk8, Entry.done, get_setCells, ← hcs, hx]
        simp [hk]
      · exact herr pa c hpa (by rw [hm, hx]; exact hc) y hy k hk

/-! #### Errors that are told first -/

theorem err_setBytes (m : MemSt) (a : Nat) (l : List Byte) (pa : Nat) : (m.setBytes a l).err pa = m.err pa := by rw [setBytes_eq]; rfl
theorem postJournal_err (s : State) (kind func status : Nat) (body : List Byte) (pa : Nat) :
    (postJournal s kind func status body).mem.err pa = s.mem.err pa := by
  unfold postJournal
  dsimp only
  split
  · exact err_setBytes ..
  · split <;> exact err_setBytes ..
theorem reportErrors_err (s : State) (x : Accessor) (wr : Bool) (pc : PC) (told : List Nat) (as : List LaneAcc) (pa : Nat) :
    (reportErrors s x wr pc told as).1.mem.err pa = s.mem.err pa :=
  foldl_keeps_fst (P := fun t => t.mem.err pa = s.mem.err pa) (fun r a hr => by
    split
    · split
      · exact (postJournal_err ..).trans hr
      · exact hr
    · exact hr) as rfl

theorem tellEntry_mem (s : State) (h : Nat) (e : Entry) (as : List LaneAcc) :
    (tellEntry s h e as).mem = (reportErrors s (whoOf s h) (isAtomic e.instr) e.pc e.told as).1.mem := by
  unfold tellEntry
  split
  next heq => rw [heq]; split <;> rfl

/-- An entry after it has told its errors: the same but for what it has told. -/
theorem tellEntry_entry (he : findEntry s h e.id = some e) (as : List LaneAcc) :
    ∃ ls, findEntry (tellEntry s h e as) h e.id = some { e with told := ls } := by
  rcases tellEntry_cases s h e as with hk | ⟨u, ls, hk, ht⟩
  · exact ⟨e.told, (hk.findEntry h e.id).trans he⟩
  · refine ⟨ls, ?_⟩
    rw [ht, findEntry_modEntry_same u h e.id (f := fun e => { e with told := ls }) (fun _ => rfl), hk.findEntry, he, Option.map_some]

/-! #### ATOMIC_APPLY (R156) -/

/-- The step on an atomic of which every lane reaches one location, where its banks serve and nothing stands before it. -/
theorem applyAtomicAt_eq {pa : Nat} (he : findEntry s h e.id = some e) (hi : isAtomic e.instr = true) (hne : e.acc ≠ [])
    (hpa : ∀ x ∈ e.acc, x.2.pa = pa) (ho : ∀ o ∈ groupOps s h, o.1 < e.id → sectorOf pa ∉ o.2.2) (hd : (s.die (dieOf (s.grp h).core)).off = false)
    (hb : ∀ b, (bankSt s b).1 = .active) : ∃ bk, applyAtomicAt s h e.id = performAt { s with banks := bk } h e pa := by
  obtain ⟨bk, hbk⟩ := reachBanks_eq s (entryBanks s h e)
  refine ⟨bk, ?_⟩
  have hreach : reachBanks s (entryBanks s h e) = (true, { s with banks := bk }) := Prod.ext (reachBanks_of_active hb _) hbk
  have hforce : forceBefore { s with banks := bk } h e.id e.sectors = { s with banks := bk } := by
    refine forceBefore_of_disjoint fun o hm hlt k hk hks => ?_
    obtain ⟨x, hx, rfl⟩ := List.mem_map.1 hks
    rw [hpa x hx] at hk
    exact ho o hm hlt hk
  unfold applyAtomicAt
  rw [he]
  dsimp only
  rw [hi, hd]
  split
  next ht => exact Bool.noConfusion ht
  split
  next hnil => exact absurd hnil hne
  next x xs hcons =>
    have hall : e.acc.all (fun y => decide (y.2.pa = x.2.pa)) = true := List.all_eq_true.2 fun y hy => decide_eq_true
      ((hpa y hy).trans (hpa x (hcons ▸ List.mem_cons_self)).symm)
    rw [hreach]
    dsimp only
    rw [hforce, performLocation, show findEntry { s with banks := bk } h e.id = some e from he]
    dsimp only
    rw [hcons]
    dsimp only
    rw [← hcons, nextLocation, if_pos hall, hpa x (hcons ▸ List.mem_cons_self)]

theorem applied_of_performAt {pa : Nat} (he : findEntry s h e.id = some e) (hi : isAtomic e.instr = true) (hs : Tb.sorted e.acc = true)
    (hpa : ∀ x ∈ e.acc, x.2.pa = pa) (hr : ∀ x ∈ e.acc, raceOn (s.grp h) x.2.attr = false) :
    ∃ e', findEntry (performAt s h e pa) h e.id = some e' ∧ Applied e e' e.acc ∧
      (s.mem.err pa = none → (performAt s h e pa).mem = atomsMem e e.acc s.mem) ∧
      ∀ c, s.mem.err pa = some c → ∀ x ∈ e.acc, ∀ k, k < atomWords e.instr →
        Tb.get VCell.zero e'.slots (8 * x.1 + k) = VCell.tok (vaTok c x.2.va) := by
  have hall : e.acc.filter (fun x => decide (x.2.pa = pa)) = e.acc := List.filter_eq_self.2 fun x hx => decide_eq_true (hpa x hx)
  unfold performAt
  dsimp only
  rw [hall]
  obtain ⟨ls, hf⟩ := tellEntry_entry he (e.acc.map (·.2))
  have hgrp := (tellEntry_onPath h e (e.acc.map (·.2)) (.refl s)).grp h
  have hmem := tellEntry_mem s h e (e.acc.map (·.2))
  have herr := reportErrors_err s (whoOf s h) (isAtomic e.instr) e.pc e.told (e.acc.map (·.2)) pa
  rw [← hmem] at herr
  generalize tellEntry s h e (e.acc.map (·.2)) = t at *
  obtain ⟨e', he', hm, ha, hc⟩ := foldl_performLane_atom e.acc hf hi rfl hs (fun x hx => by rw [hgrp]; exact hr x hx)
  refine ⟨e', he', ⟨ha.acc, ha.before, ha.lanes, ha.other⟩, fun hn => ?_, fun c hn => hc pa c hpa (herr.trans hn)⟩
  have hnone : ∀ a ∈ e.acc.map (·.2), s.mem.err a.pa = none := by
    intro a ha
    obtain ⟨x, hx, rfl⟩ := List.mem_map.1 ha
    rw [hpa x hx]; exact hn
  rw [reportErrors_none hnone] at hmem
  rw [hm, hmem]
  rfl

/-! #### REQUEST_RETRY (R139, R327) -/

/-- The held lanes let go of the group. -/
def letGo (s : State) (h : Nat) : State := s.modG h (fun g => { g with rejected := none })

theorem grp_of_resident (hr : (Tb.get? s.work.groups h).isSome = true) (f : Group → Group) : (s.modG h f).grp h = f (s.grp h) := by
  rw [modG_grp_same, if_pos hr]
/-- A group that has an entry is resident. -/
theorem resident_of_findEntry (he : findEntry s h id = some e) : (Tb.get? s.work.groups h).isSome = true := by
  by_contra hn
  rw [findEntry, State.grp, Tb.get, Option.not_isSome_iff_eq_none.1 hn] at he
  cases he
theorem findEntry_letGo (s : State) (h id : Nat) : findEntry (letGo s h) h id = findEntry s h id := by
  unfold findEntry letGo
  rw [modG_grp_same]
  split <;> rfl
theorem rejected_letGo (hr : (Tb.get? s.work.groups h).isSome = true) : ((letGo s h).grp h).rejected = none := by
  rw [letGo, grp_of_resident hr]

theorem retryRequest_of_none (hr : (s.grp h).rejected = none) : retryRequest s h = s := by
  unfold retryRequest
  rw [hr]
theorem retryRequest_of_off {r : Held} (hr : (s.grp h).rejected = some r) (hd : (s.die (dieOf (s.grp h).core)).off = true) :
    retryRequest s h = s := by
  unfold retryRequest
  rw [hr]
  dsimp only
  rw [hd, if_pos rfl]
/-- A store or an atomic that is held whole has no entry: it may issue again. -/
theorem retryRequest_of_whole {r : Held} (hr : (s.grp h).rejected = some r) (hd : (s.die (dieOf (s.grp h).core)).off = false)
    (he : findEntry s h r.entry.id = none) : retryRequest s h = s.modG h (fun g => { g with rejected := some { r with mask := 0 } }) := by
  unfold retryRequest
  rw [hr]
  dsimp only
  rw [hd, if_neg Bool.false_ne_true, he]
  rfl
theorem retryRequest_of_entry {r : Held} (hr : (s.grp h).rejected = some r) (hd : (s.die (dieOf (s.grp h).core)).off = false)
    (he : findEntry s h r.entry.id = some e) : retryRequest s h = killDue (retryAccess s h r) h := by
  unfold retryRequest
  rw [hr]
  dsimp only
  rw [hd, if_neg Bool.false_ne_true, he]
  rfl

/-- A retry after which no lane of the entry is held: the entries behind it go on. -/
theorem retryAccess_of_none {r : Held} (ht : ∀ n, resumeEntry (letGo s h) h r.entry.id n = t) (hn : (t.grp h).rejected = none) :
    retryAccess s h r = resumeAll t h := by
  unfold retryAccess
  dsimp only
  rw [show s.modG h (fun g => { g with rejected := none }) = letGo s h from rfl, ht, hn]
/-- A retry after which lanes are held again: the count of releases goes on. -/
theorem retryAccess_of_held {r q : Held} (ht : ∀ n, resumeEntry (letGo s h) h r.entry.id n = t) (hq : (t.grp h).rejected = some q) :
    retryAccess s h r =
      t.modG h (fun g => { g with rejected := some { q with entry := { q.entry with pc := r.entry.pc }, tries := r.tries } }) := by
  unfold retryAccess
  dsimp only
  rw [show s.modG h (fun g => { g with rejected := none }) = letGo s h from rfl, ht, hq]

theorem resumeEntry_of_ready (he : findEntry s h id = some e) (hr : e.ready = true) (n : Nat) : resumeEntry s h id n = s := by
  unfold resumeEntry
  rw [he]
  dsimp only
  rw [hr, Bool.true_or, Bool.true_or, if_pos rfl]

/-- A load of one element in each lane. -/
def isVecLoad : Instr → Bool
  | .ld .. | .lds .. | .gath .. | .gaths .. => true
  | _ => false

theorem resumeEntry_load (hi : isVecLoad e.instr = true) (he : findEntry s h id = some e) (hready : e.ready = false)
    (hrej : (s.grp h).rejected = none) (hhalt : (s.grp h).ctl.halted = false) (hidle : idleLanes e ≠ []) (n : Nat) :
    resumeEntry s h id n = resumeAccess s h e n := by
  unfold resumeEntry
  rw [he]
  dsimp only
  rw [hready, hrej, hhalt]
  unfold isVecLoad at hi
  split at hi
  next hi' => simp only [hi']; exact if_neg hidle
  next hi' => simp only [hi']; exact if_neg hidle
  next hi' => simp only [hi']; exact if_neg hidle
  next hi' => simp only [hi']; exact if_neg hidle
  next => exact Bool.noConfusion hi

theorem isVecLoad_not {i : Instr} (hi : isVecLoad i = true) : isAtomic i = false ∧ isUniformLoad i = false := by
  unfold isVecLoad at hi
  split at hi
  next => exact ⟨rfl, rfl⟩
  next => exact ⟨rfl, rfl⟩
  next => exact ⟨rfl, rfl⟩
  next => exact ⟨rfl, rfl⟩
  next => exact Bool.noConfusion hi

/-- A load again: the lanes that find request entries start, and the others are held. -/
theorem resumeAccess_load (hi : isVecLoad e.instr = true) (n : Nat) :
    resumeAccess s h e n =
      let r := ((idleLanes e).take (requestsFree s (s.grp h).core h)).foldl (startLane (entryCtx s h e) none e.id) (s, [])
      endStart r.1 (entryCtx s h e) e.id (maskOf ((idleLanes e).drop (requestsFree s (s.grp h).core h))) r.2 (pageResume h e n) := by
  obtain ⟨ha, hu⟩ := isVecLoad_not hi
  unfold resumeAccess
  dsimp only
  rw [ha, hu]
  rfl

/-- The end of a start of which some lanes are rejected, and none faults. -/
theorem endStart_of_rejected (he : findEntry s h e.id = some e) {m : Mask} (hm : m ≠ 0) (page : State → Mask → Nat → State) :
    endStart s (entryCtx u h e) e.id m [] page = (holdLanes s h e m).bump h 0x0F (lanesOf m).length := by
  unfold endStart
  rw [show findEntry s (entryCtx u h e).h e.id = some e from he]
  dsimp only
  rw [if_neg (fun h => hm h.1), if_pos (.inl hm), show m ||| pageMask [] = m from BitVec.or_zero]
  rfl
/-- The end of a start of which every lane has its access. -/
theorem endStart_of_started {e' : Entry} (he : findEntry s h e.id = some e') (ha : acqOf e'.instr = none)
    (page : State → Mask → Nat → State) : endStart s (entryCtx u h e) e.id 0 [] page = s := by
  unfold endStart
  rw [show findEntry s (entryCtx u h e).h e.id = some e' from he]
  dsimp only
  rw [if_pos ⟨rfl, rfl⟩, ha]

theorem startLane_of_access {l : Nat} {a : LaneAcc} (he : findEntry s h e.id = some e) (hi : isVecLoad e.instr = true)
    (hp : (Tb.get VCell.zero e.slots (8 * l)).eb ≠ ebPoison)
    (hl : laneAccess s (entryCtx s h e) none .read (alignOf e.instr) (entryVa e l) = (u, .ok a)) :
    startLane (entryCtx s h e) none e.id (s, []) l = (modEntry u h e.id (fun e => { e with acc := Tb.put e.acc l a }), []) := by
  obtain ⟨ha, hu⟩ := isVecLoad_not hi
  unfold startLane
  dsimp only
  rw [show findEntry s (entryCtx s h e).h e.id = some e from he]
  dsimp only
  rw [decide_eq_false hp, Bool.and_false, if_neg Bool.false_ne_true, ha, if_neg Bool.false_ne_true, hl]
  rfl

theorem maskOf_idleLanes_ne_zero (hi : isVecLoad e.instr = true) (hidle : idleLanes e ≠ []) : maskOf (idleLanes e) ≠ 0 := by
  obtain ⟨l, hl⟩ := List.exists_mem_of_ne_nil _ hidle
  have hlt : l < 64 := by
    unfold idleLanes at hl
    rw [(isVecLoad_not hi).2, if_neg Bool.false_ne_true] at hl
    exact lanesOf_lt _ _ (List.mem_filter.1 hl).1
  intro hz
  have := getLsbD_maskOf (idleLanes e) l
  rw [hz, decide_eq_true ⟨hlt, hl⟩] at this
  simp at this

theorem killDue_of_not_dying (hd : (s.grp h).ctl.dying = false) : killDue s h = s := by
  unfold killDue
  rw [hd, Bool.false_and, if_neg Bool.false_ne_true]

theorem keepsGroups_laneAccess (s : State) (x : Ctx) (k : AccKind) (align va : Nat) : KeepsGroups s (laneAccess s x none k align va).1 := by
  have ht := keepsGroups_translate s x va k
  unfold laneAccess
  refine keepsGroups_ite_fst (.refl s) (keepsGroups_ite_fst (.refl s) ?_)
  dsimp only
  split
  next heq => rw [heq] at ht; exact ht
  next heq => rw [heq] at ht; exact ht
  next heq => rw [heq] at ht; exact ht

/-- No request entry is free: the load stays held for its lanes. -/
theorem retryRequest_of_full {r : Held} (hi : isVecLoad e.instr = true) (hr : (s.grp h).rejected = some r)
    (he : findEntry s h r.entry.id = some e) (hd : (s.die (dieOf (s.grp h).core)).off = false) (hhalt : (s.grp h).ctl.halted = false)
    (hdying : (s.grp h).ctl.dying = false) (hready : e.ready = false) (hidle : idleLanes e ≠ [])
    (hfree : requestsFree (letGo s h) (s.grp h).core h = 0) :
    (retryRequest s h).mem = s.mem ∧ ((retryRequest s h).grp h).outst = (s.grp h).outst ∧
      ((retryRequest s h).grp h).rejected = some ⟨{ e with pc := r.entry.pc }, maskOf (idleLanes e), 0, r.tries⟩ := by
  have hres := resident_of_findEntry he
  have hgo : (letGo s h).grp h = { s.grp h with rejected := none } := grp_of_resident hres _
  have hfe : findEntry (letGo s h) h e.id = some e := by rw [findEntry_letGo, id_of_findEntry he]; exact he
  let t := (holdLanes (letGo s h) h e (maskOf (idleLanes e))).bump h 0x0F (lanesOf (maskOf (idleLanes e))).length
  have hresume : ∀ n, resumeEntry (letGo s h) h r.entry.id n = t := by
    intro n
    have hcore : ((letGo s h).grp h).core = (s.grp h).core := by rw [hgo]
    rw [resumeEntry_load hi ((findEntry_letGo ..).trans he) hready (by rw [hgo]) (by rw [hgo]; exact hhalt) hidle, resumeAccess_load hi]
    dsimp only
    rw [hcore, hfree, List.take_zero, List.drop_zero]
    exact endStart_of_rejected hfe (maskOf_idleLanes_ne_zero hi hidle) _
  have htr : (Tb.get? t.work.groups h).isSome = true := by
    rw [show t.work.groups = _ from bump_groups .., holdLanes, modG_resident, letGo, modG_resident]
    exact hres
  have htg : t.grp h = { s.grp h with rejected := some ⟨e, maskOf (idleLanes e), 0, 0⟩ } := by
    have hb : t.grp h = (holdLanes (letGo s h) h e (maskOf (idleLanes e))).grp h := by
      rw [State.grp, show t.work.groups = _ from bump_groups ..]; rfl
    rw [hb, holdLanes, grp_of_resident (by rw [letGo, modG_resident]; exact hres), hgo]
  have htm : t.mem = s.mem := bump_mem ..
  have hk := retryAccess_of_held (r := r) hresume (by rw [htg])
  clear_value t
  have hgrp : (retryAccess s h r).grp h =
      { s.grp h with rejected := some ⟨{ e with pc := r.entry.pc }, maskOf (idleLanes e), 0, r.tries⟩ } := by
    rw [hk, grp_of_resident htr, htg]
  rw [retryRequest_of_entry hr hd he, killDue_of_not_dying (by rw [hgrp]; exact hdying), hgrp]
  exact ⟨by rw [hk]; exact htm, rfl, rfl⟩

/-- One lane, with a request entry free: the load is held no longer. -/
theorem retryRequest_of_free {r : Held} {l : Nat} {a : LaneAcc} (hi : isVecLoad e.instr = true) (hacq : acqOf e.instr = none)
    (hr : (s.grp h).rejected = some r) (he : findEntry s h r.entry.id = some e) (hd : (s.die (dieOf (s.grp h).core)).off = false)
    (hhalt : (s.grp h).ctl.halted = false) (hready : e.ready = false) (hidle : idleLanes e = [l])
    (hfree : 0 < requestsFree (letGo s h) (s.grp h).core h) (hp : (Tb.get VCell.zero e.slots (8 * l)).eb ≠ ebPoison)
    (hl : laneAccess (letGo s h) (entryCtx (letGo s h) h e) none .read (alignOf e.instr) (entryVa e l) = (u, .ok a)) :
    retryRequest s h = killDue (resumeAll (modEntry u h e.id (fun e => { e with acc := Tb.put e.acc l a })) h) h := by
  have hres := resident_of_findEntry he
  have hgo : (letGo s h).grp h = { s.grp h with rejected := none } := grp_of_resident hres _
  have hfe : findEntry (letGo s h) h e.id = some e := by rw [findEntry_letGo, id_of_findEntry he]; exact he
  have hu : KeepsGroups (letGo s h) u := by
    have := keepsGroups_laneAccess (letGo s h) (entryCtx (letGo s h) h e) .read (alignOf e.instr) (entryVa e l)
    rwa [hl] at this
  have hstarted : findEntry (modEntry u h e.id (fun e => { e with acc := Tb.put e.acc l a })) h e.id =
      some { e with acc := Tb.put e.acc l a } := by
    rw [findEntry_modEntry_same u h e.id (f := fun e => { e with acc := Tb.put e.acc l a }) (fun _ => rfl), hu.findEntry, hfe]
    rfl
  have hresume : ∀ n, resumeEntry (letGo s h) h r.entry.id n = modEntry u h e.id (fun e => { e with acc := Tb.put e.acc l a }) := by
    intro n
    have hcore : ((letGo s h).grp h).core = (s.grp h).core := by rw [hgo]
    rw [resumeEntry_load hi ((findEntry_letGo ..).trans he) hready (by rw [hgo]) (by rw [hgo]; exact hhalt) (by rw [hidle]; exact List.cons_ne_nil _ _),
      resumeAccess_load hi]
    dsimp only
    obtain ⟨k, hk⟩ := Nat.exists_eq_succ_of_ne_zero hfree.ne'
    rw [hcore, hk, hidle, List.take_succ_cons, List.take_nil, List.drop_succ_cons, List.drop_nil, List.foldl_cons, List.foldl_nil,
      startLane_of_access hfe hi hp hl]
    exact endStart_of_started hstarted hacq _
  have hnone : ((modEntry u h e.id (fun e => { e with acc := Tb.put e.acc l a })).grp h).rejected = none := by
    rw [modEntry, grp_of_resident (by rw [hu.groups, letGo, modG_resident]; exact hres), hu.grp, hgo]
  rw [retryRequest_of_entry hr hd he, retryAccess_of_none hresume hnone]
end

/-- Settles O28: an atomic is applied lane by lane, each on the memory that the one before left; a retry performs its entry again, and
then holds it or lets the entries behind it go on. -/
theorem atomicAndRetrySteps : Obligations.AtomicAndRetrySteps := by
  refine ⟨?_, ?_, ?_⟩
  · intro s h e pa hem he hi hne hs hx ho hd hb
    have hpa : ∀ x ∈ e.acc, x.2.pa = pa := fun x hm => (hx x hm).2.1
    obtain ⟨bk, heq⟩ := applyAtomicAt_eq he hi hne hpa ho hd hb
    obtain ⟨e', he', ha, hm, hc⟩ := applied_of_performAt (s := { s with banks := bk }) he hi hs hpa (fun x hm => (hx x hm).2.2)
    refine ⟨_, e', congrArg Host.Outcome.next ((if_neg (by rw [hem]; exact Bool.false_ne_true)).trans heq), he', ha.acc, ?_, hm, hc⟩
    exact fun x hxm => ha.lanes x hxm (hx x hxm).1
  · intro s h
    refine ⟨fun hr => ?_, fun r hr hd => ?_, fun r hr hd he => ?_, fun r e hr hd he hready => ?_⟩
    · exact congrArg Host.Outcome.next (retryRequest_of_none hr)
    · exact congrArg Host.Outcome.next (retryRequest_of_off hr hd)
    · exact congrArg Host.Outcome.next (retryRequest_of_whole hr hd he)
    · have hresume : ∀ n, resumeEntry (letGo s h) h r.entry.id n = letGo s h := resumeEntry_of_ready ((findEntry_letGo ..).trans he) hready
      have hk := retryAccess_of_none hresume (rejected_letGo (resident_of_findEntry he))
      exact congrArg Host.Outcome.next ((retryRequest_of_entry hr hd he).trans (congrArg (killDue · h) hk))
  · intro d b o wd f i s h r e hi hacq hr he hei hd hhalt hdying hready hidle w free
    subst hei
    have hload : isVecLoad e.instr = true := by
      simp only [List.mem_cons, List.not_mem_nil, or_false] at hi
      obtain hi | hi | hi | hi := hi <;> rw [hi] <;> rfl
    refine ⟨fun hf => ?_, fun l a u hf hl hp hacc => ?_⟩
    · obtain ⟨hm, hout, hrej⟩ := retryRequest_of_full hload hr he hd hhalt hdying hready hidle hf
      exact ⟨_, rfl, hm, hout, hrej⟩
    · exact congrArg Host.Outcome.next (retryRequest_of_free hload hacq hr he hd hhalt hready hl hf hp hacc)

end Sys2Proof.Machine
